-- ==== Sys2Proof/Word.lean ====
section
/-! DEFINITION. The 16-bit word of the controller bus, its two bytes, and 32-bit values as two words. -/

namespace Sys2Proof

/-- A word is 16 bits (00, Words and addresses). -/
abbrev Word := BitVec 16

abbrev Byte := BitVec 8

/-- Bits 15 to 8: the first named field of a byte pair (R45). -/
def Word.hi (w : Word) : Byte := BitVec.ofNat 8 (w.toNat / 256)

/-- Bits 7 to 0: the second named field of a byte pair (R45). -/
def Word.lo (w : Word) : Byte := BitVec.ofNat 8 w.toNat

/-- The word of two bytes, the high one first. -/
def Word.ofBytes (h l : Byte) : Word := BitVec.ofNat 16 (h.toNat * 256 + l.toNat)

end Sys2Proof
end

