-- ==== Sys2Proof/Syntax.lean ====
section
/-! DEFINITION. The commands of the part: one constructor per row of spec/opcode_table.json, with the
operands the rules give the event. -/

namespace Sys2Proof

/-- The byte lanes the controller asks for (R6, R14). -/
inductive Lanes where
  | low
  | high
  | both
  deriving DecidableEq, Repr

/-- A tone the receiver recognises: a digit, *, #, A or B (R106). -/
inductive Tone where
  | digit (d : Fin 10)
  | star
  | hash
  | a
  | b
  deriving DecidableEq, Repr

/-- The five attributes of the INU (R127). -/
inductive AttrId where
  | shockPulses
  | coinRejects
  | coinPathErrors
  | blockedWrites
  | nvRetries
  deriving DecidableEq, Repr

/-- The input levels sampled at power-on (R47, R106, R126, R167, R173). -/
structure Levels where
  offHook : Bool
  loop : Bool
  reversed : Bool
  voltage : Bool
  entryBlocked : Bool
  tubeEmpty : Bool
  doorOpen : Bool
  boxPresent : Bool
  cordWhole : Bool
  keyOn : Bool
  warning : Bool
  deriving DecidableEq, Repr

/-- The commands, in the table's order. A request's command carries no parameters: its owner is
handed those of the request in service (R36). -/
inductive Instr where
  /-- POWER_ON: the supply rises; the inputs are sampled at these levels. -/
  | powerOn (levels : Levels)
  | chainWalkDone
  | preloadDone
  /-- STARTUP_AUDIT_LOAD_DONE; the lists name the log slots whose first read failed its CRC although
  the record stands in memory (R160 reads such a slot a second time). -/
  | startupAuditLoadDone (misreadCalls misreadIncidents : List Nat)
  | tariffCompareDone
  /-- VALIDITY_WORD_VERIFIED; the words read back, first to last (none left: the word took). -/
  | validityWordVerified (readBacks : List Word)
  /-- CONTROLLER_READ of one word; `first` on the first word of its cycle or burst (R6). -/
  | controllerRead (addr : BitVec 20) (lanes : Lanes) (first : Bool)
  | controllerWrite (addr : BitVec 20) (data : Word) (lanes : Lanes)
  /-- POST_REQUEST: a full write of a non-zero word to the kind word of a slot. -/
  | postRequest (slot : Fin 4) (kind : Word)
  | eventAcknowledge (data : Word) (lanes : Lanes)
  | eventMaskWrite (data : Word) (lanes : Lanes)
  | interceptPop (data : Word) (lanes : Lanes)
  | portGrant
  | controllerReset
  | abandonWriteDone
  | requestTake
  | requestComplete
  | probe
  | reloadConfig
  | reloadWalkDone
  | reloadPreloadDone
  /-- OFFER of a coin of this denomination code. -/
  | offer (code : Nat)
  | reject
  /-- ENTRY_PASSAGE; the level the tube-empty switch then reads. -/
  | entryPassage (tubeEmpty : Bool)
  | entryBlocked
  | chuteDeadline
  /-- EXIT_PASSAGE; the level the tube-empty switch then reads. -/
  | exitPassage (tubeEmpty : Bool)
  | exitTimeout
  | cashDoorChange (isOpen : Bool)
  | cashboxPresenceChange (present : Bool)
  | emptyCashbox
  | tariffCheck
  | tariffCheckReadsDone
  | checkWordWriteDone
  | clockSecond
  | setClock
  | intervalEnd
  | graceDeadline
  | maxDurationEnd
  | offHook
  | onHook
  | readyTimeout
  | quietTime
  | dial
  | clearGuardEnd
  | loopAppears
  | loopTimeout
  | dialDelayEnd
  | toneOnEnd
  | toneOffEnd
  | answerTimeout
  | polarityReversal
  | polarityReversion
  | clearingEnd
  | followOnWindowEnd
  | sendDigits
  | followOn
  | release
  | loopLost
  | loopLossTimeout
  | lineVoltageChange (present : Bool)
  | voltageAbsentTimeout
  | voltageRestored
  | reportAnswerTimeout
  | reportSendDelayEnd
  | reportClearingEnd
  | toneReceived (tone : Tone)
  | shockPulse
  | cordContinuityChange (whole : Bool)
  | decayExpiry (attr : AttrId)
  | reportFault
  | clearIncident
  | clearAttributes
  | recordDuePoint
  | timeRequestDue
  | testReport
  | firstToneTimeout
  | interToneTimeout
  | writerJobStart
  /-- NV_READBACK_DONE; the word the read-back returned. -/
  | nvReadbackDone (word : Word)
  | writeBackDone
  | flush
  | collectLog
  | serviceKeyChange (on : Bool)
  | serviceUnlock
  | freeze
  | serviceEnd
  | lapseExpiry
  | powerWarning
  | saveDone
  | warningCleared
  | entrySensorBlockedEdge
  | powerLost
  deriving DecidableEq, Repr

end Sys2Proof
end

