-- ==== Sys2Proof/Config.lean ====
section
/-! DEFINITION. The free values: constants with no body for what the spec leaves open (log 5). -/

namespace Sys2Proof

/-- What a controller read word at an undecoded address is answered with: the part passes the cycle
and takes no further notice of it (R2). Applied to the state's free-value counter and the address. -/
opaque Config.undecodedRead : Nat → Nat → Word

/-- Whether the RQU asks the port for an abandoning write before the completion of the request in
service while both are outstanding: "whichever the port carries first" (R40). -/
opaque Config.abandonFirst : Nat → Bool

/-- Which of an owner's 19 result codes TARIFF_CHECK is answered with while there is no TARIFF window:
R73 states none for it, R39 only that it is one of them. -/
opaque Config.noWindowCode : Nat → Fin 19

end Sys2Proof
end

