-- ==== Sys2Proof/Machine/State.lean ====
section
/-! DEFINITION. The state of the part, block by block, as plain data, and the part right after
power-on. Each block's state stands in a structure of its own, since each block owns its state
outright (00, Blocks). -/

namespace Sys2Proof.Machine

/-- No command of the part ends in a fault: the spec gives every event an effect, an answer or no
effect, so this type has no value. -/
inductive Fault where
  deriving DecidableEq, Repr

/-- Why a command has no meaning. -/
inductive Refusal where
  /-- The command has no meaning yet. Raised by an arm of `exec` that is not modelled; safe. -/
  | notModelled (mnemonic : String)
  deriving DecidableEq, Repr

/-! ### Names of the part's vocabulary -/

/-- The ten window kinds (R4), in the order of the kind codes of R23. -/
inductive WindowKind where
  | plain | request | status | tariff | config | tally | callLog | incidentLog | context | spare
  deriving DecidableEq, Repr

/-- The two memories of the board (R2). -/
inductive MemKind where
  | ram | nv
  deriving DecidableEq, Repr

/-- Why a controller write word was blocked (R14). -/
inductive Cause where
  | writeBlocked | slotBusy | statusWrite | saveRefused
  deriving DecidableEq, Repr

/-- What the BPU does with a controller word (R2). -/
inductive Action where
  | pass
  | block (cause : Cause)
  | substitute
  | pattern
  | redirect (spare : Nat)
  deriving DecidableEq, Repr

/-- The access modes (R166). -/
inductive AccessMode where
  | normal | service | frozen | lockout
  deriving DecidableEq, Repr

/-- The power states (12.1). -/
inductive PowerState where
  | running | saving | saved
  deriving DecidableEq, Repr

/-- The 17 line states (7.2). -/
inductive LineState where
  | idle | ready | seizing | dialling | awaitAnswer | connected | grace | clearing | followOn | parked
  | reportSeizing | reportDialling | reportAwaitAnswer | reportSending | reportAwaitAck | reportClearing
  | down
  deriving DecidableEq, Repr

/-- The twelve event flags (R41). -/
inductive Event where
  | line | credit | request | intercept | incident | condition | lowCredit | log | report | clock
  | tally | mode
  deriving DecidableEq, Repr

/-- The 17 incident kinds (R124). -/
inductive IncKind where
  | cashDoorOpen | cashboxRemoved | cordCut | shock | coinJam | coinPath | escrowFault
  | cashboxNearFull | cashboxFull | lineFault | tamperAccess | unlockLockout | logFull | tariffInvalid
  | auditSuspect | configFault | controllerFault
  deriving DecidableEq, Repr

/-- The result codes the part writes (3.6), in code order from 1. -/
inductive ResultCode where
  | ok | okWindowsDeferred | deferred | starting | refusedState | refusedMode | badParam | noRoute
  | barred | tooShort | tooLong | insufficientCredit | lineBusy | paidBarred | logFull | tariffUnsettled
  | tariffBad | wrongCode | lockedOut | chainBad | abandoned | unknownKind
  deriving DecidableEq, Repr

/-- The end causes of a call (3.6, call record). -/
inductive EndCause where
  | onHook | farEnd | noAnswer | creditExhausted | maxDuration | released | lineLost | powerLoss
  | seizeFailed
  deriving DecidableEq, Repr

/-- Why a chain walk failed (R20 to R23). -/
inductive WalkReason where
  | badAnchor | offsetRange | offsetOrder | tooMany | length | duplicate | field | missing | windowSet
  deriving DecidableEq, Repr

/-- The phases of a rating context (R85). -/
inductive Phase where
  | dialled | charging | grace | ending
  deriving DecidableEq, Repr

/-- The status of a coin in the tube (R55). -/
inductive CoinStatus where
  | held | committed | dropping
  deriving DecidableEq, Repr

/-- The directions of a drop (R57). -/
inductive Dir where
  | collect | ret
  deriving DecidableEq, Repr

/-- The states of an incident record (R129). -/
inductive RecState where
  | pending | reporting | reported
  deriving DecidableEq, Repr

/-- The ack stages of a report call (R138). -/
inductive AckStage where
  | none | afterA | settled
  deriving DecidableEq, Repr

/-- The origins of a time request (R138). -/
inductive Origin where
  | clock | test
  deriving DecidableEq, Repr

/-- The two logs of the nonvolatile array (R12). -/
inductive LogId where
  | call | incident
  deriving DecidableEq, Repr

/-- The steps of the start-up (2.5). -/
inductive StartStep where
  | walk | preload | audit | tariff | settle | done
  deriving DecidableEq, Repr

/-! ### Memory and the Bus Passage Unit -/

/-- RAM and NV as the listed bytes; an unlisted byte reads as `Memory.blank` of Machine/Ops. -/
abbrev Memory := List Host.Cell

/-- An entry of the window table (R1). -/
structure Window where
  kind : WindowKind
  base : Nat
  size : Nat
  index : Nat
  deriving DecidableEq, Repr

/-- The four busy marks (R8). -/
structure Marks where
  m0 : Bool
  m1 : Bool
  m2 : Bool
  m3 : Bool
  deriving DecidableEq, Repr

/-- An intercept record (R14). -/
structure Intercept where
  cause : Cause
  addr : Nat
  data : Word
  lanes : Lanes
  index : Nat
  mode : AccessMode
  seconds : Option Nat
  deriving DecidableEq, Repr

/-- A controller word (R2). `route` is the memory address it was classed to, absent while the window
table is not installed (R1). -/
structure Cycle where
  write : Bool
  addr : Nat
  data : Word
  lanes : Lanes
  route : Option Nat
  deriving DecidableEq, Repr

/-- What a controller read word was answered with, on the lanes that carry it (R5, R6). -/
structure BusAnswer where
  word : Word
  lanes : Lanes
  deriving DecidableEq, Repr

/-- One sample of the live state for the substituted reads of a burst (R6). -/
structure Sample where
  status : List Word
  tally : List Word
  deriving DecidableEq, Repr

structure Bpu where
  table : Option (List Window)
  busy : Marks
  intercepts : List Intercept
  overflow : Bool
  cycle : Option Cycle
  answer : Option BusAnswer
  sample : Option Sample
  deriving DecidableEq, Repr

/-! ### Configuration Loader -/

/-- One value for each of the five attributes (R127). -/
structure PerAttr (α : Type) where
  shockPulses : α
  coinRejects : α
  coinPathErrors : α
  blockedWrites : α
  nvRetries : α
  deriving DecidableEq, Repr

/-- A denomination of the COINS descriptor (R24). -/
structure Denom where
  value : Nat
  enabled : Bool
  deriving DecidableEq, Repr

/-- The REPORT descriptor's centre number, terminal id and backoff table (R24). -/
structure ReportCfg where
  centre : List Nat
  terminal : List Nat
  backoff : List Nat
  deriving DecidableEq, Repr

/-- Threshold and decay period (in minutes) of an attribute (R24). -/
structure AttrCfg where
  threshold : Nat
  decay : Nat
  deriving DecidableEq, Repr

/-- The parameters of R24: times in the units of its table. -/
structure Params where
  denoms : List Denom
  pathWindow : Nat
  dialDelay : Nat
  toneOn : Nat
  toneOff : Nat
  answerTimeout : Nat
  readyTimeout : Nat
  followWindow : Nat
  graceTime : Nat
  maxDuration : Nat
  emergency : List (List Nat)
  report : Option ReportCfg
  hold2 : Nat
  hold1 : Nat
  attrs : PerAttr AttrCfg
  boxNearFull : Nat
  boxFull : Nat
  logNearFull : Nat
  code : Option (List Nat)
  lapse : Nat
  deriving DecidableEq, Repr

/-- A known descriptor found by a walk: kind id, chain index, body words (R22). -/
structure Found where
  kind : Nat
  chain : Nat
  body : List Word
  deriving DecidableEq, Repr

/-- What a walk is reading. -/
inductive WalkStage where
  | anchor | header | body | ended
  deriving DecidableEq, Repr

/-- A chain walk in progress (R20 to R22): the chain range from `lo` up to but not including `hi`, the
address of the next word, the words read of the anchor, header or body in hand, the descriptor in
hand, and what has been found. `anchored` says that the chain range begins at the anchor (R23).
`verdict` is the reason and failing index of a walk that has failed. -/
structure Walk where
  lo : Nat
  hi : Nat
  anchored : Bool
  stage : WalkStage
  next : Nat
  unit : List Word
  off : Nat
  idx : Nat
  link : Nat
  kind : Nat
  len : Nat
  found : List Found
  verdict : Option (WalkReason × Nat)
  deriving DecidableEq, Repr

/-- A window of an image, with the chain index of its descriptor (R23). -/
structure WindowDesc where
  kind : WindowKind
  base : Nat
  size : Nat
  chain : Nat
  deriving DecidableEq, Repr

structure Cfl where
  step : StartStep
  params : Params
  fault : Option (WalkReason × Nat)
  walk : Option Walk
  reloading : Bool
  preload : Option (List (Nat × Word))
  image : List WindowDesc
  skip : Nat
  deriving DecidableEq, Repr

/-! ### Request Unit -/

/-- An owner's answer: result code word and the three result words (R37). -/
structure Answer where
  code : Word
  r1 : Word
  r2 : Word
  r3 : Word
  deriving DecidableEq, Repr

/-- Where the request in service stands: its sequence word is still to be read, `refused` for a DIAL that
STARTING refuses (R36, R29); parameter words are still to be read (R36); handed to its owner; accepted by
an owner that answers later (R38); or answered with so many of the six completion writes done (R37). -/
inductive ServicePhase where
  | seqWord (refused : Bool)
  | paramWords
  | handed
  | held
  | answered (answer : Answer) (written : Nat)
  deriving DecidableEq, Repr

/-- The request in service (R35) with the words read of its slot, of the parameters those read so far
(R36). -/
structure Service where
  slot : Nat
  kind : Word
  seq : Word
  params : List Word
  phase : ServicePhase
  deriving DecidableEq, Repr

/-- A slot marked for abandoning, with so many of its five writes done (R40). -/
structure Abandon where
  slot : Nat
  written : Nat
  deriving DecidableEq, Repr

/-- `unread` says that the head of the queue has come there in STARTING and its kind word has not been
read (R29); it says nothing outside STARTING. -/
structure Rqu where
  queue : List Nat
  service : Option Service
  abandon : List Abandon
  flags : BitVec 12
  mask : BitVec 12
  unread : Bool
  deriving DecidableEq, Repr

/-! ### Coin Unit -/

/-- The owner of a coin or rating context: a call sequence with its unlogged mark (R157). -/
structure Owner where
  seq : Nat
  unlogged : Bool
  deriving DecidableEq, Repr

/-- An entry of the chute list; times on the CNU's millisecond count (R48). -/
structure ChuteCoin where
  denom : Nat
  value : Nat
  granted : Nat
  deadline : Nat
  deriving DecidableEq, Repr

/-- An entry of the escrow list (R55). -/
structure Coin where
  seq : Nat
  denom : Nat
  value : Nat
  isForeign : Bool
  owner : Option Owner
  status : CoinStatus
  deriving DecidableEq, Repr

/-- An entry of the drop queue (R57). -/
structure Drop where
  seq : Nat
  dir : Dir
  deriving DecidableEq, Repr

/-- A drop in motion: its direction and where its exit timer runs out (R58). -/
structure Motion where
  dir : Dir
  deadline : Nat
  deriving DecidableEq, Repr

/-- A tube clearance: drops made, where the exit timer of the present one runs out, and whether it is
the sweep of R177 rather than the clearance of R63. -/
structure Clearance where
  made : Nat
  deadline : Nat
  sweep : Bool
  deriving DecidableEq, Repr

/-- `edgeMs` is the count on which an entry blocked event is formed (R47): unlike `ms`, the count of the
chute deadlines and exit timers, it does not stop in a save (R62; DEDUCED, log 53). `blockedSince` is the
sensor's blocked edge on `ms` (R54), and `jamDue` the point on `edgeMs` at which the event of this blocking
is formed, absent once it is. -/
structure Cnu where
  ms : Nat
  edgeMs : Nat
  chute : List ChuteCoin
  escrow : List Coin
  drops : List Drop
  motion : Option Motion
  frozen : Bool
  stuck : Option Dir
  nextSeq : Nat
  openCall : Option Owner
  watch : List Owner
  blockedSince : Option Nat
  jamDue : Option Nat
  doorOpen : Bool
  boxPresent : Bool
  tubeEmpty : Bool
  diverter : Dir
  offerAnswer : Option Bool
  clearance : Option Clearance
  restored : List Nat
  coinSince : Bool
  deriving DecidableEq, Repr

/-! ### Tariff Unit -/

/-- A valid date and time of the calendar clock: `year` is year − 2000 (R81). -/
structure Cal where
  year : Nat
  month : Nat
  day : Nat
  hour : Nat
  minute : Nat
  second : Nat
  deriving DecidableEq, Repr

/-- A switch point of a band schedule (R70). -/
structure SwitchPoint where
  minute : Nat
  band : Nat
  deriving DecidableEq, Repr

/-- The settled calendar (R72). Holidays are month and day. -/
structure Calendar where
  weekday : List SwitchPoint
  saturday : List SwitchPoint
  sunday : List SwitchPoint
  holidays : List (Nat × Nat)
  deriving DecidableEq, Repr

/-- A tariff check in progress (R73, R76): the words read, the last one first, of `size` to be read;
`writing` once its check word is with the ADU's writer. -/
structure Check where
  rev : List Word
  size : Nat
  overtaken : Bool
  forRequest : Bool
  writing : Bool
  deriving DecidableEq, Repr

/-- Interval length in seconds and interval charge of a band (R70). -/
structure Rate where
  len : Nat
  charge : Nat
  deriving DecidableEq, Repr

/-- A latched class row with its surcharge P (R85). -/
structure Row where
  setup : Nat
  b0 : Rate
  b1 : Rate
  b2 : Rate
  b3 : Rate
  surcharge : Nat
  deriving DecidableEq, Repr

/-- What the analysis of a number answers (R79): a refusal, or a class with the row it latches. -/
inductive Analysis where
  | refused (code : ResultCode)
  | route (cls : Nat) (emergency : Bool) (row : Option Row)
  deriving DecidableEq, Repr

/-- Of the analysis of the DIAL in service (R79): `analysed` counts the words it has read, `edited` says
that a controller word has passed into the TARIFF window between its first word and its last, and `outcome`
is what it answers once its last word has been read. `compare` holds the words that the power-on comparison
has read, the last one first (R78). -/
structure Tru where
  clock : Option Cal
  phase : Nat
  unsettled : Bool
  valid : Bool
  calendar : Option Calendar
  check : Option Check
  waiting : List Bool
  edited : Bool
  analysed : Nat
  outcome : Option Analysis
  compare : Option (List Word)
  deriving DecidableEq, Repr

/-! ### Rating Unit -/

/-- A date-time as the three words a record holds (R45). -/
structure Stamp where
  w0 : Word
  w1 : Word
  w2 : Word
  deriving DecidableEq, Repr

/-- A coin of the coin roll or the waiting roll (R85, R86). -/
structure RollCoin where
  seq : Nat
  value : Nat
  committed : Bool
  deriving DecidableEq, Repr

/-- The rating context of an open call (R85). Points are seconds of the RTU's count. -/
structure Ctx where
  owner : Owner
  cls : Nat
  emergency : Bool
  row : Option Row
  phase : Phase
  band : Option Nat
  roll : List RollCoin
  cin : Nat
  consumed : Nat
  committed : Nat
  intervals : Nat
  start : Option Nat
  finish : Option Nat
  due : Nat
  graceDeadline : Option Nat
  graceTime : Nat
  maxDuration : Nat
  maxEnd : Option Nat
  graceUsed : Bool
  seizeStamp : Stamp
  seizePoint : Nat
  answerPoint : Option Nat
  deriving DecidableEq, Repr

structure Rtu where
  ms : Nat
  ctx : Option Ctx
  waiting : List RollCoin
  carry : Nat
  deriving DecidableEq, Repr

/-! ### Line Unit -/

/-- The tone (`on`) or silence being sent for the buffer's head digit, where it ends, and the tone-off
time latched when the digit started (R112). -/
structure ToneStage where
  on : Bool
  finish : Nat
  offTime : Nat
  deriving DecidableEq, Repr

/-- The line timers: each stopped or the point of the LNU's count at which it runs out. -/
structure Timers where
  ready : Option Nat
  guard : Option Nat
  loop : Option Nat
  dialDelay : Option Nat
  answer : Option Nat
  clearing : Option Nat
  window : Option Nat
  quiet : Option Nat
  loss : Option Nat
  absent : Option Nat
  present : Option Nat
  reportAnswer : Option Nat
  sendDelay : Option Nat
  reportClearing : Option Nat
  deriving DecidableEq, Repr

structure Lnu where
  ms : Nat
  state : LineState
  relay : Bool
  relayOpened : Option Nat
  offHook : Bool
  loop : Bool
  reversed : Bool
  voltage : Bool
  buffer : List Nat
  tone : Option ToneStage
  number : List Nat
  followOn : Bool
  keep : Bool
  offHookMemory : Bool
  loopSeen : Bool
  quiet : Bool
  timers : Timers
  deriving DecidableEq, Repr

/-! ### Incident Unit -/

/-- An entry of the incident index (R129): the record in a slot and its due point on the INU's second
count. -/
structure IncRec where
  slot : Nat
  seq : Nat
  kind : IncKind
  detail : Nat
  count : Nat
  state : RecState
  attempts : Nat
  cleared : Bool
  first : Stamp
  last : Stamp
  nextAttempt : Stamp
  snapshot : Option Nat
  due : Nat
  deriving DecidableEq, Repr

/-- An attribute (R127) with its decay timer (R128). -/
structure Attr where
  total : Nat
  level : Nat
  armed : Bool
  timer : Option Nat
  deriving DecidableEq, Repr

/-- `records` stands in creation order, oldest first (R132). `edgeMs` is the count on which the shock
edges are spaced (R126): unlike `ms`, the count of the second count and the decay timers, it does not
stop in a save (R136; DEDUCED, log 33). -/
structure Inu where
  ms : Nat
  edgeMs : Nat
  latches : BitVec 17
  records : List IncRec
  counter : Nat
  attrs : PerAttr Attr
  doorOpen : Bool
  boxPresent : Bool
  cordWhole : Bool
  lastShock : Option Nat
  rebuilt : Bool
  deriving DecidableEq, Repr

/-! ### Report Unit -/

/-- A carried incident: its sequence and severity (R138). -/
structure Carried where
  seq : Nat
  severity : Nat
  deriving DecidableEq, Repr

/-- The report-call record (R138); `toHand` holds the tones of the message not yet handed to the LNU
(R143). Tones are the codes of R45. -/
structure ReportCall where
  carried : List Carried
  timeRides : Bool
  number : Option Nat
  message : List Nat
  toHand : List Nat
  resend : Bool
  stage : AckStage
  digits : List Nat
  deriving DecidableEq, Repr

/-- A standing time request; `due` on the RPU's second count (R138). -/
structure TimeRequest where
  origin : Origin
  attempts : Nat
  due : Nat
  deriving DecidableEq, Repr

structure Rpu where
  ms : Nat
  call : Option ReportCall
  timeRequest : Option TimeRequest
  counter : Nat
  firstTone : Option Nat
  interTone : Option Nat
  deriving DecidableEq, Repr

/-! ### Audit Unit -/

/-- An attribute as the tally cache holds it (R152). -/
structure CacheAttr where
  total : Nat
  level : Nat
  armed : Bool
  deriving DecidableEq, Repr

/-- The tally cache but for its check word (R46, R152). -/
structure Tallies where
  credited : Nat
  collected : Nat
  returned : Nat
  consumed : Nat
  excess : Nat
  escrow : Nat
  boxValue : Nat
  boxCoins : Nat
  coins1 : Nat
  coins2 : Nat
  coins3 : Nat
  coins4 : Nat
  coins5 : Nat
  coins6 : Nat
  paidAnswered : Nat
  free : Nat
  unanswered : Nat
  unlogged : Nat
  collectedThrough : Nat
  attrs : PerAttr CacheAttr
  deriving DecidableEq, Repr

/-- A job of the ADU writer (R155). A write-back says whether a FLUSH waits for it and whether it
answers the flush-pending mark (R156). -/
inductive Job where
  | record (log : LogId) (slot : Nat) (words : List Word)
  | writeBack (flush deferred : Bool)
  | checkWord (crc : Word)
  deriving DecidableEq, Repr

/-- What the job in hand is writing: its own place, spare `j`, entry `j` as MAPPED, entry `j` as BAD
(R162), or the record once more in place (R163). -/
inductive RunPhase where
  | home
  | spare (j : Nat)
  | entry (j : Nat)
  | entryBad (j : Nat)
  | final
  deriving DecidableEq, Repr

/-- Where the word in hand stands: to be written, to be read back, or awaiting its comparison (R161). -/
inductive WordStage where
  | write | read | compare
  deriving DecidableEq, Repr

/-- The job in hand: the (address, word) pairs left, the word in hand first, with its retries, the
words that failed, and whether any word of the job has begun. -/
structure Run where
  job : Job
  phase : RunPhase
  todo : List (Nat × Word)
  stage : WordStage
  tries : Nat
  failed : Nat
  begun : Bool
  deriving DecidableEq, Repr

/-- An entry of the ADU's copy of the remap table (R162). -/
inductive RemapEntry where
  | free
  | mapped (log : LogId) (slot : Nat)
  | bad
  deriving DecidableEq, Repr

/-- Of step 3 of the start-up `loaded` counts the words read for the first time, and `rereading` the words
left of a slot that is being read a second time (R153, R160, R164). -/
structure Adu where
  cache : Tallies
  check : Word
  dirty : Bool
  suspect : Bool
  nextCall : Nat
  greatest : Nat
  jobs : List Job
  run : Option Run
  remap : List RemapEntry
  flushPending : Bool
  loaded : Nat
  rereading : Nat
  deriving DecidableEq, Repr

/-! ### Access Control and Power-Fail Unit -/

/-- `lapse` is the expiry point of the running lapse timer on the ACU's count (R166). -/
structure Acu where
  ms : Nat
  mode : AccessMode
  attempts : Nat
  lapse : Option Nat
  keyOn : Bool
  deriving DecidableEq, Repr

/-- The invalidating write after a cleared warning: where its word stands, and whether the warning has
been asserted again (R175). -/
structure Unsave where
  stage : WordStage
  rewrite : Bool
  deriving DecidableEq, Repr

/-- Where step 5 of the start-up stands (R176 to R178). -/
inductive Step5 where
  | idle
  | clearing
  | writeBack (lost : Bool)
  | invalidate (stage : WordStage)
  deriving DecidableEq, Repr

/-- `again` says that A1E7h is to be written into the validity word once more (R175); `contextRead` counts
the words of the context that step 5 has read (R176). -/
structure Pfu where
  power : PowerState
  warning : Bool
  save : List (Nat × Word)
  wroteValidity : Bool
  unsave : Option Unsave
  again : Bool
  step5 : Step5
  contextRead : Nat
  deriving DecidableEq, Repr

/-! ### The whole part -/

/-- An event that its block holds while the power state is not RUNNING, or through STARTING (R62,
R63, R105, R123, R136, R137, R172). An exit passage keeps whether a tube clearance was in progress at
its arrival, which then uses the sensor directly (R63). -/
inductive Held where
  | entryPassage
  | entryBlocked
  | exitPassage (clearing : Bool)
  | offHook
  | onHook
  | loopAppears
  | loopLost
  | reversal
  | reversion
  | voltage (present : Bool)
  | tone (t : Tone)
  | intervalEnd
  | graceDeadline
  | maxDurationEnd
  | key (on : Bool)
  | lapse
  | passingWrite (tariff : Bool)
  | accessReset
  | occurrence (kind : IncKind) (detail : Nat)
  | attrEvent (attr : AttrId)
  | clearLatch (kind : IncKind)
  deriving DecidableEq, Repr

/-- The state of the part, its memory and the commands that wait. -/
structure State where
  powered : Bool
  mem : Memory
  bpu : Bpu
  cfl : Cfl
  rqu : Rqu
  cnu : Cnu
  tru : Tru
  rtu : Rtu
  lnu : Lnu
  inu : Inu
  rpu : Rpu
  adu : Adu
  acu : Acu
  pfu : Pfu
  held : List Held
  free : Nat
  pending : List Instr
  deriving DecidableEq, Repr

/-! ### The part right after power-on -/

/-- The same value for each attribute. -/
def PerAttr.fill {α : Type} (a : α) : PerAttr α := ⟨a, a, a, a, a⟩

/-- The "If absent" column of R24 and the attribute defaults below it. -/
def Params.absent : Params where
  denoms := []
  pathWindow := 1200
  dialDelay := 2
  toneOn := 80
  toneOff := 80
  answerTimeout := 90
  readyTimeout := 60
  followWindow := 20
  graceTime := 10
  maxDuration := 60
  emergency := []
  report := none
  hold2 := 5
  hold1 := 360
  attrs := ⟨⟨5, 10⟩, ⟨8, 5⟩, ⟨3, 30⟩, ⟨16, 10⟩, ⟨4, 0⟩⟩
  boxNearFull := 900
  boxFull := 1000
  logNearFull := 224
  code := none
  lapse := 30

/-- A walk at the anchor record at 80000h (R20) with this chain range (R21). -/
def Walk.start (lo hi : Nat) (anchored : Bool) : Walk where
  lo := lo
  hi := hi
  anchored := anchored
  stage := .anchor
  next := 0x80000
  unit := []
  off := 0
  idx := 0
  link := 0
  kind := 0
  len := 0
  found := []
  verdict := none

def Tallies.zero : Tallies where
  credited := 0
  collected := 0
  returned := 0
  consumed := 0
  excess := 0
  escrow := 0
  boxValue := 0
  boxCoins := 0
  coins1 := 0
  coins2 := 0
  coins3 := 0
  coins4 := 0
  coins5 := 0
  coins6 := 0
  paidAnswered := 0
  free := 0
  unanswered := 0
  unlogged := 0
  collectedThrough := 0
  attrs := PerAttr.fill ⟨0, 0, false⟩

/-- No line timer runs. -/
def Timers.stopped : Timers :=
  ⟨none, none, none, none, none, none, none, none, none, none, none, none, none, none⟩

/-- Every block in its power-on state, with the inputs sampled at `lv`, over this memory and with
these commands waiting (R28; R1, R8, R15, R35, R41, R42, R47, R63, R72, R81, R85, R86, R106, R107,
R137, R138, R153, R155, R156, R166, R167, R173). The chain walk begins, and the TRU has raised event
CLOCK (R81). An input that is already absent or blocked begins its count (R47, R119). Every
count starts from 0 (DESIGN CHOICE, log 6). -/
def State.powerOn (mem : Memory) (lv : Levels) (pending : List Instr) : State where
  powered := true
  mem := mem
  bpu :=
    { table := none, busy := ⟨false, false, false, false⟩, intercepts := [], overflow := false,
      cycle := none, answer := none, sample := none }
  cfl :=
    { step := .walk, params := Params.absent, fault := none,
      walk := some (Walk.start 0x80000 0x80800 true), reloading := false, preload := none,
      image := [], skip := 0 }
  rqu :=
    { queue := [], service := none, abandon := [], flags := 0x200, mask := 0xFFF, unread := false }
  cnu :=
    { ms := 0, edgeMs := 0, chute := [], escrow := [], drops := [], motion := none, frozen := false,
      stuck := none, nextSeq := 0, openCall := none, watch := [],
      blockedSince := if lv.entryBlocked then some 0 else none,
      jamDue := if lv.entryBlocked then some 2000 else none,
      doorOpen := lv.doorOpen, boxPresent := lv.boxPresent, tubeEmpty := lv.tubeEmpty,
      diverter := .ret, offerAnswer := none, clearance := none, restored := [], coinSince := false }
  tru :=
    { clock := none, phase := 0, unsettled := false, valid := false, calendar := none, check := none,
      waiting := [], edited := false, analysed := 0, outcome := none, compare := none }
  rtu := { ms := 0, ctx := none, waiting := [], carry := 0 }
  lnu :=
    { ms := 0, state := .idle, relay := false, relayOpened := none, offHook := lv.offHook,
      loop := lv.loop, reversed := lv.reversed, voltage := lv.voltage, buffer := [], tone := none,
      number := [], followOn := false, keep := false, offHookMemory := false, loopSeen := false,
      quiet := false,
      timers := { Timers.stopped with absent := if lv.voltage then none else some 5000 } }
  inu :=
    { ms := 0, edgeMs := 0, latches := 0, records := [], counter := 0,
      attrs := PerAttr.fill ⟨0, 0, true, none⟩, doorOpen := lv.doorOpen,
      boxPresent := lv.boxPresent, cordWhole := lv.cordWhole, lastShock := none, rebuilt := false }
  rpu :=
    { ms := 0, call := none, timeRequest := none, counter := 0, firstTone := none, interTone := none }
  adu :=
    { cache := Tallies.zero, check := 0, dirty := false, suspect := false, nextCall := 1, greatest := 0,
      jobs := [], run := none, remap := List.replicate 8 .free, flushPending := false, loaded := 0,
      rereading := 0 }
  acu := { ms := 0, mode := .normal, attempts := 0, lapse := none, keyOn := lv.keyOn }
  pfu :=
    { power := .running, warning := false, save := [], wroteValidity := false, unsave := none,
      again := false, step5 := .idle, contextRead := 0 }
  held := []
  free := 0
  pending := pending

/-- The inputs of a set at rest: handset down, line powered, coin path clear, tube empty, door
closed, box in place, cord whole, key off, no power warning (DESIGN CHOICE, log 7). -/
def Levels.rest : Levels where
  offHook := false
  loop := false
  reversed := false
  voltage := true
  entryBlocked := false
  tubeEmpty := true
  doorOpen := false
  boxPresent := true
  cordWhole := true
  keyOn := false
  warning := false

/-- The part right after power-on (00, Resets) with its inputs at rest, nothing listed in memory and
no command waiting. -/
def State.reset : State := State.powerOn [] Levels.rest []

end Sys2Proof.Machine
end

