-- ==== Sys2Proof/Machine/Flags.lean ====
section
/-! DEFINITION. Event flags, event mask and attention line (R41, R42, R9), condition latches as bits and
the barrings derived from them (R124, R125). -/

namespace Sys2Proof.Machine

/-- The bit of an event in the flags and mask words (3.6, status block 00h). -/
def Event.bit : Event → Nat
  | .line => 0
  | .credit => 1
  | .request => 2
  | .intercept => 3
  | .incident => 4
  | .condition => 5
  | .lowCredit => 6
  | .log => 7
  | .report => 8
  | .clock => 9
  | .tally => 10
  | .mode => 11

/-- The flags with the event's flag set (R41). -/
def setFlag (flags : BitVec 12) (e : Event) : BitVec 12 := flags ||| BitVec.twoPow 12 e.bit

/-- The flag of an event. -/
def flagOf (flags : BitVec 12) (e : Event) : Bool := flags.getLsbD e.bit

/-- A block hands the RQU an event (R41). -/
def raise (e : Event) (s : State) : State := { s with rqu.flags := setFlag s.rqu.flags e }

/-- Raise the event if the condition holds. -/
def raiseIf (c : Bool) (e : Event) (s : State) : State := if c then raise e s else s

/-- The bits of a word that lie in the written lanes (R9). -/
def laneMask : Lanes → Word
  | .low => 0x00FF
  | .high => 0xFF00
  | .both => 0xFFFF

/-- The flags after an acknowledgement: those named in the written lanes are cleared (R9, R41). -/
def acknowledged (flags : BitVec 12) (data : Word) (lanes : Lanes) : BitVec 12 :=
  flags &&& ~~~((data &&& laneMask lanes).setWidth 12)

/-- The mask after a write: the bits of the written lanes are replaced (R9, R42). -/
def newMask (mask : BitVec 12) (data : Word) (lanes : Lanes) : BitVec 12 :=
  (mask &&& ~~~((laneMask lanes).setWidth 12)) ||| ((data &&& laneMask lanes).setWidth 12)

/-- The attention line: asserted while a flag is set whose mask bit is set (R42). -/
def attention (s : State) : Bool := s.rqu.flags &&& s.rqu.mask ≠ 0

/-! ### Incident kinds, latches, barrings -/

/-- The code of an incident kind (R124). -/
def IncKind.code : IncKind → Nat
  | .cashDoorOpen => 1
  | .cashboxRemoved => 2
  | .cordCut => 3
  | .shock => 4
  | .coinJam => 5
  | .coinPath => 6
  | .escrowFault => 7
  | .cashboxNearFull => 8
  | .cashboxFull => 9
  | .lineFault => 10
  | .tamperAccess => 11
  | .unlockLockout => 12
  | .logFull => 13
  | .tariffInvalid => 14
  | .auditSuspect => 15
  | .configFault => 16
  | .controllerFault => 17

/-- The kind of a code, if it is one of 1 to 17. -/
def IncKind.ofCode : Nat → Option IncKind
  | 1 => some .cashDoorOpen
  | 2 => some .cashboxRemoved
  | 3 => some .cordCut
  | 4 => some .shock
  | 5 => some .coinJam
  | 6 => some .coinPath
  | 7 => some .escrowFault
  | 8 => some .cashboxNearFull
  | 9 => some .cashboxFull
  | 10 => some .lineFault
  | 11 => some .tamperAccess
  | 12 => some .unlockLockout
  | 13 => some .logFull
  | 14 => some .tariffInvalid
  | 15 => some .auditSuspect
  | 16 => some .configFault
  | 17 => some .controllerFault
  | _ => none

/-- The fixed severity of a kind (R124). -/
def IncKind.severity : IncKind → Nat
  | .cashDoorOpen | .cashboxRemoved | .unlockLockout | .configFault => 3
  | .coinJam | .cashboxNearFull | .controllerFault => 1
  | _ => 2

/-- The 13 kinds that latch (R124). -/
def IncKind.latches : IncKind → Bool
  | .shock | .coinPath | .tamperAccess | .controllerFault => false
  | _ => true

/-- The kinds whose record carries a snapshot of CASHBOX_VALUE (R129). -/
def IncKind.hasSnapshot : IncKind → Bool
  | .cashDoorOpen | .cashboxRemoved | .escrowFault | .cashboxNearFull | .cashboxFull => true
  | _ => false

/-- The latch of a kind among the 17 bits (3.6, status block 2Ch and 2Eh). -/
def latched (latches : BitVec 17) (k : IncKind) : Bool := latches.getLsbD (k.code - 1)

def setLatchBit (latches : BitVec 17) (k : IncKind) : BitVec 17 :=
  latches ||| BitVec.twoPow 17 (k.code - 1)

def clearLatchBit (latches : BitVec 17) (k : IncKind) : BitVec 17 :=
  latches &&& ~~~(BitVec.twoPow 17 (k.code - 1))

/-- COINS_BARRED (R125). -/
def coinsBarred (s : State) : Bool :=
  [IncKind.cashDoorOpen, .cashboxRemoved, .coinJam, .escrowFault, .cashboxFull].any
    (latched s.inu.latches)

/-- PAID_BARRED (R125). -/
def paidBarred (s : State) : Bool :=
  [IncKind.cashDoorOpen, .cashboxRemoved, .escrowFault, .logFull, .tariffInvalid].any
    (latched s.inu.latches)

/-- OUT_OF_ORDER (R125). -/
def outOfOrder (s : State) : Bool :=
  [IncKind.cordCut, .lineFault, .configFault].any (latched s.inu.latches)

end Sys2Proof.Machine
end

