-- ==== Sys2Proof/Machine/Operands.lean ====
section
/-! DEFINITION. The encodings of the visible records (R45) and the codes of section 3.6. -/

namespace Sys2Proof.Machine

/-! ### Words -/

/-- A value as a 16-bit field. -/
def wordOf (n : Nat) : Word := BitVec.ofNat 16 n

/-- A 32-bit value as two words, high word first (R45). -/
def words32 (n : Nat) : List Word := [wordOf (n / 65536), wordOf n]

/-- The 32-bit value of two words, high word first (R45). -/
def value32 (h l : Word) : Nat := h.toNat * 65536 + l.toNat

/-- A byte pair: the first field in bits 15 to 8, the second in bits 7 to 0 (R45). -/
def bytePair (a b : Nat) : Word := wordOf (a % 256 * 256 + b % 256)

/-- The first field of a byte pair. -/
def firstByte (w : Word) : Nat := w.toNat / 256

/-- The second field of a byte pair. -/
def secondByte (w : Word) : Nat := w.toNat % 256

/-- An absent 16-bit field (R45). -/
def absent16 : Word := 0xFFFF

/-- An absent 32-bit field (R45). -/
def absent32 : List Word := [absent16, absent16]

/-- A flag bit: 1 when set (R45), at bit `i`. -/
def bitIf (b : Bool) (i : Nat) : Nat := if b then 2 ^ i else 0

/-- A count held in a 16-bit field that saturates at 65535 (3.6, call record 1Ch). -/
def sat16 (n : Nat) : Nat := min n 65535

/-- Parameter word `i` of a request, counted from 1 (3.6). -/
def param (params : List Word) (i : Nat) : Nat := (params.getD (i - 1) 0).toNat

/-! ### Date-times -/

/-- The date-time of a record taken while the clock is invalid: three words of 0 (R45). -/
def Stamp.zero : Stamp := ⟨0, 0, 0⟩

/-- A date-time in its three words; zeros while the clock is invalid (R45). -/
def Stamp.ofClock : Option Cal → Stamp
  | none => Stamp.zero
  | some c => ⟨bytePair c.year c.month, bytePair c.day c.hour, bytePair c.minute c.second⟩

def Stamp.words (t : Stamp) : List Word := [t.w0, t.w1, t.w2]

/-! ### Digits -/

/-- A dialled digit: 0 to 9, 10 for *, 11 for # (R45). -/
def isDialDigit (n : Nat) : Bool := n ≤ 11

/-- The code of a received tone among those of R45; A and B have none. -/
def toneDigit : Tone → Option Nat
  | .digit d => some d.val
  | _ => none

/-- Up to 20 digits packed four to a word, places beyond the count holding Fh (R45). -/
def packDigits (ds : List Nat) : List Word :=
  let place (i : Nat) : Nat := ds.getD i 15 % 16
  (List.range 5).map fun k =>
    wordOf (place (4 * k) * 4096 + place (4 * k + 1) * 256 + place (4 * k + 2) * 16 + place (4 * k + 3))

/-! ### Codes -/

/-- Kind codes of R23. -/
def WindowKind.code : WindowKind → Nat
  | .plain => 0
  | .request => 1
  | .status => 2
  | .tariff => 3
  | .config => 4
  | .tally => 5
  | .callLog => 6
  | .incidentLog => 7
  | .context => 8
  | .spare => 9

def WindowKind.ofCode : Nat → Option WindowKind
  | 0 => some .plain
  | 1 => some .request
  | 2 => some .status
  | 3 => some .tariff
  | 4 => some .config
  | 5 => some .tally
  | 6 => some .callLog
  | 7 => some .incidentLog
  | 8 => some .context
  | 9 => some .spare
  | _ => none

/-- The kind shown by PROBE, 10 for UNDECODED (3.6). -/
def probeKindCode : Option WindowKind → Nat
  | none => 10
  | some k => k.code

def Cause.code : Cause → Nat
  | .writeBlocked => 1
  | .slotBusy => 2
  | .statusWrite => 3
  | .saveRefused => 4

def lanesCode : Lanes → Nat
  | .low => 1
  | .high => 2
  | .both => 3

/-- Action codes of the PROBE answer (3.6). -/
def Action.code : Action → Nat
  | .pass => 0
  | .block _ => 1
  | .substitute => 2
  | .pattern => 3
  | .redirect _ => 4

def AccessMode.code : AccessMode → Nat
  | .normal => 0
  | .service => 1
  | .frozen => 2
  | .lockout => 3

def PowerState.code : PowerState → Nat
  | .running => 0
  | .saving => 1
  | .saved => 2

def LineState.code : LineState → Nat
  | .idle => 0
  | .ready => 1
  | .seizing => 2
  | .dialling => 3
  | .awaitAnswer => 4
  | .connected => 5
  | .grace => 6
  | .clearing => 7
  | .followOn => 8
  | .parked => 9
  | .reportSeizing => 10
  | .reportDialling => 11
  | .reportAwaitAnswer => 12
  | .reportSending => 13
  | .reportAwaitAck => 14
  | .reportClearing => 15
  | .down => 16

def WalkReason.code : WalkReason → Nat
  | .badAnchor => 1
  | .offsetRange => 2
  | .offsetOrder => 3
  | .tooMany => 4
  | .length => 5
  | .duplicate => 6
  | .field => 7
  | .missing => 8
  | .windowSet => 9

def ResultCode.code : ResultCode → Nat
  | .ok => 1
  | .okWindowsDeferred => 2
  | .deferred => 3
  | .starting => 4
  | .refusedState => 5
  | .refusedMode => 6
  | .badParam => 7
  | .noRoute => 8
  | .barred => 9
  | .tooShort => 10
  | .tooLong => 11
  | .insufficientCredit => 12
  | .lineBusy => 13
  | .paidBarred => 14
  | .logFull => 15
  | .tariffUnsettled => 16
  | .tariffBad => 17
  | .wrongCode => 18
  | .lockedOut => 19
  | .chainBad => 20
  | .abandoned => 21
  | .unknownKind => 22

/-- End causes of the call record; 9 is reserved (3.6). -/
def EndCause.code : EndCause → Nat
  | .onHook => 1
  | .farEnd => 2
  | .noAnswer => 3
  | .creditExhausted => 4
  | .maxDuration => 5
  | .released => 6
  | .lineLost => 7
  | .powerLoss => 8
  | .seizeFailed => 10

def Phase.code : Phase → Nat
  | .dialled => 0
  | .charging => 1
  | .grace => 2
  | .ending => 3

def CoinStatus.code : CoinStatus → Nat
  | .held => 0
  | .committed => 1
  | .dropping => 2

/-- Drop direction of a DROPPING coin in the context block (3.6). -/
def Dir.code : Dir → Nat
  | .collect => 1
  | .ret => 2

def RecState.code : RecState → Nat
  | .pending => 0
  | .reporting => 1
  | .reported => 2

/-- The record state of a loaded code; every code but 0 and 1 is read as REPORTED (log 20). -/
def RecState.ofCode : Nat → RecState
  | 0 => .pending
  | 1 => .reporting
  | _ => .reported

/-- Log codes of a remap entry (3.6). -/
def LogId.code : LogId → Nat
  | .call => 1
  | .incident => 2

/-- The request kind codes (3.6). -/
abbrev kindDial : Nat := 1
abbrev kindSendDigits : Nat := 2
abbrev kindFollowOn : Nat := 3
abbrev kindRelease : Nat := 4
abbrev kindCollectLog : Nat := 5
abbrev kindFlush : Nat := 6
abbrev kindReportFault : Nat := 7
abbrev kindProbe : Nat := 8
abbrev kindTestReport : Nat := 9
abbrev kindSetClock : Nat := 10
abbrev kindTariffCheck : Nat := 11
abbrev kindServiceUnlock : Nat := 12
abbrev kindServiceEnd : Nat := 13
abbrev kindFreeze : Nat := 14
abbrev kindClearIncident : Nat := 15
abbrev kindClearAttributes : Nat := 16
abbrev kindEmptyCashbox : Nat := 17
abbrev kindReloadConfig : Nat := 18

/-- Whether a kind word is a kind code (R36). -/
def isKindCode (n : Nat) : Bool := 1 ≤ n && n ≤ 18

/-! ### One value per attribute -/

def PerAttr.get {α : Type} (p : PerAttr α) : AttrId → α
  | .shockPulses => p.shockPulses
  | .coinRejects => p.coinRejects
  | .coinPathErrors => p.coinPathErrors
  | .blockedWrites => p.blockedWrites
  | .nvRetries => p.nvRetries

def PerAttr.set {α : Type} (p : PerAttr α) (a : AttrId) (v : α) : PerAttr α :=
  match a with
  | .shockPulses => { p with shockPulses := v }
  | .coinRejects => { p with coinRejects := v }
  | .coinPathErrors => { p with coinPathErrors := v }
  | .blockedWrites => { p with blockedWrites := v }
  | .nvRetries => { p with nvRetries := v }

def PerAttr.map {α β : Type} (f : α → β) (p : PerAttr α) : PerAttr β :=
  ⟨f p.shockPulses, f p.coinRejects, f p.coinPathErrors, f p.blockedWrites, f p.nvRetries⟩

/-- The values in the order of the layouts (3.6). -/
def PerAttr.toList {α : Type} (p : PerAttr α) : List α :=
  [p.shockPulses, p.coinRejects, p.coinPathErrors, p.blockedWrites, p.nvRetries]

/-! ### Busy marks -/

def Marks.get (m : Marks) : Nat → Bool
  | 0 => m.m0
  | 1 => m.m1
  | 2 => m.m2
  | 3 => m.m3
  | _ => false

def Marks.set (m : Marks) (i : Nat) (b : Bool) : Marks :=
  match i with
  | 0 => { m with m0 := b }
  | 1 => { m with m1 := b }
  | 2 => { m with m2 := b }
  | 3 => { m with m3 := b }
  | _ => m

end Sys2Proof.Machine
end

