-- ==== Sys2Proof/Machine/Ops.lean ====
section
/-! DEFINITION. The named operations every block uses: memory, the CRC-16, time, the supply, windows,
and the answer to the request in service. -/

namespace Sys2Proof.Machine

/-- What a command answers. -/
abbrev Out := Host.Outcome State Fault Refusal

/-- A command acts while the supply is up; with the supply down only POWER_ON does (log 2). -/
def onPower (s : State) (f : State → State) : Out := .next (if s.powered then f s else s)

/-! ### Memory (R2; log 3) -/

/-- The memory a byte address lies in, if the part decodes it (R2). -/
def memKind (a : Nat) : Option MemKind :=
  if a < 0x40000 then some .ram
  else if 0x80000 ≤ a ∧ a < 0xA0000 then some .nv
  else none

/-- What an unlisted byte reads as: erased NV is FFh (R153, R162); RAM is taken as 00h (log 3). -/
def Memory.blank (a : Nat) : Byte := if a < 0x80000 then 0x00 else 0xFF

/-- The byte at an address. -/
def Memory.get : Memory → Nat → Byte
  | [], a => Memory.blank a
  | (k, v) :: m, a => if a < k then Memory.blank a else if a = k then v else Memory.get m a

/-- The memory with a byte written, in canonical form: addresses rising, no entry equal to what an
unlisted address reads as. -/
def Memory.set : Memory → Nat → Byte → Memory
  | [], a, v => if v = Memory.blank a then [] else [(a, v)]
  | (k, w) :: m, a, v =>
    if a < k then (if v = Memory.blank a then (k, w) :: m else (a, v) :: (k, w) :: m)
    else if a = k then (if v = Memory.blank a then m else (a, v) :: m)
    else (k, w) :: Memory.set m a v

/-- The canonical form: addresses strictly rising, every entry inside RAM or NV and different from
what its address reads as unlisted. -/
def Memory.wf : Memory → Bool
  | [] => true
  | (k, v) :: m =>
    (memKind k).isSome && v ≠ Memory.blank k && (m.head?.all fun c => k < c.1) && Memory.wf m

/-- The word at an even address, its high byte at that address (log 3). -/
def Memory.word (m : Memory) (a : Nat) : Word := Word.ofBytes (m.get a) (m.get (a + 1))

/-- The memory with a word written in the given lanes. The part keeps nothing at an address it does
not decode (R2). -/
def Memory.store (m : Memory) (a : Nat) (w : Word) (lanes : Lanes) : Memory :=
  if (memKind a).isSome ∧ (memKind (a + 1)).isSome then
    match lanes with
    | .both => (m.set a w.hi).set (a + 1) w.lo
    | .high => m.set a w.hi
    | .low => m.set (a + 1) w.lo
  else m

/-- Words written in order. -/
def Memory.storeAll (m : Memory) : List (Nat × Word) → Memory
  | [] => m
  | (a, w) :: rest => (m.store a w .both).storeAll rest

/-- `n` words read from an even address upward. -/
def Memory.words (m : Memory) (a : Nat) : Nat → List Word
  | 0 => []
  | n + 1 => m.word a :: m.words (a + 2) n

/-- What is left of memory once the supply has fallen: NV alone (95, POWER_LOST). -/
def Memory.nonvolatile (m : Memory) : Memory := m.filter fun c => 0x80000 ≤ c.1

/-- A block's own write of one word (R16: not classed). -/
def storeWord (a : Nat) (w : Word) (s : State) : State := { s with mem := s.mem.store a w .both }

/-- Words at rising addresses from `a`, as (address, word) pairs. -/
def placed (a : Nat) : List Word → List (Nat × Word)
  | [] => []
  | w :: ws => (a, w) :: placed (a + 2) ws

/-! ### The CRC-16 (R71), on numbers below 65536 -/

/-- One shift of the register. -/
def crcShift (r : Nat) : Nat := if 32768 ≤ r then (r * 2 % 65536) ^^^ 0x1021 else r * 2

/-- One byte taken into the register: exclusive-or into the top eight bits, then eight shifts. -/
def crcByte (r b : Nat) : Nat := Nat.repeat crcShift 8 (r ^^^ (b * 256))

/-- One word taken, its high byte first. -/
def crcWord (r : Nat) (w : Word) : Nat := crcByte (crcByte r w.hi.toNat) w.lo.toNat

/-- The CRC-16 over words, from FFFFh. -/
def crc (ws : List Word) : Word := wordOf (ws.foldl crcWord 0xFFFF)

/-- A record: its words followed by their CRC (R45). -/
def withCrc (ws : List Word) : List Word := ws ++ [crc ws]

/-- Whether a record's last word is the CRC over the words before it. -/
def crcGood (ws : List Word) : Bool :=
  match ws.reverse with
  | [] => false
  | c :: rev => c = crc rev.reverse

/-! ### Time (log 4) -/

/-- `d` milliseconds pass. The blocks' own counts run while the power state is RUNNING (R62, R105,
R123, R136, R151, R172); a valid clock's phase (R81), the 2 s of a blocked entry sensor (R47, R62; log 53)
and the spacing of the shock edges (R126, R136) run always. -/
def elapse (d : Nat) (s : State) : State :=
  let s :=
    { s with
      tru.phase := if s.tru.clock.isSome then s.tru.phase + d else s.tru.phase
      cnu.edgeMs := s.cnu.edgeMs + d
      inu.edgeMs := s.inu.edgeMs + d }
  if s.pfu.power = .running then
    { s with
      cnu.ms := s.cnu.ms + d
      rtu.ms := s.rtu.ms + d
      lnu.ms := s.lnu.ms + d
      inu.ms := s.inu.ms + d
      rpu.ms := s.rpu.ms + d
      acu.ms := s.acu.ms + d }
  else s

/-- Seconds of the RTU's count (R85). -/
def rtuNow (s : State) : Nat := s.rtu.ms / 1000

/-- Seconds of the INU's count (R129). -/
def inuNow (s : State) : Nat := s.inu.ms / 1000

/-- Seconds of the RPU's count (R138). -/
def rpuNow (s : State) : Nat := s.rpu.ms / 1000

/-- The calendar date-time of now as a record holds it (R45). -/
def stampNow (s : State) : Stamp := Stamp.ofClock s.tru.clock

/-! ### Conditions every block reads -/

/-- The terminal is STARTING (R28). -/
def starting (s : State) : Bool := s.cfl.step ≠ .done

/-- The power state is RUNNING. -/
def running (s : State) : Bool := s.pfu.power = .running

/-- Hold an event (R62, R105, R123, R136, R172). -/
def hold (h : Held) (s : State) : State := { s with held := s.held ++ [h] }

/-! ### Windows -/

/-- The window that holds an address (R2). -/
def findWindow (table : List Window) (a : Nat) : Option Window :=
  table.find? fun w => w.base ≤ a && a < w.base + w.size

/-- The window of a kind in the table in force. -/
def windowOf (k : WindowKind) (s : State) : Option Window :=
  (s.bpu.table.getD []).find? fun w => w.kind = k

/-- Base of the window of a kind; 0 if there is none. -/
def baseOf (k : WindowKind) (s : State) : Nat := ((windowOf k s).map (·.base)).getD 0

/-- Whether the table in force has a window of a kind: false in config fault for the windows of R26. -/
def hasWindow (k : WindowKind) (s : State) : Bool := (windowOf k s).isSome

/-- Address of slot `i`'s kind word (R8). -/
def slotAddr (s : State) (i : Nat) : Nat := baseOf .request s + 0x40 * i

/-! ### Sums that saturate (R152) -/

/-- Saturating at FFFFFFFFh. -/
def satAdd (a b : Nat) : Nat := min (a + b) 0xFFFFFFFF

/-! ### The request in service (R36, R37) -/

/-- The parameters of the request in service, if it has been handed to its owner, is of this kind and
is not yet answered. -/
def serving (k : Nat) (s : State) : Option (List Word) :=
  match s.rqu.service with
  | some v => if v.phase = .handed ∧ v.kind.toNat = k then some v.params else none
  | none => none

/-- A request's command: its owner judges it if it is the request in service; otherwise there is
nothing to judge (log 13). -/
def onRequest (k : Nat) (f : List Word → State → State) (s : State) : State :=
  match serving k s with
  | some ps => f ps s
  | none => s

/-- The owner answers (R37). -/
def answer (c : ResultCode) (r1 r2 r3 : Word) (s : State) : State :=
  match s.rqu.service with
  | some v =>
    { s with rqu.service := some { v with phase := .answered ⟨wordOf c.code, r1, r2, r3⟩ 0 } }
  | none => s

/-- The owner answers with result words 0 (R39). -/
def answer0 (c : ResultCode) (s : State) : State := answer c 0 0 0 s

/-- The owner accepts a request it answers later (R38). -/
def holdRequest (s : State) : State :=
  match s.rqu.service with
  | some v => { s with rqu.service := some { v with phase := .held } }
  | none => s

/-- Answer a request of this kind that its owner accepted earlier (R38). -/
def answerHeld (k : Nat) (c : ResultCode) (r1 r2 r3 : Word) (s : State) : State :=
  match s.rqu.service with
  | some v => if v.phase = .held ∧ v.kind.toNat = k then answer c r1 r2 r3 s else s
  | none => s

end Sys2Proof.Machine
end

