-- ==== Sys2Proof/Machine/LineOps.lean ====
section
/-! DEFINITION. The line interface's shared operations: change of line state, relay and clear guard,
tone sending (R106 to R108, R112, R119). -/

namespace Sys2Proof.Machine

/-- The six report states (7.2). -/
def LineState.isReport : LineState → Bool
  | .reportSeizing | .reportDialling | .reportAwaitAnswer | .reportSending | .reportAwaitAck
  | .reportClearing => true
  | _ => false

/-- The states in which a call may be ended (R114). -/
def LineState.isEndable : LineState → Bool
  | .seizing | .dialling | .awaitAnswer | .connected | .grace => true
  | _ => false

/-- The states with the relay open, no call open and the line not DOWN, in which absent voltage is a
fault (R119). -/
def LineState.watchesVoltage : LineState → Bool
  | .idle | .ready | .parked | .followOn => true
  | _ => false

/-- The states in which tones are sent (R112). -/
def LineState.sends : LineState → Bool
  | .dialling | .connected | .grace | .reportDialling | .reportSending => true
  | _ => false

/-- The line state changes: LINE is raised; the ready timer and the quiet count start on entry to
READY and IDLE and stop on leaving (R108); the voltage watch of the new state runs (R119). A voltage
already absent on entry from a state that does not watch it counts its 5 s from the entry (DESIGN
CHOICE, log 45). -/
def setLine (st : LineState) (s : State) : State :=
  if s.lnu.state = st then s
  else
    let now := s.lnu.ms
    raise .line
      { s with
        lnu.state := st
        lnu.quiet := false
        lnu.timers.ready :=
          if st = .ready then some (now + s.cfl.params.readyTimeout * 1000) else none
        lnu.timers.quiet := if st = .idle then some (now + 30000) else none
        lnu.timers.absent :=
          if st.watchesVoltage && !s.lnu.voltage then some (s.lnu.timers.absent.getD (now + 5000))
          else none
        lnu.timers.present := if st = .down && s.lnu.voltage then some (now + 5000) else none }

/-- The relay is commanded open; the point is kept for the clear guard (R107). -/
def openRelay (s : State) : State :=
  if s.lnu.relay then { s with lnu.relay := false, lnu.relayOpened := some s.lnu.ms } else s

/-- The relay of a seizure closes and the 1 s loop timer starts (R107, R111). -/
def closeRelay (s : State) : State :=
  { s with
    lnu.relay := true
    lnu.timers.guard := none
    lnu.timers.loop := some (s.lnu.ms + 1000) }

/-- Whether 1 s has passed since the relay last opened (R107). -/
def guardPassed (s : State) : Bool :=
  match s.lnu.relayOpened with
  | some p => p + 1000 ≤ s.lnu.ms
  | none => true

/-- Entry to SEIZING or REPORT_SEIZING: the relay closes as the clear guard allows (R107, R111). -/
def beginSeizure (st : LineState) (s : State) : State :=
  let s := setLine st { s with lnu.loopSeen := false }
  if guardPassed s then closeRelay s
  else { s with lnu.timers.guard := some (s.lnu.relayOpened.getD 0 + 1000) }

/-- The timers and tone sending of a call stop, and the dial digit buffer is emptied (R114, R121). -/
def stopCall (s : State) : State :=
  { s with
    lnu.buffer := []
    lnu.tone := none
    lnu.timers.guard := none
    lnu.timers.loop := none
    lnu.timers.dialDelay := none
    lnu.timers.answer := none
    lnu.timers.loss := none
    lnu.timers.reportAnswer := none
    lnu.timers.sendDelay := none
    lnu.timers.reportClearing := none }

/-- The head digit's tone starts, with the tone-on and tone-off times then in force (R112). -/
def startTone (s : State) : State :=
  if s.lnu.buffer = [] then { s with lnu.tone := none }
  else
    { s with
      lnu.tone := some ⟨true, s.lnu.ms + s.cfl.params.toneOn, s.cfl.params.toneOff⟩ }

/-- REPORT_CLEARING is entered: the relay opens and its 1 s starts (R120). -/
def clearReport (s : State) : State :=
  let s := openRelay (stopCall s)
  let s := setLine .reportClearing s
  { s with lnu.timers.reportClearing := some (s.lnu.ms + 1000) }

end Sys2Proof.Machine
end

