-- ==== Sys2Proof/Machine/Clock.lean ====
section
/-! DEFINITION. The calendar clock's arithmetic and band lookup (R81, R82), and its setting (R83, R84). -/

namespace Sys2Proof.Machine

/-- Within the clock's range a year is a leap year when it is divisible by 4 (R81); `y` is year − 2000. -/
def isLeap (y : Nat) : Bool := y % 4 = 0

/-- The days of a month (R81). -/
def monthLength (y m : Nat) : Nat :=
  match m with
  | 2 => if isLeap y then 29 else 28
  | 4 => 30
  | 6 => 30
  | 9 => 30
  | 11 => 30
  | _ => 31

/-- The date advances by one day; after 31 December 2099 comes 1 January 2000 (R81). -/
def Cal.nextDay (c : Cal) : Cal :=
  if c.day < monthLength c.year c.month then { c with day := c.day + 1 }
  else if c.month < 12 then { c with month := c.month + 1, day := 1 }
  else { c with year := (c.year + 1) % 100, month := 1, day := 1 }

/-- One second on (R81). -/
def Cal.tick (c : Cal) : Cal :=
  if c.second < 59 then { c with second := c.second + 1 }
  else if c.minute < 59 then { c with minute := c.minute + 1, second := 0 }
  else if c.hour < 23 then { c with hour := c.hour + 1, minute := 0, second := 0 }
  else { c.nextDay with hour := 0, minute := 0, second := 0 }

/-- The minute of day (R82). -/
def Cal.minuteOfDay (c : Cal) : Nat := c.hour * 60 + c.minute

/-- The second of day, 0 to 86399 (R14). -/
def Cal.secondOfDay (c : Cal) : Nat := c.minuteOfDay * 60 + c.second

/-- The date-time `n` minutes later. -/
def Cal.addMinutes (c : Cal) (n : Nat) : Cal :=
  let t := c.minuteOfDay + n
  { Nat.repeat Cal.nextDay (t / 1440) c with hour := t % 1440 / 60, minute := t % 60 }

/-- The calendar date-time `n` minutes from now as a record holds it; zeros while the clock is invalid
(R130). -/
def stampAfter (n : Nat) (s : State) : Stamp := Stamp.ofClock (s.tru.clock.map (·.addMinutes n))

/-- The days from 1 January 2000 to the date (R82). -/
def Cal.dayNumber (c : Cal) : Nat :=
  ((List.range c.year).map fun y => if isLeap y then 366 else 365).sum +
  ((List.range (c.month - 1)).map fun m => monthLength c.year (m + 1)).sum + (c.day - 1)

/-- The schedule of a date's day type: SUNDAY on a listed holiday, otherwise by the weekday, which is
the day number's remainder on division by 7, 0 for Saturday and 1 for Sunday (R82). -/
def Calendar.scheduleOf (k : Calendar) (c : Cal) : List SwitchPoint :=
  if k.holidays.contains (c.month, c.day) then k.sunday
  else
    match c.dayNumber % 7 with
    | 0 => k.saturday
    | 1 => k.sunday
    | _ => k.weekday

/-- The band of the switch point whose minute is the greatest not after the given one (R82); no band where
a schedule that no check has judged has no such point (DESIGN CHOICE, log 32). -/
def bandAt (points : List SwitchPoint) (minute : Nat) : Option Nat :=
  (points.filter fun p => p.minute ≤ minute).foldl
    (fun best p =>
      match best with
      | some b => if b.minute ≤ p.minute then some p else some b
      | none => some p)
    (none : Option SwitchPoint) |>.map (·.band)

/-- Band lookup: no band while the clock is invalid or the settled calendar is empty (R82). -/
def bandLookup (s : State) : Option Nat :=
  match s.tru.clock, s.tru.calendar with
  | some c, some k => bandAt (k.scheduleOf c) c.minuteOfDay
  | _, _ => none

/-- A date and time in the ranges of R83, the year taken as year − 2000. -/
def calOf (year month day hour minute second : Nat) : Option Cal :=
  if year ≤ 99 ∧ 1 ≤ month ∧ month ≤ 12 ∧ 1 ≤ day ∧ day ≤ monthLength year month ∧ hour ≤ 23 ∧
      minute ≤ 59 ∧ second ≤ 59 then
    some ⟨year, month, day, hour, minute, second⟩
  else none

/-- The clock is set: a new second phase starts, the flag is set, CLOCK is raised (R83). -/
def setCalendarClock (c : Cal) (s : State) : State :=
  raise .clock { s with tru.clock := some c, tru.phase := 0 }

/-- The twelve time digits of an acknowledgement: the clock is set if they are in range and left
untouched otherwise (R84). -/
def setClockFromDigits (ds : List Nat) (s : State) : State :=
  let two (i : Nat) : Nat := ds.getD (2 * i) 0 * 10 + ds.getD (2 * i + 1) 0
  match calOf (two 0) (two 1) (two 2) (two 3) (two 4) (two 5) with
  | some c => setCalendarClock c s
  | none => s

/-- CLOCK_SECOND (R81): the second in phase ends, and a valid clock advances one second. The phase in
hand is run to its end first (log 4). -/
def execClockSecond (s : State) : Out :=
  onPower s fun s =>
    match s.tru.clock with
    | none => s
    | some c =>
      let s := elapse (1000 - s.tru.phase) s
      { s with tru.clock := some c.tick, tru.phase := s.tru.phase - 1000 }

/-- SET_CLOCK (R83). -/
def setClockRequest (ps : List Word) (s : State) : State :=
  if s.acu.mode ≠ .service ∧ s.tru.clock.isSome then answer0 .refusedMode s
  else if !running s then answer0 .refusedState s
  else
    let p := param ps
    match if 2000 ≤ p 1 then calOf (p 1 - 2000) (p 2) (p 3) (p 4) (p 5) (p 6) else none with
    | some c => answer0 .ok (setCalendarClock c s)
    | none => answer0 .badParam s

def execSetClock (s : State) : Out := onPower s (onRequest kindSetClock setClockRequest)

end Sys2Proof.Machine
end

