-- ==== Sys2Proof/Machine/Analysis.lean ====
section
/-! DEFINITION. The tariff area (R68 to R70) and the analysis of a number over it (R67, R79, R80). The
area is read as a function from a word's place in the window to its value. -/

namespace Sys2Proof.Machine

/-! ### The parts of the area (R68 to R70), in words from the window base -/

abbrev Area := Nat → Nat

def entryAt (i : Nat) : Nat := 4 + 5 * i
def rowAt (c : Nat) : Nat := 1284 + 10 * c
def scheduleAt (j : Nat) : Nat := 1604 + 17 * j
def holidayAt (i : Nat) : Nat := 1655 + i

/-- The area as memory holds it now. -/
def liveArea (base : Nat) (m : Memory) : Area := fun i => (m.word (base + 2 * i)).toNat

/-- The area as the words of a check or comparison hold it. -/
def readArea (ws : List Word) : Area := fun i => (ws.getD i 0).toNat

/-- A prefix entry (R69). -/
structure Prefix where
  length : Nat
  digits : List Nat
  cls : Nat
  barred : Nat
  minimum : Nat
  maximum : Nat
  deriving DecidableEq, Repr

/-- Entry `i` of the prefix table (R69). -/
def prefixOf (w : Area) (i : Nat) : Prefix :=
  let e := entryAt i
  let n := w (e + 2) / 256
  { length := n
    digits := (List.range (min n 8)).map fun k => w (e + k / 4) / 16 ^ (3 - k % 4) % 16
    cls := w (e + 2) % 256
    barred := w (e + 3)
    minimum := w (e + 4) / 256
    maximum := w (e + 4) % 256 }

/-- Class row `c` with the surcharge P of the header (R70, R79 step 7). -/
def rowOf (w : Area) (c : Nat) : Row :=
  let r := rowAt c
  { setup := w (r + 1)
    b0 := ⟨w (r + 2), w (r + 3)⟩
    b1 := ⟨w (r + 4), w (r + 5)⟩
    b2 := ⟨w (r + 6), w (r + 7)⟩
    b3 := ⟨w (r + 8), w (r + 9)⟩
    surcharge := w 0 }

/-! ### Number analysis (R67, R79, R80) -/

/-- An exact match with a listed emergency number (R67). -/
def isEmergency (digits : List Nat) (s : State) : Bool := s.cfl.params.emergency.contains digits

/-- The form of a dialled number (R79 step 1, R109 step 3): the digits of parameter words `from` on,
if the count and each digit are in range. -/
def digitsOf (count most first : Nat) (ps : List Word) : Option (List Nat) :=
  if 1 ≤ count ∧ count ≤ most then
    let ds := (List.range count).map fun i => param ps (first + i)
    if ds.all isDialDigit then some ds else none
  else none

/-- An entry matches a number: a prefix of 1 to 8 digits 0 to 9 that the number begins with; * and #
equal no prefix digit (R80). -/
def Prefix.matches (p : Prefix) (number : List Nat) : Bool :=
  1 ≤ p.length && p.length ≤ 8 && (p.digits.all fun d => d ≤ 9) && p.digits.isPrefixOf number

/-- The entry that matches a number with the greatest prefix length, among those in force (R80). In an
area that no check has judged at most 256 entries are in force, and of equal prefixes the first counts
(DESIGN CHOICE, log 32). -/
def matchedEntry (w : Area) (number : List Nat) : Option Prefix :=
  ((List.range (min (w 1) 256)).map (prefixOf w)).foldl
    (fun best p =>
      if p.matches number then
        match best with
        | some b => if b.length < p.length then some p else best
        | none => some p
      else best)
    none

/-- Steps 4 to 7 over an area: the route, its barring, its lengths and its class (R79). -/
def routeNumber (w : Area) (number : List Nat) : Analysis :=
  match matchedEntry w number with
  | none => .refused .noRoute
  | some p =>
    if p.barred = 1 then .refused .barred
    else if number.length < p.minimum then .refused .tooShort
    else if p.maximum < number.length then .refused .tooLong
    else .route p.cls false (if p.cls = 0 then none else some (rowOf w p.cls))

/-- The tariff flags as step 3 reads them (R79). Step 3 is taken with the analysis's first word, at its
grant or at DIAL: once that word has been read the flags are no longer asked (DESIGN CHOICE, log 22). -/
def tariffLetsThrough (s : State) : Bool :=
  s.tru.analysed ≠ 0 || (!s.tru.unsettled && s.tru.valid)

/-- The analysis of a number (R79). Once its last word has been read its outcome stands; until then a word
that passes into the TARIFF window after step 3 makes it TARIFF_UNSETTLED. Of an analysis whose words are
still to be read the words left are read here, all as memory holds them (log 22). -/
def analyse (number : List Nat) (s : State) : Analysis :=
  if isEmergency number s then .route 0 true none
  else
    match s.tru.outcome with
    | some a => a
    | none =>
      if !tariffLetsThrough s then .refused (if s.tru.unsettled then .tariffUnsettled else .paidBarred)
      else if s.tru.edited then .refused .tariffUnsettled
      else routeNumber (liveArea (baseOf .tariff s) s.mem) number

/-! ### The words an analysis reads (R16, R79) -/

/-- The number of the DIAL in service whose analysis goes on to step 4 of R79 as things stand, or has words
left to read: it reads the TARIFF window. -/
def numberInHand (s : State) : Option (List Nat) :=
  match serving kindDial s with
  | some ps =>
    let judged : Bool :=
      running s && (s.lnu.state = .ready || s.lnu.state = .followOn) && !outOfOrder s &&
      tariffLetsThrough s && !s.tru.edited && s.tru.outcome.isNone
    if judged then (digitsOf (param ps 1) 20 2 ps).filter fun number => !isEmergency number s else none
  | none => none

/-- How many words the analysis of a number reads: the header, the entries in force, and the row of a
charged class (R79 steps 4 and 7). R80 leaves open which entries are read; the model reads all
(DESIGN CHOICE, log 22). -/
def analysisSize (number : List Nat) (s : State) : Nat :=
  let w := liveArea (baseOf .tariff s) s.mem
  let row := match routeNumber w number with | .route _ _ (some _) => 10 | _ => 0
  4 + 5 * min (w 1) 256 + row

/-- Words of the analysis in hand are still to be read (R79). -/
def analysisReads (s : State) : Bool :=
  (numberInHand s).any fun number => decide (s.tru.analysed < analysisSize number s)

/-- One word of the analysis in hand is read; with its last word it has its outcome (R79). The words are
counted and not kept, since none of them changes while they are read: a controller word that passes into
the window makes the outcome TARIFF_UNSETTLED, and the part itself writes the check word alone there. -/
def readAnalysisWord (s : State) : State :=
  let n := s.tru.analysed + 1
  { s with
    tru.analysed := n
    tru.outcome :=
      (numberInHand s).bind fun number =>
        if analysisSize number s ≤ n then
          some (routeNumber (liveArea (baseOf .tariff s) s.mem) number)
        else none }

/-- A slot is taken: no analysis of its number has begun (R36, R79). -/
def freshAnalysis (s : State) : State :=
  { s with tru.edited := false, tru.analysed := 0, tru.outcome := none }

end Sys2Proof.Machine
end

