-- ==== Sys2Proof/Machine/PortOrder.lean ====
section
/-! DEFINITION. Who waits for the memory port and in which order the waiting are granted (R16). The words
each party still asks for are read off its own state. -/

namespace Sys2Proof.Machine

/-- The six parties of the port. -/
inductive Party where
  | controller | pfu | adu | tru | rqu | cfl
  deriving DecidableEq, Repr

/-- The grant order of a power state (R16). -/
def grantOrder : PowerState → List Party
  | .saving => [.pfu, .controller, .adu, .tru, .rqu, .cfl]
  | _ => [.controller, .pfu, .adu, .tru, .rqu, .cfl]

/-! ### What each party asks for -/

/-- Where the word 0000h stands that the PFU writes over the validity word, if one is in hand; in STARTING
only while the power state is RUNNING (R175, R177, R31). -/
def invalidStage (s : State) : Option WordStage :=
  match s.pfu.unsave, s.pfu.step5 with
  | some u, _ => some u.stage
  | none, .invalidate stage => if running s then some stage else none
  | none, _ => none

/-- The PFU writes its word over the validity word, or reads it back: 0000h, or A1E7h once more, which is
not read back (R161, R175, R177). -/
def invalidWaits (s : State) : Bool :=
  s.pfu.again || (invalidStage s).any fun stage => stage ≠ .compare

/-- The writer may go on with its word: in RUNNING, or if the word has begun (R165). -/
def wordMayGoOn (r : Run) (s : State) : Bool := running s || r.stage ≠ .write || r.tries ≠ 0

/-- The writer has a word to write or to read back (R161). -/
def writerWaits (s : State) : Bool :=
  s.adu.run.any fun r => r.todo ≠ [] && r.stage ≠ .compare && wordMayGoOn r s

/-- The words a check reads: from the base up to the word before the check word (R73). -/
def checkedWords (s : State) : Nat := ((windowOf .tariff s).map (·.size)).getD 0 / 2 - 1

/-- Words of the running check are still to be read (R73). -/
def checkReads (s : State) : Bool :=
  s.tru.check.any fun k => !k.writing && decide (k.rev.length < k.size)

/-- Words of the power-on comparison, the check word last, are still to be read (R78); in STARTING only
while the power state is RUNNING (R31). -/
def compareReads (s : State) : Bool :=
  running s && s.tru.compare.any fun rev => decide (rev.length < checkedWords s + 1)

/-- The words of the context that step 5 reads: the block with its CRC, and the validity word (R176). -/
def contextSize : Nat := 100

/-- Words of the context are still to be read: step 4 has read its last word, so that the next step's first
word waits (R31, R176; log 15). In config fault none is read (R26). -/
def contextReads (s : State) : Bool :=
  decide (s.cfl.step = .tariff) && s.cfl.fault.isNone && running s && !compareReads s &&
  decide (s.pfu.contextRead < contextSize)

/-- The words that step 3 of the start-up reads for the first time: the tally area with its check word, the
remap table, the call log and the incident log (R153, R160, R164, R137). -/
def loadSize : Nat := 49 + 8 * 4 + 256 * 32 + 64 * 16

/-- Words of step 3 of the start-up are still to be read (R31; log 15). In config fault none is read
(R26). -/
def loadReads (s : State) : Bool :=
  decide (s.cfl.step = .audit) && s.cfl.fault.isNone && running s &&
  (decide (s.adu.loaded < loadSize) || decide (s.adu.rereading ≠ 0))

/-- The words of a completion, in their order (R37). -/
def completionWords (v : Service) (a : Answer) (base : Nat) : List (Nat × Word) :=
  [(base + 6, a.r1), (base + 8, a.r2), (base + 10, a.r3), (base + 4, a.code), (base + 2, v.seq),
   (base, 0)]

/-- The words of an abandoning, in their order (R40). -/
def abandonWords (base : Nat) : List (Nat × Word) :=
  [(base + 6, 0), (base + 8, 0), (base + 10, 0), (base + 4, wordOf ResultCode.abandoned.code),
   (base, 0)]

/-- The completion words of the request in service still to be written. -/
def completionLeft (s : State) : List (Nat × Word) :=
  match s.rqu.service with
  | some v =>
    match v.phase with
    | .answered a n => (completionWords v a (slotAddr s v.slot)).drop n
    | _ => []
  | none => []

/-- The abandoning words of the slot in hand still to be written. -/
def abandonLeft (s : State) : List (Nat × Word) :=
  match s.rqu.abandon with
  | b :: _ => (abandonWords (slotAddr s b.slot)).drop b.written
  | [] => []

/-- The head of the queue is to be judged in STARTING, its kind word not yet read (R29). -/
def headUnread (s : State) : Bool :=
  starting s && s.rqu.unread && s.rqu.service.isNone && s.rqu.queue ≠ []

/-- Words of the slot of the request in service are still to be read (R36). -/
def Service.reads (v : Service) : Bool :=
  match v.phase with
  | .seqWord _ => true
  | .paramWords => true
  | _ => false

/-- The RQU reads the words of a slot: of the one in service, or, with none in service and the terminal not
STARTING, the kind word of the head it takes (R36). -/
def slotReads (s : State) : Bool :=
  match s.rqu.service with
  | some v => v.reads
  | none => !starting s && s.rqu.queue ≠ []

/-- A tuple is skipped: an odd address, one outside RAM, or one in a window that is neither PLAIN nor
REQUEST (R27). -/
def preloadSkipped (a : Nat) (s : State) : Bool :=
  decide (a % 2 ≠ 0) || decide (0x40000 ≤ a) ||
  (findWindow (s.bpu.table.getD []) a).any fun w => w.kind ≠ .plain && w.kind ≠ .request

/-- The preload tuples left, those to be skipped at their head dropped. -/
def preloadHead (s : State) : List (Nat × Word) :=
  (s.cfl.preload.getD []).dropWhile fun t => preloadSkipped t.1 s

/-- The CFL's steps go on: in STARTING only while the power state is RUNNING (R31). -/
def cflGoesOn (s : State) : Bool := s.cfl.reloading || running s

/-- A party has a word request waiting (R16). -/
def waits (p : Party) (s : State) : Bool :=
  match p with
  | .controller => s.bpu.cycle.any fun c => c.route.isSome
  | .pfu => (s.pfu.power = .saving && s.pfu.save ≠ []) || invalidWaits s || contextReads s
  | .adu => writerWaits s || loadReads s
  | .tru => checkReads s || compareReads s || analysisReads s
  | .rqu => completionLeft s ≠ [] || abandonLeft s ≠ [] || headUnread s || slotReads s
  | .cfl => cflGoesOn s && ((s.cfl.walk.any fun k => k.stage ≠ .ended) || preloadHead s ≠ [])

/-! ### Who is granted -/

/-- The party granted next (R16). -/
def winner (s : State) : Option Party := (grantOrder s.pfu.power).find? fun p => waits p s

/-- The port comes to a party: none that stands before it in the order has a word waiting (R16). The
commands that end multi-word work do what words are left only then (log 4). -/
def portReaches (p : Party) (s : State) : Bool :=
  ((grantOrder s.pfu.power).takeWhile (· ≠ p)).all fun q => !waits q s

end Sys2Proof.Machine
end

