-- ==== Sys2Proof/Machine/Tally.lean ====
section
/-! DEFINITION. The tally cache (R152, R154, R46) and the job queue of the ADU writer (R155): the shared
operations; the writer's own commands stand in Audit.lean. -/

namespace Sys2Proof.Machine

/-! ### The cache -/

/-- A movement taken into the cache, whole (R152). A change sets the dirty flag (R154). -/
def moveTally (f : Tallies → Tallies) (s : State) : State :=
  { s with
    adu.cache := f s.adu.cache
    adu.dirty := s.adu.dirty || decide (f s.adu.cache ≠ s.adu.cache) }

/-- CREDITED_VALUE and ESCROW_BALANCE grow by a coin's value (R50). -/
def Tallies.credit (v : Nat) (t : Tallies) : Tallies :=
  { t with credited := satAdd t.credited v, escrow := satAdd t.escrow v }

/-- COINS_COLLECTED of a denomination grows by 1; a foreign coin (code 0) has none (R58). -/
def Tallies.countCoin (denom : Nat) (t : Tallies) : Tallies :=
  match denom with
  | 1 => { t with coins1 := satAdd t.coins1 1 }
  | 2 => { t with coins2 := satAdd t.coins2 1 }
  | 3 => { t with coins3 := satAdd t.coins3 1 }
  | 4 => { t with coins4 := satAdd t.coins4 1 }
  | 5 => { t with coins5 := satAdd t.coins5 1 }
  | 6 => { t with coins6 := satAdd t.coins6 1 }
  | _ => t

/-- The movements of a drop completed in a direction (R58). ESCROW_BALANCE stops at 0 where tallies loaded
from a damaged area hold less than the drop's value (R152, R177; DESIGN CHOICE, log 56). -/
def Tallies.drop (dir : Dir) (denom value : Nat) (t : Tallies) : Tallies :=
  match dir with
  | .collect =>
    Tallies.countCoin denom
      { t with
        collected := satAdd t.collected value
        boxValue := satAdd t.boxValue value
        boxCoins := satAdd t.boxCoins 1
        escrow := t.escrow - value }
  | .ret => { t with returned := satAdd t.returned value, escrow := t.escrow - value }

/-- The tally area's 48 words from 00h to 5Eh (R46). -/
def tallyWords (t : Tallies) : List Word :=
  ([t.credited, t.collected, t.returned, t.consumed, t.excess, t.escrow, t.boxValue, t.boxCoins,
    t.coins1, t.coins2, t.coins3, t.coins4, t.coins5, t.coins6, t.paidAnswered, t.free, t.unanswered,
    t.unlogged, t.collectedThrough].flatMap words32) ++
  (t.attrs.toList.flatMap fun a => [wordOf a.total, wordOf (bitIf a.armed 15 + a.level % 256)])

/-- The cache as loaded from the 48 words (R153); bits of an attribute word that hold neither the
armed flag nor the level are ignored. -/
def talliesOf (ws : List Word) : Tallies :=
  let w (i : Nat) : Word := ws.getD i 0
  let v (i : Nat) : Nat := value32 (w (2 * i)) (w (2 * i + 1))
  let a (i : Nat) : CacheAttr :=
    ⟨(w (38 + 2 * i)).toNat, (w (39 + 2 * i)).toNat % 256, 32768 ≤ (w (39 + 2 * i)).toNat⟩
  { credited := v 0, collected := v 1, returned := v 2, consumed := v 3, excess := v 4, escrow := v 5,
    boxValue := v 6, boxCoins := v 7, coins1 := v 8, coins2 := v 9, coins3 := v 10, coins4 := v 11,
    coins5 := v 12, coins6 := v 13, paidAnswered := v 14, free := v 15, unanswered := v 16,
    unlogged := v 17, collectedThrough := v 18, attrs := ⟨a 0, a 1, a 2, a 3, a 4⟩ }

/-- The INU hands an attribute's values to the cache (R127). -/
def handAttr (a : AttrId) (s : State) : State :=
  let v := s.inu.attrs.get a
  moveTally (fun t => { t with attrs := t.attrs.set a ⟨v.total, v.level, v.armed⟩ }) s

/-! ### Jobs (R155) -/

/-- Whether a job is a write-back. -/
def Job.isWriteBack : Job → Bool
  | .writeBack _ _ => true
  | _ => false

/-- A write-back waits, not started. -/
def writeBackWaiting (s : State) : Bool := s.adu.jobs.any Job.isWriteBack

/-- A write-back is the job in hand. -/
def writeBackRunning (s : State) : Bool := (s.adu.run.map (·.job.isWriteBack)).getD false

/-- Mark the waiting write-back as awaited. -/
def markWriteBack (flush deferred : Bool) : List Job → List Job
  | [] => []
  | .writeBack f d :: js => .writeBack (f || flush) (d || deferred) :: js
  | j :: js => j :: markWriteBack flush deferred js

/-- Queue a write-back, merged into a waiting one (R155, R156). -/
def queueWriteBack (flush deferred : Bool) (s : State) : State :=
  if writeBackWaiting s then { s with adu.jobs := markWriteBack flush deferred s.adu.jobs }
  else { s with adu.jobs := s.adu.jobs ++ [.writeBack flush deferred] }

/-- A write-back trigger other than FLUSH: a waiting write-back takes it, a running one queues its
own successor if the dirty flag is then set (R154), and a clear dirty flag makes no job (R155). -/
def triggerWriteBack (s : State) : State :=
  if writeBackWaiting s || writeBackRunning s || !s.adu.dirty then s
  else { s with adu.jobs := s.adu.jobs ++ [.writeBack false false] }

/-- Whether a job is a record write for this slot. -/
def Job.isRecordOf (log : LogId) (slot : Nat) : Job → Bool
  | .record l k _ => l = log && k = slot
  | _ => false

/-- A record write joins the queue, replacing a waiting one for its slot (R155). -/
def queueRecord (log : LogId) (slot : Nat) (ws : List Word) (s : State) : State :=
  if s.adu.jobs.any (Job.isRecordOf log slot) then
    { s with
      adu.jobs := s.adu.jobs.map fun j => if j.isRecordOf log slot then .record log slot ws else j }
  else { s with adu.jobs := s.adu.jobs ++ [.record log slot ws] }

/-- The TRU hands the writer its check word (R74). -/
def queueCheckWord (w : Word) (s : State) : State :=
  { s with adu.jobs := s.adu.jobs ++ [.checkWord w] }

/-- The words the job in hand still has to write reach memory, each verified (log 4). -/
def finishRun (s : State) : State :=
  match s.adu.run with
  | some r => { s with mem := s.mem.storeAll r.todo, adu.run := some { r with todo := [] } }
  | none => s

/-- Whether the job in hand may be brought to its end now: while the power state is not RUNNING no new
word of it starts (R165), and words left wait until the port comes to the ADU (R16; log 4). -/
def runMayEnd (s : State) (r : Run) : Bool := (running s && portReaches .adu s) || r.todo = []

/-! ### The uncollected count (R157) -/

/-- The next call sequence less 1 less LOG_COLLECTED_THROUGH, as 32-bit values. -/
def uncollectedOf (next through : Nat) : Nat := (next + 0x1FFFFFFFF - through) % 0x100000000

def uncollected (s : State) : Nat := uncollectedOf s.adu.nextCall s.adu.cache.collectedThrough

/-- The next call sequence as the owner of coins credited before a DIAL (R52): it carries no mark. -/
def nextOwner (s : State) : Owner := ⟨s.adu.nextCall, false⟩

end Sys2Proof.Machine
end

