-- ==== Sys2Proof/Machine/Records.lean ====
section
/-! DEFINITION. The incident index and the report queue (R129, R131, R132): the INU's records, their
words, and the four exchanges with the RPU. -/

namespace Sys2Proof.Machine

/-- The 16 words of an incident record with its CRC (3.6, incident record). -/
def incidentWords (r : IncRec) : List Word :=
  withCrc
    ([wordOf r.seq, bytePair r.kind.code r.kind.severity, bytePair r.detail r.count,
      bytePair r.attempts (r.state.code + bitIf r.cleared 4)] ++
     r.first.words ++ r.last.words ++ r.nextAttempt.words ++
     (match r.snapshot with | some v => words32 v | none => absent32))

/-- A record's write is handed to the ADU's writer; with no INCIDENT_LOG window none is (R129, R130). -/
def rewrite (r : IncRec) (s : State) : State :=
  if hasWindow .incidentLog s then queueRecord .incident r.slot (incidentWords r) s else s

/-- A changed record takes its place in the index and is handed for rewriting (R129). -/
def putRecord (r : IncRec) (s : State) : State :=
  rewrite r
    { s with inu.records := s.inu.records.map fun x => if x.slot = r.slot then r else x }

/-- The PENDING record of a kind (R130). Of two that a loaded log holds the oldest (DESIGN CHOICE, log
46). -/
def pendingOf (k : IncKind) (s : State) : Option IncRec :=
  s.inu.records.find? fun r => r.kind = k && r.state = .pending

/-- The report queue: PENDING records, gravest first, oldest first within a severity (R132). -/
def reportQueue (s : State) : List IncRec :=
  let pending := s.inu.records.filter fun r => r.state = .pending
  (pending.filter fun r => r.kind.severity = 3) ++ (pending.filter fun r => r.kind.severity = 2) ++
  (pending.filter fun r => r.kind.severity = 1)

/-- A record is due when its due point has been reached (R132). -/
def isDue (s : State) (r : IncRec) : Bool := r.due ≤ inuNow s

/-- The lowest-numbered free slot of the index (R131). -/
def freeSlot (records : List IncRec) : Option Nat :=
  (List.range 64).find? fun i => records.all fun r => r.slot ≠ i

/-- The slot a new record takes: the lowest free one, else that of the oldest REPORTED record (R131). -/
def slotForNew (records : List IncRec) : Option Nat :=
  match freeSlot records with
  | some i => some i
  | none => (records.find? fun r => r.state = .reported).map (·.slot)

/-- Carry: a named PENDING record becomes REPORTING (R132). -/
def carryRecord (seq : Nat) (s : State) : State :=
  match s.inu.records.find? fun r => r.seq = seq && r.state = .pending with
  | some r => putRecord { r with state := .reporting } s
  | none => s

/-- Accepted: a carried record becomes REPORTED (R132). -/
def acceptRecord (seq : Nat) (s : State) : State :=
  match s.inu.records.find? fun r => r.seq = seq && r.state = .reporting with
  | some r => putRecord { r with state := .reported } s
  | none => s

/-- A carried record returns to PENDING, changed by `f`, and absorbs a PENDING record of its kind
created meanwhile, which is rewritten as REPORTED (R132). -/
def returnRecord (f : IncRec → IncRec) (seq : Nat) (s : State) : State :=
  match s.inu.records.find? fun r => r.seq = seq && r.state = .reporting with
  | none => s
  | some r =>
    let back := f { r with state := .pending }
    match pendingOf r.kind s with
    | none => putRecord back s
    | some newer =>
      putRecord { newer with state := .reported }
        (putRecord { back with count := min 255 (back.count + newer.count), last := newer.last } s)

/-- Failed: attempts grow by 1, and the record is due again after the backoff of `backoff` minutes for
its new attempts (R132, R147). -/
def failRecord (backoff : Nat → Nat) (seq : Nat) (s : State) : State :=
  returnRecord
    (fun r =>
      let n := min 255 (r.attempts + 1)
      { r with
        attempts := n
        due := inuNow s + backoff n * 60
        nextAttempt := stampAfter (backoff n) s })
    seq s

/-- Yield: attempts, due point and next-attempt time stay (R132). -/
def yieldRecord (seq : Nat) (s : State) : State := returnRecord id seq s

/-- An exchange over the named records, in their order. -/
def forSeqs (f : Nat → State → State) (seqs : List Nat) (s : State) : State :=
  seqs.foldl (fun s q => f q s) s

/-- The most recent record of a kind in creation order (R131). -/
def latestOf (k : IncKind) (s : State) : Option IncRec :=
  s.inu.records.reverse.find? fun r => r.kind = k

/-- The latch-cleared mark on the most recent record of a kind (R131). -/
def markCleared (k : IncKind) (s : State) : State :=
  match latestOf k s with
  | some r => putRecord { r with cleared := true } s
  | none => s

end Sys2Proof.Machine
end

