-- ==== Sys2Proof/Machine/ReportOps.lean ====
section
/-! DEFINITION. The start of a report call: judging a start and choosing its load (R139 to R141, R120). -/

namespace Sys2Proof.Machine

/-- The backoff table in force: the REPORT descriptor's, or the default (R24). -/
def backoffTable (s : State) : List Nat :=
  match s.cfl.params.report with
  | some r => r.backoff
  | none => [2, 5, 15, 30, 60, 60]

/-- Backoff entry `n`, counted from 1; the sixth from 6 on (R147), in minutes. -/
def backoffEntry (s : State) (n : Nat) : Nat := (backoffTable s).getD (min n 6 - 1) 0

/-- A standing time request of origin CLOCK is withdrawn when the clock is found valid (R139). -/
def withdrawClockRequest (s : State) : State :=
  match s.rpu.timeRequest with
  | some t =>
    if t.origin = .clock ∧ s.tru.clock.isSome then { s with rpu.timeRequest := none } else s
  | none => s

/-- The time request stands and is due (R140). -/
def timeRequestIsDue (s : State) : Bool := s.rpu.timeRequest.any fun t => t.due ≤ rpuNow s

/-- A start is wanted, and never in config fault, also after a reload that has given a REPORT descriptor
(R140, R34). -/
def startWanted (s : State) : Bool :=
  s.cfl.fault.isNone && s.rpu.call.isNone && s.cfl.params.report.isSome && running s &&
  ((reportQueue s).any (isDue s) || timeRequestIsDue s)

/-- The carried set: the due records in queue order, then the others, up to 4 (R141). -/
def carriedSet (s : State) : List IncRec :=
  let q := reportQueue s
  ((q.filter (isDue s)) ++ (q.filter fun r => !isDue s r)).take 4

/-- The granted seizure: the report-call record is filled, the carried records become REPORTING, the
centre number is loaded and the line is seized (R120, R141). -/
def grantReport (s : State) : State :=
  let load := carriedSet s
  let s := forSeqs carryRecord (load.map (·.seq)) s
  let s :=
    { s with
      rpu.call :=
        some
          { carried := load.map fun r => ⟨r.seq, r.kind.severity⟩
            timeRides := s.rpu.timeRequest.isSome
            number := none
            message := []
            toHand := []
            resend := false
            stage := .none
            digits := [] }
      lnu.buffer := ((s.cfl.params.report.map (·.centre)).getD []) }
  beginSeizure .reportSeizing s

/-- The RPU judges a start (R140). Every judging event counts only while the line is quiet, and the
LNU grants a seizure exactly then, in RUNNING (R120), which a wanted start has. -/
def judgeStart (s : State) : State :=
  if s.lnu.quiet then
    let s := withdrawClockRequest s
    if startWanted s then grantReport s else s
  else s

end Sys2Proof.Machine
end

