-- ==== Sys2Proof/Machine/Occur.lean ====
section
/-! DEFINITION. What other blocks hand the INU: occurrences, attribute events and latch-clearing
notices (R125, R127, R130), each held while the INU holds (R136, R137). -/

namespace Sys2Proof.Machine

/-- The INU applies what it is handed once its rebuild has ended, while the power state is RUNNING
(R136, R137). -/
def inuActive (s : State) : Bool := s.inu.rebuilt && running s

/-- The hold of a kind's severity in minutes (R130). -/
def holdMinutes (k : IncKind) (s : State) : Nat :=
  match k.severity with
  | 3 => 0
  | 2 => s.cfl.params.hold2
  | _ => s.cfl.params.hold1

/-- The record of a new occurrence in a slot (R130). Of an occurrence that was held, the moment it arrives
is the one at which the INU applies it (DESIGN CHOICE, log 9). -/
def newRecord (k : IncKind) (detail slot : Nat) (s : State) : IncRec where
  slot := slot
  seq := s.inu.counter
  kind := k
  detail := detail
  count := 1
  state := .pending
  attempts := 0
  cleared := false
  first := stampNow s
  last := stampNow s
  nextAttempt := stampAfter (holdMinutes k s) s
  snapshot := if k.hasSnapshot then some s.adu.cache.boxValue else none
  due := inuNow s + holdMinutes k s * 60

/-- A new record joins the index in a slot (R130, R131), whose old record it replaces. A loaded log may
hold 64 records of which none is REPORTED, which R131 has no slot for: no record is then made, while the
occurrence sets its latch and raises INCIDENT (DESIGN CHOICE, log 46). -/
def createRecord (k : IncKind) (detail : Nat) (s : State) : State :=
  match slotForNew s.inu.records with
  | none => s
  | some slot =>
    let r := newRecord k detail slot s
    rewrite r
      { s with
        inu.records := (s.inu.records.filter fun x => x.slot ≠ slot) ++ [r]
        inu.counter := (s.inu.counter + 1) % 65536 }

/-- The latch of a latching kind is set; a change raises CONDITION (R125). -/
def setLatch (k : IncKind) (s : State) : State :=
  if k.latches && !latched s.inu.latches k then
    raise .condition { s with inu.latches := setLatchBit s.inu.latches k }
  else s

/-- The INU takes an occurrence: it merges into the PENDING record of its kind or creates one, sets
the kind's latch and raises INCIDENT (R130). A record created due is judged for a start (R140). -/
def takeOccurrence (k : IncKind) (detail : Nat) (s : State) : State :=
  match pendingOf k s with
  | some r =>
    raise .incident
      (setLatch k
        (putRecord { r with count := min 255 (r.count + 1), last := stampNow s, cleared := false } s))
  | none =>
    let created := raise .incident (setLatch k (createRecord k detail s))
    if holdMinutes k s = 0 then judgeStart created else created

/-- A block hands the INU an occurrence. -/
def occur (k : IncKind) (detail : Nat) (s : State) : State :=
  if inuActive s then takeOccurrence k detail s else hold (.occurrence k detail) s

/-- The INU takes the notice that a kind's cause has ended: a latch that is set is cleared, raises
CONDITION and marks the kind's latest record (R125, R131). -/
def takeClearLatch (k : IncKind) (s : State) : State :=
  if latched s.inu.latches k then
    markCleared k (raise .condition { s with inu.latches := clearLatchBit s.inu.latches k })
  else s

/-- A block tells the INU that a kind's cause has ended; like an occurrence, the notice is held also before
the rebuild has ended (R136; DESIGN CHOICE for the rebuild, log 9). -/
def clearLatch (k : IncKind) (s : State) : State :=
  if inuActive s then takeClearLatch k s else hold (.clearLatch k) s

/-- The occurrence an attribute raises on crossing (R127). -/
def attrKind : AttrId → IncKind
  | .shockPulses => .shock
  | .coinRejects => .coinPath
  | .coinPathErrors => .coinPath
  | .blockedWrites => .tamperAccess
  | .nvRetries => .auditSuspect

/-- The detail of that occurrence (R124). -/
def attrDetail : AttrId → Nat
  | .shockPulses => 0
  | .coinRejects => 1
  | .coinPathErrors => 2
  | .blockedWrites => 0
  | .nvRetries => 4

/-- An attribute with one event counted: total and level grow, each saturating (R127). -/
def Attr.counted (v : Attr) : Attr :=
  { v with total := min 65535 (v.total + 1), level := min 255 (v.level + 1) }

/-- Whether a counted attribute raises its occurrence (R127). -/
def Attr.crosses (v : Attr) (threshold : Nat) : Bool :=
  v.armed && threshold ≠ 0 && threshold ≤ v.level

/-- An attribute takes a value, and the tally cache is handed it (R127). -/
def putAttr (a : AttrId) (v : Attr) (s : State) : State :=
  handAttr a { s with inu.attrs := s.inu.attrs.set a v }

/-- The INU takes an attribute event (R127). -/
def takeAttrEvent (a : AttrId) (s : State) : State :=
  let v := (s.inu.attrs.get a).counted
  if v.crosses (s.cfl.params.attrs.get a).threshold then
    takeOccurrence (attrKind a) (attrDetail a) (putAttr a { v with armed := false } s)
  else putAttr a v s

/-- A block hands the INU an attribute event. -/
def attrEvent (a : AttrId) (s : State) : State :=
  if inuActive s then takeAttrEvent a s else hold (.attrEvent a) s

/-- `n` events of one attribute. -/
def attrEvents (a : AttrId) : Nat → State → State
  | 0, s => s
  | n + 1, s => attrEvents a n (attrEvent a s)

end Sys2Proof.Machine
end

