-- ==== Sys2Proof/Machine/CoinOps.lean ====
section
/-! DEFINITION. The escrow tube: orders, drop queue, drops and clearance (R55 to R63, R65, R177). -/

namespace Sys2Proof.Machine

/-- Drops outstanding: a drop in motion, or a drop queue that is not empty (R156). -/
def dropsOutstanding (s : State) : Bool :=
  s.cnu.motion.isSome || s.cnu.clearance.isSome || s.cnu.drops ≠ []

/-- The CNU tells the ADU that it has no drops outstanding: with the flush-pending mark set, a
write-back is queued (R156). -/
def noDropsNotice (s : State) : State :=
  if s.adu.flushPending && !dropsOutstanding s then queueWriteBack false true s else s

/-- Whether no entry of an owner is left in the escrow list (R56). -/
def ownerGone (s : State) (o : Owner) : Bool := s.cnu.escrow.all fun c => c.owner ≠ some o

/-- The watched settlements of which no entry is left: the ADU is told that their drops are finished
(R56), which triggers a write-back (R155). -/
def checkWatch (s : State) : State :=
  if s.cnu.watch.any (ownerGone s) then
    triggerWriteBack { s with cnu.watch := s.cnu.watch.filter fun o => !ownerGone s o }
  else s

/-- The drops in the order of their coins' places in the escrow list (R57). -/
def orderDrops (escrow : List Coin) (drops : List Drop) : List Drop :=
  escrow.filterMap fun c => drops.find? fun d => d.seq = c.seq

/-- A drop is queued for a coin (R57); a coin has at most one. -/
def queueDrop (seq : Nat) (dir : Dir) (s : State) : State :=
  if s.cnu.drops.any fun d => d.seq = seq then s
  else { s with cnu.drops := orderDrops s.cnu.escrow (s.cnu.drops ++ [⟨seq, dir⟩]) }

/-- Whether a coin has a drop queued. -/
def hasDrop (s : State) (c : Coin) : Bool := s.cnu.drops.any fun d => d.seq = c.seq

/-- The conditions of R58 for starting the head drop. A drop of a running sweep (R177) counts as a drop in
motion (DESIGN CHOICE, log 31). -/
def dropReady (s : State) (c : Coin) (d : Drop) : Bool :=
  s.cnu.motion.isNone && s.cnu.clearance.isNone && !s.cnu.frozen && d.seq = c.seq &&
  (d.dir ≠ .collect || s.cnu.boxPresent) && running s && !starting s

/-- A drop starts if its conditions hold: its entry leaves the queue, the coin is DROPPING, the
diverter is set and the 500 ms exit timer runs (R58). -/
def startDrop (s : State) : State :=
  match s.cnu.escrow, s.cnu.drops with
  | c :: cs, d :: ds =>
    if dropReady s c d then
      { s with
        cnu.escrow := { c with status := .dropping } :: cs
        cnu.drops := ds
        cnu.motion := some ⟨d.dir, s.cnu.ms + 500⟩
        cnu.diverter := d.dir }
    else s
  | _, _ => s

/-- Commit order (R56). -/
def commitOrder (seq : Nat) (s : State) : State :=
  match s.cnu.escrow.find? fun c => c.seq = seq with
  | none => s
  | some c =>
    if c.status = .held ∧ !hasDrop s c then
      startDrop
        (queueDrop seq .collect
          { s with
            cnu.escrow :=
              s.cnu.escrow.map fun x => if x.seq = seq then { x with status := .committed } else x })
    else s

/-- The HELD coins of an owner with no drop queued, in list order (R56). -/
def freeCoins (o : Owner) (s : State) : List Coin :=
  s.cnu.escrow.filter fun c => c.owner = some o && c.status = .held && !hasDrop s c

/-- Return order: a RETURN drop for each of them (R56). -/
def returnOrder (o : Owner) (s : State) : State :=
  startDrop ((freeCoins o s).foldl (fun s c => queueDrop c.seq .ret s) s)

/-- Transfer order: each of them takes the new owner (R56). -/
def transferOrder (old new : Owner) (s : State) : State :=
  { s with
    cnu.escrow :=
      s.cnu.escrow.map fun c =>
        if c.owner = some old && c.status = .held && !hasDrop s c then { c with owner := some new }
        else c }

/-- The CNU has taken the settlement order of an ending call: the call is closed for R52 and its drops
are watched (R56). -/
def settlementTaken (o : Owner) (s : State) : State :=
  checkWatch { s with cnu.openCall := none, cnu.watch := s.cnu.watch ++ [o] }

/-- CASHBOX_COINS against the fill counts; each latch fires once per filling (R65). -/
def fillCheck (s : State) : State :=
  let near :=
    s.cfl.params.boxNearFull ≤ s.adu.cache.boxCoins && !latched s.inu.latches .cashboxNearFull
  let full := s.cfl.params.boxFull ≤ s.adu.cache.boxCoins && !latched s.inu.latches .cashboxFull
  let s := if near then occur .cashboxNearFull 0 s else s
  if full then occur .cashboxFull 0 s else s

/-! ### Tube clearance (R63) and the sweep after a settlement (R177) -/

/-- One clearance drop: the diverter is set to RETURN, the bottom object is released and an exit
timer runs. In a sweep the released object counts on COIN_PATH_ERRORS. -/
def clearanceDrop (made : Nat) (sweep : Bool) (s : State) : State :=
  let s :=
    { s with
      cnu.diverter := .ret
      cnu.clearance := some ⟨made, s.cnu.ms + 500, sweep⟩ }
  if sweep then attrEvent .coinPathErrors s else s

/-- When the last restored drop has completed, a tube that is not empty is swept, if both lists are
empty and no coin has been granted or credited since (R177). -/
def sweepCheck (s : State) : State :=
  if !s.cnu.coinSince && s.cnu.escrow = [] && s.cnu.chute = [] && !s.cnu.tubeEmpty then
    clearanceDrop 1 true s
  else s

/-! ### Completion of a drop -/

/-- The bottom coin has left in a direction: its entry goes, the movements are handed to the ADU, the
fill counts are compared, settlements and sweep are judged, and the next drop starts (R58, R65, R56,
R177). -/
def completeDrop (dir : Dir) (s : State) : State :=
  match s.cnu.escrow with
  | [] => s
  | c :: cs =>
    let last := s.cnu.restored = [c.seq]
    let s :=
      moveTally (Tallies.drop dir c.denom c.value)
        { s with
          cnu.escrow := cs
          cnu.motion := none
          cnu.stuck := none
          cnu.restored := s.cnu.restored.filter fun q => q ≠ c.seq }
    let s := if dir = .collect then fillCheck s else s
    let s := checkWatch s
    let s := if last then sweepCheck s else s
    noDropsNotice (startDrop s)

/-- The drop queue is unfrozen: a coin still DROPPING is retried in its kept direction, otherwise the
queue resumes (R60). A COLLECT drop is retried also while the box is absent: R60 names no condition
(DESIGN CHOICE, log 44). -/
def unfreeze (s : State) : State :=
  let s := { s with cnu.frozen := false }
  match s.cnu.stuck with
  | some dir =>
    { s with
      cnu.stuck := none
      cnu.motion := some ⟨dir, s.cnu.ms + 500⟩
      cnu.diverter := dir }
  | none => startDrop s

end Sys2Proof.Machine
end

