-- ==== Sys2Proof/Machine/CallLog.lean ====
section
/-! DEFINITION. The call log: giving sequences, judging the uncollected count, and writing a call's
record (R157, R158). -/

namespace Sys2Proof.Machine

/-- A change of the uncollected count from `old` is judged against the near-full mark and the reserve
(R157). -/
def judgeCount (old : Nat) (s : State) : State :=
  let new := uncollected s
  let s := raiseIf (old < s.cfl.params.logNearFull && s.cfl.params.logNearFull ≤ new) .log s
  if old < 248 && 248 ≤ new then occur .logFull 0 s
  else if 248 ≤ old && new < 248 then clearLatch .logFull s
  else s

/-- The ADU gives a call its sequence, advancing its own when the call is logged (R157). -/
def openCall (s : State) : Owner × State :=
  let n := s.adu.nextCall
  let count := uncollected s
  if count < 256 then
    (⟨n, false⟩, judgeCount count { s with adu.nextCall := (n + 1) % 0x100000000 })
  else (⟨n, true⟩, s)

/-- What the LNU, the RTU and the PFU hand the ADU for a call record (R104, R114, R158). -/
structure CallRecord where
  owner : Owner
  cls : Nat
  digits : List Nat
  seize : Stamp
  answerOffset : Option Nat
  duration : Nat
  intervals : Nat
  consumed : Nat
  coins : Nat
  coinValue : Nat
  committed : Nat
  returned : Nat
  carriedIn : Nat
  carriedOut : Nat
  cause : EndCause
  followOn : Bool
  graceUsed : Bool
  powerLoss : Bool
  clockInvalid : Bool
  emergency : Bool
  deriving DecidableEq, Repr

/-- The flags byte of a call record (3.6), the unverified flag clear (R158). -/
def CallRecord.flags (r : CallRecord) : Nat :=
  bitIf r.followOn 0 + bitIf r.graceUsed 1 + bitIf r.powerLoss 2 + bitIf r.clockInvalid 3 +
  bitIf r.emergency 5

/-- The 32 words of a call record with its CRC (3.6, call record). -/
def callWords (r : CallRecord) : List Word :=
  withCrc
    (words32 r.owner.seq ++ [bytePair r.digits.length r.cls] ++ packDigits r.digits ++
     r.seize.words ++ [match r.answerOffset with | some n => wordOf n | none => absent16] ++
     words32 r.duration ++ [wordOf (sat16 r.intervals)] ++ words32 r.consumed ++ [wordOf r.coins] ++
     words32 r.coinValue ++ words32 r.committed ++ words32 r.returned ++ words32 r.carriedIn ++
     words32 r.carriedOut ++ [bytePair r.cause.code r.flags, 0, 0])

/-- The call counts of a settlement (R158). -/
def Tallies.countCall (r : CallRecord) (t : Tallies) : Tallies :=
  let t :=
    if r.answerOffset.isNone then { t with unanswered := satAdd t.unanswered 1 }
    else if r.cls = 0 then { t with free := satAdd t.free 1 }
    else { t with paidAnswered := satAdd t.paidAnswered 1 }
  if r.owner.unlogged then { t with unlogged := satAdd t.unlogged 1 } else t

/-- The ADU takes a settlement: the call counts move, and a logged call's record is handed to the
writer for the call's slot (R157, R158). -/
def settleRecord (r : CallRecord) (s : State) : State :=
  let s := moveTally (Tallies.countCall r) s
  if r.owner.unlogged || !hasWindow .callLog s then s
  else queueRecord .call (r.owner.seq % 256) (callWords r) s

end Sys2Proof.Machine
end

