-- ==== Sys2Proof/Machine/RatingOps.lean ====
section
/-! DEFINITION. The Rating Unit's account: surcharge, band choice, credit, charges, commits, grace,
opening and settlement (R85 to R104). -/

namespace Sys2Proof.Machine

/-! ### Arithmetic -/

/-- The surcharged figure of x at P per mille (R87). -/
def surcharged (x p : Nat) : Nat := min 9999 (x + (x * p + 999) / 1000)

/-- L and C of a band (R85). -/
def Row.rate (r : Row) : Nat → Rate
  | 0 => r.b0
  | 1 => r.b1
  | 2 => r.b2
  | _ => r.b3

/-- The lowest-numbered band of the largest C (R89). -/
def Row.dearest (r : Row) : Nat :=
  let best := max (max r.b0.charge r.b1.charge) (max r.b2.charge r.b3.charge)
  if r.b0.charge = best then 0 else if r.b1.charge = best then 1
  else if r.b2.charge = best then 2 else 3

/-- The band an interval of a row is priced by now (R89). -/
def chooseBand (r : Row) (s : State) : Nat := (bandLookup s).getD r.dearest

/-- The value of a roll. -/
def rollValue (roll : List RollCoin) : Nat := (roll.map (·.value)).sum

/-- The total credit T (R88). -/
def Ctx.total (c : Ctx) : Nat := c.cin + rollValue c.roll

/-- The remaining credit R (R88). -/
def Ctx.remaining (c : Ctx) : Nat := c.total - c.consumed

/-- The open credit of an open call (R88). -/
def Ctx.openCredit (c : Ctx) : Nat := c.cin + c.committed - c.consumed

/-- The credit a call would open with: the carry and the waiting roll (R90, R103). -/
def creditInHand (s : State) : Nat := s.rtu.carry + rollValue s.rtu.waiting

/-- The surcharged S, or the surcharged C of a band (R87). -/
def Row.setupCharge (r : Row) : Nat := surcharged r.setup r.surcharge

def Row.bandCharge (r : Row) (b : Nat) : Nat := surcharged (r.rate b).charge r.surcharge

/-- The deposit (R90). -/
def deposit (r : Row) (s : State) : Nat := r.setupCharge + r.bandCharge (chooseBand r s)

/-- Credit remaining, consumed charge and carried credit as the status block shows them (R103). -/
def shownCredit (s : State) : Nat × Nat × Nat :=
  match s.rtu.ctx with
  | some c => (c.remaining, c.consumed, c.cin)
  | none => (creditInHand s, 0, s.rtu.carry)

/-- An act of the RTU, with CREDIT raised if one of the shown fields has changed (R103). -/
def watchCredit (f : State → State) (s : State) : State :=
  let t := f s
  raiseIf (shownCredit t ≠ shownCredit s) .credit t

/-! ### The commit rule (R95) -/

/-- The coins of a roll that a consumed charge `k` newly commits, `before` being the value of the
coins before it. -/
def newlyCommitted (k cin before : Nat) : List RollCoin → List RollCoin
  | [] => []
  | c :: cs =>
    let rest := newlyCommitted k cin (before + c.value) cs
    if !c.committed && cin + before < k then c :: rest else rest

/-- The roll with those coins marked. -/
def markCommitted (k cin before : Nat) : List RollCoin → List RollCoin
  | [] => []
  | c :: cs =>
    { c with committed := c.committed || decide (cin + before < k) } ::
      markCommitted k cin (before + c.value) cs

/-! ### Charging (R93 to R97) -/

/-- A charge is taken: K and the intervals charged grow, CONSUMED_VALUE takes it, the roll is walked
and the commit orders are given in roll order; the phase is CHARGING (R93, R95, R97). -/
def takeCharge (charge : Nat) (s : State) : State :=
  match s.rtu.ctx with
  | none => s
  | some c =>
    let k := c.consumed + charge
    let fresh := newlyCommitted k c.cin 0 c.roll
    let s :=
      moveTally (fun t => { t with consumed := satAdd t.consumed charge })
        { s with
          rtu.ctx :=
            some
              { c with
                phase := .charging
                consumed := k
                intervals := c.intervals + 1
                roll := markCommitted k c.cin 0 c.roll
                committed := c.committed + rollValue fresh
                due := 0
                graceDeadline := none } }
    fresh.foldl (fun s x => commitOrder x.seq s) s

/-- The call enters GRACE with a charge unpaid from `start` on; a CONNECTED line becomes GRACE
(R96, R114). -/
def enterGrace (charge start : Nat) (s : State) : State :=
  match s.rtu.ctx with
  | none => s
  | some c =>
    let s :=
      raise .credit
        (raise .lowCredit
          { s with
            rtu.ctx :=
              some
                { c with
                  phase := .grace
                  due := charge
                  graceDeadline := some (start + c.graceTime)
                  graceUsed := true } })
    if s.lnu.state = .connected then setLine .grace s else s

/-- An interval begins at `start`: the band is chosen, the end set, and the charge taken or left due;
the first interval of a call also charges S (R93, R94). -/
def beginInterval (start : Nat) (first : Bool) (s : State) : State :=
  match s.rtu.ctx with
  | none => s
  | some c =>
    match c.row with
    | none => s
    | some r =>
      let b := chooseBand r s
      let charge := (if first then r.setupCharge else 0) + r.bandCharge b
      let c :=
        { c with band := some b, start := some start, finish := some (start + (r.rate b).len) }
      let s := { s with rtu.ctx := some c }
      if charge ≤ c.remaining then watchCredit (takeCharge charge) s else enterGrace charge start s

/-- The end of the interval in hand, if the phase is CHARGING. -/
def chargingEnd (s : State) : Option Nat :=
  match s.rtu.ctx with
  | some c => if c.phase = .charging then c.finish else none
  | none => none

/-- The interval ends that lie at or before now are taken in order until one cannot be paid (R97). `fuel`
bounds their number: with every L above 0 it is never reached. An L of 0, which only a tariff area whose
items no check has judged can hold (R78), leaves the end where it was, and the test then takes no more
intervals than one of L 1 would give (DESIGN CHOICE, log 32). -/
def catchUp : Nat → State → State
  | 0, s => s
  | fuel + 1, s =>
    match chargingEnd s with
    | some e => if e ≤ rtuNow s then catchUp fuel (beginInterval e false s) else s
    | none => s

/-- The grace test (R97). -/
def graceTest (s : State) : State :=
  match s.rtu.ctx with
  | none => s
  | some c =>
    if c.phase = .grace ∧ c.due ≤ c.remaining then
      let s := raise .credit (takeCharge c.due s)
      let s := if s.lnu.state = .grace then setLine .connected s else s
      catchUp (rtuNow s + 1 - c.finish.getD 0) s
    else s

/-- A coin notice naming an owner (R86, R92). -/
def coinNotice (o : Owner) (seq value : Nat) (s : State) : State :=
  watchCredit
    (fun s =>
      match s.rtu.ctx with
      | some c =>
        if c.owner = o then
          graceTest { s with rtu.ctx := some { c with roll := c.roll ++ [⟨seq, value, false⟩] } }
        else s
      | none =>
        if o = nextOwner s then
          { s with rtu.waiting := s.rtu.waiting ++ [⟨seq, value, false⟩] }
        else s)
    s

/-! ### Opening, answer, settlement, release -/

/-- The RTU opens the rating context (R91), and the call is open for the CNU (R52). The coins that were
credited to the next call sequence become those of the call: of an unlogged one, with its mark (R86, R100,
R157; log 26). -/
def openContext (o : Owner) (cls : Nat) (emergency : Bool) (row : Option Row) (s : State) : State :=
  let s := if o.unlogged then transferOrder ⟨o.seq, false⟩ o s else s
  { s with
    rtu.ctx :=
      some
        { owner := o
          cls := cls
          emergency := emergency
          row := row
          phase := .dialled
          band := none
          roll := s.rtu.waiting
          cin := s.rtu.carry
          consumed := 0
          committed := 0
          intervals := 0
          start := none
          finish := none
          due := 0
          graceDeadline := none
          graceTime := 0
          maxDuration := 0
          maxEnd := none
          graceUsed := false
          seizeStamp := stampNow s
          seizePoint := rtuNow s
          answerPoint := none }
    rtu.waiting := []
    rtu.carry := 0
    cnu.openCall := some o }

/-- The LNU tells the RTU that the call has been answered (R93). -/
def rateAnswer (s : State) : State :=
  match s.rtu.ctx with
  | none => s
  | some c =>
    if c.phase = .dialled then
      let now := rtuNow s
      let limit := s.cfl.params.maxDuration * 60
      let s :=
        { s with
          rtu.ctx :=
            some
              { c with
                phase := .charging
                answerPoint := some now
                graceTime := s.cfl.params.graceTime
                maxDuration := limit
                maxEnd := if limit ≠ 0 ∧ !c.emergency then some (now + limit) else none } }
      beginInterval now true s
    else s

/-- EXCESS_VALUE takes an amount (R100, R102). -/
def Tallies.addExcess (u : Nat) (t : Tallies) : Tallies := { t with excess := satAdd t.excess u }

/-- The record of a call that ends now, for the LNU's end cause and keep flag (R104, R114). -/
def endRecord (c : Ctx) (cause : EndCause) (keep : Bool) (s : State) : CallRecord where
  owner := c.owner
  cls := c.cls
  digits := s.lnu.number
  seize := c.seizeStamp
  answerOffset := c.answerPoint.map fun a => a - c.seizePoint
  duration := match c.answerPoint with | some a => rtuNow s - a | none => 0
  intervals := c.intervals
  consumed := c.consumed
  coins := c.roll.length
  coinValue := rollValue c.roll
  committed := c.committed
  returned := if keep then 0 else rollValue (c.roll.filter fun x => !x.committed)
  carriedIn := c.cin
  carriedOut := if keep then c.openCredit else 0
  cause := cause
  followOn := keep
  graceUsed := c.graceUsed
  powerLoss := false
  clockInvalid := decide (c.seizeStamp = Stamp.zero) || s.tru.clock.isNone
  emergency := c.emergency

/-- The RTU settles the call on the end notice (R100, R101). -/
def settle (cause : EndCause) (keep : Bool) (s : State) : State :=
  match s.rtu.ctx with
  | none => s
  | some c =>
    let record := endRecord c cause keep s
    let s :=
      if keep then
        let s := transferOrder c.owner (nextOwner s) s
        { s with
          rtu.waiting := (c.roll.filter fun x => !x.committed) ++ s.rtu.waiting
          rtu.carry := c.openCredit }
      else moveTally (Tallies.addExcess c.openCredit) (returnOrder c.owner s)
    let s := settleRecord record s
    settlementTaken c.owner (raise .credit { s with rtu.ctx := none })

/-- A carry is released (R102). -/
def releaseCarry (s : State) : State :=
  let s := moveTally (Tallies.addExcess s.rtu.carry) (returnOrder (nextOwner s) s)
  raise .credit { s with rtu.waiting := [], rtu.carry := 0 }

/-- The LNU's return order for the next call sequence and its release of the pre-call coins
(R86, R108). -/
def releasePreCall (s : State) : State :=
  watchCredit (fun s => { returnOrder (nextOwner s) s with rtu.waiting := [] }) s

end Sys2Proof.Machine
end

