-- ==== Sys2Proof/Machine/ReportOutcomes.lean ====
section
/-! DEFINITION. The outcomes of a report call (R146 to R149), its message (R142, R143) and the time
request (R139). -/

namespace Sys2Proof.Machine

/-! ### The message -/

/-- The last `n` decimal digits of a number, leading zeros kept. -/
def decimals : Nat → Nat → List Nat
  | 0, _ => []
  | n + 1, v => decimals n (v / 10) ++ [v % 10]

/-- The 18 digits of a carried record (R142). -/
def incidentDigits (r : IncRec) : List Nat :=
  decimals 2 r.kind.code ++ [r.kind.severity] ++ decimals 3 r.count ++
  decimals 2 (firstByte r.first.w1) ++
  decimals 2 (secondByte r.first.w1) ++ decimals 2 (firstByte r.first.w2) ++
  decimals 6 (match r.snapshot with | some v => min v 999999 | none => 0)

/-- The check digit over the digits between start and check digit (R143). -/
def checkDigit (ds : List Nat) : Nat := (10 - ds.sum % 10) % 10

/-- The tones of a message: *, its digits, the check digit and # (R142, R143). -/
def messageTones (ds : List Nat) : List Nat := 10 :: ds ++ [checkDigit ds, 11]

/-- The record of a carried sequence as it stands in the index. -/
def carriedRecord (s : State) (c : Carried) : Option IncRec :=
  s.inu.records.find? fun r => r.seq = c.seq && r.state = .reporting

/-- The digits of a message between start and check digit (R142). With the REPORT descriptor gone since
the grant there are no digits of a terminal id (DESIGN CHOICE, log 51). -/
def messageDigits (number : Nat) (carried : List Carried) (s : State) : List Nat :=
  ((s.cfl.params.report.map (·.terminal)).getD []) ++ decimals 4 number ++ [carried.length] ++
  (carried.filterMap (carriedRecord s)).flatMap incidentDigits

/-- On first reaching REPORT_SENDING the call takes its message number and composes its message
(R142). -/
def composeMessage (s : State) : State :=
  match s.rpu.call with
  | some c =>
    if c.number.isNone then
      let n := s.rpu.counter
      { s with
        rpu.call :=
          some
            { c with
              number := some n
              message := messageTones (messageDigits n c.carried s) }
        rpu.counter := (n + 1) % 10000 }
    else s
  | none => s

/-- REPORT_SENDING is entered: the RPU hands the first tones, as many as the buffer of 36 holds, and
keeps the rest to hand as tones leave it (R112, R120, R143). -/
def sendMessage (s : State) : State :=
  let s := composeMessage (setLine .reportSending s)
  match s.rpu.call with
  | some c =>
    startTone
      { s with
        lnu.buffer := c.message.take 36
        rpu.call := some { c with toHand := c.message.drop 36 } }
  | none => s

/-- A tone has left the buffer, and the RPU hands the next one (R143). -/
def handTone (s : State) : State :=
  match s.rpu.call with
  | some c =>
    match c.toHand with
    | t :: ts =>
      { s with lnu.buffer := s.lnu.buffer ++ [t], rpu.call := some { c with toHand := ts } }
    | [] => s
  | none => s

/-! ### Outcomes -/

/-- An outcome is settled: REPORT is raised, the report-call record is emptied and its timers are void,
and a start is judged (R146). -/
def emptyReport (s : State) : State :=
  judgeStart (raise .report { s with rpu.call := none, rpu.firstTone := none, rpu.interTone := none })

/-- The sequences of a carried set. -/
def carriedSeqs (c : ReportCall) : List Nat := c.carried.map (·.seq)

/-- A riding time request has failed with the call (R147). -/
def failTimeRequest (s : State) : State :=
  { s with
    rpu.timeRequest :=
      s.rpu.timeRequest.map fun t =>
        let n := min 255 (t.attempts + 1)
        { t with attempts := n, due := rpuNow s + backoffEntry s n * 60 } }

/-- The report call fails (R147). -/
def failReport (s : State) : State :=
  match s.rpu.call with
  | none => s
  | some c =>
    let s := forSeqs (failRecord (backoffEntry s)) (carriedSeqs c) s
    emptyReport (if c.timeRides then failTimeRequest s else s)

/-- A riding time request is withdrawn; if the clock is still invalid a new one stands, of origin
CLOCK (R148). -/
def acceptTimeRequest (s : State) : State :=
  { s with
    rpu.timeRequest :=
      if s.tru.clock.isSome then none
      else some ⟨.clock, 0, rpuNow s + backoffEntry s 1 * 60⟩ }

/-- The report call is accepted (R148); `ask` says that the LNU is asked to end the report if the line
is still in REPORT_AWAIT_ACK, `timed` that twelve time digits were closed by #. -/
def acceptReport (ask timed : Bool) (s : State) : State :=
  match s.rpu.call with
  | none => s
  | some c =>
    let s := if ask && s.lnu.state = .reportAwaitAck then clearReport s else s
    let s := forSeqs acceptRecord (carriedSeqs c) s
    let s := if timed then setClockFromDigits c.digits s else s
    emptyReport (if c.timeRides then acceptTimeRequest s else s)

/-- The LNU tells the RPU of a line failure: a failure at stage NONE, otherwise an acceptance without
time digits (R147, R148, R150). -/
def lineFailure (s : State) : State :=
  match s.rpu.call with
  | none => s
  | some c => if c.stage = .afterA then acceptReport false false s else failReport s

/-- The LNU tells the RPU of a yield (R149). -/
def yieldReport (s : State) : State :=
  match s.rpu.call with
  | none => s
  | some c =>
    if c.stage = .afterA then acceptReport false false s
    else emptyReport (forSeqs yieldRecord (carriedSeqs c) s)

/-- Whether a carried incident has severity 3 (R121, R141). -/
def carriesGrave (s : State) : Bool :=
  s.rpu.call.any fun c => c.carried.any fun x => x.severity = 3

/-- STARTING has ended with the clock invalid and a REPORT descriptor in force: a time request of
origin CLOCK stands (R139). -/
def startTimeRequest (s : State) : State :=
  if s.tru.clock.isNone && s.cfl.params.report.isSome then
    { s with rpu.timeRequest := some ⟨.clock, 0, rpuNow s⟩ }
  else s

end Sys2Proof.Machine
end

