-- ==== Sys2Proof/Machine/Tariff.lean ====
section
/-! DEFINITION. The Tariff Unit: the tariff check (R71 to R77). -/

namespace Sys2Proof.Machine

/-! ### The order of prefixes, and the calendar of an area (R69, R70, R72) -/

/-- Digit order (R69): place by place from the first digit, a stem before what it begins. -/
def digitsBefore : List Nat → List Nat → Bool
  | [], [] => false
  | [], _ :: _ => true
  | _ :: _, [] => false
  | a :: as, b :: bs => a < b || (a = b && digitsBefore as bs)

/-- The switch points of schedule `j` (R70); at most the 8 that the part holds. -/
def scheduleOf (w : Area) (j : Nat) : List SwitchPoint :=
  (List.range (min (w (scheduleAt j)) 8)).map fun k =>
    ⟨w (scheduleAt j + 1 + 2 * k), w (scheduleAt j + 2 + 2 * k)⟩

/-- The holiday dates in force (R70); at most the 16 that the part holds. -/
def holidaysOf (w : Area) : List (Nat × Nat) :=
  (List.range (min (w 3) 16)).map fun i => (w (holidayAt i) / 256, w (holidayAt i) % 256)

/-- The settled calendar an area gives (R72). -/
def calendarOf (w : Area) : Calendar :=
  ⟨scheduleOf w 0, scheduleOf w 1, scheduleOf w 2, holidaysOf w⟩

/-! ### The judging of a check (R73, R75): table, index and field of the first item that fails -/

/-- The failing item of a check. -/
structure BadItem where
  table : Nat
  index : Nat
  field : Nat
  deriving DecidableEq, Repr

/-- The first of a list of conditions that holds, as the field code standing with it. -/
def firstField : List (Bool × Nat) → Option Nat
  | [] => none
  | (b, code) :: rest => if b then some code else firstField rest

/-- The first of `n` items, counted from `i`, that fails. -/
def firstItem (table : Nat) (judge : Nat → Option Nat) : Nat → Nat → Option BadItem
  | _, 0 => none
  | i, n + 1 =>
    match judge i with
    | some f => some ⟨table, i, f⟩
    | none => firstItem table judge (i + 1) n

def headerFault (w : Area) : Option Nat :=
  firstField [(500 < w 0, 1), (256 < w 1, 2), (16 < w 3, 3)]

/-- The fields in the order of R69: the digits of the first `n` places, then `n` itself, and so on; then
the entry's place and its class row (R73). Of an `n` above 8 the 8 places that stand are read (log 21). -/
def prefixFault (w : Area) (i : Nat) : Option Nat :=
  let p := prefixOf w i
  firstField
    [(p.digits.any fun d => 9 < d, 2),
     (p.length < 1 || 8 < p.length, 1),
     (31 < p.cls, 3),
     (1 < p.barred, 4),
     (p.minimum < p.length || p.maximum < p.minimum || 20 < p.maximum, 5),
     (0 < i && !digitsBefore (prefixOf w (i - 1)).digits p.digits, 6),
     (p.cls ≠ 0 && w (rowAt p.cls) ≠ 1, 7)]

/-- The used flag, then in used rows S, each L and each C in band order (R73; DEDUCED, log 21: all L
before all C). -/
def rowFault (w : Area) (c : Nat) : Option Nat :=
  let r := rowOf w c
  let badLen (b : Nat) : Bool := (r.rate b).len < 1 || 600 < (r.rate b).len
  let badCharge (b : Nat) : Bool := 9999 < (r.rate b).charge
  if 1 < w (rowAt c) then some 1
  else if w (rowAt c) = 0 then none
  else
    firstField
      [(9999 < r.setup, 2), (badLen 0, 3), (badLen 1, 4), (badLen 2, 5), (badLen 3, 6),
       (badCharge 0, 7), (badCharge 1, 8), (badCharge 2, 9), (badCharge 3, 10)]

/-- Each point in turn: its minute, its band, then its place (R75). -/
def pointsFault (previous : Option Nat) : List SwitchPoint → Option Nat
  | [] => none
  | p :: ps =>
    match
      firstField
        [(1439 < p.minute, 2), (3 < p.band, 3), (previous.isNone && p.minute ≠ 0, 4),
         (previous.any fun m => p.minute ≤ m, 5)] with
    | some f => some f
    | none => pointsFault (some p.minute) ps

def scheduleFault (w : Area) (j : Nat) : Option Nat :=
  let n := w (scheduleAt j)
  if n < 1 ∨ 8 < n then some 1 else pointsFault none (scheduleOf w j)

def holidayFault (w : Area) (i : Nat) : Option Nat :=
  let month := w (holidayAt i) / 256
  let day := w (holidayAt i) % 256
  firstField
    [(month < 1 || 12 < month, 1), (day < 1 || monthLength 0 month < day, 2)]

/-- The items in the order of R73. -/
def judgeArea (w : Area) : Option BadItem :=
  (firstItem 1 (fun _ => headerFault w) 0 1).or
    ((firstItem 2 (prefixFault w) 0 (w 1)).or
      ((firstItem 3 (rowFault w) 1 31).or
        ((firstItem 4 (scheduleFault w) 0 3).or (firstItem 5 (holidayFault w) 0 (w 3)))))

/-! ### A check (R73 to R77) -/

/-- Address of the check word (R68). -/
def checkWordAddr (s : State) : Nat := baseOf .tariff s + 2 * checkedWords s

/-- A check begins, or waits for the running one to end (R73, R77). Of a request's check and an automatic
one that both wait, the one that came first begins first (DESIGN CHOICE, log 50). -/
def beginCheck (forRequest : Bool) (s : State) : State :=
  if s.tru.check.isSome then { s with tru.waiting := s.tru.waiting ++ [forRequest] }
  else { s with tru.check := some ⟨[], checkedWords s, false, forRequest, false⟩ }

/-- The running check is over; the next one waiting begins (R73, R77). -/
def endCheck (s : State) : State :=
  let s := { s with tru.check := none }
  match s.tru.waiting with
  | [] => s
  | f :: rest => beginCheck f { s with tru.waiting := rest }

/-- tariff-unsettled is cleared unless a write has overtaken the check (R74, R75). -/
def settleTariff (overtaken : Bool) (s : State) : State :=
  if overtaken then s else { s with tru.unsettled := false }

/-- The check fails (R75). -/
def failCheck (k : Check) (b : BadItem) (s : State) : State :=
  let s := settleTariff k.overtaken (occur .tariffInvalid 0 { s with tru.valid := false })
  let s :=
    if k.forRequest then
      answerHeld kindTariffCheck .tariffBad (wordOf b.table) (wordOf b.index) (wordOf b.field) s
    else s
  endCheck s

/-- The check passes: its check word is verified (R74). -/
def passCheck (k : Check) (s : State) : State :=
  let s := { s with tru.valid := true, tru.calendar := some (calendarOf (readArea k.rev.reverse)) }
  let s := settleTariff k.overtaken (clearLatch .tariffInvalid s)
  let s := if k.forRequest then answerHeld kindTariffCheck .ok 0 0 0 s else s
  endCheck s

/-- The BPU tells the TRU that a controller word has passed into the TARIFF window (R10, R72). A check
that has made its first read is overtaken (R76), and so is an analysis between its first read and its last
(R79; log 22). -/
def tariffWritten (s : State) : State :=
  { s with
    tru.unsettled := true
    tru.edited := s.tru.edited || (s.tru.analysed ≠ 0 && s.tru.outcome.isNone)
    tru.check :=
      s.tru.check.map fun k => { k with overtaken := k.overtaken || decide (k.rev ≠ []) } }

/-- SERVICE has ended: with tariff-unsettled set an automatic check is made (R77). -/
def autoCheck (s : State) : State := if s.tru.unsettled then beginCheck false s else s

/-- The words of the running check that are still to be read, as memory holds them now. -/
def restOfCheck (k : Check) (s : State) : List Word :=
  s.mem.words (baseOf .tariff s + 2 * k.rev.length) (k.size - k.rev.length)

/-- The codes an owner may answer with, numbered: all but STARTING, ABANDONED and UNKNOWN_KIND, which
are the RQU's own (R39). -/
def ownerCode (i : Fin 19) : Nat :=
  let codes : List ResultCode :=
    [.ok, .okWindowsDeferred, .deferred, .refusedState, .refusedMode, .badParam, .noRoute, .barred,
      .tooShort, .tooLong, .insufficientCredit, .lineBusy, .paidBarred, .logFull, .tariffUnsettled,
      .tariffBad, .wrongCode, .lockedOut, .chainBad]
  (codes[i.val]?.map ResultCode.code).getD 0

/-- TARIFF_CHECK (R73). With no TARIFF window the code of the answer is free (log 5); its result words
are 0 (R39). -/
def tariffCheckRequest (_ : List Word) (s : State) : State :=
  if s.acu.mode ≠ .service then answer0 .refusedMode s
  else if hasWindow .tariff s then beginCheck true (holdRequest s)
  else
    match s.rqu.service with
    | some v =>
      { s with
        rqu.service :=
          some
            { v with
              phase :=
                .answered
                  ⟨wordOf (ownerCode (Config.noWindowCode s.free)), 0, 0, 0⟩ 0 }
        free := s.free + 1 }
    | none => s

def execTariffCheck (s : State) : Out := onPower s (onRequest kindTariffCheck tariffCheckRequest)

/-- TARIFF_CHECK_READS_DONE: the words left are read once the port comes to the TRU (R16; log 4), the
items are judged, and the check fails or hands its CRC to the writer (R73 to R75). -/
def execTariffCheckReadsDone (s : State) : Out :=
  onPower s fun s =>
    match s.tru.check with
    | none => s
    | some k =>
      if k.writing || (checkReads s && !portReaches .tru s) then s
      else
        let k := { k with rev := (restOfCheck k s).reverse ++ k.rev }
        match judgeArea (readArea k.rev.reverse) with
        | some b => failCheck k b s
        | none =>
          queueCheckWord (crc k.rev.reverse)
            { s with tru.check := some { k with writing := true } }

/-- CHECK_WORD_WRITE_DONE: the writer has verified or failed the check word (R74, R75). -/
def execCheckWordWriteDone (s : State) : Out :=
  onPower s fun s =>
    match s.adu.run, s.tru.check with
    | some r, some k =>
      match r.job with
      | .checkWord _ =>
        if runMayEnd s r then
          let s := { finishRun s with adu.run := none }
          if r.failed = 0 then passCheck k s else failCheck k ⟨6, 0, 1⟩ s
        else s
      | _ => s
    | _, _ => s

end Sys2Proof.Machine
end

