-- ==== Sys2Proof/Machine/Coin.lean ====
section
/-! DEFINITION. The Coin Unit's events: offers, passages, deadlines, exits, switches and the cash box
(R47 to R66). A body `take…` is the event taken; its command holds the event through STARTING and while
the power state is not RUNNING (R62, R63). -/

namespace Sys2Proof.Machine

/-- The CNU takes its sensors' events now (R62, R63). -/
def cnuActive (s : State) : Bool := running s && !starting s

/-! ### Offers (R48, R49) -/

/-- The line states in which the coin gate is open (R48). -/
def LineState.gate : LineState → Bool
  | .ready | .seizing | .dialling | .awaitAnswer | .connected | .grace | .followOn => true
  | _ => false

/-- The denomination of a code, if it may be granted now. In config fault no denomination is enabled, those
that a good reload gives there included (R48, R34). -/
def grantable (code : Nat) (s : State) : Option Denom :=
  if code = 0 ∨ s.cfl.fault.isSome then none
  else
    match s.cfl.params.denoms[code - 1]? with
    | some d => if d.enabled ∧ code ≤ 6 then some d else none
    | none => none

/-- The conditions of R48 other than the denomination's. -/
def gateOpen (s : State) : Bool :=
  !starting s && !coinsBarred s && running s && s.lnu.state.gate &&
  decide (s.cnu.escrow.length + s.cnu.chute.length < 8)

/-- OFFER (R48). -/
def execOffer (code : Nat) (s : State) : Out :=
  onPower s fun s =>
    match if gateOpen s then grantable code s else none with
    | some d =>
      { s with
        cnu.chute :=
          s.cnu.chute ++ [⟨code, d.value, s.cnu.ms, s.cnu.ms + s.cfl.params.pathWindow⟩]
        cnu.offerAnswer := some true
        cnu.coinSince := true }
    | none => { s with cnu.offerAnswer := some false }

/-- REJECT (R49). -/
def execReject (s : State) : Out := onPower s (attrEvent .coinRejects)

/-! ### The entry sensor (R50 to R54) -/

/-- The owner of a coin credited now (R52). -/
def ownerNow (s : State) : Option Owner :=
  match s.cnu.openCall with
  | some o => some o
  | none =>
    if s.lnu.state = .ready ∨ s.lnu.state = .followOn then some (nextOwner s) else none

/-- A coin joins the top of the escrow list: tallies and CREDIT, then its notice to the RTU, or the
RETURN drop of a late coin (R50, R51, R52). A late coin among the held events starts the drop that waits,
amid those events: a held exit passage behind it then completes that drop (R58, R63; DESIGN CHOICE,
log 49). -/
def creditCoin (denom value : Nat) (isForeign : Bool) (s : State) : State :=
  let seq := s.cnu.nextSeq
  let owner := ownerNow s
  let s :=
    raise .credit
      (moveTally (Tallies.credit value)
        { s with
          cnu.escrow := s.cnu.escrow ++ [⟨seq, denom, value, isForeign, owner, .held⟩]
          cnu.nextSeq := (seq + 1) % 65536
          cnu.coinSince := true })
  match owner with
  | some o => coinNotice o seq value s
  | none => startDrop (queueDrop seq .ret s)

/-- A chute entry keeps the time it had left when the sensor cleared, having been blocked since `b`;
an entry granted since then lost none before its grant (R54). -/
def ChuteCoin.shifted (now b : Nat) (c : ChuteCoin) : ChuteCoin :=
  { c with deadline := c.deadline + (now - max b c.granted) }

/-- The entry sensor has cleared: deadlines move later by the blocked time (R54). The level is followed
in every power state and through STARTING; what it forms may be held (R62, R63). -/
def sensorClears (s : State) : State :=
  let s :=
    match s.cnu.blockedSince with
    | some b => { s with cnu.chute := s.cnu.chute.map (ChuteCoin.shifted s.cnu.ms b) }
    | none => s
  { s with cnu.blockedSince := none, cnu.jamDue := none }

/-- An entry passage is matched to the chute list (R50, R51). -/
def matchPassage (s : State) : State :=
  if s.cnu.escrow.length < 8 then
    match s.cnu.chute with
    | c :: cs => creditCoin c.denom c.value false { s with cnu.chute := cs }
    | [] => attrEvent .coinPathErrors (creditCoin 0 0 true s)
  else attrEvent .coinPathErrors s

/-- An entry passage taken: the jam, if there was one, has ended (R54), and the object is matched. -/
def takeEntryPassage (s : State) : State := matchPassage (clearLatch .coinJam s)

/-- ENTRY_PASSAGE (R50); the tube-empty switch is read as a level (R47). -/
def execEntryPassage (tubeEmpty : Bool) (s : State) : Out :=
  onPower s fun s =>
    let s := sensorClears { s with cnu.tubeEmpty := tubeEmpty }
    if cnuActive s then takeEntryPassage s else hold .entryPassage s

/-- ENTRY_SENSOR_BLOCKED_EDGE (R54): an edge is no event that the CNU holds (R62, R63), so the blocking
begins with it in every power state and in STARTING. The 2 s of its entry blocked event begin with it on a
count that no save stops (R47, R62; DEDUCED, log 53). -/
def execEntrySensorBlockedEdge (s : State) : Out :=
  onPower s fun s =>
    match s.cnu.blockedSince with
    | some _ => s
    | none =>
      { s with cnu.blockedSince := some s.cnu.ms, cnu.jamDue := some (s.cnu.edgeMs + 2000) }

/-- An entry blocked event taken (R54). -/
def takeEntryBlocked (s : State) : State := occur .coinJam 0 s

/-- ENTRY_BLOCKED (R47, R54): the sensor has been blocked for 2 s, in every power state, which forms one
event a blocking (log 53). -/
def execEntryBlocked (s : State) : Out :=
  onPower s fun s =>
    match s.cnu.jamDue with
    | some p =>
      let s := { elapse (p - s.cnu.edgeMs) s with cnu.jamDue := none }
      if cnuActive s then takeEntryBlocked s else hold .entryBlocked s
    | none => s

/-- The earliest deadline of the chute list. -/
def earliestDeadline (s : State) : Option Nat := (s.cnu.chute.map (·.deadline)).min?

/-- CHUTE_DEADLINE (R53): the coin whose deadline comes first is fished. No deadline counts down while
the sensor is blocked (R54). -/
def execChuteDeadline (s : State) : Out :=
  onPower s fun s =>
    match earliestDeadline s with
    | some d =>
      if running s && s.cnu.blockedSince.isNone then
        let s := elapse (d - s.cnu.ms) s
        attrEvent .coinPathErrors
          { s with cnu.chute := s.cnu.chute.eraseP fun c => c.deadline = d }
      else s
    | none => s

/-! ### The exit sensor (R58 to R61, R63, R177, R178) -/

/-- The PFU's accounting at the end of the lost-context clearance, and its write-back (R178). -/
def lostAccounting (s : State) : State :=
  let s :=
    moveTally (fun t => { t with returned := satAdd t.returned t.escrow, escrow := 0 }) s
  triggerWriteBack (occur .auditSuspect 2 { s with pfu.step5 := .writeBack true })

/-- A clearance ends; `fault` when it made its 8 drops or an exit timer ran out (R63). -/
def endClearance (c : Clearance) (fault : Bool) (s : State) : State :=
  let s := { s with cnu.clearance := none }
  let s := if fault then occur .escrowFault 0 s else s
  if c.sweep then noDropsNotice (startDrop s) else lostAccounting s

/-- An exit passage ends a clearance drop; the next begins, or the clearance ends (R63). An eighth drop
that leaves the tube empty ends it without a fault: the switch is judged first (DESIGN CHOICE, log 31). -/
def nextClearance (c : Clearance) (s : State) : State :=
  if s.cnu.tubeEmpty then endClearance c false s
  else if 8 ≤ c.made then endClearance c true s
  else clearanceDrop (c.made + 1) c.sweep s

/-- A tube clearance is ordered (R63, R178). -/
def orderClearance (s : State) : State :=
  nextClearance ⟨0, s.cnu.ms, false⟩ s

/-- The bottom coin of the escrow list is DROPPING. -/
def bottomDropping (s : State) : Bool := s.cnu.escrow.head?.any fun c => c.status = .dropping

def takeExitPassage (s : State) : State :=
  match s.cnu.clearance with
  | some c => nextClearance c s
  | none =>
    match s.cnu.motion with
    | some m => completeDrop m.dir s
    | none =>
      match s.cnu.stuck with
      | some dir => if bottomDropping s then completeDrop dir s else attrEvent .coinPathErrors s
      | none => attrEvent .coinPathErrors s

/-- EXIT_PASSAGE (R58, R59, R61, R63); a clearance uses the exit sensor directly, in STARTING too. -/
def execExitPassage (tubeEmpty : Bool) (s : State) : Out :=
  onPower s fun s =>
    let s := { s with cnu.tubeEmpty := tubeEmpty }
    if running s && (!starting s || s.cnu.clearance.isSome) then takeExitPassage s
    else hold (.exitPassage s.cnu.clearance.isSome) s

/-- The exit timer of a drop in motion has run out: ESCROW_FAULT, and the queue freezes (R59); the ADU
is told of watched settlements (R56) and of the freeze (R156). -/
def dropStuck (m : Motion) (s : State) : State :=
  let s :=
    { occur .escrowFault 0 s with
      cnu.frozen := true
      cnu.stuck := some m.dir
      cnu.motion := none }
  let s := if s.cnu.watch = [] then s else triggerWriteBack s
  if s.adu.flushPending then queueWriteBack false true s else s

/-- EXIT_TIMEOUT (R59, R63). -/
def execExitTimeout (s : State) : Out :=
  onPower s fun s =>
    if running s then
      match s.cnu.clearance, s.cnu.motion with
      | some c, _ => endClearance c true (elapse (c.deadline - s.cnu.ms) s)
      | none, some m => dropStuck m (elapse (m.deadline - s.cnu.ms) s)
      | none, none => s
    else s

/-! ### The cash box (R64 to R66) -/

/-- An open door or an absent box outside SERVICE is an occurrence (R64). -/
def outsideService (k : IncKind) (s : State) : State :=
  if s.acu.mode = .service then s else occur k 0 s

/-- CASH_DOOR_CHANGE (R64). -/
def execCashDoorChange (isOpen : Bool) (s : State) : Out :=
  onPower s fun s =>
    if s.cnu.doorOpen = isOpen then s
    else
      let s := { s with cnu.doorOpen := isOpen, inu.doorOpen := isOpen }
      if isOpen then outsideService .cashDoorOpen s else s

/-- CASHBOX_PRESENCE_CHANGE (R64, R58). -/
def execCashboxPresenceChange (present : Bool) (s : State) : Out :=
  onPower s fun s =>
    if s.cnu.boxPresent = present then s
    else
      let s := { s with cnu.boxPresent := present, inu.boxPresent := present }
      if present then startDrop s else outsideService .cashboxRemoved s

/-- The access mode has left SERVICE: the CNU judges door and box afresh (R64). -/
def judgeSwitches (s : State) : State :=
  let s := if s.cnu.doorOpen then occur .cashDoorOpen 0 s else s
  if s.cnu.boxPresent then s else occur .cashboxRemoved 0 s

/-- EMPTY_CASHBOX (R66). -/
def emptyCashboxRequest (_ : List Word) (s : State) : State :=
  if s.acu.mode ≠ .service then answer0 .refusedMode s
  else if !running s then answer0 .refusedState s
  else if !s.cnu.boxPresent then answer0 .refusedState s
  else
    let s := moveTally (fun t => { t with boxValue := 0, boxCoins := 0 }) s
    let s := clearLatch .cashboxNearFull (clearLatch .cashboxFull s)
    answer0 .ok (triggerWriteBack s)

def execEmptyCashbox (s : State) : Out :=
  onPower s (onRequest kindEmptyCashbox emptyCashboxRequest)

end Sys2Proof.Machine
end

