-- ==== Sys2Proof/Machine/Access.lean ====
section
/-! DEFINITION. Access Control: the service session, FREEZE, the key and the lapse timer (R166 to
R172), and the notices of passing writes (R10). -/

namespace Sys2Proof.Machine

/-- The mode changes, which raises MODE (R166). -/
def setMode (m : AccessMode) (s : State) : State := raise .mode { s with acu.mode := m }

/-- The lapse timer starts at its full length; a lapse time of 0 leaves it stopped (R171). -/
def startLapse (s : State) : State :=
  let minutes := s.cfl.params.lapse
  { s with acu.lapse := if minutes = 0 then none else some (s.acu.ms + minutes * 60000) }

/-- A SERVICE session ends (R170): the mode is NORMAL, the lapse timer stops, the TRU and the CNU are
told, and MODE is raised. -/
def endSession (s : State) : State :=
  raise .mode (judgeSwitches (autoCheck { s with acu.mode := .normal, acu.lapse := none }))

/-- SERVICE is opened (R168). -/
def openSession (s : State) : State :=
  startLapse (setMode .service { s with acu.attempts := 0 })

/-- The digits of an unlock, if count and digits are in range (R168 step 6). -/
def unlockDigits (ps : List Word) : Option (List Nat) :=
  let n := param ps 1
  if 4 ≤ n ∧ n ≤ 8 then
    let ds := (List.range n).map fun i => param ps (2 + i)
    if ds.all (· ≤ 9) then some ds else none
  else none

/-- A wrong code (R168): the counter grows, and the fifth locks the terminal out. -/
def wrongCode (s : State) : State :=
  let n := s.acu.attempts + 1
  let s := { s with acu.attempts := n }
  let s := if n = 5 then occur .unlockLockout 0 (setMode .lockout s) else s
  answer .wrongCode (wordOf n) 0 0 s

/-- SERVICE_UNLOCK (R168). -/
def serviceUnlockRequest (ps : List Word) (s : State) : State :=
  match s.acu.mode with
  | .lockout => answer0 .lockedOut s
  | .frozen => answer0 .refusedMode s
  | .service => answer0 .refusedMode s
  | .normal =>
    if !running s then answer0 .refusedState s
    else if !s.acu.keyOn then answer0 .refusedState s
    else
      match if s.cfl.fault.isSome then none else s.cfl.params.code with
      | none => answer0 .ok (openSession s)
      | some code =>
        match unlockDigits ps with
        | none => answer0 .badParam s
        | some ds => if ds = code then answer0 .ok (openSession s) else wrongCode s

def execServiceUnlock (s : State) : Out :=
  onPower s (onRequest kindServiceUnlock serviceUnlockRequest)

/-- FREEZE (R169). -/
def freezeRequest (_ : List Word) (s : State) : State :=
  if s.acu.mode ≠ .normal then answer0 .refusedMode s
  else if !running s then answer0 .refusedState s
  else answer0 .ok (setMode .frozen s)

def execFreeze (s : State) : Out := onPower s (onRequest kindFreeze freezeRequest)

/-- SERVICE_END (R170). -/
def serviceEndRequest (_ : List Word) (s : State) : State :=
  if s.acu.mode ≠ .service then answer0 .refusedMode s
  else if !running s then answer0 .refusedState s
  else answer0 .ok (endSession s)

def execServiceEnd (s : State) : Out := onPower s (onRequest kindServiceEnd serviceEndRequest)

/-- The ACU at a controller reset (R172). -/
def resetAccess (s : State) : State :=
  match s.acu.mode with
  | .service => endSession s
  | .frozen => setMode .normal s
  | .lockout => s
  | .normal => s

/-- A key event taken (R167). -/
def takeKey (on : Bool) (s : State) : State :=
  let s := { s with acu.keyOn := on }
  if !on && s.acu.mode = .service then endSession s else s

/-- SERVICE_KEY_CHANGE (R167, R172). -/
def execServiceKeyChange (on : Bool) (s : State) : Out :=
  onPower s fun s => if running s then takeKey on s else hold (.key on) s

/-- The lapse timer has reached its expiry point. -/
def lapseReached (s : State) : Bool := s.acu.lapse.any fun p => p ≤ s.acu.ms

/-- An expiry taken (R171). -/
def takeLapse (s : State) : State :=
  if s.acu.mode = .service && lapseReached s then endSession s else s

/-- LAPSE_EXPIRY (R171); a timer stopped by the power state can only have run out before (R172). -/
def execLapseExpiry (s : State) : Out :=
  onPower s fun s =>
    match s.acu.lapse with
    | some p =>
      if running s then takeLapse (elapse (p - s.acu.ms) s)
      else if lapseReached s then hold .lapse s
      else s
    | none => s

/-! ### Notices of passing writes (R10, R171) -/

/-- The ACU takes a notice: in SERVICE the lapse timer restarts; a late notice of the TARIFF window
asks the TRU for an automatic check (R171). A session opened with a lapse time of 0 has its timer started
by a notice once a reload has given another time (DESIGN CHOICE, log 52). -/
def takeNotice (tariff : Bool) (s : State) : State :=
  if s.acu.mode = .service then startLapse s
  else if tariff then autoCheck s
  else s

/-- A notice reaches the ACU, which holds it while the power state is not RUNNING (R172). -/
def acuNotice (tariff : Bool) (s : State) : State :=
  if running s then takeNotice tariff s else hold (.passingWrite tariff) s

/-- The BPU's notices of a word that has reached NV through a TARIFF or CONFIG window (R10). The TRU takes
its own at once in every power state; the ACU holds its own through a save (R172). -/
def writeNotices (k : WindowKind) (s : State) : State :=
  match k with
  | .tariff => acuNotice true (tariffWritten s)
  | .config => acuNotice false s
  | _ => s

end Sys2Proof.Machine
end

