-- ==== Sys2Proof/Machine/Audit.lean ====
section
/-! DEFINITION. The Audit Unit: the writer's verified writes, the spare pool, FLUSH and COLLECT_LOG
(R154 to R163). WRITE_BACK_DONE stands in Power.lean, since the start-up waits for one. -/

namespace Sys2Proof.Machine

/-! ### Where records stand -/

/-- The window of a log. -/
def logWindow : LogId → WindowKind
  | .call => .callLog
  | .incident => .incidentLog

/-- The size of a log's slots (R12). -/
def recordSize : LogId → Nat
  | .call => 64
  | .incident => 32

/-- Address of spare slot `j` (R12). -/
def spareAddr (j : Nat) (s : State) : Nat := baseOf .spare s + 0x40 + 0x40 * j

/-- Address of remap entry `j` (3.6). -/
def entryAddr (j : Nat) (s : State) : Nat := baseOf .spare s + 8 * j

/-- The spare a slot is remapped to, in the ADU's copy (R162). -/
def mappedSpare (log : LogId) (slot : Nat) (s : State) : Option Nat :=
  s.adu.remap.findIdx? fun e => e = .mapped log slot

/-- Where a slot's record is written: its spare if it is remapped, else its own place (R162). -/
def recordAddr (log : LogId) (slot : Nat) (s : State) : Nat :=
  match mappedSpare log slot s with
  | some j => spareAddr j s
  | none => baseOf (logWindow log) s + recordSize log * slot

/-- The words of a remap entry with its CRC (R162). -/
def entryWords (state : Nat) (log : LogId) (slot : Nat) : List Word :=
  withCrc [wordOf state, wordOf log.code, wordOf slot]

/-- A call record with its unverified flag set and its CRC computed anew; an incident record has no such
flag (R163). -/
def unverified (log : LogId) (ws : List Word) : List Word :=
  match log with
  | .call => withCrc ((ws.take 31).modify 28 fun w => w ||| 0x0010)
  | .incident => ws

/-! ### The job in hand (R155, R161 to R163) -/

/-- The job in hand begins to write words, from the first. -/
def beginWords (phase : RunPhase) (todo : List (Nat × Word)) (r : Run) (s : State) : State :=
  { s with adu.run := some { r with phase := phase, todo := todo, stage := .write, tries := 0 } }

/-- A job newly in hand. -/
def freshRun (j : Job) (todo : List (Nat × Word)) : Run := ⟨j, .home, todo, .write, 0, 0, false⟩

/-- The image of a write-back: the dirty flag is cleared, the check word computed and put in the cache
(R154). With no TALLY window it has no words (R26). -/
def beginWriteBack (flush deferred : Bool) (s : State) : State :=
  let words := tallyWords s.adu.cache
  let check := crc words
  let todo := if hasWindow .tally s then placed (baseOf .tally s) (words ++ [check]) else []
  { s with
    adu.check := check
    adu.dirty := false
    adu.run := some (freshRun (.writeBack flush deferred) todo) }

/-- The writer begins a job (R155). -/
def beginJob (j : Job) (s : State) : State :=
  match j with
  | .record log slot ws =>
    { s with adu.run := some (freshRun j (placed (recordAddr log slot s) ws)) }
  | .writeBack flush deferred => beginWriteBack flush deferred s
  | .checkWord w => { s with adu.run := some (freshRun j [(checkWordAddr s, w)]) }

/-- WRITER_JOB_START (R155): no job starts while the power state is not RUNNING (R165). -/
def execWriterJobStart (s : State) : Out :=
  onPower s fun s =>
    match s.adu.run, s.adu.jobs with
    | none, j :: rest => if running s then beginJob j { s with adu.jobs := rest } else s
    | _, _ => s

/-- A record job has ended; a call record's sequence counts as written (R159). -/
def endRecordJob (log : LogId) (ws : List Word) (s : State) : State :=
  let seq := value32 (ws.getD 0 0) (ws.getD 1 0)
  { s with
    adu.run := none
    adu.greatest := if log = .call then max s.adu.greatest seq else s.adu.greatest }

/-- The record is written once more in full and in place (R163). -/
def beginFinal (log : LogId) (slot : Nat) (ws : List Word) (r : Run) (s : State) : State :=
  beginWords .final (placed (recordAddr log slot s) (unverified log ws)) r s

/-- The record moves to the lowest-numbered FREE spare, or is written in place if none is left (R162,
R163). -/
def moveRecord (log : LogId) (slot : Nat) (ws : List Word) (r : Run) (s : State) : State :=
  match s.adu.remap.findIdx? fun e => e = .free with
  | some j => beginWords (.spare j) (placed (spareAddr j s) ws) r s
  | none => beginFinal log slot ws r s

/-- The ADU's copy shows an entry (R162). -/
def setEntry (j : Nat) (e : RemapEntry) (s : State) : State :=
  { s with adu.remap := s.adu.remap.set j e }

/-- Every word of a record job's phase is dealt with (R162, R163). -/
def recordPhaseDone (log : LogId) (slot : Nat) (ws : List Word) (r : Run) (s : State) : State :=
  match r.phase with
  | .home => endRecordJob log ws s
  | .spare j => beginWords (.entry j) (placed (entryAddr j s) (entryWords 1 log slot)) r s
  | .entry j => endRecordJob log ws (setEntry j (.mapped log slot) s)
  | .entryBad _ => moveRecord log slot ws r s
  | .final => endRecordJob log ws (occur .auditSuspect 3 s)

/-- The word in hand is done with, verified or not; the next begins, or the phase is over. A write-back
or check word whose words are all done waits for its end (WRITE_BACK_DONE, CHECK_WORD_WRITE_DONE). -/
def nextWord (r : Run) (s : State) : State :=
  let r := { r with todo := r.todo.drop 1, stage := .write, tries := 0, begun := true }
  match r.job, r.todo with
  | .record log slot ws, [] => recordPhaseDone log slot ws r s
  | _, _ => { s with adu.run := some r }

/-- A word of a record has failed (R162, R163). -/
def recordWordFailed (log : LogId) (slot : Nat) (ws : List Word) (r : Run) (s : State) : State :=
  match r.phase with
  | .home =>
    if (mappedSpare log slot s).isSome then beginFinal log slot ws r s
    else moveRecord log slot ws r s
  | .spare j =>
    let s := setEntry j .bad s
    beginWords (.entryBad j) (placed (entryAddr j s) (entryWords 2 log slot)) r s
  | .entry j => moveRecord log slot ws r (setEntry j .bad s)
  | .entryBad _ => nextWord r s
  | .final => nextWord r s

/-- A word still mismatches after its second retry: its job acts by kind (R161). -/
def wordFailed (r : Run) (s : State) : State :=
  let r := { r with begun := true }
  match r.job with
  | .record log slot ws => recordWordFailed log slot ws r s
  | _ => nextWord { r with failed := r.failed + 1 } s

/-- The comparison of a word read back with the one written (R161). -/
def compareWord (readBack : Word) (r : Run) (s : State) : State :=
  match r.todo with
  | [] => s
  | (_, w) :: _ =>
    if readBack = w then nextWord r s
    else if r.tries < 2 then
      attrEvent .nvRetries
        { s with
          adu.run := some { r with stage := .write, tries := r.tries + 1, begun := true } }
    else wordFailed r s

/-- NV_READBACK_DONE (R161): the word in hand has been written and read back as this word, which is what
its NV cell now holds (log 19). What of this the port has not carried yet waits until it comes to the
ADU (R16; log 4). -/
def execNvReadbackDone (word : Word) (s : State) : Out :=
  onPower s fun s =>
    match s.adu.run with
    | some r =>
      match r.todo with
      | (a, _) :: _ =>
        if wordMayGoOn r s && (r.stage = .compare || portReaches .adu s) then
          compareWord word r (storeWord a word s)
        else s
      | [] => s
    | none => s

/-! ### Requests (R156, R159) -/

/-- FLUSH (R156); a mark already set answers DEFERRED whatever the drops. -/
def flushRequest (_ : List Word) (s : State) : State :=
  if !running s then answer0 .refusedState s
  else if s.adu.flushPending || (dropsOutstanding s && !s.cnu.frozen) then
    answer0 .deferred { s with adu.flushPending := true }
  else queueWriteBack true false (holdRequest s)

def execFlush (s : State) : Out := onPower s (onRequest kindFlush flushRequest)

/-- The last record (R159). -/
def lastRecord (s : State) : Nat := max s.adu.greatest s.adu.cache.collectedThrough

/-- COLLECT_LOG (R159). -/
def collectLogRequest (ps : List Word) (s : State) : State :=
  let seq := param ps 1 * 65536 + param ps 2
  let through := s.adu.cache.collectedThrough
  if !running s then answer0 .refusedState s
  else if seq < through ∨ lastRecord s < seq then answer0 .badParam s
  else if seq = through then answer0 .ok s
  else
    let old := uncollected s
    let s := judgeCount old (moveTally (fun t => { t with collectedThrough := seq }) s)
    answer0 .ok (triggerWriteBack s)

def execCollectLog (s : State) : Out := onPower s (onRequest kindCollectLog collectLogRequest)

end Sys2Proof.Machine
end

