-- ==== Sys2Proof/Machine/Incident.lean ====
section
/-! DEFINITION. The Incident Unit's own events and requests (R126, R128, R133 to R135). -/

namespace Sys2Proof.Machine

/-- SHOCK_PULSE (R126): an edge counts 200 ms or more after the last one counted. -/
def execShockPulse (s : State) : Out :=
  onPower s fun s =>
    if s.inu.lastShock.all fun p => p + 200 ≤ s.inu.edgeMs then
      attrEvent .shockPulses { s with inu.lastShock := some s.inu.edgeMs }
    else s

/-- CORD_CONTINUITY_CHANGE (R126). -/
def execCordContinuityChange (whole : Bool) (s : State) : Out :=
  onPower s fun s =>
    if s.inu.cordWhole = whole then s
    else
      let s := { s with inu.cordWhole := whole }
      if whole then clearLatch .cordCut s else occur .cordCut 0 s

/-- Where a decay timer started now runs out: the decay period in force, absent for no decay (R128). -/
def decayPoint (a : AttrId) (s : State) : Option Nat :=
  let minutes := (s.cfl.params.attrs.get a).decay
  if minutes = 0 then none else some (s.inu.ms + minutes * 60000)

/-- A decay step (R128): the level falls by 1 if it is above 0; at 0 the attribute is armed. -/
def Attr.decayed (v : Attr) : Attr :=
  { v with level := v.level - 1, armed := v.armed || decide (v.level ≤ 1) }

/-- DECAY_EXPIRY (R128). -/
def execDecayExpiry (attr : AttrId) (s : State) : Out :=
  onPower s fun s =>
    match (s.inu.attrs.get attr).timer with
    | some p =>
      if running s then
        let s := elapse (p - s.inu.ms) s
        putAttr attr { (s.inu.attrs.get attr).decayed with timer := decayPoint attr s } s
      else s
    | none => s

/-- REPORT_FAULT (R133). -/
def reportFaultRequest (ps : List Word) (s : State) : State :=
  if 15 < param ps 1 then answer0 .badParam s
  else answer0 .ok (occur .controllerFault (param ps 1) s)

def execReportFault (s : State) : Out := onPower s (onRequest kindReportFault reportFaultRequest)

/-- What follows the clearing of a latch by CLEAR_INCIDENT (R134). -/
def afterClear (k : IncKind) (s : State) : State :=
  match k with
  | .cashDoorOpen => if s.inu.doorOpen then occur .cashDoorOpen 0 s else s
  | .cashboxRemoved => if s.inu.boxPresent then s else occur .cashboxRemoved 0 s
  | .escrowFault => unfreeze s
  | _ => s

/-- A named latch that is set is cleared (R134). -/
def clearNamed (k : IncKind) (s : State) : State :=
  if latched s.inu.latches k then afterClear k (clearLatch k s) else s

/-- The kinds a CLEAR_INCIDENT code names, in their order (R134). -/
def clearableKinds : Nat → Option (List IncKind)
  | 0 => some [.cashDoorOpen, .cashboxRemoved, .escrowFault, .auditSuspect]
  | 1 => some [.cashDoorOpen]
  | 2 => some [.cashboxRemoved]
  | 7 => some [.escrowFault]
  | 15 => some [.auditSuspect]
  | _ => none

/-- CLEAR_INCIDENT (R134). -/
def clearIncidentRequest (ps : List Word) (s : State) : State :=
  if s.acu.mode ≠ .service then answer0 .refusedMode s
  else if !running s then answer0 .refusedState s
  else
    match clearableKinds (param ps 1) with
    | none => answer0 .badParam s
    | some ks => answer0 .ok (ks.foldl (fun s k => clearNamed k s) s)

def execClearIncident (s : State) : Out :=
  onPower s (onRequest kindClearIncident clearIncidentRequest)

/-- An attribute cleared: total and level 0, armed; its decay timer runs on (R135). -/
def Attr.cleared (v : Attr) : Attr := { v with total := 0, level := 0, armed := true }

/-- The five attributes, in the order of the layouts. -/
def allAttrs : List AttrId :=
  [.shockPulses, .coinRejects, .coinPathErrors, .blockedWrites, .nvRetries]

/-- CLEAR_ATTRIBUTES (R135). -/
def clearAttributesRequest (_ : List Word) (s : State) : State :=
  if s.acu.mode ≠ .service then answer0 .refusedMode s
  else if !running s then answer0 .refusedState s
  else
    let s := allAttrs.foldl (fun s a => putAttr a (s.inu.attrs.get a).cleared s) s
    answer0 .ok (triggerWriteBack s)

def execClearAttributes (s : State) : Out :=
  onPower s (onRequest kindClearAttributes clearAttributesRequest)

end Sys2Proof.Machine
end

