-- ==== Sys2Proof/Machine/Status.lean ====
section
/-! DEFINITION. The status block and the tally area as the controller reads them (R43, R44, R46, R103,
R11, section 3.6). -/

namespace Sys2Proof.Machine

/-- Whole seconds from now to a point of the RTU's count, rounded up; 0 once it has passed (R103). -/
def secondsTo (point : Nat) (s : State) : Nat := (point * 1000 - s.rtu.ms + 999) / 1000

/-- Seconds left in the interval (R103). -/
def intervalLeft (s : State) : Nat :=
  match s.rtu.ctx with
  | some c => (c.finish.map fun e => secondsTo e s).getD 0
  | none => 0

/-- The call is in GRACE: the low-credit flag (R103). -/
def lowCredit (s : State) : Bool := s.rtu.ctx.any fun c => c.phase = .grace

/-- Seconds left in grace (R103). -/
def graceLeft (s : State) : Nat :=
  match s.rtu.ctx with
  | some c => if c.phase = .grace then (c.graceDeadline.map fun e => secondsTo e s).getD 0 else 0
  | none => 0

/-- Class and band (R103). -/
def classAndBand (s : State) : Word :=
  match s.rtu.ctx with
  | some c => bytePair c.cls (c.band.getD 0xFF)
  | none => bytePair 0xFF 0xFF

/-- The terminal flags word (3.6, status block 06h). -/
def terminalFlags (s : State) : Word :=
  wordOf
    (bitIf (coinsBarred s) 0 + bitIf (paidBarred s) 1 + bitIf (outOfOrder s) 2 + bitIf (starting s) 3 +
     bitIf s.cfl.fault.isSome 4 + bitIf s.tru.unsettled 5 + bitIf s.tru.valid 6 +
     bitIf s.adu.suspect 7 + bitIf (lowCredit s) 8 + bitIf s.tru.clock.isSome 9)

/-- The seven words of an intercept record (3.6). -/
def interceptWords (r : Intercept) : List Word :=
  [bytePair r.cause.code (lanesCode r.lanes)] ++ words32 r.addr ++ [r.data] ++
  [bytePair r.index r.mode.code] ++
  (match r.seconds with | some n => words32 n | none => absent32)

/-- The oldest intercept record; an empty queue reads 0 in all seven words (3.6). -/
def oldestIntercept (s : State) : List Word :=
  match s.bpu.intercepts with
  | r :: _ => interceptWords r
  | [] => [0, 0, 0, 0, 0, 0, 0]

/-- The escrow value (R55). -/
def escrowValue (s : State) : Nat := (s.cnu.escrow.map (·.value)).sum

/-- The 36 words of the status block from 00h on (R43). An uncollected count above 65535, which only a
damaged NV gives, shows its low 16 bits (DESIGN CHOICE, log 48). -/
def statusWords (s : State) : List Word :=
  let credit := shownCredit s
  [s.rqu.flags.setWidth 16, s.rqu.mask.setWidth 16,
   wordOf (s.bpu.intercepts.length % 16 + bitIf s.bpu.overflow 15),
   terminalFlags s, wordOf s.lnu.state.code, bytePair s.acu.mode.code s.pfu.power.code] ++
  words32 credit.1 ++ words32 credit.2.1 ++ words32 credit.2.2 ++ words32 (escrowValue s) ++
  [bytePair s.cnu.escrow.length s.cnu.chute.length, classAndBand s, wordOf (intervalLeft s),
   wordOf (graceLeft s), wordOf (uncollected s)] ++
  words32 s.adu.nextCall ++
  [wordOf (s.inu.records.countP fun r => r.state = .pending), s.inu.latches.setWidth 16,
   (s.inu.latches >>> 16).setWidth 16] ++
  (stampNow s).words ++
  [wordOf s.cfl.skip,
   (match s.cfl.fault with | some (r, i) => bytePair r.code i | none => 0)] ++
  oldestIntercept s

/-- The 49 words of the tally area from 00h on, the check word as the cache holds it (R11, R46). -/
def tallyArea (s : State) : List Word := tallyWords s.adu.cache ++ [s.adu.check]

/-- A sample of the live state (R6). -/
def takeSample (s : State) : Sample := ⟨statusWords s, tallyArea s⟩

/-- A substituted word: that of the status block or tally area at a byte offset, and 0000h beyond the
layout (R9, R11). -/
def sampleWord (p : Sample) (k : WindowKind) (offset : Nat) : Word :=
  if k = .tally then p.tally.getD (offset / 2) 0 else p.status.getD (offset / 2) 0

end Sys2Proof.Machine
end

