-- ==== Sys2Proof/Machine/Bus.lean ====
section
/-! DEFINITION. The Bus Passage Unit: classing of controller words, blocked writes and intercepts, the
windows the controller talks through, and PROBE (R1 to R19). -/

namespace Sys2Proof.Machine

/-! ### Classing (R2 to R5, R8, R9, R12) -/

/-- The even address of the word that holds a byte address. -/
def wordAddr (a : Nat) : Nat := a - a % 2

/-- The spare that a log slot is remapped to (R12, R162). -/
def spareOf (remap : List RemapEntry) (log : LogId) (slot : Nat) : Option Nat :=
  remap.findIdx? fun e => e = .mapped log slot

/-- Size and number of the slots of a log window (R12). -/
def slotSize : LogId → Nat
  | .call => 64
  | .incident => 32

def slotCount : LogId → Nat
  | .call => 256
  | .incident => 64

/-- A read in a log window (R12). -/
def classLogRead (log : LogId) (offset : Nat) (s : State) : Action :=
  let k := offset / slotSize log
  if k < slotCount log then
    match spareOf s.adu.remap log k with
    | some j => .redirect j
    | none => .pass
  else .pass

/-- The action for a word in a window, its place not decided by the power state (R4). -/
def classInWindow (write : Bool) (a : Nat) (w : Window) (s : State) : Action :=
  let offset := a - w.base
  let service : Bool := s.acu.mode = .service
  match w.kind, write with
  | .plain, _ => .pass
  | .request, true =>
    if offset < 0x100 ∧ s.bpu.busy.get (offset / 0x40) then .block .slotBusy else .pass
  | .request, false => .pass
  | .status, true => if offset ≤ 4 then .substitute else .block .statusWrite
  | .status, false => .substitute
  | .tariff, true =>
    if service ∧ a ≠ w.base + w.size - 2 then .pass else .block .writeBlocked
  | .tariff, false => .pass
  | .config, true => if service then .pass else .block .writeBlocked
  | .config, false => if service then .pass else .pattern
  | .tally, true => .block .writeBlocked
  | .tally, false => .substitute
  | .callLog, true => .block .writeBlocked
  | .callLog, false => classLogRead .call offset s
  | .incidentLog, true => .block .writeBlocked
  | .incidentLog, false => classLogRead .incident offset s
  | .context, true => .block .writeBlocked
  | .context, false => if service then .pass else .pattern
  | .spare, true => .block .writeBlocked
  | .spare, false => if service then .pass else .pattern

/-- The action for a word at an even address, by the state as it stands (R2, R3, R4). -/
def classify (write : Bool) (a : Nat) (s : State) : Action :=
  match memKind a with
  | none => .pass
  | some m =>
    if m = .nv ∧ !running s then (if write then .block .saveRefused else .pattern)
    else
      match findWindow (s.bpu.table.getD []) a with
      | none => .pass
      | some w => classInWindow write a w s

/-- The window index of an address; FFh in no window (R2). -/
def windowIndex (a : Nat) (s : State) : Nat :=
  ((findWindow (s.bpu.table.getD []) a).map (·.index)).getD 0xFF

/-- The memory address of a word with the action PASS or REDIRECT (R2, R12). -/
def routeOf (a : Nat) (act : Action) (s : State) : Nat :=
  match act, findWindow (s.bpu.table.getD []) a with
  | .redirect j, some w =>
    let log := if w.kind = .callLog then LogId.call else .incident
    baseOf .spare s + 0x40 + 0x40 * j + (a - w.base) % slotSize log
  | _, _ => a

/-! ### Blocked writes (R7, R14, R15) -/

/-- A record is offered to the intercept queue (R15). -/
def offerIntercept (r : Intercept) (s : State) : State :=
  raise .intercept
    (if s.bpu.intercepts.length < 8 then { s with bpu.intercepts := s.bpu.intercepts ++ [r] }
     else { s with bpu.overflow := true })

/-- The record of a blocked write word (R14). -/
def interceptOf (cause : Cause) (c : Cycle) (s : State) : Intercept where
  cause := cause
  addr := c.addr
  data := c.data
  lanes := c.lanes
  index := windowIndex c.addr s
  mode := s.acu.mode
  seconds := s.tru.clock.map Cal.secondOfDay

/-- A write word is blocked: memory is not written, BLOCKED_WRITES counts it, and its record is offered
(R7). -/
def blockWrite (cause : Cause) (c : Cycle) (s : State) : State :=
  offerIntercept (interceptOf cause c s) (attrEvent .blockedWrites s)

/-- The oldest record is removed; an emptied queue clears the overflow flag (R15). -/
def popIntercept (s : State) : State :=
  match s.bpu.intercepts with
  | [] => s
  | _ :: rest =>
    { s with bpu.intercepts := rest, bpu.overflow := s.bpu.overflow && rest ≠ [] }

/-! ### Requests posted (R8, R29) -/

/-- Where in its slot the next word of a request stands that is to be read: its sequence word, or its next
parameter word (R36, 3.6). -/
def Service.nextPlace (v : Service) : Nat :=
  match v.phase with
  | .paramWords => 12 + 2 * v.params.length
  | _ => 2

/-- The next word of its slot has been read. With the sequence word the kind is judged: a DIAL that STARTING
refuses is completed with that result (R29, R39), a kind code goes on to its parameters, and any other word is
completed with UNKNOWN_KIND. With the last parameter the request is handed to its owner (R36). -/
def Service.feed (w : Word) (v : Service) : Service :=
  match v.phase with
  | .seqWord refused =>
    { v with
      seq := w
      phase :=
        if refused then .answered ⟨wordOf ResultCode.starting.code, 0, 0, 0⟩ 0
        else if isKindCode v.kind.toNat then .paramWords
        else .answered ⟨wordOf ResultCode.unknownKind.code, v.kind, 0, 0⟩ 0 }
  | .paramWords =>
    { v with
      params := v.params ++ [w]
      phase := if v.params.length < 25 then .paramWords else .handed }
  | _ => v

/-- The next word of its slot, which stands at `a`, is read from memory (R36). -/
def Service.readWord (m : Memory) (a : Nat) (v : Service) : Service := v.feed (m.word (a + v.nextPlace))

/-- What is left of its slot is read: at most the sequence word and 26 parameter words (R36; log 4). -/
def Service.readAll (m : Memory) (a : Nat) (v : Service) : Service := Nat.repeat (Service.readWord m a) 27 v

/-- The next word of the slot in service is read, if one is still to be read (R36). -/
def readService (s : State) : State :=
  { s with rqu.service := s.rqu.service.map fun v => v.readWord s.mem (slotAddr s v.slot) }

/-- The words left of the slot in service are read (R36; log 4). -/
def readRest (s : State) : State :=
  { s with rqu.service := s.rqu.service.map fun v => v.readAll s.mem (slotAddr s v.slot) }

/-- A slot leaves the queue and is the request in service, its kind word read (R36, R29). -/
def takeIndex (i : Nat) (rest : List Nat) (refused : Bool) (s : State) : State :=
  { s with
    rqu.queue := rest
    rqu.service := some ⟨i, s.mem.word (slotAddr s i), 0, [], .seqWord refused⟩ }

/-- The RQU reads the kind word of the queue's head in STARTING and judges it: a DIAL is taken to be
completed with STARTING, every other kind waits (R29). -/
def readHead (s : State) : State :=
  match s.rqu.queue, s.rqu.service with
  | i :: rest, none =>
    let t := { s with rqu.unread := false }
    if (s.mem.word (slotAddr s i)).toNat = kindDial then takeIndex i rest true t else t
  | _, _ => s

/-- An index has come to the head of the queue, at its posting into an empty queue or at the completion
of the request before it: in STARTING its kind word is to be read, that once (R29). -/
def headComes (s : State) : State :=
  let t := { s with rqu.unread := true }
  if headUnread t then t else s

/-- The index that has come to the head is judged at once if the port comes to the RQU, the sequence word of
a refused DIAL with it, and else when the RQU is granted (R16, R29; log 37). -/
def judgeHead (s : State) : State :=
  let t := headComes s
  if headUnread t && portReaches .rqu t then readRest (readHead t) else t

/-- A full non-zero word has reached a free slot's kind word: the slot is busy and joins the queue
(R8). -/
def postSlot (i : Nat) (s : State) : State :=
  if s.bpu.busy.get i then s
  else
    let t := { s with bpu.busy := s.bpu.busy.set i true, rqu.queue := s.rqu.queue ++ [i] }
    if s.rqu.queue = [] then judgeHead t else t

/-- What follows a passing write word once it is in memory: a posted request, or the notices of R10. -/
def afterWrite (c : Cycle) (s : State) : State :=
  match findWindow (s.bpu.table.getD []) c.addr with
  | none => s
  | some w =>
    let offset := c.addr - w.base
    if w.kind = .request then
      if offset < 0x100 ∧ offset % 0x40 = 0 ∧ c.lanes = .both ∧ c.data ≠ 0 then
        postSlot (offset / 0x40) s
      else s
    else writeNotices w.kind s

/-! ### A controller word -/

/-- The controller is answered, on the lanes it asked for (R6). -/
def answerRead (w : Word) (lanes : Lanes) (s : State) : State :=
  { s with bpu.answer := some ⟨w &&& laneMask lanes, lanes⟩ }

/-- The access of a granted controller word; what an undecoded read returns is free (R2, log 5). -/
def controllerAccess (c : Cycle) (s : State) : State :=
  let a := c.route.getD c.addr
  if c.write then afterWrite c { s with mem := s.mem.store a c.data c.lanes }
  else if (memKind a).isSome then answerRead (s.mem.word a) c.lanes s
  else answerRead (Config.undecodedRead s.free a) c.lanes { s with free := s.free + 1 }

/-- A controller word that needs the port is granted on its arrival, unless the PFU's save stands
before it (R16, R17). -/
def arrivesGranted (s : State) : Bool := s.pfu.power ≠ .saving || s.pfu.save = []

/-- A word with the action PASS or REDIRECT (R17). -/
def portWord (act : Action) (c : Cycle) (s : State) : State :=
  let c := { c with route := some (routeOf c.addr act s) }
  if arrivesGranted s then controllerAccess c s else { s with bpu.cycle := some c }

/-- A substituted read is answered from the burst's sample, taken now if there is none (R6). -/
def substituteRead (c : Cycle) (s : State) : State :=
  match findWindow (s.bpu.table.getD []) c.addr with
  | some w =>
    let p := s.bpu.sample.getD (takeSample s)
    answerRead (sampleWord p w.kind (c.addr - w.base)) c.lanes { s with bpu.sample := some p }
  | none => s

/-- A writable status word takes a write: acknowledge, mask or pop (R9). -/
def commandWord (c : Cycle) (s : State) : State :=
  match findWindow (s.bpu.table.getD []) c.addr with
  | some w =>
    match c.addr - w.base with
    | 0 => { s with rqu.flags := acknowledged s.rqu.flags c.data c.lanes }
    | 2 => { s with rqu.mask := newMask s.rqu.mask c.data c.lanes }
    | _ => popIntercept s
  | none => s

/-- A controller word is classed by the table in force and acts (R2). -/
def classWord (c : Cycle) (s : State) : State :=
  match classify c.write c.addr s with
  | .pass => portWord .pass c s
  | .redirect j => portWord (.redirect j) c s
  | .block cause => blockWrite cause c s
  | .substitute => if c.write then commandWord c s else substituteRead c s
  | .pattern => { s with bpu.answer := some ⟨0x5AC3, .both⟩ }

/-- A controller word arrives: held until a table is installed (R1), else classed. The controller
drives one word at a time, so none arrives while one is held (R17). -/
def busWord (c : Cycle) (s : State) : State :=
  if s.bpu.cycle.isSome then s
  else if s.bpu.table.isNone then { s with bpu.cycle := some c }
  else classWord c s

/-- The held word is classed afresh: at the installation of the table (R1) and at the change to SAVING
(R18). -/
def reclassCycle (s : State) : State :=
  match s.bpu.cycle with
  | some c => busWord { c with route := none } { s with bpu.cycle := none }
  | none => s

/-- A full write word to an address, as the controller drives it. -/
def writeCycle (a : Nat) (data : Word) (lanes : Lanes) : Cycle := ⟨true, a, data, lanes, none⟩

/-- CONTROLLER_READ (R2, R6); the first word of a cycle or burst drops the sample of the one before. -/
def execControllerRead (addr : BitVec 20) (lanes : Lanes) (first : Bool) (s : State) : Out :=
  onPower s fun s =>
    if s.bpu.cycle.isSome then s
    else
      busWord ⟨false, wordAddr addr.toNat, 0, lanes, none⟩
        { s with bpu.answer := none, bpu.sample := if first then none else s.bpu.sample }

/-- CONTROLLER_WRITE (R2). -/
def execControllerWrite (addr : BitVec 20) (data : Word) (lanes : Lanes) (s : State) : Out :=
  onPower s (busWord (writeCycle (wordAddr addr.toNat) data lanes))

/-- POST_REQUEST (R8): a full write to a slot's kind word. -/
def execPostRequest (slot : Fin 4) (kind : Word) (s : State) : Out :=
  onPower s fun s =>
    if hasWindow .request s then busWord (writeCycle (slotAddr s slot.val) kind .both) s else s

/-- A write to a word of the status block at this offset (R9). -/
def statusWrite (offset : Nat) (data : Word) (lanes : Lanes) (s : State) : State :=
  if hasWindow .status s then busWord (writeCycle (baseOf .status s + offset) data lanes) s else s

/-- EVENT_ACKNOWLEDGE (R9, R41). -/
def execEventAcknowledge (data : Word) (lanes : Lanes) (s : State) : Out :=
  onPower s (statusWrite 0 data lanes)

/-- EVENT_MASK_WRITE (R9, R42). -/
def execEventMaskWrite (data : Word) (lanes : Lanes) (s : State) : Out :=
  onPower s (statusWrite 2 data lanes)

/-- INTERCEPT_POP (R9, R15). -/
def execInterceptPop (data : Word) (lanes : Lanes) (s : State) : Out :=
  onPower s (statusWrite 4 data lanes)

/-! ### PROBE (R19) -/

/-- Cause of an action, FFh when absent (3.6). -/
def actionCause : Action → Nat
  | .block c => c.code
  | _ => 0xFF

/-- Spare index of an action, absent unless it is REDIRECT (3.6). -/
def actionSpare : Action → Word
  | .redirect j => wordOf j
  | _ => absent16

/-- The kind PROBE shows: PLAIN for a decoded address in no window (R19). -/
def probeKind (a : Nat) (s : State) : Option WindowKind :=
  if (memKind a).isSome then
    some (((findWindow (s.bpu.table.getD []) a).map (·.kind)).getD .plain)
  else none

def probeRequest (ps : List Word) (s : State) : State :=
  let a := param ps 1 * 65536 + param ps 2
  if 0xFFFFF < a ∨ 1 < param ps 3 then answer0 .badParam s
  else
    let a := wordAddr a
    let act := classify (param ps 3 = 1) a s
    answer .ok (bytePair (probeKindCode (probeKind a s)) (windowIndex a s))
      (bytePair act.code (actionCause act)) (actionSpare act) s

/-- PROBE (R19). The moment at which the request is dispatched is taken to be this command, at which its
owner judges it (DESIGN CHOICE, log 47). -/
def execProbe (s : State) : Out := onPower s (onRequest kindProbe probeRequest)

end Sys2Proof.Machine
end

