-- ==== Sys2Proof/Machine/Loader.lean ====
section
/-! DEFINITION. The Configuration Loader: the chain walk, the window set, the parameters, config fault,
preload and RELOAD_CONFIG (R20 to R34). -/

namespace Sys2Proof.Machine

/-! ### Bodies (R22, R24, 3.6) -/

/-- A body or its beginning, as a function from a word's place to its value. -/
abbrev Body := Nat → Nat

/-- The body length a kind id must have; `none` for an unknown kind (R22). -/
def lengthGood (kind len : Nat) : Option Bool :=
  match kind with
  | 1 => some (len = 5)
  | 2 => some (len = 13)
  | 3 => some (len = 8)
  | 4 => some (len = 29)
  | 5 => some (len = 33)
  | 6 => some (len = 10)
  | 7 => some (len = 2)
  | 8 => some (len = 1)
  | 9 => some (len = 10)
  | 10 => some (len % 3 = 0 && decide (len ≤ 96))
  | _ => none

/-- A value in a range. -/
def within (lo hi v : Nat) : Bool := decide (lo ≤ v) && decide (v ≤ hi)

/-- The ranges of the LINE body, word by word (R24). -/
def lineRanges : List (Nat × Nat) :=
  [(1, 5), (50, 200), (50, 200), (30, 180), (15, 120), (5, 60), (5, 30), (0, 240)]

/-- Word `i` of an EMERGENCY body: count, then for each number its digit count and six places, of
which those beyond the digit count, and the numbers beyond the count, are not checked (R24). -/
def emergencyField (w : Body) (i : Nat) : Bool :=
  if i = 0 then within 0 4 (w 0)
  else
    let number := (i - 1) / 7
    let place := (i - 1) % 7
    if w 0 ≤ number then true
    else if place = 0 then within 1 6 (w i)
    else if w (7 * number + 1) < place then true
    else within 0 9 (w i)

/-- Word `i` of a REPORT body (R24). -/
def reportField (w : Body) (i : Nat) : Bool :=
  if i = 0 then within 1 16 (w 0)
  else if i ≤ 16 then decide (w 0 < i) || within 0 9 (w i)
  else if i ≤ 24 then within 0 9 (w i)
  else if i ≤ 30 then within 1 1440 (w i)
  else within 0 1440 (w i)

/-- Word `i` of a SERVICE body (R24). -/
def serviceField (w : Body) (i : Nat) : Bool :=
  if i = 0 then within 4 8 (w 0)
  else if i ≤ 8 then decide (w 0 < i) || within 0 9 (w i)
  else within 0 240 (w i)

/-- Whether the field that word `i` of a body ends is in its range (R22, R23, R24). -/
def fieldGood (kind : Nat) (w : Body) (i : Nat) : Bool :=
  match kind with
  | 1 => if i = 0 then within 0 9 (w 0) else if i = 2 ∨ i = 4 then w i % 2 = 0 else true
  | 2 =>
    if i = 12 then w 12 = 0 || within 300 3000 (w 12)
    else if i % 2 = 0 then within 1 5000 (w i)
    else within 0 1 (w i)
  | 3 => let r := lineRanges.getD i (0, 0); within r.1 r.2 (w i)
  | 4 => emergencyField w i
  | 5 => reportField w i
  | 6 => if i % 2 = 0 then within 0 255 (w i) else within 0 1440 (w i)
  | 7 =>
    if i = 0 then within 1 1999 (w 0) else within 2 2000 (w 1) && decide (w 0 < w 1)
  | 8 => within 1 247 (w 0)
  | 9 => serviceField w i
  | _ => true

/-! ### The walk (R20 to R22) -/

/-- The walk fails. -/
def Walk.fail (r : WalkReason) (index : Nat) (k : Walk) : Walk :=
  { k with stage := .ended, verdict := some (r, index) }

/-- An offset is followed to the descriptor of chain index `idx`: even and its start in the chain range,
then not below `least` (R21). With CONFIG placed elsewhere than at 80000h every offset lies outside the
chain range (R23). -/
def Walk.follow (off idx least : Nat) (k : Walk) : Walk :=
  let start := 0x80000 + off
  if off % 2 ≠ 0 ∨ !k.anchored ∨ start < k.lo ∨ k.hi ≤ start then k.fail .offsetRange idx
  else if off < least then k.fail .offsetOrder idx
  else { k with stage := .header, next := start, unit := [], off := off, idx := idx }

/-- The end of the chain: COINS must have been found (R22). -/
def Walk.endChain (k : Walk) : Walk :=
  if k.found.any fun f => f.kind = 2 then { k with stage := .ended } else k.fail .missing 0xFF

/-- A descriptor is done with, its next offset followed (R20 to R22). -/
def Walk.nextDescriptor (k : Walk) : Walk :=
  if k.link = 0 then k.endChain
  else if 31 ≤ k.idx then k.fail .tooMany 32
  else k.follow k.link (k.idx + 1) (k.off + 1)

/-- A known descriptor's body has been read whole. -/
def Walk.keep (k : Walk) : Walk :=
  Walk.nextDescriptor { k with found := k.found ++ [⟨k.kind, k.idx, k.unit⟩] }

/-- The anchor's words (R20). -/
def Walk.anchorWord (ws : List Word) (k : Walk) : Walk :=
  match ws with
  | [sig] =>
    if sig = 0x4B44 then { k with unit := ws, next := k.next + 2 } else k.fail .badAnchor 0xFF
  | [_, h, l] =>
    if value32 h l = 0 then k.fail .badAnchor 0xFF else k.follow (value32 h l) 0 6
  | _ => { k with unit := ws, next := k.next + 2 }

/-- The header is read: the end of the descriptor is checked, then its length, then for a duplicate
(R21, R22). -/
def Walk.judgeHeader (link kind len : Nat) (k : Walk) : Walk :=
  let k := { k with unit := [], link := link, kind := kind, len := len, next := k.next + 2 }
  if k.hi < 0x80000 + k.off + 2 * (4 + len) then k.fail .offsetRange k.idx
  else
    match lengthGood kind len with
    | none => k.nextDescriptor
    | some false => k.fail .length k.idx
    | some true =>
      if kind ≠ 1 ∧ k.found.any fun f => f.kind = kind then k.fail .duplicate k.idx
      else if len = 0 then k.keep
      else { k with stage := .body }

/-- A header word. -/
def Walk.headerWord (ws : List Word) (k : Walk) : Walk :=
  match ws with
  | [h, l, kind, len] => k.judgeHeader (value32 h l) kind.toNat len.toNat
  | _ => { k with unit := ws, next := k.next + 2 }

/-- A body word: its field is checked as it is read (R22). -/
def Walk.bodyWord (ws : List Word) (k : Walk) : Walk :=
  let k := { k with unit := ws, next := k.next + 2 }
  if !fieldGood k.kind (fun i => (ws.getD i 0).toNat) (ws.length - 1) then k.fail .field k.idx
  else if k.len ≤ ws.length then k.keep
  else k

/-- The walk takes the word it asked for. -/
def Walk.feed (w : Word) (k : Walk) : Walk :=
  match k.stage with
  | .anchor => k.anchorWord (k.unit ++ [w])
  | .header => k.headerWord (k.unit ++ [w])
  | .body => k.bodyWord (k.unit ++ [w])
  | .ended => k

/-- The walk goes on over memory; 32 descriptors of at most 100 words and the anchor bound it. -/
def Walk.run (m : Memory) : Nat → Walk → Walk
  | 0, k => k
  | fuel + 1, k => if k.stage = .ended then k else Walk.run m fuel (k.feed (m.word k.next))

/-- The walk is read to its end. -/
def Walk.finish (m : Memory) (k : Walk) : Walk := k.run m 3300

/-! ### The window set (R23) -/

/-- The windows of an image in load order. -/
def windowDescs (found : List Found) : List WindowDesc :=
  (found.filter fun f => f.kind = 1).filterMap fun f =>
    match f.body with
    | [c, bh, bl, sh, sl] =>
      (WindowKind.ofCode c.toNat).map fun k => ⟨k, value32 bh bl, value32 sh sl, f.chain⟩
    | _ => none

/-- A range wholly in RAM, or wholly in NV (R2). -/
def inRam (base size : Nat) : Bool := decide (base + size ≤ 0x40000)
def inNv (base size : Nat) : Bool := decide (0x80000 ≤ base) && decide (base + size ≤ 0xA0000)

/-- The range lies wholly in its kind's memory (R4, R23). -/
def WindowDesc.placed (d : WindowDesc) : Bool :=
  match d.kind with
  | .plain => inRam d.base d.size || inNv d.base d.size
  | .request => inRam d.base d.size
  | .status => inRam d.base d.size
  | _ => inNv d.base d.size

/-- Minimum sizes (R4); no window has size 0 (R23). -/
def WindowKind.minimum : WindowKind → Nat
  | .plain => 1
  | .request => 0x100
  | .status => 0x80
  | .tariff => 0x2000
  | .config => 0x800
  | .tally => 0x100
  | .callLog => 0x4000
  | .incidentLog => 0x800
  | .context => 0x100
  | .spare => 0x240

def WindowDesc.overlaps (d e : WindowDesc) : Bool :=
  decide (d.base < e.base + e.size) && decide (e.base < d.base + d.size)

/-- The first window that clashes with one before it. -/
def firstClash (clash : WindowDesc → WindowDesc → Bool) (before : List WindowDesc) :
    List WindowDesc → Option WindowDesc
  | [] => none
  | d :: ds => if before.any (clash d) then some d else firstClash clash (d :: before) ds

/-- The nine required kinds (R23). -/
def requiredKinds : List WindowKind :=
  [.request, .status, .tariff, .config, .tally, .callLog, .incidentLog, .context, .spare]

/-- The failing index of a window set, its conditions judged in the order of R23's table (DEDUCED,
log 14). -/
def windowSetFault (ds : List WindowDesc) : Option Nat :=
  ((ds[12]?).map (·.chain)).or
    (((ds.find? fun d => !d.placed).map (·.chain)).or
      (((ds.find? fun d => decide (d.size < d.kind.minimum)).map (·.chain)).or
        (((firstClash WindowDesc.overlaps [] ds).map (·.chain)).or
          (((firstClash (fun d e => d.kind ≠ .plain && d.kind = e.kind) [] ds).map (·.chain)).or
            (if requiredKinds.all fun k => ds.any fun d => d.kind = k then none else some 0xFF)))))

/-- The outcome of a walk: its reason and failing index, the window set judged last (R23). -/
def Walk.outcome (k : Walk) : Option (WalkReason × Nat) :=
  match k.verdict with
  | some v => some v
  | none => (windowSetFault (windowDescs k.found)).map fun i => (.windowSet, i)

/-- A window takes its place by base. -/
def insertWindow (w : Window) : List Window → List Window
  | [] => [w]
  | v :: vs => if w.base < v.base then w :: v :: vs else v :: insertWindow w vs

/-- The window table of a good set: sorted by base, each index the load order (R1, R23). -/
def tableOf (ds : List WindowDesc) : List Window :=
  (ds.zipIdx.map fun p => (⟨p.1.kind, p.1.base, p.1.size, p.2⟩ : Window)).foldr insertWindow []

/-- The default window table (R13). -/
def defaultTable : List Window :=
  [⟨.request, 0x3F000, 0x100, 0⟩, ⟨.status, 0x3F100, 0x80, 1⟩, ⟨.config, 0x80000, 0x20000, 2⟩]

/-! ### Parameters (R24) -/

/-- The body of the descriptor of a kind, if the image has one. -/
def bodyOf (found : List Found) (kind : Nat) : Option Body :=
  (found.find? fun f => f.kind = kind).map fun f => fun i => (f.body.getD i 0).toNat

/-- `n` values of a body from place `i` on. -/
def bodySlice (w : Body) (i n : Nat) : List Nat := (List.range n).map fun k => w (i + k)

def coinsParams (w : Body) (p : Params) : Params :=
  { p with
    denoms := (List.range 6).map fun k => ⟨w (2 * k), decide (w (2 * k + 1) = 1)⟩
    pathWindow := if w 12 = 0 then 1200 else w 12 }

def lineParams (w : Body) (p : Params) : Params :=
  { p with
    dialDelay := w 0
    toneOn := w 1
    toneOff := w 2
    answerTimeout := w 3
    readyTimeout := w 4
    followWindow := w 5
    graceTime := w 6
    maxDuration := w 7 }

def emergencyParams (w : Body) (p : Params) : Params :=
  { p with
    emergency := (List.range (w 0)).map fun j => bodySlice w (7 * j + 2) (w (7 * j + 1)) }

def reportParams (w : Body) (p : Params) : Params :=
  { p with
    report := some ⟨bodySlice w 1 (w 0), bodySlice w 17 8, bodySlice w 25 6⟩
    hold2 := w 31
    hold1 := w 32 }

def attributeParams (w : Body) (p : Params) : Params :=
  { p with
    attrs := ⟨⟨w 0, w 1⟩, ⟨w 2, w 3⟩, ⟨w 4, w 5⟩, ⟨w 6, w 7⟩, ⟨w 8, w 9⟩⟩ }

def cashboxParams (w : Body) (p : Params) : Params :=
  { p with boxNearFull := w 0, boxFull := w 1 }

def logParams (w : Body) (p : Params) : Params := { p with logNearFull := w 0 }

def serviceParams (w : Body) (p : Params) : Params :=
  { p with code := some (bodySlice w 1 (w 0)), lapse := w 9 }

/-- A descriptor's parameters, if it is present. -/
def applyBody (found : List Found) (kind : Nat) (f : Body → Params → Params) (p : Params) : Params :=
  match bodyOf found kind with
  | some w => f w p
  | none => p

/-- The parameters of an image: each descriptor's values, and the "If absent" values of those missing
(R24). -/
def paramsOf (found : List Found) : Params :=
  applyBody found 9 serviceParams
    (applyBody found 8 logParams
      (applyBody found 7 cashboxParams
        (applyBody found 6 attributeParams
          (applyBody found 5 reportParams
            (applyBody found 4 emergencyParams
              (applyBody found 3 lineParams
                (applyBody found 2 coinsParams Params.absent)))))))

/-! ### Preload (R27) -/

/-- The tuples of a PRELOAD body. -/
def tuplesOf : List Word → List (Nat × Word)
  | ah :: al :: d :: rest => (value32 ah al, d) :: tuplesOf rest
  | _ => []

/-- The PRELOAD tuples of an image, in body order. -/
def preloadOf (found : List Found) : List (Nat × Word) :=
  match found.find? fun f => f.kind = 10 with
  | some f => tuplesOf f.body
  | none => []

/-- A tuple is written, or skipped and counted (R27). -/
def preloadTuple (t : Nat × Word) (s : State) : State :=
  if preloadSkipped t.1 s then { s with cfl.skip := s.cfl.skip + 1 } else storeWord t.1 t.2 s

/-- The tuples left are dealt with in order. -/
def finishPreload (s : State) : State :=
  { (s.cfl.preload.getD []).foldl (fun s t => preloadTuple t s) s with cfl.preload := none }

/-- The CFL may end its walk: the words left are read only once the port comes to it (R16; log 4). -/
def walkMayEnd (k : Walk) (s : State) : Bool := k.stage = .ended || portReaches .cfl s

/-- The CFL may end its preload: the tuples left are written only once the port comes to it. -/
def preloadMayEnd (s : State) : Bool := preloadHead s = [] || portReaches .cfl s

/-! ### Start-up steps 1 and 2 -/

/-- The configuration is installed: the table in force, the parameters, the tuples to be preloaded; the
held controller cycle is classed (R1, R23 to R25). -/
def installConfig (table : List Window) (p : Params) (tuples : List (Nat × Word)) (s : State) : State :=
  reclassCycle
    { s with
      bpu.table := some table
      cfl.params := p
      cfl.walk := none
      cfl.preload := some tuples
      cfl.skip := 0
      cfl.step := .preload }

/-- CHAIN_WALK_DONE (R20 to R25). While the power state is not RUNNING the step waits (R31). -/
def execChainWalkDone (s : State) : Out :=
  onPower s fun s =>
    match s.cfl.step, s.cfl.walk with
    | .walk, some k =>
      if running s && walkMayEnd k s then
        let k := k.finish s.mem
        match k.outcome with
        | none =>
          installConfig (tableOf (windowDescs k.found)) (paramsOf k.found) (preloadOf k.found) s
        | some v =>
          occur .configFault 0
            (installConfig defaultTable Params.absent [] { s with cfl.fault := some v })
      else s
    | _, _ => s

/-- PRELOAD_DONE (R27). -/
def execPreloadDone (s : State) : Out :=
  onPower s fun s =>
    match s.cfl.step with
    | .preload =>
      if running s && preloadMayEnd s then
        let s := finishPreload s
        { s with cfl.step := .audit }
      else s
    | _ => s

/-! ### RELOAD_CONFIG (R32 to R34) -/

def reloadConfigRequest (_ : List Word) (s : State) : State :=
  if s.acu.mode ≠ .service then answer0 .refusedMode s
  else if !running s then answer0 .refusedState s
  else if s.lnu.state ≠ .idle then answer0 .refusedState s
  else if s.cnu.escrow ≠ [] then answer0 .refusedState s
  else
    let lo := baseOf .config s
    let hi := lo + ((windowOf .config s).map (·.size)).getD 0
    holdRequest
      { s with cfl.walk := some (Walk.start lo hi (lo = 0x80000)), cfl.reloading := true }

/-- RELOAD_CONFIG (R32). -/
def execReloadConfig (s : State) : Out :=
  onPower s (onRequest kindReloadConfig reloadConfigRequest)

/-- A decay timer that is stopped starts if its new period is not 0 (R128). -/
def startStoppedDecays (s : State) : State :=
  let start (c : AttrCfg) (v : Attr) : Attr :=
    if v.timer.isNone && c.decay ≠ 0 then { v with timer := some (s.inu.ms + c.decay * 60000) }
    else v
  let c := s.cfl.params.attrs
  let v := s.inu.attrs
  { s with
    inu.attrs :=
      ⟨start c.shockPulses v.shockPulses, start c.coinRejects v.coinRejects,
        start c.coinPathErrors v.coinPathErrors, start c.blockedWrites v.blockedWrites,
        start c.nvRetries v.nvRetries⟩ }

/-- The blocks take new parameters at the end of a reload walk: the two counts are compared at once, and
stopped decay timers start (R33, R65, R128). -/
def giveParams (p : Params) (s : State) : State :=
  let old := s.cfl.params.logNearFull
  let count := uncollected s
  let s := { s with cfl.params := p }
  let s := fillCheck s
  let s := raiseIf (p.logNearFull ≤ count && count < old) .log s
  startStoppedDecays s

/-- RELOAD_WALK_DONE (R32, R33). -/
def execReloadWalkDone (s : State) : Out :=
  onPower s fun s =>
    match s.cfl.reloading, s.cfl.walk with
    | true, some k =>
      if walkMayEnd k s then
        let k := k.finish s.mem
        match k.outcome with
        | some (r, i) =>
          answerHeld kindReloadConfig .chainBad (wordOf i) (wordOf r.code) 0
            { s with cfl.walk := none, cfl.reloading := false }
        | none =>
          let s := giveParams (paramsOf k.found) { s with cfl.walk := none }
          { s with
            cfl.image := windowDescs k.found
            cfl.preload := some (preloadOf k.found)
            cfl.skip := 0 }
      else s
    | _, _ => s

/-- A window set in load order: kind, base and size (R34). -/
def imageList (ds : List WindowDesc) : List (WindowKind × Nat × Nat) :=
  ds.map fun d => (d.kind, d.base, d.size)

/-- The table in force in load order (R34). -/
def tableList (table : List Window) : List (WindowKind × Nat × Nat) :=
  (List.range table.length).filterMap fun i =>
    (table.find? fun w => w.index = i).map fun w => (w.kind, w.base, w.size)

/-- RELOAD_PRELOAD_DONE (R27, R34). -/
def execReloadPreloadDone (s : State) : Out :=
  onPower s fun s =>
    match s.cfl.reloading, s.cfl.preload with
    | true, some _ =>
      if preloadMayEnd s then
        let same : Bool := imageList s.cfl.image = tableList (s.bpu.table.getD [])
        let s := finishPreload s
        answerHeld kindReloadConfig (if same then .ok else .okWindowsDeferred) 0 0 0
          { s with cfl.reloading := false, cfl.image := [] }
      else s
    | _, _ => s

end Sys2Proof.Machine
end

