-- ==== Sys2Proof/Machine/Startup.lean ====
section
/-! DEFINITION. Step 3 of the start-up: the tally load, the remap table, the log scans and the INU's
rebuild (R137, R153, R160, R164). -/

namespace Sys2Proof.Machine

/-! ### The ADU's loads -/

/-- The tally load (R153). -/
def loadTallies (s : State) : State :=
  let base := baseOf .tally s
  let ws := s.mem.words base 48
  let check := s.mem.word (base + 96)
  let good : Bool := crc ws = check
  let erased : Bool := (ws ++ [check]).all fun w => w = 0xFFFF
  let cache := if good || !erased then talliesOf ws else Tallies.zero
  let s := { s with adu.cache := cache, adu.check := check, adu.suspect := !good }
  if good then s else occur .auditSuspect 1 s

/-- The reading of a remap entry's four words (R164). -/
def entryOf (ws : List Word) : RemapEntry :=
  match ws with
  | [state, log, slot, _] =>
    if state = 0 ∨ state = 0xFFFF then .free
    else if state = 1 ∧ crcGood ws then
      match log.toNat with
      | 1 => if slot.toNat < 256 then .mapped .call slot.toNat else .bad
      | 2 => if slot.toNat < 64 then .mapped .incident slot.toNat else .bad
      | _ => .bad
    else .bad
  | _ => .bad

/-- Of two MAPPED entries that name one slot the higher is taken as BAD (R164). -/
def dropTwins : List RemapEntry → List RemapEntry → List RemapEntry
  | _, [] => []
  | before, e :: es =>
    let twin : Bool := match e with | .mapped _ _ => before.contains e | _ => false
    (if twin then .bad else e) :: dropTwins (before ++ [e]) es

/-- The remap table read at power-on (R164). -/
def loadRemap (s : State) : State :=
  { s with
    adu.remap := dropTwins [] ((List.range 8).map fun j => entryOf (s.mem.words (entryAddr j s) 4)) }

/-- The words of a log slot, remaps followed. -/
def slotWords (log : LogId) (slot : Nat) (s : State) : List Word :=
  s.mem.words (recordAddr log slot s) (recordSize log / 2)

/-- The call sequence a slot holds: its CRC is good and the sequence belongs to the slot (R160). -/
def heldCall (slot : Nat) (s : State) : Option Nat :=
  let ws := slotWords .call slot s
  let seq := value32 (ws.getD 0 0) (ws.getD 1 0)
  if crcGood ws ∧ seq % 256 = slot then some seq else none

/-- The slots of a log read a second time: those whose CRC fails, and those whose first read failed
although the record stands (R160; log 15). -/
def rereads (log : LogId) (misread : List Nat) (s : State) : Nat :=
  (List.range (slotCount log)).countP fun k => !crcGood (slotWords log k s) || misread.contains k

/-- The scan of the call log: the positions, and the near-full judgement (R160). -/
def scanCalls (misread : List Nat) (s : State) : State :=
  let s := attrEvents .nvRetries (rereads .call misread s) s
  let greatest := ((List.range 256).filterMap fun k => heldCall k s).foldl max 0
  let next := (max greatest s.adu.cache.collectedThrough + 1) % 0x100000000
  let s := { s with adu.greatest := greatest, adu.nextCall := next }
  raiseIf (s.cfl.params.logNearFull ≤ uncollected s) .log s

/-- In config fault the ADU loads and scans nothing (R26, R160, R164). -/
def faultLoads (s : State) : State :=
  { s with
    adu.cache := Tallies.zero
    adu.suspect := true
    adu.remap := List.replicate 8 .bad
    adu.nextCall := 1 }

/-! ### The INU's rebuild (R137) -/

/-- The record an incident slot holds: its CRC is good and its kind is 1 to 17 (R137 step 2). Its severity is
its kind's, whatever the severity byte reads (DESIGN CHOICE, log 54), and a state code above 2 is REPORTED
(log 20). -/
def heldIncident (slot : Nat) (s : State) : Option IncRec :=
  match slotWords .incident slot s with
  | [seq, kind, detail, state, f0, f1, f2, l0, l1, l2, n0, n1, n2, sh, sl, c] =>
    if crcGood [seq, kind, detail, state, f0, f1, f2, l0, l1, l2, n0, n1, n2, sh, sl, c] then
      (IncKind.ofCode (firstByte kind)).map fun k =>
        { slot := slot
          seq := seq.toNat
          kind := k
          detail := firstByte detail
          count := secondByte detail
          state := RecState.ofCode (secondByte state % 16)
          attempts := firstByte state
          cleared := decide (secondByte state / 16 % 2 = 1)
          first := ⟨f0, f1, f2⟩
          last := ⟨l0, l1, l2⟩
          nextAttempt := ⟨n0, n1, n2⟩
          snapshot := if value32 sh sl = 0xFFFFFFFF then none else some (value32 sh sl)
          due := 0 }
    else none
  | _ => none

/-- A record takes its place by sequence. Of loaded records with equal sequences the one in the higher
slot comes first (DESIGN CHOICE, log 46). -/
def insertRecord (r : IncRec) : List IncRec → List IncRec
  | [] => [r]
  | x :: xs => if r.seq < x.seq then r :: x :: xs else x :: insertRecord r xs

/-- The gaps after each of the rising sequences, the last one around the circle to `first`. -/
def gapsAfter (first : Nat) : List Nat → List Nat
  | [] => []
  | [a] => [first + 65536 - a]
  | a :: b :: rest => (b - a) :: gapsAfter first (b :: rest)

/-- The place of the newest record: just before the largest gap, the last of equal ones (R137 step 3). -/
def newestPlace (gaps : List Nat) : Nat :=
  let best := gaps.foldl max 0
  ((gaps.zipIdx.filter fun g => g.1 = best).getLast?.map (·.2)).getD 0

/-- Records in creation order: from the one after the largest gap around the circle (R137 step 3). -/
def creationOrder (records : List IncRec) : List IncRec :=
  let sorted := records.foldr insertRecord []
  let seqs := sorted.map (·.seq)
  let k := newestPlace (gapsAfter (seqs.headD 0) seqs) + 1
  sorted.drop k ++ sorted.take k

/-- The attributes as loaded; one whose level reads 0 is armed (R137 step 1). -/
def rebuildAttr (a : AttrId) (s : State) : State :=
  let c := s.adu.cache.attrs.get a
  putAttr a ⟨c.total, c.level, c.armed || decide (c.level = 0), none⟩ s

/-- The index, its order and the incident counter (R137 steps 2 and 3). -/
def rebuildIndex (s : State) : State :=
  let records := creationOrder ((List.range 64).filterMap fun k => heldIncident k s)
  { s with
    inu.records := records
    inu.counter := match records.getLast? with | some r => (r.seq + 1) % 65536 | none => 0 }

/-- Each REPORTING record becomes PENDING (R137 step 4), and every PENDING record is due (step 5). Several
REPORTING records return in creation order, each folding as R132 has a returned record fold (DESIGN
CHOICE, log 46). -/
def rebuildQueue (s : State) : State :=
  let carried := (s.inu.records.filter fun r => r.state = .reporting).map (·.seq)
  let s := forSeqs yieldRecord carried s
  { s with inu.records := s.inu.records.map fun r => { r with due := inuNow s } }

/-- A service latch is set if the most recent record of its kind carries no mark (R137 step 6). -/
def rebuildLatch (k : IncKind) (s : State) : State :=
  match latestOf k s with
  | some r => if r.cleared then s else setLatch k s
  | none => s

/-- A latch set by a count (R137 step 7). -/
def countLatch (c : Bool) (k : IncKind) (s : State) : State := if c then setLatch k s else s

/-- The sensors (R137 step 8). -/
def rebuildSensors (s : State) : State :=
  let s := if s.inu.doorOpen then takeOccurrence .cashDoorOpen 0 s else s
  let s := if s.inu.boxPresent then s else takeOccurrence .cashboxRemoved 0 s
  if s.inu.cordWhole then s else takeOccurrence .cordCut 0 s

/-- What the INU holds. -/
def Held.isIncident : Held → Bool
  | .occurrence _ _ => true
  | .attrEvent _ => true
  | .clearLatch _ => true
  | _ => false

/-- A held item of the INU is taken by its own rule. -/
def takeIncidentItem (h : Held) (s : State) : State :=
  match h with
  | .occurrence k d => occur k d s
  | .attrEvent a => attrEvent a s
  | .clearLatch k => clearLatch k s
  | _ => s

/-- The INU applies its held items in arrival order (R136, R137 step 9). -/
def replayIncidents (s : State) : State :=
  let items := s.held.filter Held.isIncident
  let s := { s with held := s.held.filter fun h => !h.isIncident }
  items.foldl (fun s h => takeIncidentItem h s) s

/-- The rebuild (R137); in config fault there is no log to read, and steps 1, 7, 8 and 9 alone are
taken, so that no decay timer starts. -/
def rebuild (s : State) : State :=
  let s := allAttrs.foldl (fun s a => rebuildAttr a s) s
  let s :=
    if s.cfl.fault.isSome then s
    else
      [IncKind.cashDoorOpen, .cashboxRemoved, .escrowFault, .auditSuspect].foldl
        (fun s k => rebuildLatch k s) (rebuildQueue (rebuildIndex s))
  let coins := s.adu.cache.boxCoins
  let s := countLatch (s.cfl.params.boxNearFull ≤ coins) .cashboxNearFull s
  let s := countLatch (s.cfl.params.boxFull ≤ coins) .cashboxFull s
  let s := countLatch (248 ≤ uncollected s) .logFull s
  let s := replayIncidents { rebuildSensors s with inu.rebuilt := true }
  if s.cfl.fault.isSome then s else startStoppedDecays s

/-- STARTUP_AUDIT_LOAD_DONE: the ADU's loads and scans, then the INU's rebuild. The words that the port has
not carried yet are read in this step once it comes to the ADU; the areas are closed to the controller's
writes (R16, R4; logs 4 and 15). Step 4 then begins to read the TARIFF window, if there is one (R78). -/
def execStartupAuditLoadDone (misreadCalls misreadIncidents : List Nat) (s : State) : Out :=
  onPower s fun s =>
    match s.cfl.step with
    | .audit =>
      if running s && (s.cfl.fault.isSome || portReaches .adu s) then
        let s :=
          if s.cfl.fault.isSome then faultLoads s
          else
            let s := scanCalls misreadCalls (loadRemap (loadTallies s))
            attrEvents .nvRetries (rereads .incident misreadIncidents s) s
        { rebuild s with
          cfl.step := .tariff, tru.compare := if hasWindow .tariff s then some [] else none }
      else s
    | _ => s

end Sys2Proof.Machine
end

