-- ==== Sys2Proof/Machine/Context.lean ====
section
/-! DEFINITION. The context block: what the save writes and what a power-on reads of it (R174, R176,
section 3.6). -/

namespace Sys2Proof.Machine

/-! ### Writing -/

/-- `n` absent words (R45). -/
def absentWords (n : Nat) : List Word := List.replicate n absent16

/-- S, L and C for bands 0 to 3, and P; absent for class 0 (3.6). -/
def rowWords : Option Row → List Word
  | some r =>
    [r.setup, r.b0.len, r.b0.charge, r.b1.len, r.b1.charge, r.b2.len, r.b2.charge, r.b3.len,
      r.b3.charge, r.surcharge].map wordOf
  | none => absentWords 10

/-- The call and rating parts of an open call, from 08h to 52h (3.6). -/
def callPart (c : Ctx) (s : State) : List Word :=
  let now := rtuNow s
  words32 c.owner.seq ++ [wordOf s.lnu.number.length] ++ packDigits s.lnu.number ++
  c.seizeStamp.words ++ words32 (now - c.seizePoint) ++
  [bytePair c.cls (if c.emergency then 1 else 0)] ++ rowWords c.row ++
  [bytePair c.phase.code (c.band.getD 0xFF)] ++ words32 c.cin ++ words32 c.consumed ++
  words32 c.committed ++ [wordOf (sat16 c.intervals), wordOf c.roll.length] ++
  words32 (rollValue c.roll) ++
  (match c.answerPoint with | some a => words32 (now - a) | none => absent32) ++
  [wordOf (bitIf c.graceUsed 0 + bitIf c.owner.unlogged 1)]

/-- The direction in which a DROPPING coin goes: that of the drop in motion, or of the stuck one. -/
def droppingDir (s : State) : Option Dir := (s.cnu.motion.map (·.dir)).or s.cnu.stuck

/-- An escrow entry (3.6). -/
def coinWords (c : Coin) (s : State) : List Word :=
  let dir := if c.status = .dropping then ((droppingDir s).map Dir.code).getD 0 else 0
  [wordOf c.seq, bytePair c.denom c.status.code, wordOf c.value] ++
  (match c.owner with | some o => words32 o.seq | none => absent32) ++
  [wordOf (bitIf c.isForeign 0 + bitIf (c.owner.any (·.unlogged)) 1 + dir * 256)]

/-- The sequences of the REPORTING records (R174). -/
def reportingSeqs (s : State) : List Nat :=
  ((s.inu.records.filter fun r => r.state = .reporting).map (·.seq)).take 4

/-- The context block's words from 00h to C2h, for a save whose tally check word is `check` (R174). -/
def contextBody (check : Word) (s : State) : List Word :=
  let coins := s.cnu.escrow.take 8
  let seqs := reportingSeqs s
  (stampNow s).words ++ [check] ++
  (match s.rtu.ctx with | some c => callPart c s | none => absentWords 38) ++
  [wordOf coins.length] ++ (coins.flatMap fun c => coinWords c s) ++
  absentWords (6 * (8 - coins.length)) ++
  words32 (if s.rtu.ctx.isSome then 0 else s.rtu.carry) ++ [wordOf seqs.length] ++ seqs.map wordOf ++
  absentWords (4 - seqs.length)

/-! ### Reading -/

/-- A saved escrow entry with its direction. -/
structure SavedCoin where
  coin : Coin
  dir : Dir

/-- Word `i` of a list of words. -/
def wordAt (ws : List Word) (i : Nat) : Word := ws.getD i 0

/-- The escrow entry in six words. A status code above 2 is read as DROPPING, and a direction other than 1
as RETURN (3.6 gives no other codes; DESIGN CHOICE, log 54). -/
def savedCoin (ws : List Word) : SavedCoin :=
  let w := wordAt ws
  let flags := (w 5).toNat
  let owner := value32 (w 3) (w 4)
  { coin :=
      { seq := (w 0).toNat
        denom := firstByte (w 1)
        value := (w 2).toNat
        isForeign := decide (flags % 2 = 1)
        owner := if owner = 0xFFFFFFFF then none else some ⟨owner, decide (flags / 2 % 2 = 1)⟩
        status :=
          match secondByte (w 1) with
          | 0 => .held
          | 1 => .committed
          | _ => .dropping }
    dir := if flags / 256 % 4 = 1 then .collect else .ret }

/-- The saved escrow entries, bottom first; of a count above 8 the 8 entries that stand (DESIGN CHOICE,
log 54). -/
def savedCoins (ws : List Word) : List SavedCoin :=
  (List.range (min (wordAt ws 42).toNat 8)).map fun i => savedCoin ((ws.drop (43 + 6 * i)).take 6)

/-- The digits packed in five words, up to a count. -/
def unpackDigits (ws : List Word) (n : Nat) : List Nat :=
  (List.range n).map fun i => (wordAt ws (i / 4)).toNat / 16 ^ (3 - i % 4) % 16

/-- Whether a call part was saved: its fields are absent otherwise (R174). -/
def callSaved (ws : List Word) : Bool := wordAt ws 6 ≠ absent16

/-- The saved call's owner. -/
def savedOwner (ws : List Word) : Owner :=
  ⟨value32 (wordAt ws 4) (wordAt ws 5), decide ((wordAt ws 41).toNat / 2 % 2 = 1)⟩

/-- The 32-bit value at word `i`. -/
def valueAt (ws : List Word) (i : Nat) : Nat := value32 (wordAt ws i) (wordAt ws (i + 1))

/-- Seconds from answer to the warning, absent if the call was not answered. -/
def savedAnswer (ws : List Word) : Option Nat :=
  if valueAt ws 39 = 0xFFFFFFFF then none else some (valueAt ws 39)

/-- A stamp of three words. -/
def stampAt (ws : List Word) (i : Nat) : Stamp := ⟨wordAt ws i, wordAt ws (i + 1), wordAt ws (i + 2)⟩

/-- The value of the saved call's HELD coins (R177 step 4). -/
def savedHeld (ws : List Word) : Nat :=
  (((savedCoins ws).filter fun c =>
    c.coin.status = .held && c.coin.owner = some (savedOwner ws)).map (·.coin.value)).sum

/-- The open credit U of a saved context (R177 step 3). -/
def savedCredit (ws : List Word) : Nat :=
  if callSaved ws then valueAt ws 29 + valueAt ws 33 - valueAt ws 31 else valueAt ws 91

/-- The call record of a saved call (R177 step 4); of a digit count above 20 the 20 digits that stand
(DESIGN CHOICE, log 54). -/
def savedRecord (ws : List Word) (o : Owner) : CallRecord where
  owner := o
  cls := firstByte (wordAt ws 17)
  digits := unpackDigits ((ws.drop 7).take 5) (min (wordAt ws 6).toNat 20)
  seize := stampAt ws 12
  answerOffset := (savedAnswer ws).map fun a => valueAt ws 15 - a
  duration := (savedAnswer ws).getD 0
  intervals := (wordAt ws 35).toNat
  consumed := valueAt ws 31
  coins := (wordAt ws 36).toNat
  coinValue := valueAt ws 37
  committed := valueAt ws 33
  returned := savedHeld ws
  carriedIn := valueAt ws 29
  carriedOut := 0
  cause := .powerLoss
  followOn := false
  graceUsed := decide ((wordAt ws 41).toNat % 2 = 1)
  powerLoss := true
  clockInvalid := decide (stampAt ws 12 = Stamp.zero) || decide (stampAt ws 0 = Stamp.zero)
  emergency := decide (secondByte (wordAt ws 17) = 1)

/-- The saved REPORTING sequences; of a count above 4 the 4 that stand (DESIGN CHOICE, log 54). -/
def savedSeqs (ws : List Word) : List Nat :=
  (List.range (min (wordAt ws 93).toNat 4)).map fun i => (wordAt ws (94 + i)).toNat

end Sys2Proof.Machine
end

