-- ==== Sys2Proof/Machine/Line.lean ====
section
/-! DEFINITION. The Line Unit: the line states and their events, DIAL and the requests of a call, and
the report calls on the line (R106 to R123). A body `take…` is the event taken; its command holds the
event while the power state is not RUNNING (R123). -/

namespace Sys2Proof.Machine

/-! ### Ending a call -/

/-- DOWN is entered: the relay opens (R107, R119). -/
def goDown (s : State) : State := setLine .down (openRelay s)

/-- CLEARING is entered for 1 s (R114, R115). -/
def enterClearing (s : State) : State :=
  let s := setLine .clearing (openRelay s)
  { s with lnu.timers.clearing := some (s.lnu.ms + 1000) }

/-- A caller's call is ended with a cause, in any of its states from SEIZING to GRACE (R114, R115). -/
def endCall (cause : EndCause) (s : State) : State :=
  if s.lnu.state.isEndable then
    let s := stopCall s
    let keep := s.lnu.followOn && s.lnu.offHook && cause ≠ .lineLost
    let s := settle cause keep s
    let s := { s with lnu.keep := keep, lnu.number := [], lnu.followOn := false }
    if cause = .lineLost then goDown s else enterClearing s
  else s

/-! ### Timers -/

/-- A line timer's command: time moves on to the point at which it runs out (log 4). A timer that does
not run, or is stopped by the power state, runs out at no point (R123). -/
def atLineTimer (t : Timers → Option Nat) (f : State → State) (s : State) : State :=
  match t s.lnu.timers with
  | some p => if running s then f (elapse (p - s.lnu.ms) s) else s
  | none => s

/-! ### Hook events (R108, R114 to R116, R121) -/

/-- A caller's off-hook in a report state: the report yields, or the off-hook is remembered (R121). -/
def offHookInReport (s : State) : State :=
  let yields : Bool :=
    !carriesGrave s &&
      (s.lnu.state = .reportSeizing || s.lnu.state = .reportDialling ||
        s.lnu.state = .reportAwaitAnswer)
  if yields then setLine .ready (yieldReport (openRelay (stopCall s)))
  else { s with lnu.offHookMemory := true }

def takeOffHook (s : State) : State :=
  let s := { s with lnu.offHook := true }
  if starting s then s
  else if s.lnu.state = .idle then setLine .ready s
  else if s.lnu.state.isReport then offHookInReport s
  else s

def takeOnHook (s : State) : State :=
  let s := { s with lnu.offHook := false }
  if starting s then s
  else if s.lnu.state.isReport then { s with lnu.offHookMemory := false }
  else
    match s.lnu.state with
    | .ready => releasePreCall (setLine .idle s)
    | .followOn => releaseCarry { setLine .idle s with lnu.timers.window := none }
    | .parked => setLine .idle s
    | _ => endCall .onHook s

/-- OFF_HOOK (R108, R121). -/
def execOffHook (s : State) : Out :=
  onPower s fun s => if running s then takeOffHook s else hold .offHook s

/-- ON_HOOK (R108, R114, R116, R121). -/
def execOnHook (s : State) : Out :=
  onPower s fun s => if running s then takeOnHook s else hold .onHook s

/-- READY_TIMEOUT (R108). -/
def execReadyTimeout (s : State) : Out :=
  onPower s (atLineTimer (·.ready) fun s => releasePreCall (setLine .parked s))

/-- QUIET_TIME (R108): the line is quiet, and the RPU judges a start (R140). -/
def execQuietTime (s : State) : Out :=
  onPower s
    (atLineTimer (·.quiet) fun s =>
      judgeStart { s with lnu.quiet := true, lnu.timers.quiet := none })

/-! ### Seizure and dialling (R107, R111 to R113, R120) -/

/-- CLEAR_GUARD_END (R107, R111). -/
def execClearGuardEnd (s : State) : Out := onPower s (atLineTimer (·.guard) closeRelay)

def takeLoopAppears (s : State) : State :=
  let s := { s with lnu.loop := true, lnu.timers.loss := none }
  if s.lnu.timers.loop.isSome then
    { s with
      lnu.loopSeen := true
      lnu.timers.loop := none
      lnu.timers.dialDelay := some (s.lnu.ms + s.cfl.params.dialDelay * 1000) }
  else s

/-- LOOP_APPEARS (R111, R119, R120). -/
def execLoopAppears (s : State) : Out :=
  onPower s fun s => if running s then takeLoopAppears s else hold .loopAppears s

/-- The LNU ends a report call on its own and tells the RPU of a line failure (R120). -/
def endReportByLine (s : State) : State := lineFailure (clearReport s)

/-- LOOP_TIMEOUT (R111, R120). -/
def execLoopTimeout (s : State) : Out :=
  onPower s
    (atLineTimer (·.loop) fun s =>
      if s.lnu.state = .reportSeizing then endReportByLine s else endCall .seizeFailed s)

/-- DIAL_DELAY_END (R111, R120): tone sending begins. -/
def execDialDelayEnd (s : State) : Out :=
  onPower s
    (atLineTimer (·.dialDelay) fun s =>
      let s := { s with lnu.timers.dialDelay := none }
      startTone (setLine (if s.lnu.state = .reportSeizing then .reportDialling else .dialling) s))

/-- The call is answered: the RTU is told, and the line becomes CONNECTED, or GRACE (R113, R96). -/
def answerCall (s : State) : State :=
  let s := rateAnswer { s with lnu.timers.answer := none }
  setLine (if s.rtu.ctx.any fun c => c.phase = .grace then .grace else .connected) s

/-- The centre has answered: the 1 s delay starts (R120). -/
def answerReport (s : State) : State :=
  { s with lnu.timers.reportAnswer := none, lnu.timers.sendDelay := some (s.lnu.ms + 1000) }

/-- AWAIT_ANSWER or REPORT_AWAIT_ANSWER is entered; reversed polarity answers at once (R113, R120). -/
def awaitAnswer (report : Bool) (s : State) : State :=
  if report then
    let s := setLine .reportAwaitAnswer s
    if s.lnu.reversed then answerReport s
    else { s with lnu.timers.reportAnswer := some (s.lnu.ms + 45000) }
  else
    let s := setLine .awaitAnswer s
    if s.lnu.reversed then answerCall s
    else { s with lnu.timers.answer := some (s.lnu.ms + s.cfl.params.answerTimeout * 1000) }

/-- The silence of the buffer's last digit has ended (R112, R120, R144). -/
def sendingEnds (s : State) : State :=
  match s.lnu.state with
  | .dialling => awaitAnswer false s
  | .reportDialling => awaitAnswer true s
  | .reportSending => { setLine .reportAwaitAck s with rpu.firstTone := some (s.rpu.ms + 10000) }
  | _ => s

/-- TONE_ON_END (R112): the digit's silence begins. -/
def execToneOnEnd (s : State) : Out :=
  onPower s fun s =>
    match s.lnu.tone with
    | some t =>
      if t.on && running s then
        let s := elapse (t.finish - s.lnu.ms) s
        { s with lnu.tone := some ⟨false, s.lnu.ms + t.offTime, t.offTime⟩ }
      else s
    | none => s

/-- TONE_OFF_END (R112): the digit leaves the buffer, and the next one starts. -/
def execToneOffEnd (s : State) : Out :=
  onPower s fun s =>
    match s.lnu.tone with
    | some t =>
      if !t.on && running s then
        let s := elapse (t.finish - s.lnu.ms) s
        let s := { s with lnu.buffer := s.lnu.buffer.drop 1 }
        let s := if s.lnu.state = .reportSending then handTone s else s
        let s := startTone s
        if s.lnu.tone.isNone then sendingEnds s else s
      else s
    | none => s

/-- ANSWER_TIMEOUT (R113). -/
def execAnswerTimeout (s : State) : Out :=
  onPower s (atLineTimer (·.answer) (endCall .noAnswer))

def takeReversal (s : State) : State :=
  let s := { s with lnu.reversed := true }
  if s.lnu.state = .awaitAnswer then answerCall s
  else if s.lnu.timers.reportAnswer.isSome then answerReport s
  else s

/-- POLARITY_REVERSAL (R113, R120). -/
def execPolarityReversal (s : State) : Out :=
  onPower s fun s => if running s then takeReversal s else hold .reversal s

def takeReversion (s : State) : State :=
  let s := { s with lnu.reversed := false }
  match s.lnu.state with
  | .connected => endCall .farEnd s
  | .grace => endCall .farEnd s
  | .reportSending => endReportByLine s
  | .reportAwaitAck => endReportByLine s
  | _ => s

/-- POLARITY_REVERSION (R114, R120): far-end clear, or the centre's clear. -/
def execPolarityReversion (s : State) : Out :=
  onPower s fun s => if running s then takeReversion s else hold .reversion s

/-- CLEARING_END (R115, R116). -/
def execClearingEnd (s : State) : Out :=
  onPower s
    (atLineTimer (·.clearing) fun s =>
      let keep := s.lnu.keep
      let s := { s with lnu.keep := false, lnu.timers.clearing := none }
      match keep, s.lnu.offHook with
      | true, true =>
        { setLine .followOn s with
          lnu.timers.window := some (s.lnu.ms + s.cfl.params.followWindow * 1000) }
      | true, false => releaseCarry (setLine .idle s)
      | false, true => setLine .parked s
      | false, false => setLine .idle s)

/-- FOLLOW_ON_WINDOW_END (R116, R102). -/
def execFollowOnWindowEnd (s : State) : Out :=
  onPower s
    (atLineTimer (·.window) fun s =>
      releaseCarry { setLine .parked s with lnu.timers.window := none })

/-! ### DIAL (R109, R110, R122) -/

/-- The states in which an emergency DIAL is accepted (R109 step 4). -/
def emergencyState (s : State) : Bool :=
  match s.lnu.state with
  | .ready => true
  | .followOn => true
  | .parked => true
  | st => st.isReport && s.lnu.offHook

/-- A report in flight yields to an accepted emergency DIAL (R122); REPORT_CLEARING just ends. The
off-hook memory ends with the report (log 23). -/
def yieldToDial (s : State) : State :=
  if s.lnu.state.isReport then
    let inFlight := s.lnu.state ≠ .reportClearing
    let s := openRelay (stopCall s)
    let s := if inFlight then yieldReport s else s
    { s with lnu.offHookMemory := false }
  else s

/-- A DIAL is accepted (R110). -/
def acceptDial (number : List Nat) (cls : Nat) (emergency : Bool) (row : Option Row) (s : State) :
    State :=
  let s := yieldToDial s
  let (owner, s) := openCall s
  let s := openContext owner cls emergency row s
  let s :=
    { s with
      lnu.buffer := number
      lnu.number := number
      lnu.followOn := false
      lnu.timers.window := none }
  let s := beginSeizure .seizing s
  answer .ok (bytePair cls (if emergency then 1 else 0)) (wordOf (owner.seq / 65536))
    (wordOf owner.seq) s

/-- Steps 8 to 10 of R109 for a class, and acceptance. -/
def judgeClass (number : List Nat) (cls : Nat) (row : Option Row) (s : State) : State :=
  if cls ≠ 0 ∧ 248 ≤ uncollected s then answer0 .logFull s
  else if cls ≠ 0 ∧ paidBarred s then answer0 .paidBarred s
  else if row.any fun r => creditInHand s < deposit r s then answer0 .insufficientCredit s
  else acceptDial number cls false row s

/-- DIAL judged in the order of R109. -/
def dialRequest (ps : List Word) (s : State) : State :=
  if !running s then answer0 .refusedState s
  else if s.lnu.state = .down then answer0 .refusedState s
  else
    match digitsOf (param ps 1) 20 2 ps with
    | none => answer0 .badParam s
    | some number =>
      if isEmergency number s then
        if emergencyState s then acceptDial number 0 true none s else answer0 .refusedState s
      else if s.lnu.state.isReport then answer0 .lineBusy s
      else if s.lnu.state ≠ .ready ∧ s.lnu.state ≠ .followOn then answer0 .refusedState s
      else if outOfOrder s then answer0 .refusedState s
      else
        match analyse number s with
        | .refused c => answer0 c s
        | .route cls _ row => judgeClass number cls row s

/-- DIAL (R109): a DIAL whose analysis has words of the TARIFF window left is judged once the port comes
to the TRU, which then reads them (R16; logs 4 and 22). -/
def execDial (s : State) : Out :=
  onPower s fun s =>
    if analysisReads s && !portReaches .tru s then s else onRequest kindDial dialRequest s

/-! ### Requests during a call (R117, R118) -/

/-- SEND_DIGITS (R117). -/
def sendDigitsRequest (ps : List Word) (s : State) : State :=
  if !running s then answer0 .refusedState s
  else if s.lnu.state ≠ .connected ∧ s.lnu.state ≠ .grace then answer0 .refusedState s
  else
    match digitsOf (param ps 1) 16 2 ps with
    | none => answer0 .badParam s
    | some ds =>
      if 36 < s.lnu.buffer.length + ds.length then answer0 .refusedState s
      else
        let s := { s with lnu.buffer := s.lnu.buffer ++ ds }
        answer0 .ok (if s.lnu.tone.isNone then startTone s else s)

def execSendDigits (s : State) : Out := onPower s (onRequest kindSendDigits sendDigitsRequest)

/-- FOLLOW_ON (R118). -/
def followOnRequest (_ : List Word) (s : State) : State :=
  let armable : Bool :=
    s.lnu.state = .awaitAnswer || s.lnu.state = .connected || s.lnu.state = .grace
  if running s && armable then answer0 .ok { s with lnu.followOn := true }
  else answer0 .refusedState s

def execFollowOn (s : State) : Out := onPower s (onRequest kindFollowOn followOnRequest)

/-- RELEASE (R118): a bad flag is judged first, as the parameter stands first in the rule. -/
def releaseRequest (ps : List Word) (s : State) : State :=
  if 1 < param ps 1 then answer0 .badParam s
  else if running s && s.lnu.state.isEndable then
    answer0 .ok
      (endCall .released { s with lnu.followOn := s.lnu.followOn || decide (param ps 1 = 1) })
  else answer0 .refusedState s

def execRelease (s : State) : Out := onPower s (onRequest kindRelease releaseRequest)

/-! ### Line faults (R119) -/

/-- The states whose loop current is watched once loop has appeared (R119). -/
def LineState.watchesLoop : LineState → Bool
  | .seizing | .dialling | .awaitAnswer | .connected | .grace => true
  | .reportSeizing | .reportDialling | .reportAwaitAnswer | .reportSending | .reportAwaitAck => true
  | _ => false

def takeLoopLost (s : State) : State :=
  let s := { s with lnu.loop := false }
  if s.lnu.state.watchesLoop && s.lnu.relay && s.lnu.loopSeen then
    { s with lnu.timers.loss := some (s.lnu.ms + 2000) }
  else s

/-- LOOP_LOST (R119). -/
def execLoopLost (s : State) : Out :=
  onPower s fun s => if running s then takeLoopLost s else hold .loopLost s

/-- LOOP_LOSS_TIMEOUT (R119). The off-hook memory ends with the report (log 23). -/
def execLoopLossTimeout (s : State) : Out :=
  onPower s
    (atLineTimer (·.loss) fun s =>
      let s := occur .lineFault 0 { s with lnu.timers.loss := none }
      if s.lnu.state.isReport then
        goDown { lineFailure (stopCall s) with lnu.offHookMemory := false }
      else endCall .lineLost s)

def takeVoltage (present : Bool) (s : State) : State :=
  let now := s.lnu.ms
  if s.lnu.voltage = present then s
  else
    { s with
      lnu.voltage := present
      lnu.timers.absent :=
        if s.lnu.state.watchesVoltage && !present then some (now + 5000) else none
      lnu.timers.present := if s.lnu.state = .down && present then some (now + 5000) else none }

/-- LINE_VOLTAGE_CHANGE (R106, R119). -/
def execLineVoltageChange (present : Bool) (s : State) : Out :=
  onPower s fun s => if running s then takeVoltage present s else hold (.voltage present) s

/-- Voltage has been absent for 5 s in a state that watches it: the line goes DOWN, so that no report can
start on it, and LINE_FAULT is handed; it leaves READY or FOLLOW_ON without a call (R119). -/
def voltageFault (s : State) : State :=
  let left := s.lnu.state
  let s := occur .lineFault 0 { goDown s with lnu.timers.window := none }
  match left with
  | .ready => releasePreCall s
  | .followOn => releaseCarry s
  | _ => s

/-- VOLTAGE_ABSENT_TIMEOUT (R119); through STARTING the verdict waits for its end (R28). -/
def execVoltageAbsentTimeout (s : State) : Out :=
  onPower s
    (atLineTimer (·.absent) fun s =>
      if starting s then s else voltageFault { s with lnu.timers.absent := none })

/-- VOLTAGE_RESTORED (R119): the fault has ended. -/
def execVoltageRestored (s : State) : Out :=
  onPower s
    (atLineTimer (·.present) fun s =>
      setLine (if s.lnu.offHook then .ready else .idle) (clearLatch .lineFault s))

/-! ### Report calls on the line (R120, R121) -/

/-- REPORT_ANSWER_TIMEOUT (R120). -/
def execReportAnswerTimeout (s : State) : Out :=
  onPower s (atLineTimer (·.reportAnswer) endReportByLine)

/-- REPORT_SEND_DELAY_END (R120, R142, R143). -/
def execReportSendDelayEnd (s : State) : Out :=
  onPower s
    (atLineTimer (·.sendDelay) fun s => sendMessage { s with lnu.timers.sendDelay := none })

/-- REPORT_CLEARING_END (R121). -/
def execReportClearingEnd (s : State) : Out :=
  onPower s
    (atLineTimer (·.reportClearing) fun s =>
      let next := if s.lnu.offHookMemory then LineState.ready else .idle
      setLine next { s with lnu.offHookMemory := false, lnu.timers.reportClearing := none })

end Sys2Proof.Machine
end

