-- ==== Sys2Proof/Machine/Rating.lean ====
section
/-! DEFINITION. The Rating Unit's own timer events (R94, R98, R99, R105). A body `take…` is the expiry
taken once the RTU's count has reached its point. -/

namespace Sys2Proof.Machine

/-- An RTU timer's command (log 4): in RUNNING time moves on to its point, in seconds of the RTU's count,
and the expiry is taken; otherwise an expiry that the count had reached before is held (R105). -/
def atRatingPoint (point : Option Nat) (h : Held) (take : State → State) (s : State) : State :=
  match point with
  | some p =>
    if running s then take (elapse (p * 1000 - s.rtu.ms) s)
    else if p ≤ rtuNow s then hold h s
    else s
  | none => s

/-- The interval end in CHARGING (R94). -/
def takeIntervalEnd (s : State) : State :=
  match chargingEnd s with
  | some e => if e ≤ rtuNow s then beginInterval e false s else s
  | none => s

/-- INTERVAL_END (R94). -/
def execIntervalEnd (s : State) : Out :=
  onPower s fun s => atRatingPoint (chargingEnd s) .intervalEnd takeIntervalEnd s

/-- The RTU cuts the call off: the phase is ENDING, and the LNU gets an end order (R98, R99). -/
def cutOff (cause : EndCause) (c : Ctx) (s : State) : State :=
  endCall cause
    { s with rtu.ctx := some { c with phase := .ending, due := 0, graceDeadline := none } }

/-- The grace deadline of a call in GRACE. -/
def gracePoint (s : State) : Option Nat :=
  match s.rtu.ctx with
  | some c => if c.phase = .grace then c.graceDeadline else none
  | none => none

def takeGraceDeadline (s : State) : State :=
  match s.rtu.ctx, gracePoint s with
  | some c, some p => if p ≤ rtuNow s then cutOff .creditExhausted c s else s
  | _, _ => s

/-- GRACE_DEADLINE (R98). -/
def execGraceDeadline (s : State) : Out :=
  onPower s fun s => atRatingPoint (gracePoint s) .graceDeadline takeGraceDeadline s

/-- The maximum-duration end in any phase but ENDING. -/
def limitPoint (s : State) : Option Nat :=
  match s.rtu.ctx with
  | some c => if c.phase = .ending then none else c.maxEnd
  | none => none

def takeMaxDurationEnd (s : State) : State :=
  match s.rtu.ctx, limitPoint s with
  | some c, some p => if p ≤ rtuNow s then cutOff .maxDuration c s else s
  | _, _ => s

/-- MAX_DURATION_END (R99). -/
def execMaxDurationEnd (s : State) : Out :=
  onPower s fun s => atRatingPoint (limitPoint s) .maxDurationEnd takeMaxDurationEnd s

end Sys2Proof.Machine
end

