-- ==== Sys2Proof/Machine/Report.lean ====
section
/-! DEFINITION. The Report Unit's own events: received tones and their timers, due points, TEST_REPORT
(R139, R140, R144, R145). -/

namespace Sys2Proof.Machine

/-- A failure in REPORT_AWAIT_ACK: the LNU is asked to end the report (R147). -/
def failAck (s : State) : State := failReport (clearReport s)

/-- A tone at ack stage NONE (R144, R145). -/
def toneAtNone (c : ReportCall) (t : Tone) (s : State) : State :=
  match t with
  | .a =>
    { s with
      rpu.call := some { c with stage := .afterA }
      rpu.firstTone := none
      rpu.interTone := some (s.rpu.ms + 1000) }
  | .b =>
    if c.resend then failAck s
    else sendMessage { s with rpu.call := some { c with resend := true }, rpu.firstTone := none }
  | _ => failAck s

/-- A tone at ack stage AFTER_A (R144). -/
def toneAfterA (c : ReportCall) (t : Tone) (s : State) : State :=
  match t with
  | .digit d =>
    if c.digits.length < 12 then
      { s with
        rpu.call := some { c with digits := c.digits ++ [d.val] }
        rpu.interTone := some (s.rpu.ms + 1000) }
    else acceptReport true false s
  | .hash => acceptReport true (decide (c.digits.length = 12)) s
  | _ => acceptReport true false s

/-- A received tone reaches the RPU in REPORT_AWAIT_ACK and is discarded in every other state (R106). -/
def takeTone (t : Tone) (s : State) : State :=
  match s.rpu.call with
  | some c =>
    if s.lnu.state = .reportAwaitAck then
      match c.stage with
      | .none => toneAtNone c t s
      | .afterA => toneAfterA c t s
      | .settled => s
    else s
  | none => s

/-- TONE_RECEIVED (R144). -/
def execToneReceived (tone : Tone) (s : State) : Out :=
  onPower s fun s => if running s then takeTone tone s else hold (.tone tone) s

/-- An RPU timer's command: time moves on to the point at which it runs out (log 4). -/
def atReportTimer (t : Option Nat) (f : State → State) (s : State) : State :=
  match t with
  | some p => if running s then f (elapse (p - s.rpu.ms) s) else s
  | none => s

/-- FIRST_TONE_TIMEOUT (R144, R147). -/
def execFirstToneTimeout (s : State) : Out :=
  onPower s fun s => atReportTimer s.rpu.firstTone failAck s

/-- INTER_TONE_TIMEOUT (R144, R148). -/
def execInterToneTimeout (s : State) : Out :=
  onPower s fun s => atReportTimer s.rpu.interTone (acceptReport true false) s

/-- The earliest due point of the PENDING records. -/
def earliestDue (s : State) : Option Nat := ((reportQueue s).map (·.due)).min?

/-- RECORD_DUE_POINT (R140): the INU's second count reaches the earliest due point of a PENDING
record, and a start is judged. -/
def execRecordDuePoint (s : State) : Out :=
  onPower s fun s =>
    match earliestDue s with
    | some p => if running s then judgeStart (elapse (p * 1000 - s.inu.ms) s) else s
    | none => s

/-- TIME_REQUEST_DUE (R140). -/
def execTimeRequestDue (s : State) : Out :=
  onPower s fun s =>
    match s.rpu.timeRequest with
    | some t => if running s then judgeStart (elapse (t.due * 1000 - s.rpu.ms) s) else s
    | none => s

/-- TEST_REPORT (R139). Of a request that stands already, also of one that rides with a report call, origin
and due point change and the attempts stay: R139 has the due point become now for one that stands and names
the origin alone for one that rides (DESIGN CHOICE, log 55). -/
def testReportRequest (_ : List Word) (s : State) : State :=
  if s.acu.mode ≠ .service then answer0 .refusedMode s
  else if !running s then answer0 .refusedState s
  else if s.cfl.params.report.isNone then answer0 .refusedState s
  else
    let attempts := (s.rpu.timeRequest.map (·.attempts)).getD 0
    judgeStart
      (answer0 .ok { s with rpu.timeRequest := some ⟨.test, attempts, rpuNow s⟩ })

def execTestReport (s : State) : Out := onPower s (onRequest kindTestReport testReportRequest)

end Sys2Proof.Machine
end

