-- ==== Sys2Proof/Machine/Power.lean ====
section
/-! DEFINITION. The Power-Fail Unit: warning, save and resumption (R173 to R175), steps 4 and 5 of the
start-up and the end of STARTING (R28, R78, R176 to R178), power-on and power loss. -/

namespace Sys2Proof.Machine

/-! ### The save (R174) -/

/-- Address of the validity word (3.6). -/
def validityAddr (s : State) : Nat := baseOf .context s + 0xFE

/-- The tally words of a save, the check word last. -/
def tallySave (s : State) : List (Nat × Word) :=
  placed (baseOf .tally s) (withCrc (tallyWords s.adu.cache))

/-- The context block with its CRC, then the validity word. -/
def contextSave (s : State) : List (Nat × Word) :=
  placed (baseOf .context s) (withCrc (contextBody (crc (tallyWords s.adu.cache)) s)) ++
    [(validityAddr s, 0xA1E7)]

/-- What a save writes (R174): all, the tallies alone, or nothing. -/
inductive SaveKind where
  | full
  | tallies
  | nothing
  deriving DecidableEq, Repr

/-- In config fault nothing; in STARTING nothing before step 5 has applied its movements, and on the
lost-context path, and the tallies alone after them (R174, R178). -/
def saveKind (s : State) : SaveKind :=
  if !(hasWindow .tally s && hasWindow .context s) then .nothing
  else if !starting s then .full
  else
    match s.pfu.step5 with
    | .writeBack false => .tallies
    | .invalidate _ => .tallies
    | _ => .nothing

/-- The tally check word of the save is put in the cache (R154, R174). -/
def putCheck (s : State) : State := { s with adu.check := crc (tallyWords s.adu.cache) }

/-- The words of the save are laid out. -/
def beginSave (s : State) : State :=
  match saveKind s with
  | .full =>
    putCheck
      { s with pfu.save := tallySave s ++ contextSave s, pfu.wroteValidity := true }
  | .tallies => putCheck { s with pfu.save := tallySave s, pfu.wroteValidity := false }
  | .nothing => { s with pfu.save := [], pfu.wroteValidity := false }

/-! ### Resumption (R175) -/

/-- A held event of the CNU, LNU, RTU, RPU or ACU is taken by its own rule; the CNU's are held on
through STARTING, but for an exit passage of the clearance that is still in progress (R63). -/
def takeHeld (h : Held) (s : State) : State :=
  let coin (f : State → State) : State := if cnuActive s then f s else hold h s
  match h with
  | .entryPassage => coin takeEntryPassage
  | .entryBlocked => coin takeEntryBlocked
  | .exitPassage clearing =>
    if (clearing && s.cnu.clearance.isSome) || cnuActive s then takeExitPassage s
    else hold (.exitPassage false) s
  | .offHook => takeOffHook s
  | .onHook => takeOnHook s
  | .loopAppears => takeLoopAppears s
  | .loopLost => takeLoopLost s
  | .reversal => takeReversal s
  | .reversion => takeReversion s
  | .voltage p => takeVoltage p s
  | .tone t => takeTone t s
  | .intervalEnd => takeIntervalEnd s
  | .graceDeadline => takeGraceDeadline s
  | .maxDurationEnd => takeMaxDurationEnd s
  | .key on => takeKey on s
  | .lapse => takeLapse s
  | .passingWrite tariff => takeNotice tariff s
  | .accessReset => resetAccess s
  | .occurrence k d => occur k d s
  | .attrEvent a => attrEvent a s
  | .clearLatch k => clearLatch k s

/-- The held events are taken in arrival order, the INU's before the others' (R175; log 9). -/
def replayHeld (s : State) : State :=
  let s := replayIncidents s
  let items := s.held
  items.foldl (fun s h => takeHeld h s) { s with held := [] }

/-- A write-back whose words had begun starts again with a fresh image (R165). -/
def restartWriteBack (s : State) : State :=
  match s.adu.run with
  | some r =>
    match r.job with
    | .writeBack f d => if r.begun && r.todo ≠ [] then beginWriteBack f d s else s
    | _ => s
  | none => s

/-- Tone sending starts again with the head digit's full tone-on time (R123). -/
def restartTone (s : State) : State := if s.lnu.state.sends then startTone s else s

/-- The power state returns to RUNNING, and every block resumes (R175). The held events are taken before a
drop that waits for this starts: R58 and R62 give no order (DESIGN CHOICE, log 49). -/
def resume (s : State) : State :=
  startDrop
    (replayHeld
      (restartTone
        (restartWriteBack
          { s with
            pfu.power := .running
            pfu.save := []
            pfu.wroteValidity := false
            pfu.unsave := none })))

/-- SAVED with the warning clear: the validity word is to be made invalid, or the state returns to
RUNNING at once (R175). -/
def leaveSaved (s : State) : State :=
  if s.pfu.wroteValidity then { s with pfu.unsave := some ⟨.write, false⟩ } else resume s

/-- The save is complete: SAVED (R174); a warning that has cleared meanwhile is acted on (R175). -/
def enterSaved (s : State) : State :=
  let s := { s with pfu.power := .saved, pfu.save := [] }
  if s.pfu.warning then s else leaveSaved s

/-- The warning is asserted in RUNNING: SAVING, tone sending stops, a waiting controller word is classed
afresh, and the save begins; with nothing to write it is complete at once (R173, R174, R18, R123). -/
def enterSaving (s : State) : State :=
  let s :=
    reclassCycle (beginSave { s with pfu.power := .saving, pfu.warning := true, lnu.tone := none })
  if s.pfu.save = [] then enterSaved s else s

/-- POWER_WARNING (R173, R175). -/
def execPowerWarning (s : State) : Out :=
  onPower s fun s =>
    if s.pfu.warning then s
    else
      match s.pfu.power with
      | .running => enterSaving s
      | .saving => { s with pfu.warning := true }
      | .saved =>
        { s with
          pfu.warning := true
          pfu.unsave := s.pfu.unsave.map fun u => { u with rewrite := true } }

/-- A1E7h stands in the validity word once more, and the state stays SAVED; a warning that has cleared
meanwhile is acted on (R175; log 42). -/
def writeAgain (s : State) : State :=
  let s := storeWord (validityAddr s) 0xA1E7 { s with pfu.again := false }
  if s.pfu.warning then s else leaveSaved s

/-- SAVE_DONE (R174): the save words left are written; in SAVED, A1E7h once more if it is still to be
written, once the port comes to the PFU (R175, R16; log 4). -/
def execSaveDone (s : State) : Out :=
  onPower s fun s =>
    match s.pfu.power with
    | .saving => enterSaved { s with mem := s.mem.storeAll s.pfu.save }
    | .saved => if s.pfu.again && portReaches .pfu s then writeAgain s else s
    | .running => s

/-- WARNING_CLEARED (R175); with A1E7h still to be written once more it is acted on after that word. -/
def execWarningCleared (s : State) : Out :=
  onPower s fun s =>
    if s.pfu.warning then
      let s := { s with pfu.warning := false }
      match s.pfu.power, s.pfu.unsave with
      | .saved, none => if s.pfu.again then s else leaveSaved s
      | _, _ => s
    else s

/-! ### The end of STARTING (R28) -/

/-- The voltage watch has found the voltage absent for 5 s (R119). -/
def voltageGone (s : State) : Bool := s.lnu.timers.absent.any fun p => p ≤ s.lnu.ms

/-- The line takes its state from the voltage watch and the hook switch, and the quiet count starts if
it is IDLE (R28, R108, R119). -/
def startLine (s : State) : State :=
  if voltageGone s then goDown (occur .lineFault 0 s)
  else if s.lnu.offHook then setLine .ready s
  else { s with lnu.timers.quiet := some (s.lnu.ms + 30000) }

/-- Step 5 has ended: STARTING ends, the line comes up, the time request may stand, and the CNU takes
what it has held (R28, R63, R139). R28, R58 and R63 give these no order: the line takes its state
before the held passages are taken, so that it decides which of their coins are late (R52), and a drop that
waits for this starts after them (DESIGN CHOICE, log 49). -/
def endStarting (s : State) : State :=
  startDrop (replayHeld (startTimeRequest (startLine { s with cfl.step := .done, pfu.step5 := .idle })))

/-! ### The validity word (R175, R177) -/

/-- A verified write of 0000h whose read-backs are these: the retries made and whether it verified; a
try with no read-back left took. `left` retries remain. -/
def verifyZero : Nat → List Word → Nat × Bool
  | _, [] => (0, true)
  | 0, w :: _ => (0, w = 0)
  | left + 1, w :: ws =>
    if w = 0 then (0, true) else let r := verifyZero left ws; (r.1 + 1, r.2)

/-- The verified write over the validity word: retries count, and a failure hands AUDIT_SUSPECT (R175).
The word holds 0000h, or what its third try left. -/
def writeInvalid (readBacks : List Word) (s : State) : State :=
  let r := verifyZero 2 readBacks
  let cell := if r.2 then (0 : Word) else readBacks.getD 2 0
  let s := attrEvents .nvRetries r.1 (storeWord (validityAddr s) cell s)
  if r.2 then s else occur .auditSuspect 2 s

/-- After the invalidating write: back to RUNNING, or, the warning having been asserted again, A1E7h is
to be written once more and the state stays SAVED, also where the write has failed: R175 says both of that
(DESIGN CHOICE, log 42). -/
def afterInvalid (u : Unsave) (s : State) : State :=
  if u.rewrite then { s with pfu.unsave := none, pfu.again := true } else resume s

/-- VALIDITY_WORD_VERIFIED (R175, R177): the word is written and read back once the port comes to the PFU
(R16; log 4). -/
def execValidityWordVerified (readBacks : List Word) (s : State) : Out :=
  onPower s fun s =>
    if portReaches .pfu s then
      match s.pfu.unsave, s.pfu.step5 with
      | some u, _ => afterInvalid u (writeInvalid readBacks s)
      | none, .invalidate _ => if running s then endStarting (writeInvalid readBacks s) else s
      | none, _ => s
    else s

/-! ### Steps 4 and 5 (R78, R176 to R178) -/

/-- The TARIFF window's words as the comparison has read them, those still to be read as memory holds
them now; the check word is the last (R78). -/
def comparedWords (rev : List Word) (s : State) : List Word :=
  rev.reverse ++
    s.mem.words (baseOf .tariff s + 2 * rev.length) (checkedWords s + 1 - rev.length)

/-- Step 4: the tariff comparison; in config fault no check is made (R78, R26). -/
def compareTariff (s : State) : State :=
  match s.tru.compare with
  | some rev =>
    let read := comparedWords rev s
    let ws := read.take (checkedWords s)
    let s := { s with tru.compare := none }
    if crc ws = read.getD (checkedWords s) 0 then
      { s with tru.valid := true, tru.calendar := some (calendarOf (readArea ws)) }
    else occur .tariffInvalid 0 s
  | none => s

/-- Step 4 may end, with the judging of the context it starts: the comparison's words left, and the
context's, are read only once the port comes to the TRU and the PFU (R16; logs 4 and 15). -/
def compareMayEnd (s : State) : Bool :=
  (!compareReads s || portReaches .tru s) && (s.cfl.fault.isSome || portReaches .pfu s)

/-- The saved DROPPING coin is applied as completed in its direction (R177 step 1). -/
def settleDropping (ws : List Word) (s : State) : State :=
  ((savedCoins ws).filter fun c => c.coin.status = .dropping).foldl
    (fun s c => moveTally (Tallies.drop c.dir c.coin.denom c.coin.value) s) s

/-- The CNU installs the remaining entries and queues their drops (R63, R177 step 2). -/
def restoreEscrow (ws : List Word) (s : State) : State :=
  let coins := ((savedCoins ws).map (·.coin)).filter fun c => c.status ≠ .dropping
  { s with
    cnu.escrow := coins
    cnu.drops := coins.map fun c => ⟨c.seq, if c.status = .committed then .collect else .ret⟩
    cnu.nextSeq :=
      match coins.getLast? with | some c => (c.seq + 1) % 65536 | none => s.cnu.nextSeq
    cnu.restored := coins.map (·.seq)
    cnu.coinSince := false }

/-- A saved call's sequence is logged if it is the next one and there is room for it, whether or not it was
opened with the mark (R160; log 34). -/
def savedLogged (o : Owner) (s : State) : Bool :=
  o.seq = s.adu.nextCall && decide (uncollected s + 1 ≤ 256)

/-- The next call sequence advances past a saved call that is logged (R160). -/
def advanceSaved (o : Owner) (s : State) : State :=
  if savedLogged o s then
    judgeCount (uncollected s) { s with adu.nextCall := (o.seq + 1) % 0x100000000 }
  else s

/-- The owner under which a saved call is settled: with the mark if it is not logged (R160). -/
def settledOwner (o : Owner) (s : State) : Owner := ⟨o.seq, !savedLogged o s⟩

/-- The saved call is settled with its record and counts (R177 step 4). -/
def settleCall (ws : List Word) (s : State) : State :=
  if callSaved ws then
    let o := savedOwner ws
    let r := savedRecord ws (settledOwner o s)
    settleRecord r (advanceSaved o s)
  else s

/-- On the finish path the record is handed unless the scan held the call's own sequence, and no count
moves (R177). -/
def finishCall (ws : List Word) (s : State) : State :=
  let o := savedOwner ws
  if callSaved ws && heldCall (o.seq % 256) s ≠ some o.seq && savedLogged o s then
    let r := savedRecord ws (settledOwner o s)
    queueRecord .call (o.seq % 256) (callWords r) (advanceSaved o s)
  else s

/-- The settle path up to its write-back; with nothing to write back it goes on to invalidation (R177,
R155). -/
def settlePath (ws : List Word) (s : State) : State :=
  let s := restoreEscrow ws (settleDropping ws s)
  let s := moveTally (Tallies.addExcess (savedCredit ws)) s
  let s := forSeqs yieldRecord (savedSeqs ws) (settleCall ws s)
  let s := triggerWriteBack s
  { s with
    pfu.step5 :=
      if writeBackWaiting s || writeBackRunning s then .writeBack false else .invalidate .write }

/-- The finish path up to its invalidation (R177). -/
def finishPath (ws : List Word) (s : State) : State :=
  { forSeqs yieldRecord (savedSeqs ws) (finishCall ws (restoreEscrow ws s)) with
    pfu.step5 := .invalidate .write }

/-- Step 5: the context is judged, and its path begins (R176). -/
def judgeContext (s : State) : State :=
  if s.cfl.fault.isSome then endStarting s
  else
    let ws := s.mem.words (baseOf .context s) 99
    if s.mem.word (validityAddr s) = 0xA1E7 ∧ crcGood ws then
      if !s.adu.suspect ∧ wordAt ws 3 ≠ s.adu.check then finishPath ws s else settlePath ws s
    else if s.adu.cache.escrow ≠ 0 then orderClearance { s with pfu.step5 := .clearing }
    else endStarting s

/-- TARIFF_COMPARE_DONE: step 4 ends and step 5 begins (R78, R176). -/
def execTariffCompareDone (s : State) : Out :=
  onPower s fun s =>
    match s.cfl.step with
    | .tariff =>
      if running s && compareMayEnd s then
        let s := compareTariff s
        judgeContext { s with cfl.step := .settle }
      else s
    | _ => s

/-- The write-back that step 5 waits for has ended (R177, R178). -/
def step5WriteBack (s : State) : State :=
  match s.pfu.step5 with
  | .writeBack true => endStarting s
  | .writeBack false => { s with pfu.step5 := .invalidate .write }
  | _ => s

/-- WRITE_BACK_DONE (R154, R156): the words left of the write-back in hand are written, it ends, and
those who wait for it go on. While the power state is not RUNNING no new word of it is written (R165),
and in STARTING step 5 waits (R31). -/
def execWriteBackDone (s : State) : Out :=
  onPower s fun s =>
    match s.adu.run with
    | some r =>
      match r.job with
      | .writeBack flush deferred =>
        if runMayEnd s r && (running s || !starting s) then
          let s := { finishRun s with adu.run := none }
          let s := if flush then answerHeld kindFlush .ok (wordOf r.failed) 0 0 s else s
          let s := if deferred then raise .tally { s with adu.flushPending := false } else s
          step5WriteBack (triggerWriteBack s)
        else s
      | _ => s
    | none => s

/-! ### The supply -/

/-- POWER_ON (R28): every block takes its power-on state over what NV holds, and a warning found asserted
is taken at once (R173). With the supply already up it changes nothing (log 2). -/
def execPowerOn (levels : Levels) (s : State) : Out :=
  .next
    (if s.powered then s
     else
       let t := { State.powerOn s.mem.nonvolatile levels s.pending with free := s.free }
       if levels.warning then enterSaving t else t)

/-- The part without supply: NV alone is kept (95, POWER_LOST). -/
def execPowerLost (s : State) : Out :=
  onPower s fun s =>
    { State.powerOn s.mem.nonvolatile Levels.rest s.pending with powered := false, free := s.free }

end Sys2Proof.Machine
end

