-- ==== Sys2Proof/Machine/Request.lean ====
section
/-! DEFINITION. The Request Unit: take, completion, controller reset and abandoning (R35 to R40). -/

namespace Sys2Proof.Machine

/-- A slot's kind word has been cleared: its busy mark clears and REQUEST is raised (R8, R37, R40). -/
def slotCleared (i : Nat) (s : State) : State :=
  raise .request { s with bpu.busy := s.bpu.busy.set i false }

/-- The request in service is completed (R37). -/
def endService (s : State) : State :=
  match s.rqu.service with
  | some v => slotCleared v.slot { s with rqu.service := none }
  | none => s

/-- The slot in hand is abandoned (R40). -/
def endAbandon (s : State) : State :=
  match s.rqu.abandon with
  | b :: rest => slotCleared b.slot { s with rqu.abandon := rest }
  | [] => s

/-- `n` more words of the completion are written. -/
def countService (n : Nat) (s : State) : State :=
  { s with
    rqu.service :=
      s.rqu.service.map fun v =>
        match v.phase with
        | .answered a k => { v with phase := .answered a (k + n) }
        | _ => v }

/-- One completion word is written (R37); after the last one the next index comes to the head (R29). -/
def writeCompletion (s : State) : State :=
  match completionLeft s with
  | [] => s
  | [(a, w)] => headComes (endService (storeWord a w s))
  | (a, w) :: _ => countService 1 (storeWord a w s)

/-- One abandoning word is written (R40). -/
def writeAbandon (s : State) : State :=
  match abandonLeft s, s.rqu.abandon with
  | [(a, w)], _ => endAbandon (storeWord a w s)
  | (a, w) :: _, b :: rest =>
    storeWord a w { s with rqu.abandon := { b with written := b.written + 1 } :: rest }
  | _, _ => s

/-- A word of a slot is read: the kind word of the head, which takes it, or the next word of the slot in
service (R36). With a take no word of an analysis has been read (R79; log 22). -/
def readSlotWord (s : State) : State :=
  match s.rqu.service, s.rqu.queue with
  | none, i :: rest => takeIndex i rest false (freshAnalysis s)
  | _, _ => readService s

/-- REQUEST_TAKE (R36): the words left of the slot that is taken are read, once the port comes to the RQU
(R16; logs 4 and 37): from its kind word on, or from where PORT_GRANT has left them. With the last the
request is dispatched to its owner. In STARTING a head whose kind word is still to be read is judged instead
(R29). -/
def execRequestTake (s : State) : Out :=
  onPower s fun s =>
    if !portReaches .rqu s then s
    else if headUnread s then readRest (readHead s)
    else if slotReads s then readRest (readSlotWord s)
    else s

/-- REQUEST_COMPLETE (R37): the completion words left are written, the kind word last, once the port
comes to the RQU (R16; log 4); the index that comes to the head is judged (R29). -/
def execRequestComplete (s : State) : Out :=
  onPower s fun s =>
    match completionLeft s with
    | [] => s
    | ws =>
      if portReaches .rqu s then judgeHead (endService { s with mem := s.mem.storeAll ws }) else s

/-- ABANDON_WRITE_DONE (R40): the abandoning words left of the slot in hand are written, once the port
comes to the RQU (R16; log 4). -/
def execAbandonWriteDone (s : State) : Out :=
  onPower s fun s =>
    match abandonLeft s with
    | [] => s
    | ws => if portReaches .rqu s then endAbandon { s with mem := s.mem.storeAll ws } else s

/-- CONTROLLER_RESET: the held cycle is dropped (R17), intercepts (R15), flags and mask (R40) are reset,
the waiting slots are marked for abandoning (R40), and the ACU ends SERVICE or FROZEN (R172), its MODE
raised after the flags are cleared. While the power state is not RUNNING the mode does not change: the
ACU holds the reset (R172; log 17). -/
def execControllerReset (s : State) : Out :=
  onPower s fun s =>
    let t :=
      { s with
        bpu.cycle := none
        bpu.intercepts := []
        bpu.overflow := false
        rqu.flags := 0
        rqu.mask := 0xFFF
        rqu.queue := []
        rqu.unread := false
        rqu.abandon := s.rqu.abandon ++ s.rqu.queue.map fun i => ⟨i, 0⟩ }
    if running s then resetAccess t else hold .accessReset t

end Sys2Proof.Machine
end

