-- ==== Sys2Proof/Machine/Port.lean ====
section
/-! DEFINITION. The memory port: the word that each party writes or reads once it is granted (R16). -/

namespace Sys2Proof.Machine

/-- The controller's waiting word is granted, and the wait line released (R17). -/
def grantController (s : State) : State :=
  match s.bpu.cycle with
  | some c => controllerAccess c { s with bpu.cycle := none }
  | none => s

/-- The word 0000h over the validity word has moved on to a stage (R175, R177). -/
def setInvalidStage (stage : WordStage) (s : State) : State :=
  match s.pfu.unsave with
  | some u => { s with pfu.unsave := some { u with stage := stage } }
  | none => { s with pfu.step5 := .invalidate stage }

/-- One word of the PFU: of its save, A1E7h once more, the invalidating word or its read-back, or a word of
the context that step 5 reads (R174 to R177, R161). The context's words are counted and not kept: its
window is closed while they are read (R4; log 15). -/
def grantPfu (s : State) : State :=
  match s.pfu.save with
  | (a, w) :: rest =>
    let s := storeWord a w { s with pfu.save := rest }
    if rest = [] then enterSaved s else s
  | [] =>
    if s.pfu.again then writeAgain s
    else
      match invalidStage s with
      | some .write => storeWord (validityAddr s) 0 (setInvalidStage .read s)
      | some .read => setInvalidStage .compare s
      | _ => { s with pfu.contextRead := s.pfu.contextRead + 1 }

/-- The slot of a log whose first reading ends with so many words of step 3, with its size in words: first
the tally area and the remap table, then the call log and the incident log (R153, R160, R164, R137). -/
def slotEnding (n : Nat) : Option (LogId × Nat × Nat) :=
  let calls := 49 + 8 * 4
  let incidents := calls + 256 * 32
  if n ≤ calls then none
  else if n ≤ incidents then
    if (n - calls) % 32 = 0 then some (.call, (n - calls) / 32 - 1, 32) else none
  else if (n - incidents) % 16 = 0 then some (.incident, (n - incidents) / 16 - 1, 16)
  else none

/-- The words that a second reading adds after so many of the first: those of a slot whose CRC fails, its
remap followed (R160, R164, R137). -/
def secondReading (n : Nat) (s : State) : Nat :=
  match slotEnding n with
  | some (log, slot, size) => if crcGood (slotWords log slot (loadRemap s)) then 0 else size
  | none => 0

/-- One word of step 3 of the start-up. The words are counted and not kept: their windows are closed while
they are read, and no job of the writer runs before step 3 has ended (R4, R160; log 15). -/
def loadWord (s : State) : State :=
  if s.adu.rereading ≠ 0 then { s with adu.rereading := s.adu.rereading - 1 }
  else
    let n := s.adu.loaded + 1
    { s with adu.loaded := n, adu.rereading := secondReading n s }

/-- One word of the writer: its write, or its read-back (R161). -/
def writerWord (s : State) : State :=
  match s.adu.run with
  | some r =>
    match r.todo, r.stage with
    | (a, w) :: _, .write =>
      storeWord a w { s with adu.run := some { r with stage := .read, begun := true } }
    | _, .read => { s with adu.run := some { r with stage := .compare } }
    | _, _ => s
  | none => s

/-- One word of the ADU: the writer's, or one of step 3 of the start-up (R16). -/
def grantAdu (s : State) : State := if writerWaits s then writerWord s else loadWord s

/-- One word read by a check (R73), by the power-on comparison (R78) or by an analysis (R79). -/
def grantTru (s : State) : State :=
  let word (rev : List Word) : Word := s.mem.word (baseOf .tariff s + 2 * rev.length)
  if checkReads s then
    { s with tru.check := s.tru.check.map fun k => { k with rev := word k.rev :: k.rev } }
  else if compareReads s then
    { s with tru.compare := s.tru.compare.map fun rev => word rev :: rev }
  else readAnalysisWord s

/-- A word of the RQU that serves a request is waiting: of a completion (R37), the kind word of the head in
STARTING (R29), or a word of a slot (R36). -/
def serves (s : State) : Bool := completionLeft s ≠ [] || headUnread s || slotReads s

/-- That word. -/
def serveWord (s : State) : State :=
  if completionLeft s ≠ [] then writeCompletion s
  else if headUnread s then readHead s
  else if slotReads s then readSlotWord s
  else s

/-- One word of the RQU. With an abandoning and another of its words both outstanding the order is open
(R40, log 5). -/
def grantRqu (s : State) : State :=
  if abandonLeft s = [] then serveWord s
  else if serves s then
    let t := { s with free := s.free + 1 }
    if Config.abandonFirst s.free then writeAbandon t else serveWord t
  else writeAbandon s

/-- One word of the CFL: a word of its walk (R20), or a preload tuple, those before it that are skipped
being counted (R27). -/
def grantCfl (s : State) : State :=
  match s.cfl.walk with
  | some k => { s with cfl.walk := some (k.feed (s.mem.word k.next)) }
  | none =>
    let left := preloadHead s
    let skipped := (s.cfl.preload.getD []).length - left.length
    let s := { s with cfl.skip := s.cfl.skip + skipped }
    match left with
    | t :: rest => preloadTuple t { s with cfl.preload := some rest }
    | [] => s

/-- The word of the party granted. -/
def grant (p : Party) (s : State) : State :=
  match p with
  | .controller => grantController s
  | .pfu => grantPfu s
  | .adu => grantAdu s
  | .tru => grantTru s
  | .rqu => grantRqu s
  | .cfl => grantCfl s

/-- PORT_GRANT (R16): the first waiting party of the power state's order has its word; with none waiting
there is no grant. The grant and the end of its word are one step (log 12). -/
def execPortGrant (s : State) : Out :=
  onPower s fun s =>
    match winner s with
    | some p => grant p s
    | none => s

end Sys2Proof.Machine
end

