-- ==== Sys2Proof/Machine/Dispatch.lean ====
section
/-! DEFINITION. The dispatch of the commands: one arm per constructor of Instr. -/

namespace Sys2Proof.Machine

def exec (i : Instr) (s : State) : Host.Outcome State Fault Refusal :=
  match i with
  | .powerOn levels => Sys2Proof.Machine.execPowerOn levels s
  | .chainWalkDone => Sys2Proof.Machine.execChainWalkDone s
  | .preloadDone => Sys2Proof.Machine.execPreloadDone s
  | .startupAuditLoadDone misreadCalls misreadIncidents => Sys2Proof.Machine.execStartupAuditLoadDone misreadCalls misreadIncidents s
  | .tariffCompareDone => Sys2Proof.Machine.execTariffCompareDone s
  | .validityWordVerified readBacks => Sys2Proof.Machine.execValidityWordVerified readBacks s
  | .controllerRead addr lanes first => Sys2Proof.Machine.execControllerRead addr lanes first s
  | .controllerWrite addr data lanes => Sys2Proof.Machine.execControllerWrite addr data lanes s
  | .postRequest slot kind => Sys2Proof.Machine.execPostRequest slot kind s
  | .eventAcknowledge data lanes => Sys2Proof.Machine.execEventAcknowledge data lanes s
  | .eventMaskWrite data lanes => Sys2Proof.Machine.execEventMaskWrite data lanes s
  | .interceptPop data lanes => Sys2Proof.Machine.execInterceptPop data lanes s
  | .portGrant => Sys2Proof.Machine.execPortGrant s
  | .controllerReset => Sys2Proof.Machine.execControllerReset s
  | .abandonWriteDone => Sys2Proof.Machine.execAbandonWriteDone s
  | .requestTake => Sys2Proof.Machine.execRequestTake s
  | .requestComplete => Sys2Proof.Machine.execRequestComplete s
  | .probe => Sys2Proof.Machine.execProbe s
  | .reloadConfig => Sys2Proof.Machine.execReloadConfig s
  | .reloadWalkDone => Sys2Proof.Machine.execReloadWalkDone s
  | .reloadPreloadDone => Sys2Proof.Machine.execReloadPreloadDone s
  | .offer code => Sys2Proof.Machine.execOffer code s
  | .reject => Sys2Proof.Machine.execReject s
  | .entryPassage tubeEmpty => Sys2Proof.Machine.execEntryPassage tubeEmpty s
  | .entryBlocked => Sys2Proof.Machine.execEntryBlocked s
  | .chuteDeadline => Sys2Proof.Machine.execChuteDeadline s
  | .exitPassage tubeEmpty => Sys2Proof.Machine.execExitPassage tubeEmpty s
  | .exitTimeout => Sys2Proof.Machine.execExitTimeout s
  | .cashDoorChange isOpen => Sys2Proof.Machine.execCashDoorChange isOpen s
  | .cashboxPresenceChange present => Sys2Proof.Machine.execCashboxPresenceChange present s
  | .emptyCashbox => Sys2Proof.Machine.execEmptyCashbox s
  | .tariffCheck => Sys2Proof.Machine.execTariffCheck s
  | .tariffCheckReadsDone => Sys2Proof.Machine.execTariffCheckReadsDone s
  | .checkWordWriteDone => Sys2Proof.Machine.execCheckWordWriteDone s
  | .clockSecond => Sys2Proof.Machine.execClockSecond s
  | .setClock => Sys2Proof.Machine.execSetClock s
  | .intervalEnd => Sys2Proof.Machine.execIntervalEnd s
  | .graceDeadline => Sys2Proof.Machine.execGraceDeadline s
  | .maxDurationEnd => Sys2Proof.Machine.execMaxDurationEnd s
  | .offHook => Sys2Proof.Machine.execOffHook s
  | .onHook => Sys2Proof.Machine.execOnHook s
  | .readyTimeout => Sys2Proof.Machine.execReadyTimeout s
  | .quietTime => Sys2Proof.Machine.execQuietTime s
  | .dial => Sys2Proof.Machine.execDial s
  | .clearGuardEnd => Sys2Proof.Machine.execClearGuardEnd s
  | .loopAppears => Sys2Proof.Machine.execLoopAppears s
  | .loopTimeout => Sys2Proof.Machine.execLoopTimeout s
  | .dialDelayEnd => Sys2Proof.Machine.execDialDelayEnd s
  | .toneOnEnd => Sys2Proof.Machine.execToneOnEnd s
  | .toneOffEnd => Sys2Proof.Machine.execToneOffEnd s
  | .answerTimeout => Sys2Proof.Machine.execAnswerTimeout s
  | .polarityReversal => Sys2Proof.Machine.execPolarityReversal s
  | .polarityReversion => Sys2Proof.Machine.execPolarityReversion s
  | .clearingEnd => Sys2Proof.Machine.execClearingEnd s
  | .followOnWindowEnd => Sys2Proof.Machine.execFollowOnWindowEnd s
  | .sendDigits => Sys2Proof.Machine.execSendDigits s
  | .followOn => Sys2Proof.Machine.execFollowOn s
  | .release => Sys2Proof.Machine.execRelease s
  | .loopLost => Sys2Proof.Machine.execLoopLost s
  | .loopLossTimeout => Sys2Proof.Machine.execLoopLossTimeout s
  | .lineVoltageChange present => Sys2Proof.Machine.execLineVoltageChange present s
  | .voltageAbsentTimeout => Sys2Proof.Machine.execVoltageAbsentTimeout s
  | .voltageRestored => Sys2Proof.Machine.execVoltageRestored s
  | .reportAnswerTimeout => Sys2Proof.Machine.execReportAnswerTimeout s
  | .reportSendDelayEnd => Sys2Proof.Machine.execReportSendDelayEnd s
  | .reportClearingEnd => Sys2Proof.Machine.execReportClearingEnd s
  | .toneReceived tone => Sys2Proof.Machine.execToneReceived tone s
  | .shockPulse => Sys2Proof.Machine.execShockPulse s
  | .cordContinuityChange whole => Sys2Proof.Machine.execCordContinuityChange whole s
  | .decayExpiry attr => Sys2Proof.Machine.execDecayExpiry attr s
  | .reportFault => Sys2Proof.Machine.execReportFault s
  | .clearIncident => Sys2Proof.Machine.execClearIncident s
  | .clearAttributes => Sys2Proof.Machine.execClearAttributes s
  | .recordDuePoint => Sys2Proof.Machine.execRecordDuePoint s
  | .timeRequestDue => Sys2Proof.Machine.execTimeRequestDue s
  | .testReport => Sys2Proof.Machine.execTestReport s
  | .firstToneTimeout => Sys2Proof.Machine.execFirstToneTimeout s
  | .interToneTimeout => Sys2Proof.Machine.execInterToneTimeout s
  | .writerJobStart => Sys2Proof.Machine.execWriterJobStart s
  | .nvReadbackDone word => Sys2Proof.Machine.execNvReadbackDone word s
  | .writeBackDone => Sys2Proof.Machine.execWriteBackDone s
  | .flush => Sys2Proof.Machine.execFlush s
  | .collectLog => Sys2Proof.Machine.execCollectLog s
  | .serviceKeyChange on => Sys2Proof.Machine.execServiceKeyChange on s
  | .serviceUnlock => Sys2Proof.Machine.execServiceUnlock s
  | .freeze => Sys2Proof.Machine.execFreeze s
  | .serviceEnd => Sys2Proof.Machine.execServiceEnd s
  | .lapseExpiry => Sys2Proof.Machine.execLapseExpiry s
  | .powerWarning => Sys2Proof.Machine.execPowerWarning s
  | .saveDone => Sys2Proof.Machine.execSaveDone s
  | .warningCleared => Sys2Proof.Machine.execWarningCleared s
  | .entrySensorBlockedEdge => Sys2Proof.Machine.execEntrySensorBlockedEdge s
  | .powerLost => Sys2Proof.Machine.execPowerLost s

end Sys2Proof.Machine
end

