-- ==== Sys2Proof/Safety.lean ====
section
/-! DEFINITION. The terms the statements use: which blocks a command changes, a request in service, a
window at an address, and the laws every step keeps. -/

namespace Sys2Proof.Machine

/-! ### Frames -/

/-- The components of State. -/
inductive Block where
  | powered | mem | bpu | cfl | rqu | cnu | tru | rtu | lnu | inu | rpu | adu | acu | pfu | held | free
  | pending
  deriving DecidableEq, Repr

/-- A component reads the same in both states. -/
def Block.same (b : Block) (s t : State) : Prop :=
  match b with
  | .powered => t.powered = s.powered
  | .mem => t.mem = s.mem
  | .bpu => t.bpu = s.bpu
  | .cfl => t.cfl = s.cfl
  | .rqu => t.rqu = s.rqu
  | .cnu => t.cnu = s.cnu
  | .tru => t.tru = s.tru
  | .rtu => t.rtu = s.rtu
  | .lnu => t.lnu = s.lnu
  | .inu => t.inu = s.inu
  | .rpu => t.rpu = s.rpu
  | .adu => t.adu = s.adu
  | .acu => t.acu = s.acu
  | .pfu => t.pfu = s.pfu
  | .held => t.held = s.held
  | .free => t.free = s.free
  | .pending => t.pending = s.pending

/-- Every component but those listed reads the same in both states. -/
def OnlyChanges (bs : List Block) (s t : State) : Prop := ∀ b, b ∉ bs → b.same s t

/-! ### Requests -/

/-- The supply is up, and `v` is the request in service, handed to its owner and not answered, its kind
word being this kind code (R36). -/
abbrev InService (kind : Nat) (v : Service) (s : State) : Prop :=
  s.powered = true ∧ s.rqu.service = some v ∧ v.phase = .handed ∧ v.kind.toNat = kind

/-- The request answered, its completion words still to be written (R37). -/
def Service.answered (v : Service) (c : ResultCode) (r1 r2 r3 : Word) : Service :=
  { v with phase := .answered ⟨wordOf c.code, r1, r2, r3⟩ 0 }

/-- The request accepted, to be answered later (R38). -/
def Service.accepted (v : Service) : Service := { v with phase := .held }

/-! ### The bus -/

/-- A controller word may arrive: the supply is up, a table is in force and no word is held. -/
abbrev BusReady (s : State) : Prop :=
  s.powered = true ∧ s.bpu.table.isSome = true ∧ s.bpu.cycle = none

/-- The window that holds an address in the table in force. -/
def windowAt (s : State) (a : Nat) : Option Window := findWindow (s.bpu.table.getD []) a

/-- A decoded address that the power state leaves to its window: RAM, or NV in RUNNING (R2, R3). -/
abbrev JudgedByWindow (s : State) (a : Nat) : Prop :=
  memKind a = some .ram ∨ (memKind a = some .nv ∧ s.pfu.power = .running)

/-- Whether bit `i` of a word lies in the written lanes. -/
def laneHolds (lanes : Lanes) (i : Nat) : Bool :=
  match lanes with
  | .low => i < 8
  | .high => 8 ≤ i
  | .both => true

/-- The byte at `b` of the memory `m` after a word has been written at `a` in these lanes. -/
def byteAfter (m : Memory) (a : Nat) (w : Word) (lanes : Lanes) (b : Nat) : Byte :=
  if b = a ∧ lanes ≠ .low then w.hi
  else if b = a + 1 ∧ lanes ≠ .high then w.lo
  else m.get b

/-- What makes a controller write word at an address blocked, with its cause (R3, R4, R8, R9). -/
def WriteBlocked (s : State) (a : Nat) (cause : Cause) : Prop :=
  (memKind a = some .nv ∧ s.pfu.power ≠ .running ∧ cause = .saveRefused) ∨
  (JudgedByWindow s a ∧ ∃ w, windowAt s a = some w ∧
    (((w.kind = .tally ∨ w.kind = .callLog ∨ w.kind = .incidentLog ∨ w.kind = .context ∨
          w.kind = .spare) ∧ cause = .writeBlocked) ∨
      (w.kind = .tariff ∧ (s.acu.mode ≠ .service ∨ a = w.base + w.size - 2) ∧
        cause = .writeBlocked) ∨
      (w.kind = .config ∧ s.acu.mode ≠ .service ∧ cause = .writeBlocked) ∨
      (w.kind = .status ∧ 4 < a - w.base ∧ cause = .statusWrite) ∨
      (w.kind = .request ∧ a - w.base < 0x100 ∧ s.bpu.busy.get ((a - w.base) / 0x40) = true ∧
        cause = .slotBusy)))

/-! ### Coins and attributes -/

/-- A coin but for its status, which orders and drops change. -/
def Coin.identity (c : Coin) : Nat × Nat × Nat × Bool × Option Owner :=
  (c.seq, c.denom, c.value, c.isForeign, c.owner)

/-- One event of an attribute has reached the INU: it is counted, each of total and level saturating,
or it is the last of what the INU holds (R127, R136, R137). -/
def EventReached (a : AttrId) (s t : State) : Prop :=
  if s.inu.rebuilt = true ∧ s.pfu.power = .running then
    (t.inu.attrs.get a).total = min 65535 ((s.inu.attrs.get a).total + 1) ∧
    (t.inu.attrs.get a).level = min 255 ((s.inu.attrs.get a).level + 1) ∧
    (t.adu.cache.attrs.get a).total = (t.inu.attrs.get a).total ∧
    (t.adu.cache.attrs.get a).level = (t.inu.attrs.get a).level
  else t.held = s.held ++ [.attrEvent a]

/-- An occurrence has reached the INU: its kind's latch is set if the kind latches and INCIDENT is
raised, or it is among what the INU holds (R130, R136, R137). -/
def OccurrenceReached (k : IncKind) (detail : Nat) (s t : State) : Prop :=
  if s.inu.rebuilt = true ∧ s.pfu.power = .running then
    (k.latches = true → latched t.inu.latches k = true) ∧ flagOf t.rqu.flags .incident = true
  else .occurrence k detail ∈ t.held

/-! ### The start of a report call (R139 to R141) -/

/-- The PENDING records. -/
def pendingRecords (s : State) : List IncRec := s.inu.records.filter fun r => r.state = .pending

/-- The time request that stands when a start is judged: one of origin CLOCK is withdrawn if the clock is
valid (R139). -/
def requestKept (s : State) : Option TimeRequest :=
  s.rpu.timeRequest.filter fun x => x.origin = .test || s.tru.clock.isNone

/-- The records a report call started now carries: at most 4 PENDING ones, the due first and then the
others, each group gravest first and oldest first within a severity (R132, R141). -/
def reportLoad (s : State) : List IncRec :=
  let graded (n : Nat) : List IncRec := (pendingRecords s).filter fun r => r.kind.severity = n
  let queue := graded 3 ++ graded 2 ++ graded 1
  let due (r : IncRec) : Bool := r.due ≤ s.inu.ms / 1000
  (queue.filter due ++ queue.filter fun r => !due r).take 4

/-- A start is wanted: the terminal is not in config fault, no report call is open, a REPORT descriptor is in
force, and a PENDING record or the time request is due (R140). -/
def StartWanted (s : State) : Prop :=
  s.cfl.fault = none ∧ s.rpu.call = none ∧ s.cfl.params.report.isSome = true ∧
    ((∃ r ∈ pendingRecords s, r.due ≤ s.inu.ms / 1000) ∨
      ∃ x, requestKept s = some x ∧ x.due ≤ s.rpu.ms / 1000)

/-- A report call has been started from the state `u`: the line is seized for the centre's number, the
carried records are REPORTING, and a standing time request rides (R120, R132, R141). -/
def ReportStarted (u t : State) : Prop :=
  t.lnu.state = .reportSeizing ∧ t.lnu.quiet = false ∧
  (∀ cfg, u.cfl.params.report = some cfg → t.lnu.buffer = cfg.centre) ∧
  t.rpu.timeRequest = requestKept u ∧ t.rpu.counter = u.rpu.counter ∧
  t.rpu.call =
    some
      { carried := (reportLoad u).map fun r => ⟨r.seq, r.kind.severity⟩
        timeRides := (requestKept u).isSome
        number := none
        message := []
        toHand := []
        resend := false
        stage := .none
        digits := [] } ∧
  ((u.inu.records.map (·.slot)).Nodup → ((pendingRecords u).map (·.seq)).Nodup →
    t.inu.records =
      u.inu.records.map fun r => if r ∈ reportLoad u then { r with state := .reporting } else r) ∧
  t.rqu.service = u.rqu.service ∧ t.adu.cache = u.adu.cache ∧ t.cnu = u.cnu ∧ t.rtu = u.rtu

/-- A start has been judged in the state `u`, its line quiet (R140). -/
def StartJudged (u t : State) : Prop :=
  (StartWanted u → ReportStarted u t) ∧
  (¬StartWanted u → t = { u with rpu.timeRequest := requestKept u })

/-- The index law (R129, R131): the records of the incident index lie in slots of their own, below 64. -/
abbrev IndexLaw (s : State) : Prop :=
  (s.inu.records.map (·.slot)).Nodup ∧ ∀ r ∈ s.inu.records, r.slot < 64

/-! ### The outcomes of a report call (R132, R146 to R150) -/

/-- The records a report call carries are REPORTING, one of a kind, in an index whose records have distinct
sequences. -/
def Carries (c : ReportCall) (s : State) : Prop :=
  IndexLaw s ∧ (s.inu.records.map (·.seq)).Nodup ∧ (c.carried.map (·.seq)).Nodup ∧
  ∀ r ∈ s.inu.records, r.seq ∈ c.carried.map (·.seq) → r.state = .reporting ∧
    ∀ x ∈ s.inu.records, x.kind = r.kind → x.state ≠ .reported → x = r

/-- The backoff in minutes after so many attempts: the table in force, or the default (R24, R147). -/
def backoffAfter (s : State) (n : Nat) : Nat :=
  ((s.cfl.params.report.map (·.backoff)).getD [2, 5, 15, 30, 60, 60]).getD (min n 6 - 1) 0

/-- A report call is over: its record is empty, its timers are void, and REPORT is raised (R146). -/
def ReportOver (t : State) : Prop :=
  t.rpu.call = none ∧ t.rpu.firstTone = none ∧ t.rpu.interTone = none ∧
  flagOf t.rqu.flags .report = true

/-- The report call `c` of the state `s` has failed (R132, R147): each carried record is PENDING again with an
attempt more and due after the backoff for its attempts, and so is a riding time request. -/
def ReportFailed (c : ReportCall) (s t : State) : Prop :=
  ReportOver t ∧ t.tru.clock = s.tru.clock ∧
  t.inu.records =
    (s.inu.records.map fun r =>
      let n := min 255 (r.attempts + 1)
      if r.seq ∈ c.carried.map (·.seq) then
        { r with
          state := .pending
          attempts := n
          due := t.inu.ms / 1000 + backoffAfter s n * 60
          nextAttempt := Stamp.ofClock (s.tru.clock.map (·.addMinutes (backoffAfter s n))) }
      else r) ∧
  t.rpu.timeRequest =
    if c.timeRides then
      s.rpu.timeRequest.map fun x =>
        let n := min 255 (x.attempts + 1)
        { x with attempts := n, due := t.rpu.ms / 1000 + backoffAfter s n * 60 }
    else s.rpu.timeRequest

/-- The report call `c` of the state `s` has been accepted (R132, R148): each carried record is REPORTED, and
a riding time request is withdrawn, or stands anew while the clock is invalid. -/
def ReportAccepted (c : ReportCall) (s t : State) : Prop :=
  ReportOver t ∧
  t.inu.records =
    (s.inu.records.map fun r =>
      if r.seq ∈ c.carried.map (·.seq) then { r with state := .reported } else r) ∧
  t.rpu.timeRequest =
    if c.timeRides then
      if t.tru.clock.isSome then none
      else some ⟨.clock, 0, t.rpu.ms / 1000 + backoffAfter s 1 * 60⟩
    else s.rpu.timeRequest

/-- The line has ended the report call `c` of the state `s` on its own: a failure at ack stage NONE, and at
AFTER_A an acceptance without time digits (R147, R148, R150). -/
def LineEndedReport (c : ReportCall) (s t : State) : Prop :=
  Carries c s →
  (c.stage = .none → ReportFailed c s t) ∧
  (c.stage = .afterA → ReportAccepted c s t ∧ t.tru.clock = s.tru.clock)

/-! ### Interval ends overtaken (R97) -/

/-- The state a command leaves. -/
def effectOf (c : Instr) (s : State) : State :=
  match exec c s with
  | .next t => t
  | _ => s

/-- The interval ends of a call in CHARGING that lie at or before now are taken in order, each as
INTERVAL_END takes it, `n` of them at most. -/
def endsTaken (n : Nat) (s : State) : State :=
  match n with
  | 0 => s
  | n + 1 =>
    if s.rtu.ctx.any (fun c => c.phase = .charging && c.finish.any (· ≤ s.rtu.ms / 1000)) = true then
      endsTaken n (effectOf .intervalEnd s)
    else s

/-! ### The return to RUNNING (R175) -/

/-- A held event of an expiry is taken if its point has been reached on its block's count (R105, R172). -/
def expiryTaken (point : Option Nat) (now : Nat) (c : Instr) (s : State) : State :=
  if point.any (· ≤ now) = true then effectOf c s else s

/-- A held event taken by its own block in RUNNING: as its command is taken there, but that an entry
passage has moved the sensor's level at its arrival already (R54), that an expiry stands only if its
point has been reached, and that in STARTING the CNU holds its events on, but for an exit passage of the
clearance still in progress (R62, R63, R105, R123, R136, R172). -/
def heldTaken (s : State) (h : Held) : State :=
  let charge (p : Phase → Bool) (point : Ctx → Option Nat) : Option Nat :=
    s.rtu.ctx.bind fun c => if p c.phase then point c else none
  match h with
  | .entryPassage =>
    if starting s = true then { s with held := s.held ++ [.entryPassage] }
    else
      let t :=
        effectOf (.entryPassage s.cnu.tubeEmpty)
          { s with cnu.blockedSince := none, cnu.jamDue := none }
      { t with cnu.blockedSince := s.cnu.blockedSince, cnu.jamDue := s.cnu.jamDue }
  | .entryBlocked =>
    if starting s = true then { s with held := s.held ++ [.entryBlocked] } else occur .coinJam 0 s
  | .exitPassage clearing =>
    if starting s = true ∧ ¬(clearing = true ∧ s.cnu.clearance.isSome = true) then
      { s with held := s.held ++ [.exitPassage false] }
    else effectOf (.exitPassage s.cnu.tubeEmpty) s
  | .offHook => effectOf .offHook s
  | .onHook => effectOf .onHook s
  | .loopAppears => effectOf .loopAppears s
  | .loopLost => effectOf .loopLost s
  | .reversal => effectOf .polarityReversal s
  | .reversion => effectOf .polarityReversion s
  | .voltage present => effectOf (.lineVoltageChange present) s
  | .tone t => effectOf (.toneReceived t) s
  | .intervalEnd =>
    expiryTaken (charge (fun p => p = .charging) (·.finish)) (s.rtu.ms / 1000) .intervalEnd s
  | .graceDeadline =>
    expiryTaken (charge (fun p => p = .grace) (·.graceDeadline)) (s.rtu.ms / 1000) .graceDeadline s
  | .maxDurationEnd =>
    expiryTaken (charge (fun p => p ≠ .ending) (·.maxEnd)) (s.rtu.ms / 1000) .maxDurationEnd s
  | .key on => effectOf (.serviceKeyChange on) s
  | .lapse =>
    expiryTaken (if s.acu.mode = .service then s.acu.lapse else none) s.acu.ms .lapseExpiry s
  | .passingWrite tariff =>
    if s.acu.mode = .service then
      { s with
        acu.lapse :=
          if s.cfl.params.lapse = 0 then none else some (s.acu.ms + s.cfl.params.lapse * 60000) }
    else if tariff = true then autoCheck s
    else s
  | .accessReset =>
    match s.acu.mode with
    | .service => endSession s
    | .frozen => { s with acu.mode := .normal, rqu.flags := setFlag s.rqu.flags .mode }
    | .normal => s
    | .lockout => s
  | .occurrence k d => occur k d s
  | .attrEvent a => attrEvent a s
  | .clearLatch k => clearLatch k s

/-- The held events are taken: the INU's, then the others', each in arrival order (R175; log 9). -/
def allHeldTaken (s : State) : State :=
  let t :=
    (s.held.filter Held.isIncident).foldl heldTaken
      { s with held := s.held.filter fun h => !h.isIncident }
  t.held.foldl heldTaken { t with held := [] }

/-- The head drop of the queue starts where R58 and R62 have it start: its entry leaves the queue, the
bottom coin is DROPPING, the diverter is set and the exit timer runs. -/
def dropStarted (s : State) : State :=
  match s.cnu.escrow, s.cnu.drops with
  | c :: cs, d :: ds =>
    if d.seq = c.seq ∧ s.cnu.motion = none ∧ s.cnu.clearance = none ∧ s.cnu.frozen = false ∧
        (d.dir = .ret ∨ s.cnu.boxPresent = true) ∧ s.pfu.power = .running ∧ starting s = false then
      { s with
        cnu.escrow := { c with status := .dropping } :: cs
        cnu.drops := ds
        cnu.motion := some ⟨d.dir, s.cnu.ms + 500⟩
        cnu.diverter := d.dir }
    else s
  | _, _ => s

/-- A write-back whose words had begun, with words left, starts again with a fresh image (R165). -/
def writeBackRestarted (s : State) : State :=
  match s.adu.run with
  | some r =>
    match r.job with
    | .writeBack flush deferred =>
      if r.begun = true ∧ r.todo ≠ [] then
        let words := tallyWords s.adu.cache
        let todo :=
          match windowOf .tally s with
          | some w => placed w.base (words ++ [crc words])
          | none => []
        { s with
          adu.check := crc words
          adu.dirty := false
          adu.run := some ⟨.writeBack flush deferred, .home, todo, .write, 0, 0, false⟩ }
      else s
    | _ => s
  | none => s

/-- Tone sending starts again with the head digit's full tone-on time, if there is a digit (R123). -/
def toneRestarted (s : State) : State :=
  if s.lnu.state.sends = true then
    { s with
      lnu.tone :=
        if s.lnu.buffer = [] then none
        else some ⟨true, s.lnu.ms + s.cfl.params.toneOn, s.cfl.params.toneOff⟩ }
  else s

/-- The power state returns to RUNNING: a write-back and the tones in hand start again, the held events
are taken, and then a drop that can start does (R58, R62, R123, R165, R175; log 49). -/
def resumed (s : State) : State :=
  let t :=
    { s with
      pfu.power := .running
      pfu.save := []
      pfu.wroteValidity := false
      pfu.unsave := none }
  dropStarted (allHeldTaken (toneRestarted (writeBackRestarted t)))

/-! ### The charge of an interval (R93 to R96) -/

/-- A commit order taken (R56): a coin of this sequence that is HELD with no drop queued is COMMITTED, a COLLECT
drop for it joins the queue in the order of the coins' places (R57), and a drop that can start does. -/
def commitTaken (s : State) (seq : Nat) : State :=
  if (s.cnu.escrow.find? fun x => x.seq = seq).any (fun x => x.status = .held) = true ∧
      ∀ d ∈ s.cnu.drops, d.seq ≠ seq then
    let drops := s.cnu.drops ++ [⟨seq, .collect⟩]
    let escrow :=
      s.cnu.escrow.map fun x => if x.seq = seq then { x with status := .committed } else x
    dropStarted
      { s with
        cnu.escrow := escrow
        cnu.drops := escrow.filterMap fun x => drops.find? fun d => d.seq = x.seq }
  else s

/-- A charge is taken from the open call, whose context is `c`: K and the intervals charged grow, the phase is
CHARGING with nothing due, CONSUMED_VALUE takes the charge (R93), every coin of the roll that K − Cin reaches
past the coins before it is marked, and those newly marked are committed in roll order (R95). CREDIT is raised
if a field of the status block changes (R103). -/
def chargeTaken (c : Ctx) (charge : Nat) (s : State) : State :=
  let k := c.consumed + charge
  let reached (i : Nat) : Bool := c.cin + ((c.roll.take i).map (·.value)).sum < k
  let fresh : List RollCoin :=
    (c.roll.zipIdx.filter fun p => !p.1.committed && reached p.2).map (·.1)
  let consumed := min (s.adu.cache.consumed + charge) 0xFFFFFFFF
  { s with
    rtu.ctx :=
      some
        { c with
          phase := .charging
          consumed := k
          intervals := c.intervals + 1
          roll := c.roll.zipIdx.map fun p => { p.1 with committed := p.1.committed || reached p.2 }
          committed := c.committed + (fresh.map (·.value)).sum
          due := 0
          graceDeadline := none }
    adu.cache.consumed := consumed
    adu.dirty := s.adu.dirty || decide (consumed ≠ s.adu.cache.consumed)
    rqu.flags := if charge = 0 then s.rqu.flags else setFlag s.rqu.flags .credit
    cnu := (fresh.foldl (fun u x => commitTaken u x.seq) s).cnu }

/-- The open call, whose context is `c`, enters GRACE with the charge of the interval begun at `start` due
(R96). -/
def graceEntered (c : Ctx) (charge start : Nat) (s : State) : State :=
  { s with
    rtu.ctx :=
      some
        { c with
          phase := .grace
          due := charge
          graceDeadline := some (start + c.graceTime)
          graceUsed := true }
    rqu.flags := setFlag (setFlag s.rqu.flags .lowCredit) .credit }

/-- The line of a call becomes CONNECTED or GRACE: LINE is raised, and neither the ready timer, nor the quiet
count, nor a watch of the voltage runs (R108, R119). -/
def callLine (st : LineState) (s : State) : State :=
  { s with
    lnu.state := st
    lnu.quiet := false
    lnu.timers.ready := none
    lnu.timers.quiet := none
    lnu.timers.absent := none
    lnu.timers.present := none
    rqu.flags := setFlag s.rqu.flags .line }

/-! ### The end of a call -/

/-- The caller's call of context `c` has ended from the state `s` with a cause (R100, R101, R104, R114,
R115, R158): the line is CLEARING for 1 s, or DOWN after LINE_LOST, its relay open and its buffer empty;
the context is gone and closed for the CNU, which watches the drops of the call's coins; with follow-on kept
the open credit is carried, the uncommitted coins wait for the next call, and the call's HELD coins with no
drop queued take the next call as their owner; else the open credit goes to EXCESS_VALUE, and each of those
coins has a RETURN drop, in return order (R56); the call counts move, and a logged call's record is with the
writer. -/
def CallEnded (cause : EndCause) (c : Ctx) (s t : State) : Prop :=
  let keep := s.lnu.followOn && s.lnu.offHook && cause ≠ .lineLost
  let r := endRecord c cause keep s
  t.lnu.state = (if cause = .lineLost then .down else .clearing) ∧ t.lnu.relay = false ∧
  t.lnu.buffer = [] ∧ t.lnu.tone = none ∧ t.lnu.keep = keep ∧ t.lnu.followOn = false ∧
  (cause ≠ .lineLost → t.lnu.timers.clearing = some (s.lnu.ms + 1000)) ∧
  t.rtu.ctx = none ∧
  (let settled (cnu : Cnu) : Cnu :=
    { cnu with
      openCall := none
      watch :=
        (s.cnu.watch ++ [c.owner]).filter fun o => t.cnu.escrow.any fun x => x.owner = some o }
  if keep then
    t.rtu.carry = c.openCredit ∧
    t.rtu.waiting = (c.roll.filter fun x => !x.committed) ++ s.rtu.waiting ∧
    t.adu.cache.excess = s.adu.cache.excess ∧
    t.cnu =
      settled
        { s.cnu with
          escrow :=
            s.cnu.escrow.map fun x =>
              if x ∈ freeCoins c.owner s then { x with owner := some ⟨s.adu.nextCall, false⟩ }
              else x }
  else
    t.adu.cache.excess = satAdd s.adu.cache.excess c.openCredit ∧
    t.cnu = settled (returnOrder c.owner s).cnu ∧
    ∀ x ∈ freeCoins c.owner s,
      ⟨x.seq, .ret⟩ ∈ t.cnu.drops ∨ t.cnu.motion.map (·.dir) = some .ret) ∧
  t.adu.cache.paidAnswered = (s.adu.cache.countCall r).paidAnswered ∧
  t.adu.cache.free = (s.adu.cache.countCall r).free ∧
  t.adu.cache.unanswered = (s.adu.cache.countCall r).unanswered ∧
  t.adu.cache.unlogged = (s.adu.cache.countCall r).unlogged ∧
  (c.owner.unlogged = false → hasWindow .callLog s = true →
    .record .call (c.owner.seq % 256) (callWords r) ∈ t.adu.jobs)

/-! ### The laws every step keeps -/

/-- The access law (R166): the unlock counter is at most 5, it is 5 exactly in LOCKOUT, and it is 0 in
SERVICE. -/
abbrev AccessLaw (s : State) : Prop :=
  s.acu.attempts ≤ 5 ∧ (s.acu.mode = .lockout ↔ s.acu.attempts = 5) ∧
  (s.acu.mode = .service → s.acu.attempts = 0)

/-- The intercept law (R15): at most 8 records, and the overflow flag only over a queue that is not
empty. -/
abbrev InterceptLaw (s : State) : Prop :=
  s.bpu.intercepts.length ≤ 8 ∧ (s.bpu.overflow = true → s.bpu.intercepts ≠ [])

/-- The escrow law (R48, R55): escrow and chute lists hold at most 8 coins together, and none is in the
chute while the terminal is STARTING. -/
abbrev EscrowLaw (s : State) : Prop :=
  s.cnu.escrow.length + s.cnu.chute.length ≤ 8 ∧ (starting s = true → s.cnu.chute = [])

/-- The places of the slots that are busy: waiting, in service, or marked for abandoning (R8, R35,
R40). -/
def slotPlaces (s : State) : List Nat :=
  s.rqu.queue ++ (s.rqu.service.map (·.slot)).toList ++ s.rqu.abandon.map (·.slot)

/-- The slot law (R8, R35): a slot is in at most one place, and it is busy exactly while it is in one. -/
abbrev SlotLaw (s : State) : Prop :=
  (slotPlaces s).Nodup ∧ (∀ i ∈ slotPlaces s, i < 4) ∧
  ∀ i, i < 4 → (s.bpu.busy.get i = true ↔ i ∈ slotPlaces s)

/-- The credit law of a context (R88, R95): its committed value is that of its committed coins, and the
consumed charge exceeds neither the total credit nor the carried-in and committed value. -/
abbrev Ctx.CreditLaw (c : Ctx) : Prop :=
  c.committed = rollValue (c.roll.filter (·.committed)) ∧ c.consumed ≤ c.total ∧
  c.consumed ≤ c.cin + c.committed

/-- The credit law: it holds of the open call, and no coin of the waiting roll is committed (R86). -/
abbrev CreditLaw (s : State) : Prop :=
  (∀ c, s.rtu.ctx = some c → c.CreditLaw) ∧ ∀ x ∈ s.rtu.waiting, x.committed = false

/-- The tallies that never decrease: all but ESCROW_BALANCE, CASHBOX_VALUE and CASHBOX_COINS (R152). -/
def risingTallies (t : Tallies) : List Nat :=
  [t.credited, t.collected, t.returned, t.consumed, t.excess, t.coins1, t.coins2, t.coins3, t.coins4,
    t.coins5, t.coins6, t.paidAnswered, t.free, t.unanswered, t.unlogged, t.collectedThrough]

/-- All tallies are 32-bit (R152). -/
abbrev TallyBound (s : State) : Prop := ∀ n ∈ risingTallies s.adu.cache, n ≤ 0xFFFFFFFF

/-- Each value of the first list is at most the one in its place in the second. -/
def eachAtMost : List Nat → List Nat → Bool
  | a :: as, b :: bs => a ≤ b && eachAtMost as bs
  | [], [] => true
  | _, _ => false

/-- The cash law (R152, first law): CREDITED_VALUE is COLLECTED_VALUE plus RETURNED_VALUE plus
ESCROW_BALANCE, and ESCROW_BALANCE is the value of the escrow list. Outside STARTING a clearance in
progress is a sweep (R63, R177, R178). -/
abbrev CashLaw (s : State) : Prop :=
  s.adu.cache.credited = s.adu.cache.collected + s.adu.cache.returned + s.adu.cache.escrow ∧
  s.adu.cache.escrow = escrowValue s ∧ ∀ c, s.cnu.clearance = some c → c.sweep = true

/-! ### The second law of the tallies (R152) -/

/-- The places of the line's timers and of the quiet mark: each runs only in the line states that start
it (R107, R108, R115, R116, R119 to R121, R144), and a call's context stands only in the states of a
call (R114). -/
abbrev LineLaw (s : State) : Prop :=
  let st := s.lnu.state
  (s.lnu.timers.ready.isSome = true → st = .ready) ∧
  (s.lnu.timers.clearing.isSome = true → st = .clearing) ∧
  (s.lnu.timers.window.isSome = true → st = .followOn) ∧
  (s.lnu.timers.absent.isSome = true → st.watchesVoltage = true) ∧
  (s.lnu.timers.present.isSome = true → st = .down) ∧
  (s.lnu.timers.reportAnswer.isSome = true → st = .reportAwaitAnswer) ∧
  (s.lnu.timers.sendDelay.isSome = true →
    st = .reportAwaitAnswer ∧ s.lnu.timers.reportAnswer = none) ∧
  (s.lnu.timers.reportClearing.isSome = true → st = .reportClearing) ∧
  (s.lnu.timers.quiet.isSome = true → st = .idle) ∧ (s.lnu.quiet = true → st = .idle) ∧
  ((s.rpu.firstTone.isSome = true ∨ s.rpu.interTone.isSome = true) → st = .reportAwaitAck) ∧
  (s.rpu.interTone.isSome = true → s.rpu.call.any (fun c => c.stage = .afterA) = true) ∧
  ((s.lnu.timers.guard.isSome = true ∨ s.lnu.timers.loop.isSome = true ∨
      s.lnu.timers.dialDelay.isSome = true) → st = .seizing ∨ st = .reportSeizing) ∧
  (s.rpu.call.isSome = true ↔ st.isReport = true ∧ st ≠ .reportClearing) ∧
  (s.rtu.ctx.isSome = true → st.isEndable = true)

/-- The tube (R55, R57, R58): the coins' sequences run up to the next one, each queued drop is for a coin
of its own that waits in the tube, COMMITTED for a COLLECT and HELD for a RETURN, and the bottom coin
alone is DROPPING, exactly while a drop is in motion or stuck. -/
abbrev TubeLaw (s : State) : Prop :=
  let n := s.cnu.escrow.length
  let busy : Bool := s.cnu.motion.isSome || s.cnu.stuck.isSome
  n ≤ 8 ∧ s.cnu.nextSeq < 65536 ∧
  (∀ p ∈ s.cnu.escrow.zipIdx, p.1.seq < 65536 ∧ (p.1.seq + (n - p.2)) % 65536 = s.cnu.nextSeq ∧
    (p.1.status = .dropping ↔ p.2 = 0 ∧ busy = true)) ∧
  (busy = true → s.cnu.escrow ≠ []) ∧ ¬(s.cnu.motion.isSome = true ∧ s.cnu.stuck.isSome = true) ∧
  (s.cnu.drops.map (·.seq)).Nodup ∧
  ∀ d ∈ s.cnu.drops, ∃ c ∈ s.cnu.escrow, c.seq = d.seq ∧
    c.status = if d.dir = .collect then .committed else .held

/-- The uncommitted coins of a roll lie in the tube, HELD under an owner with no drop queued, each with
its value (R56, R86, R92, R95). -/
def RollInTube (roll : List RollCoin) (o : Owner) (s : State) : Prop :=
  (roll.map (·.seq)).Nodup ∧
  ∀ x ∈ roll, x.committed = false →
    ∃ c ∈ s.cnu.escrow, c.seq = x.seq ∧ c.value = x.value ∧ c.status = .held ∧ c.owner = some o ∧
      hasDrop s c = false

/-- The rolls lie in the tube, and while a call is open the carry is 0 and no coin is put in under its
own sequence as the next one (R86, R91, R110). -/
abbrev RollLaw (s : State) : Prop :=
  (∀ c, s.rtu.ctx = some c → RollInTube (c.roll.filter fun x => !x.committed) c.owner s ∧
    s.rtu.carry = 0 ∧ s.rtu.waiting = [] ∧ c.owner ≠ nextOwner s) ∧
  (s.rtu.ctx = none → RollInTube s.rtu.waiting (nextOwner s) s)

/-- The value of the coins in the tube that are committed: COMMITTED, or DROPPING on a COLLECT drop
(R152). -/
def committedInTube (s : State) : Nat :=
  let collecting : Bool :=
    s.cnu.motion.any (fun m => m.dir = .collect) || decide (s.cnu.stuck = some .collect)
  (s.cnu.escrow.map fun c =>
    if c.status = .committed ∨ (c.status = .dropping ∧ collecting = true) then c.value else 0).sum

/-- The open credit: that of the open call, or the carry (R88). -/
def openCreditNow (s : State) : Nat :=
  match s.rtu.ctx with
  | some c => c.cin + c.committed - c.consumed
  | none => s.rtu.carry

/-- The second law of R152: COLLECTED_VALUE plus the committed value in the tube is CONSUMED_VALUE plus
EXCESS_VALUE plus the open credit; with it the laws of line, tube, rolls and credit by which the steps
keep it. -/
abbrev AccountLaw (s : State) : Prop :=
  LineLaw s ∧ TubeLaw s ∧ RollLaw s ∧ CreditLaw s ∧
  s.adu.cache.collected + committedInTube s =
    s.adu.cache.consumed + s.adu.cache.excess + openCreditNow s

end Sys2Proof.Machine
end

