-- ==== Sys2Proof/Certificates/Slice0/Obligations.lean ====
section
/-! DEFINITION. The statements for the provers, from the numbered rules of spec/. -/

open Sys2Proof Sys2Proof.Machine

/-! ### The block and its supply -/

/-- With a command at the front of the queue a step is that command's effect on the state with the
queue's rest. -/
def Obligations.StepRunsFrontCommand : Prop :=
  ∀ (c : Instr) (rest : List Instr) (s : State),
    s.pending = c :: rest → step s = exec c { s with pending := rest }

/-- The model's choice (log 1, log 4): with no command waiting a millisecond passes while the supply
is up. What the rules give it: the blocks' own counts run only in RUNNING (R62, R105, R123, R136,
R151, R172), and a valid clock's phase (R81) runs always. So do the 2 s of a blocked entry sensor (R47;
log 53) and the spacing of the shock edges (R126; log 33). -/
def Sys2Proof.Clause.EmptyQueueMillisecond : Prop :=
  ∀ s : State, s.pending = [] →
    let d := if s.powered = true then 1 else 0
    let n := if s.powered = true ∧ s.pfu.power = .running then 1 else 0
    ∃ t, step s = .next t ∧ OnlyChanges [.cnu, .tru, .rtu, .lnu, .inu, .rpu, .acu] s t ∧
      t.tru = { s.tru with phase := if s.tru.clock.isSome then s.tru.phase + d else s.tru.phase } ∧
      t.cnu = { s.cnu with ms := s.cnu.ms + n, edgeMs := s.cnu.edgeMs + d } ∧
      t.rtu = { s.rtu with ms := s.rtu.ms + n } ∧
      t.lnu = { s.lnu with ms := s.lnu.ms + n } ∧
      t.inu = { s.inu with ms := s.inu.ms + n, edgeMs := s.inu.edgeMs + d } ∧
      t.rpu = { s.rpu with ms := s.rpu.ms + n } ∧ t.acu = { s.acu with ms := s.acu.ms + n }

/-- The model's choice (log 2): with the supply down no command but POWER_ON changes anything, and
POWER_ON changes nothing with the supply up. -/
def Sys2Proof.Clause.SupplyDownChangesNothing : Prop :=
  (∀ (c : Instr) (s : State),
    s.powered = false → (∀ lv, c ≠ .powerOn lv) → exec c s = .next s) ∧
  ∀ (lv : Levels) (s : State), s.powered = true → exec (.powerOn lv) s = .next s

/-- Every command answers a next state in every state: no command of the part ends in a fault or a
refusal. -/
def Sys2Proof.Clause.EveryCommandAnswers : Prop := ∀ (c : Instr) (s : State), ∃ t, exec c s = .next t

/-- The model's choices about a part without supply or without a command waiting, and that no
command of the part ends in a fault or a refusal. -/
def Obligations.SupplyDownAndIdling : Prop :=
  Clause.EmptyQueueMillisecond ∧ Clause.SupplyDownChangesNothing ∧ Clause.EveryCommandAnswers

/-- POWER_ON: every block takes its power-on state over what NV holds (R28 and the blocks' own
rules), and a warning found asserted is taken at once (R173); POWER_LOST keeps NV alone. That RAM
then reads 0 is the model's choice (log 3). -/
def Obligations.SupplyRisesAndFalls : Prop :=
  ∀ (s : State) (lv : Levels), s.mem.wf = true →
    (s.powered = false →
      ∃ t, exec (.powerOn lv) s = .next t ∧ t.powered = true ∧ t.pending = s.pending ∧
        (∀ a, t.mem.get a = if a < 0x80000 then 0 else s.mem.get a) ∧
        t.bpu.table = none ∧ t.bpu.busy = ⟨false, false, false, false⟩ ∧ t.bpu.intercepts = [] ∧
        t.bpu.overflow = false ∧ t.cfl.step = .walk ∧ t.cfl.params = Params.absent ∧
        t.cfl.fault = none ∧ t.cfl.skip = 0 ∧ t.rqu = ⟨[], none, [], 0x200, 0xFFF, false⟩ ∧
        t.cnu.chute = [] ∧ t.cnu.escrow = [] ∧ t.cnu.drops = [] ∧ t.cnu.motion = none ∧
        t.cnu.frozen = false ∧ t.cnu.nextSeq = 0 ∧ t.tru.clock = none ∧ t.tru.unsettled = false ∧
        t.tru.valid = false ∧ t.tru.calendar = none ∧ t.rtu.ctx = none ∧ t.rtu.waiting = [] ∧
        t.rtu.carry = 0 ∧ t.lnu.state = .idle ∧ t.lnu.relay = false ∧ t.lnu.buffer = [] ∧
        t.lnu.offHook = lv.offHook ∧ t.lnu.voltage = lv.voltage ∧ t.inu.latches = 0 ∧
        t.inu.records = [] ∧ t.rpu.call = none ∧ t.rpu.timeRequest = none ∧ t.rpu.counter = 0 ∧
        t.adu.cache = Tallies.zero ∧ t.adu.dirty = false ∧ t.adu.jobs = [] ∧
        t.acu.mode = .normal ∧ t.acu.attempts = 0 ∧ t.acu.lapse = none ∧ t.acu.keyOn = lv.keyOn ∧
        t.pfu.warning = lv.warning ∧ t.pfu.power = (if lv.warning then .saved else .running)) ∧
    (s.powered = true →
      ∃ t, exec .powerLost s = .next t ∧ t.powered = false ∧ t.pending = s.pending ∧
        ∀ a, t.mem.get a = if a < 0x80000 then 0 else s.mem.get a)

/-! ### Laws that every step keeps -/

/-- Memory keeps its canonical form (log 3). -/
def Obligations.MemoryStaysCanonical : Prop :=
  ∀ s t : State, s.mem.wf = true → step s = .next t → t.mem.wf = true

/-- The access law is kept by every step (R166, R168, R170, R172), and LOCKOUT is left only with the
supply (R168). -/
def Obligations.AccessLawKept : Prop :=
  ∀ s t : State, AccessLaw s → step s = .next t →
    AccessLaw t ∧
      (s.acu.mode = .lockout → t.powered = true → s.powered = true → t.acu.mode = .lockout)

/-- The intercept law is kept by every step (R15, R40). -/
def Sys2Proof.Clause.InterceptLawKept : Prop :=
  ∀ s t : State, InterceptLaw s → step s = .next t → InterceptLaw t

/-- The escrow law is kept by every step (R48, R50, R51, R55, R63). -/
def Sys2Proof.Clause.EscrowLawKept : Prop :=
  ∀ s t : State, EscrowLaw s → step s = .next t → EscrowLaw t

/-- The index law is kept by every step (R129, R131). -/
def Sys2Proof.Clause.IndexLawKept : Prop :=
  ∀ s t : State, IndexLaw s → step s = .next t → IndexLaw t

/-- The bounds of the intercept queue and of the coin lists, and the slots of the incident index. -/
def Obligations.ListBoundsKept : Prop :=
  Clause.InterceptLawKept ∧ Clause.EscrowLawKept ∧ Clause.IndexLawKept

/-- The slot law is kept by every step (R8, R35, R36, R37, R40). -/
def Obligations.SlotLawKept : Prop :=
  ∀ s t : State, SlotLaw s → step s = .next t → SlotLaw t

/-- The credit law is kept by every step (R86, R88, R93 to R97). -/
def Obligations.CreditLawKept : Prop :=
  ∀ s t : State, CreditLaw s → step s = .next t → CreditLaw t

/-- Outside STARTING the first law is kept by every step (R152), as long as CREDITED_VALUE has not
saturated. -/
def Sys2Proof.Clause.FirstCashLawKept : Prop :=
  ∀ s t : State, starting s = false → CashLaw s → step s = .next t → starting t = false →
    t.adu.cache.credited < 0xFFFFFFFF → CashLaw t

/-- Outside STARTING the second law is kept by every step (R152), as long as none of its tallies has
saturated. -/
def Sys2Proof.Clause.SecondCashLawKept : Prop :=
  ∀ s t : State, starting s = false → AccountLaw s → step s = .next t → starting t = false →
    t.adu.cache.collected < 0xFFFFFFFF → t.adu.cache.consumed < 0xFFFFFFFF →
    t.adu.cache.excess < 0xFFFFFFFF → AccountLaw t

/-- The two laws of the tallies. -/
def Obligations.CashLawKept : Prop := Clause.FirstCashLawKept ∧ Clause.SecondCashLawKept

/-- Outside STARTING no tally but ESCROW_BALANCE, CASHBOX_VALUE and CASHBOX_COINS ever decreases, and
each stays a 32-bit value (R152). -/
def Obligations.TalliesNeverDecrease : Prop :=
  ∀ s t : State, starting s = false → TallyBound s → step s = .next t → starting t = false →
    TallyBound t ∧ eachAtMost (risingTallies s.adu.cache) (risingTallies t.adu.cache) = true

/-- The laws hold of the part right after power-on, whatever its inputs and whatever NV holds. -/
def Obligations.LawsHoldAtPowerOn : Prop :=
  ∀ (m : Memory) (lv : Levels) (p : List Instr), m.wf = true →
    let s := State.powerOn m.nonvolatile lv p
    s.mem.wf = true ∧ AccessLaw s ∧ InterceptLaw s ∧ EscrowLaw s ∧ IndexLaw s ∧ SlotLaw s ∧
      CreditLaw s

/-! ### The bus -/

/-- A controller read whose action is PASS is answered with the memory word on the lanes asked for
(R2, R4, R6); in a log window a remapped slot's words come from its spare (R12). Nothing else changes
but the burst's sample (R6). -/
def Sys2Proof.Clause.ReadReachesMemory : Prop :=
  ∀ (s : State) (addr : BitVec 20) (lanes : Lanes) (first : Bool),
    let a := addr.toNat
    let answered (w : Word) : State :=
      { s with
        bpu.answer := some ⟨w &&& laneMask lanes, lanes⟩
        bpu.sample := if first then none else s.bpu.sample }
    BusReady s → arrivesGranted s = true → a % 2 = 0 → JudgedByWindow s a →
    ((∀ w, windowAt s a = some w →
        w.kind = .plain ∨ w.kind = .request ∨ w.kind = .tariff ∨
          (s.acu.mode = .service ∧ (w.kind = .config ∨ w.kind = .context ∨ w.kind = .spare))) →
      exec (.controllerRead addr lanes first) s = .next (answered (s.mem.word a))) ∧
    ∀ (w : Window) (log : LogId), windowAt s a = some w →
      w.kind = logWindow log →
      let k := (a - w.base) / slotSize log
      ((slotCount log ≤ k ∨ spareOf s.adu.remap log k = none) →
        exec (.controllerRead addr lanes first) s = .next (answered (s.mem.word a))) ∧
      ∀ j, k < slotCount log → spareOf s.adu.remap log k = some j →
        let b := baseOf .spare s + 0x40 + 0x40 * j + (a - w.base) % slotSize log
        (memKind b).isSome = true →
        exec (.controllerRead addr lanes first) s = .next (answered (s.mem.word b))

/-- A hidden read is answered with 5AC3h in both lanes, whatever lanes the controller asked for:
every NV word in SAVING and SAVED (R3), and the CONFIG, CONTEXT and SPARE windows outside SERVICE
(R4, R5). Nothing else changes but the burst's sample. -/
def Sys2Proof.Clause.HiddenReadPattern : Prop :=
  ∀ (s : State) (addr : BitVec 20) (lanes : Lanes) (first : Bool),
    BusReady s → addr.toNat % 2 = 0 →
    ((memKind addr.toNat = some .nv ∧ s.pfu.power ≠ .running) ∨
      (JudgedByWindow s addr.toNat ∧ s.acu.mode ≠ .service ∧
        ∃ w, windowAt s addr.toNat = some w ∧
          (w.kind = .config ∨ w.kind = .context ∨ w.kind = .spare))) →
    exec (.controllerRead addr lanes first) s =
      .next
        { s with
          bpu.answer := some ⟨0x5AC3, .both⟩
          bpu.sample := if first then none else s.bpu.sample }

/-- What a read of memory is answered with. -/
def Obligations.ReadsPassedOrHidden : Prop := Clause.ReadReachesMemory ∧ Clause.HiddenReadPattern

/-- A read in the STATUS or TALLY window is answered from the burst's sample of the live state, taken
now if the burst has none, and 0 beyond the layout (R6, R9, R11). -/
def Sys2Proof.Clause.LiveRead : Prop :=
  ∀ (s : State) (addr : BitVec 20) (lanes : Lanes) (first : Bool) (w : Window),
    let a := addr.toNat
    let p := (if first then none else s.bpu.sample).getD ⟨statusWords s, tallyArea s⟩
    BusReady s → a % 2 = 0 → JudgedByWindow s a → windowAt s a = some w →
    (w.kind = .status →
      exec (.controllerRead addr lanes first) s =
        .next
          { s with
            bpu.answer := some ⟨p.status.getD ((a - w.base) / 2) 0 &&& laneMask lanes, lanes⟩
            bpu.sample := some p }) ∧
    (w.kind = .tally →
      exec (.controllerRead addr lanes first) s =
        .next
          { s with
            bpu.answer := some ⟨p.tally.getD ((a - w.base) / 2) 0 &&& laneMask lanes, lanes⟩
            bpu.sample := some p })

/-- The status block's words by their places, but for the rating fields and the oldest intercept
(R43, section 3.6). That a 24h count above 65535 shows its low 16 bits is the model's choice (log
48). -/
def Sys2Proof.Clause.StatusBlockLayout : Prop :=
  ∀ s : State,
    let w (i : Nat) : Word := (statusWords s).getD (i / 2) 0
    let shows (i v : Nat) : Prop :=
      v < 0x100000000 → (w i).toNat * 65536 + (w (i + 2)).toNat = v
    (statusWords s).length = 36 ∧
    w 0x00 = s.rqu.flags.setWidth 16 ∧ w 0x02 = s.rqu.mask.setWidth 16 ∧
    (s.bpu.intercepts.length ≤ 8 →
      (w 0x04).toNat = s.bpu.intercepts.length + (if s.bpu.overflow then 32768 else 0)) ∧
    (w 0x06).getLsbD 0 = coinsBarred s ∧ (w 0x06).getLsbD 1 = paidBarred s ∧
    (w 0x06).getLsbD 2 = outOfOrder s ∧ (w 0x06).getLsbD 3 = starting s ∧
    (w 0x06).getLsbD 4 = s.cfl.fault.isSome ∧ (w 0x06).getLsbD 5 = s.tru.unsettled ∧
    (w 0x06).getLsbD 6 = s.tru.valid ∧ (w 0x06).getLsbD 7 = s.adu.suspect ∧
    (w 0x06).getLsbD 8 = s.rtu.ctx.any (fun c => c.phase = .grace) ∧
    (w 0x06).getLsbD 9 = s.tru.clock.isSome ∧ (w 0x06).toNat < 1024 ∧
    (w 0x08).toNat = s.lnu.state.code ∧
    (w 0x0A).toNat = s.acu.mode.code * 256 + s.pfu.power.code ∧
    shows 0x18 (escrowValue s) ∧
    (s.cnu.escrow.length + s.cnu.chute.length ≤ 8 →
      (w 0x1C).toNat = s.cnu.escrow.length * 256 + s.cnu.chute.length) ∧
    (w 0x24).toNat = uncollected s % 65536 ∧ shows 0x26 s.adu.nextCall ∧
    (s.inu.records.length < 65536 →
      (w 0x2A).toNat = (s.inu.records.filter fun r => r.state = .pending).length) ∧
    w 0x2C = s.inu.latches.setWidth 16 ∧
    (w 0x2E).toNat = (if s.inu.latches.getLsbD 16 then 1 else 0) ∧
    (s.tru.clock = none → w 0x30 = 0 ∧ w 0x32 = 0 ∧ w 0x34 = 0) ∧
    (∀ c, s.tru.clock = some c → c.year < 256 → c.month < 256 → c.day < 256 → c.hour < 256 →
      c.minute < 256 → c.second < 256 →
      (w 0x30).toNat = c.year * 256 + c.month ∧ (w 0x32).toNat = c.day * 256 + c.hour ∧
      (w 0x34).toNat = c.minute * 256 + c.second) ∧
    (s.cfl.skip < 65536 → (w 0x36).toNat = s.cfl.skip) ∧
    (s.cfl.fault = none → w 0x38 = 0) ∧
    ∀ r i, s.cfl.fault = some (r, i) → i < 256 → (w 0x38).toNat = r.code * 256 + i

/-- The rating fields of the status block (R43, R103): remaining, consumed and carried credit, class
and band, and the whole seconds left in the interval and in grace, rounded up. -/
def Sys2Proof.Clause.RatingFieldsShown : Prop :=
  ∀ s : State,
    let w (i : Nat) : Word := (statusWords s).getD (i / 2) 0
    let shows (i v : Nat) : Prop :=
      v < 0x100000000 → (w i).toNat * 65536 + (w (i + 2)).toNat = v
    let counts (i point : Nat) : Prop :=
      point * 1000 ≤ s.rtu.ms + 65535000 →
      point * 1000 ≤ s.rtu.ms + (w i).toNat * 1000 ∧
      ∀ k, point * 1000 ≤ s.rtu.ms + k * 1000 → (w i).toNat ≤ k
    (s.rtu.ctx = none →
      shows 0x0C (s.rtu.carry + (s.rtu.waiting.map (·.value)).sum) ∧ shows 0x10 0 ∧
      shows 0x14 s.rtu.carry ∧ w 0x1E = 0xFFFF ∧ w 0x20 = 0 ∧ w 0x22 = 0) ∧
    ∀ c, s.rtu.ctx = some c →
      shows 0x0C (c.cin + (c.roll.map (·.value)).sum - c.consumed) ∧ shows 0x10 c.consumed ∧
      shows 0x14 c.cin ∧
      (c.cls < 256 → c.band = none → (w 0x1E).toNat = c.cls * 256 + 0xFF) ∧
      (∀ b, c.cls < 256 → b < 256 → c.band = some b → (w 0x1E).toNat = c.cls * 256 + b) ∧
      (c.finish = none → w 0x20 = 0) ∧ (∀ e, c.finish = some e → counts 0x20 e) ∧
      (c.phase ≠ .grace → w 0x22 = 0) ∧
      ∀ e, c.phase = .grace → c.graceDeadline = some e → counts 0x22 e

/-- The oldest intercept record in the status block, field by field (R14, R15, section 3.6). -/
def Sys2Proof.Clause.OldestInterceptShown : Prop :=
  ∀ s : State,
    let w (i : Nat) : Word := (statusWords s).getD (i / 2) 0
    let shows (i v : Nat) : Prop :=
      v < 0x100000000 → (w i).toNat * 65536 + (w (i + 2)).toNat = v
    (s.bpu.intercepts = [] → ∀ i, 0x3A ≤ i → w i = 0) ∧
    ∀ r rest, s.bpu.intercepts = r :: rest →
      let cause : Nat :=
        match r.cause with
        | .writeBlocked => 1
        | .slotBusy => 2
        | .statusWrite => 3
        | .saveRefused => 4
      let lanes : Nat :=
        match r.lanes with
        | .low => 1
        | .high => 2
        | .both => 3
      (w 0x3A).toNat = cause * 256 + lanes ∧ shows 0x3C r.addr ∧ w 0x40 = r.data ∧
      (r.index < 256 → (w 0x42).toNat = r.index * 256 + r.mode.code) ∧
      (r.seconds = none → w 0x44 = 0xFFFF ∧ w 0x46 = 0xFFFF) ∧
      ∀ n, r.seconds = some n → shows 0x44 n

/-- The tally area's words by their places (R46): the 32-bit tallies at 4-byte steps, the five
attributes, each a total word and a word with its armed flag and its level, and the check word. -/
def Sys2Proof.Clause.TallyAreaLayout : Prop :=
  ∀ s : State,
    let x := s.adu.cache
    let w (i : Nat) : Word := (tallyArea s).getD (i / 2) 0
    let shows (i v : Nat) : Prop :=
      v < 0x100000000 → (w i).toNat * 65536 + (w (i + 2)).toNat = v
    let attr (i : Nat) (v : CacheAttr) : Prop :=
      (v.total < 65536 → (w i).toNat = v.total) ∧
      (v.level < 256 → (w (i + 2)).toNat = v.level + if v.armed then 32768 else 0)
    (tallyArea s).length = 49 ∧
    shows 0x00 x.credited ∧ shows 0x04 x.collected ∧ shows 0x08 x.returned ∧
    shows 0x0C x.consumed ∧ shows 0x10 x.excess ∧ shows 0x14 x.escrow ∧ shows 0x18 x.boxValue ∧
    shows 0x1C x.boxCoins ∧ shows 0x20 x.coins1 ∧ shows 0x24 x.coins2 ∧ shows 0x28 x.coins3 ∧
    shows 0x2C x.coins4 ∧ shows 0x30 x.coins5 ∧ shows 0x34 x.coins6 ∧
    shows 0x38 x.paidAnswered ∧ shows 0x3C x.free ∧ shows 0x40 x.unanswered ∧
    shows 0x44 x.unlogged ∧ shows 0x48 x.collectedThrough ∧
    attr 0x4C x.attrs.shockPulses ∧ attr 0x50 x.attrs.coinRejects ∧
    attr 0x54 x.attrs.coinPathErrors ∧ attr 0x58 x.attrs.blockedWrites ∧
    attr 0x5C x.attrs.nvRetries ∧ w 0x60 = s.adu.check

/-- Substituted reads and the words they show, each in its place. -/
def Obligations.LiveStateRead : Prop :=
  Clause.LiveRead ∧ Clause.StatusBlockLayout ∧ Clause.RatingFieldsShown ∧
  Clause.OldestInterceptShown ∧ Clause.TallyAreaLayout

/-- The word of a cycle to an undecoded address passes, and the part takes no further notice of it: a
write changes nothing, and a read is answered with a value the spec does not give (R2; log 5). -/
def Sys2Proof.Clause.UndecodedPasses : Prop :=
  ∀ (s : State) (addr : BitVec 20) (data : Word) (lanes : Lanes) (first : Bool),
    BusReady s → arrivesGranted s = true → addr.toNat % 2 = 0 → memKind addr.toNat = none →
    windowAt s addr.toNat = none →
    exec (.controllerWrite addr data lanes) s = .next s ∧
    ∃ x : Word,
      exec (.controllerRead addr lanes first) s =
        .next
          { s with
            bpu.answer := some ⟨x, lanes⟩
            bpu.sample := if first then none else s.bpu.sample
            free := s.free + 1 }

/-- A controller word is held on the wait line until a table is installed (R1), and a word that
needs the port waits for a save under way (R16, R17): in SAVING that is a word to an undecoded
address, or one to RAM in no window, in PLAIN, or in REQUEST but for a write to a busy slot. That a
word driven while one is held changes nothing is the model's choice (logs 12 and 13). -/
def Sys2Proof.Clause.WordsHeldOnTheWaitLine : Prop :=
  ∀ (s : State) (addr : BitVec 20) (data : Word) (lanes : Lanes) (first : Bool),
    let a := addr.toNat
    s.powered = true → a % 2 = 0 →
    (s.bpu.cycle.isSome = true →
      exec (.controllerRead addr lanes first) s = .next s ∧
      exec (.controllerWrite addr data lanes) s = .next s) ∧
    (s.bpu.cycle = none → s.bpu.table = none →
      exec (.controllerWrite addr data lanes) s =
        .next { s with bpu.cycle := some ⟨true, a, data, lanes, none⟩ } ∧
      exec (.controllerRead addr lanes first) s =
        .next
          { s with
            bpu.cycle := some ⟨false, a, 0, lanes, none⟩
            bpu.answer := none
            bpu.sample := if first then none else s.bpu.sample }) ∧
    (BusReady s → s.pfu.power = .saving → s.pfu.save ≠ [] →
      ((memKind a = none ∨
          (memKind a = some .ram ∧ ∀ w, windowAt s a = some w →
            w.kind = .plain ∨
            (w.kind = .request ∧
              (0x100 ≤ a - w.base ∨ s.bpu.busy.get ((a - w.base) / 0x40) = false)))) →
        exec (.controllerWrite addr data lanes) s =
          .next { s with bpu.cycle := some ⟨true, a, data, lanes, some a⟩ }) ∧
      ((memKind a = none ∨
          (memKind a = some .ram ∧ ∀ w, windowAt s a = some w →
            w.kind = .plain ∨ w.kind = .request)) →
        exec (.controllerRead addr lanes first) s =
          .next
            { s with
              bpu.cycle := some ⟨false, a, 0, lanes, some a⟩
              bpu.answer := none
              bpu.sample := if first then none else s.bpu.sample }))

/-- Words that no window judges: undecoded ones, and those the wait line holds. -/
def Obligations.WordsPassedOrHeld : Prop := Clause.UndecodedPasses ∧ Clause.WordsHeldOnTheWaitLine

/-- A blocked write word does not write memory; it counts on BLOCKED_WRITES, its record joins the
intercept queue if that holds fewer than 8 and else sets the overflow flag, and INTERCEPT is raised
(R3, R4, R7, R9, R14, R15). `attrEvent` is the hand to the INU (R127). -/
def Obligations.BlockedWriteRecorded : Prop :=
  ∀ (s : State) (addr : BitVec 20) (data : Word) (lanes : Lanes) (cause : Cause),
    let a := addr.toNat
    let u := attrEvent .blockedWrites s
    let r : Intercept :=
      { cause := cause
        addr := a
        data := data
        lanes := lanes
        index := ((windowAt s a).map (·.index)).getD 0xFF
        mode := s.acu.mode
        seconds := s.tru.clock.map fun c => c.hour * 3600 + c.minute * 60 + c.second }
    BusReady s → a % 2 = 0 → WriteBlocked s a cause →
    ∃ t, exec (.controllerWrite addr data lanes) s = .next t ∧ t.mem = s.mem ∧
      (s.bpu.intercepts.length < 8 →
        t = { u with
              bpu := { s.bpu with intercepts := s.bpu.intercepts ++ [r] }
              rqu := { u.rqu with flags := setFlag u.rqu.flags .intercept } }) ∧
      (8 ≤ s.bpu.intercepts.length →
        t = { u with
              bpu := { s.bpu with overflow := true }
              rqu := { u.rqu with flags := setFlag u.rqu.flags .intercept } })

/-- A controller write word whose action is PASS writes its lanes of memory and no other byte (R2,
R4, R6, R8): outside every window, in PLAIN, beyond the slots of REQUEST, and in a free slot where
it posts nothing, that is all it does. In SERVICE it reaches the TARIFF window but for its last
word, setting tariff-unsettled, and the CONFIG window; either restarts the lapse timer (R10, R171), its
notice being held by the ACU while the power state is not RUNNING (R172). That it restarts the timer also in
a session opened with lapse time 0, to which a reload has given another, is the model's choice (log 52).
Between the first word that an analysis in hand reads and its last it makes the outcome TARIFF_UNSETTLED
(R79; that step 3 is taken with the first word is the model's choice, log 22). -/
def Sys2Proof.Clause.WriteReachesMemory : Prop :=
  ∀ (s : State) (addr : BitVec 20) (data : Word) (lanes : Lanes),
    let a := addr.toNat
    BusReady s → arrivesGranted s = true → a % 2 = 0 → JudgedByWindow s a → s.mem.wf = true →
    ((∀ w, windowAt s a = some w →
        w.kind = .plain ∨
        (w.kind = .request ∧
          (0x100 ≤ a - w.base ∨
            (s.bpu.busy.get ((a - w.base) / 0x40) = false ∧
              ((a - w.base) % 0x40 ≠ 0 ∨ lanes ≠ .both ∨ data = 0))))) →
      ∃ t, exec (.controllerWrite addr data lanes) s = .next t ∧ OnlyChanges [.mem] s t ∧
        ∀ b, t.mem.get b = byteAfter s.mem a data lanes b) ∧
    ∀ w, windowAt s a = some w → s.acu.mode = .service →
      let lapse :=
        if s.cfl.params.lapse = 0 then none else some (s.acu.ms + s.cfl.params.lapse * 60000)
      let noticed (tariff : Bool) (t : State) : Prop :=
        (s.pfu.power = .running → t.acu = { s.acu with lapse := lapse } ∧ t.held = s.held) ∧
        (s.pfu.power ≠ .running → t.acu = s.acu ∧ t.held = s.held ++ [.passingWrite tariff])
      (w.kind = .tariff → a ≠ w.base + w.size - 2 →
        ∃ t, exec (.controllerWrite addr data lanes) s = .next t ∧
          OnlyChanges [.mem, .tru, .acu, .held] s t ∧
          (∀ b, t.mem.get b = byteAfter s.mem a data lanes b) ∧
          t.tru =
            { s.tru with
              unsettled := true
              edited := s.tru.edited || (decide (s.tru.analysed ≠ 0) && s.tru.outcome.isNone)
              check :=
                s.tru.check.map fun k =>
                  { k with overtaken := k.overtaken || decide (k.rev ≠ []) } } ∧
          noticed true t) ∧
      (w.kind = .config →
        ∃ t, exec (.controllerWrite addr data lanes) s = .next t ∧
          OnlyChanges [.mem, .acu, .held] s t ∧
          (∀ b, t.mem.get b = byteAfter s.mem a data lanes b) ∧ noticed false t)

/-- A full write of a non-zero word to a free slot's kind word passes to RAM, makes the slot busy
and appends it to the pending queue (R8). Outside STARTING, or behind another request, nothing else
happens. While STARTING, at the head with no request in service, its kind word is read once the port
comes to the RQU (R16; log 37): a DIAL is taken to be completed with STARTING, and any other kind
waits (R29). A busy slot's kind word is not written and posts nothing. -/
def Obligations.RequestPosted : Prop :=
  ∀ (s : State) (slot : Fin 4) (kind : Word) (w : Window),
    let a := w.base + 0x40 * slot.val
    let posted (m : Memory) : State :=
      { s with
        mem := m
        bpu.busy := s.bpu.busy.set slot.val true
        rqu.queue := s.rqu.queue ++ [slot.val] }
    BusReady s → arrivesGranted s = true → s.mem.wf = true → kind ≠ 0 →
    windowOf .request s = some w → windowAt s a = some w → w.kind = .request →
    memKind a = some .ram → memKind (a + 1) = some .ram →
    (s.bpu.busy.get slot.val = false →
      ∃ m : Memory, (∀ b, m.get b = byteAfter s.mem a kind .both b) ∧
        ((starting s = false ∨ s.rqu.queue ≠ [] ∨ s.rqu.service.isSome = true) →
          exec (.postRequest slot kind) s = .next (posted m)) ∧
        (starting s = true → s.rqu.queue = [] → s.rqu.service = none →
          (portReaches .rqu s = false →
            exec (.postRequest slot kind) s = .next { posted m with rqu.unread := true }) ∧
          (portReaches .rqu s = true → kind.toNat ≠ 1 →
            exec (.postRequest slot kind) s = .next { posted m with rqu.unread := false }) ∧
          (portReaches .rqu s = true → kind.toNat = 1 →
            exec (.postRequest slot kind) s =
              .next
                { posted m with
                  rqu.queue := []
                  rqu.unread := false
                  rqu.service :=
                    some
                      ⟨slot.val, kind, m.word (a + 2), [], .answered ⟨4, 0, 0, 0⟩ 0⟩ }))) ∧
    (s.bpu.busy.get slot.val = true →
      ∃ t, exec (.postRequest slot kind) s = .next t ∧ t.mem = s.mem ∧ t.rqu.queue = s.rqu.queue ∧
        t.bpu.busy = s.bpu.busy)

/-- The writable words of the status block (R9): an acknowledgement clears the flags that its data
names in the written lanes, a mask write replaces the mask bits of the written lanes, and a pop on any
lane and with any data removes the oldest intercept, clearing the overflow flag with the last (R15,
R41, R42). Memory is not written. -/
def Sys2Proof.Clause.StatusWordsTaken : Prop :=
  ∀ (s : State) (data : Word) (lanes : Lanes) (w : Window),
    let stands (offset : Nat) : Prop :=
      windowAt s (w.base + offset) = some w ∧ memKind (w.base + offset) = some .ram
    BusReady s → windowOf .status s = some w → w.kind = .status →
    (stands 0 →
      ∃ f : BitVec 12,
        exec (.eventAcknowledge data lanes) s = .next { s with rqu.flags := f } ∧
        ∀ i, i < 12 →
          f.getLsbD i = (s.rqu.flags.getLsbD i && !(laneHolds lanes i && data.getLsbD i))) ∧
    (stands 2 →
      ∃ m : BitVec 12,
        exec (.eventMaskWrite data lanes) s = .next { s with rqu.mask := m } ∧
        ∀ i, i < 12 →
          m.getLsbD i = if laneHolds lanes i then data.getLsbD i else s.rqu.mask.getLsbD i) ∧
    (stands 4 →
      (s.bpu.intercepts = [] → exec (.interceptPop data lanes) s = .next s) ∧
      ∀ r rest, s.bpu.intercepts = r :: rest →
        exec (.interceptPop data lanes) s =
          .next
            { s with
              bpu.intercepts := rest
              bpu.overflow := s.bpu.overflow && rest ≠ [] })

/-- The attention line is asserted exactly while a flag is set whose mask bit is set (R42), and an
event sets its own flag and no other (R41). -/
def Sys2Proof.Clause.AttentionFollowsFlags : Prop :=
  ∀ (s : State) (e : Event),
    (attention s = true ↔
      ∃ i, i < 12 ∧ s.rqu.flags.getLsbD i = true ∧ s.rqu.mask.getLsbD i = true) ∧
    OnlyChanges [.rqu] s (raise e s) ∧
    (raise e s).rqu = { s.rqu with flags := (raise e s).rqu.flags } ∧
    ∀ i, i < 12 →
      (raise e s).rqu.flags.getLsbD i = (s.rqu.flags.getLsbD i || decide (i = e.bit))

/-- The barrings, which the status block shows, are the union of the bars of the latches that are set
(R125): each latch is the bit of its kind's code less 1. -/
def Sys2Proof.Clause.LatchesBar : Prop :=
  ∀ s : State,
    let bars (codes : List Nat) : Prop := ∃ c ∈ codes, s.inu.latches.getLsbD (c - 1) = true
    (coinsBarred s = true ↔ bars [1, 2, 5, 7, 9]) ∧ (paidBarred s = true ↔ bars [1, 2, 7, 13, 14]) ∧
    (outOfOrder s = true ↔ bars [3, 10, 16])

/-- The writable status words, the event flags and the attention line, and the barrings shown. -/
def Obligations.StatusWordsAndAttention : Prop :=
  Clause.StatusWordsTaken ∧ Clause.AttentionFollowsFlags ∧ Clause.LatchesBar

/-- A controller reset drops the held cycle (R17), empties the intercept queue (R15), clears the
flags and sets the mask, and marks the waiting slots for abandoning behind those already marked
(R40), in every power state. In RUNNING the access mode follows R172: NORMAL and LOCKOUT stand;
FROZEN becomes NORMAL with MODE raised; a SERVICE session ends as SERVICE_END ends it. Out of
RUNNING the mode does not change (R172); that the ACU holds the reset and takes it when the power
state returns to RUNNING is the model's choice (log 17). -/
def Obligations.ControllerResetActs : Prop :=
  ∀ s : State, s.powered = true →
    let r : State :=
      { s with
        bpu.cycle := none
        bpu.intercepts := []
        bpu.overflow := false
        rqu.flags := 0
        rqu.mask := 0xFFF
        rqu.queue := []
        rqu.unread := false
        rqu.abandon := s.rqu.abandon ++ s.rqu.queue.map fun i => ⟨i, 0⟩ }
    (s.pfu.power = .running → (s.acu.mode = .normal ∨ s.acu.mode = .lockout) →
      exec .controllerReset s = .next r) ∧
    (s.pfu.power = .running → s.acu.mode = .frozen →
      exec .controllerReset s =
        .next { r with acu.mode := .normal, rqu.flags := setFlag 0 .mode }) ∧
    (s.pfu.power = .running → s.acu.mode = .service →
      exec .controllerReset s = .next (endSession r)) ∧
    (s.pfu.power ≠ .running →
      exec .controllerReset s = .next { r with held := s.held ++ [.accessReset] })

/-- PROBE answers how a word would be classed now, and changes nothing (R19): BAD_PARAM outside the
address or direction range, else kind, window index, action, cause and spare in the result words.
That now is the moment of the PROBE command is the model's choice (log 47). -/
def Obligations.ProbeAnswers : Prop :=
  ∀ (s : State) (v : Service), InService kindProbe v s →
    let a := param v.params 1 * 65536 + param v.params 2
    let e := a - a % 2
    let act := classify (param v.params 3 = 1) e s
    ((0xFFFFF < a ∨ 1 < param v.params 3) →
      exec .probe s = .next { s with rqu.service := some (v.answered .badParam 0 0 0) }) ∧
    (a ≤ 0xFFFFF → param v.params 3 ≤ 1 →
      exec .probe s =
        .next
          { s with
            rqu.service :=
              some
                (v.answered .ok
                  (bytePair
                    (if (memKind e).isNone then 10
                      else ((windowAt s e).map fun w => w.kind.code).getD 0)
                    (((windowAt s e).map (·.index)).getD 0xFF))
                  (bytePair act.code (actionCause act)) (actionSpare act)) })

/-- REQUEST_TAKE (R36): with no request in service and the terminal not STARTING the head of the
pending queue is taken; a kind code is handed to its owner with its 26 parameter words, and any
other kind is answered UNKNOWN_KIND with the kind word as result word 1. Of a slot that the port has
carried part of, the words left are read. Otherwise nothing is taken (R35), nor while a party before the
RQU waits for the port (R16; the model's choice, logs 4 and 37). In STARTING the kind word of a head not
yet judged is read (R29): a DIAL is to be completed with STARTING, and every other head waits. With a take
no word of the TARIFF window has been read for an analysis (R79; the model's choice, log 22). -/
def Sys2Proof.Clause.RequestTaken : Prop :=
  ∀ s : State, s.powered = true →
    let place (i : Nat) : Nat := baseOf .request s + 0x40 * i
    let word (i k : Nat) : Word := s.mem.word (place i + k)
    let params (i k : Nat) : List Word := (List.range (26 - k)).map fun j => word i (12 + 2 * (k + j))
    let isKind (w : Word) : Prop := 1 ≤ w.toNat ∧ w.toNat ≤ 18
    let unknown (w : Word) : ServicePhase := .answered ⟨22, w, 0, 0⟩ 0
    let refused : ServicePhase := .answered ⟨4, 0, 0, 0⟩ 0
    (portReaches .rqu s = false → exec .requestTake s = .next s) ∧
    (s.rqu.service = none → (s.rqu.queue = [] ∨ (starting s = true ∧ s.rqu.unread = false)) →
      exec .requestTake s = .next s) ∧
    (∀ v, s.rqu.service = some v →
      (v.phase = .handed ∨ v.phase = .held ∨ ∃ a n, v.phase = .answered a n) →
      exec .requestTake s = .next s) ∧
    (portReaches .rqu s = true →
      (∀ i rest, s.rqu.service = none → starting s = false → s.rqu.queue = i :: rest →
        let taken (v : Service) : State :=
          { s with
            rqu.queue := rest
            rqu.service := some v
            tru.edited := false
            tru.analysed := 0
            tru.outcome := none }
        (isKind (word i 0) →
          exec .requestTake s = .next (taken ⟨i, word i 0, word i 2, params i 0, .handed⟩)) ∧
        (¬isKind (word i 0) →
          exec .requestTake s = .next (taken ⟨i, word i 0, word i 2, [], unknown (word i 0)⟩))) ∧
      (∀ v b, s.rqu.service = some v → v.phase = .seqWord b → v.params = [] →
        let next (ps : List Word) (p : ServicePhase) : State :=
          { s with
            rqu.service := some { v with seq := word v.slot 2, params := ps, phase := p } }
        (b = true → exec .requestTake s = .next (next [] refused)) ∧
        (b = false → isKind v.kind → exec .requestTake s = .next (next (params v.slot 0) .handed)) ∧
        (b = false → ¬isKind v.kind → exec .requestTake s = .next (next [] (unknown v.kind)))) ∧
      (∀ v, s.rqu.service = some v → v.phase = .paramWords → v.params.length < 26 →
        exec .requestTake s =
          .next
            { s with
              rqu.service :=
                some
                  { v with
                    params := v.params ++ params v.slot v.params.length, phase := .handed } }) ∧
      ∀ i rest, s.rqu.service = none → s.rqu.queue = i :: rest → starting s = true →
        s.rqu.unread = true →
        ((word i 0).toNat ≠ 1 → exec .requestTake s = .next { s with rqu.unread := false }) ∧
        ((word i 0).toNat = 1 →
          exec .requestTake s =
            .next
              { s with
                rqu.queue := rest
                rqu.unread := false
                rqu.service := some ⟨i, word i 0, word i 2, [], refused⟩ }))

/-- The completion of an answered request (R37) and the abandoning of a marked slot (R40) write
their words in order, those the port has already carried left out, then clear the slot's busy mark
and raise REQUEST. Completion writes the result words, the result code, the sequence word and 0 to
the kind word; abandoning writes 0 to the result words, ABANDONED, and 0 to the kind word. In
STARTING a completion brings the next index to the head, whose kind word is read: a DIAL is to be
completed with STARTING, and any other kind waits (R29). While a party before the RQU waits for the
port neither goes on (R16). That each is one step once the port is the RQU's is the model's choice
(logs 4 and 37). -/
def Sys2Proof.Clause.SlotsCompleted : Prop :=
  ∀ s : State, s.powered = true →
    (portReaches .rqu s = false →
      exec .requestComplete s = .next s ∧ exec .abandonWriteDone s = .next s) ∧
    (∀ (v : Service) (a : Answer) (n : Nat), portReaches .rqu s = true →
      s.rqu.service = some v → v.phase = .answered a n → n < 6 →
      let b := baseOf .request s + 0x40 * v.slot
      let done : State :=
        { s with
          mem :=
            s.mem.storeAll
              ([(b + 6, a.r1), (b + 8, a.r2), (b + 10, a.r3), (b + 4, a.code), (b + 2, v.seq),
                (b, 0)].drop n)
          bpu.busy := s.bpu.busy.set v.slot false
          rqu.service := none
          rqu.flags := setFlag s.rqu.flags .request }
      ((starting s = false ∨ s.rqu.queue = []) → exec .requestComplete s = .next done) ∧
      ∀ i rest, starting s = true → s.rqu.queue = i :: rest →
        let h := baseOf .request s + 0x40 * i
        let kind := done.mem.word h
        (kind.toNat ≠ 1 →
          exec .requestComplete s = .next { done with rqu.unread := false }) ∧
        (kind.toNat = 1 →
          exec .requestComplete s =
            .next
              { done with
                rqu.queue := rest
                rqu.unread := false
                rqu.service :=
                  some ⟨i, kind, done.mem.word (h + 2), [], .answered ⟨4, 0, 0, 0⟩ 0⟩ })) ∧
    ∀ (x : Abandon) (rest : List Abandon), portReaches .rqu s = true →
      s.rqu.abandon = x :: rest → x.written < 5 →
      let b := baseOf .request s + 0x40 * x.slot
      exec .abandonWriteDone s =
        .next
          { s with
            mem :=
              s.mem.storeAll
                ([(b + 6, 0), (b + 8, 0), (b + 10, 0), (b + 4, 21), (b, 0)].drop x.written)
            bpu.busy := s.bpu.busy.set x.slot false
            rqu.abandon := rest
            rqu.flags := setFlag s.rqu.flags .request }

/-- The life of a slot after its request is posted. -/
def Obligations.SlotsTakenAndCompleted : Prop := Clause.RequestTaken ∧ Clause.SlotsCompleted

/-- A word written to an even decoded address is read back from it, on its two bytes and on no other
(R2; the byte order is log 3), and the canonical form is kept. -/
def Sys2Proof.Clause.MemoryReadAfterWrite : Prop :=
  ∀ (m : Memory) (a : Nat) (w : Word) (lanes : Lanes),
    m.wf = true → a % 2 = 0 → (memKind a).isSome = true →
    (m.store a w lanes).wf = true ∧ (m.store a w .both).word a = w ∧
    ∀ b, (m.store a w lanes).get b = byteAfter m a w lanes b

/-- What a passing write leaves in memory. -/
def Obligations.WritesReachMemory : Prop := Clause.MemoryReadAfterWrite ∧ Clause.WriteReachesMemory

/-- The controller's waiting word, granted before the others but for the PFU's save in SAVING (R16,
R17): a read is answered with the memory word on its lanes, a write reaches memory, and one that posts
a request is followed by it (R8). What an undecoded read returns is not given (R2; log 5). -/
def Sys2Proof.Clause.ControllerWordGranted : Prop :=
  ∀ (s : State) (c : Cycle) (a : Nat), s.powered = true → s.bpu.cycle = some c → c.route = some a →
    (s.pfu.power ≠ .saving ∨ waits .pfu s = false) →
    let mem := s.mem.store a c.data c.lanes
    let posts (w : Window) : Prop :=
      c.addr - w.base < 0x100 ∧ (c.addr - w.base) % 0x40 = 0 ∧ c.lanes = .both ∧ c.data ≠ 0 ∧
        s.bpu.busy.get ((c.addr - w.base) / 0x40) = false
    (c.write = false → (memKind a).isSome = true →
      exec .portGrant s =
        .next
          { s with
            bpu.cycle := none
            bpu.answer := some ⟨s.mem.word a &&& laneMask c.lanes, c.lanes⟩ }) ∧
    (c.write = false → memKind a = none →
      ∃ x : Word,
        exec .portGrant s =
          .next
            { s with
              bpu.cycle := none
              bpu.answer := some ⟨x &&& laneMask c.lanes, c.lanes⟩
              free := s.free + 1 }) ∧
    (c.write = true →
      (∀ w, windowAt s c.addr = some w → w.kind = .plain ∨ w.kind = .request ∧ ¬posts w) →
      exec .portGrant s = .next { s with mem := mem, bpu.cycle := none }) ∧
    ∀ w, c.write = true → windowAt s c.addr = some w → w.kind = .request → posts w →
      let i := (c.addr - w.base) / 0x40
      let posted : State :=
        { s with
          mem := mem
          bpu.cycle := none
          bpu.busy := s.bpu.busy.set i true
          rqu.queue := s.rqu.queue ++ [i] }
      let k := baseOf .request s + 0x40 * i
      ((starting s = false ∨ s.rqu.queue ≠ [] ∨ s.rqu.service.isSome = true) →
        exec .portGrant s = .next posted) ∧
      (starting s = true → s.rqu.queue = [] → s.rqu.service = none →
        let reached : Prop := portReaches .rqu { s with bpu.cycle := none } = true
        (¬reached → exec .portGrant s = .next { posted with rqu.unread := true }) ∧
        (reached → (mem.word k).toNat ≠ 1 →
          exec .portGrant s = .next { posted with rqu.unread := false }) ∧
        (reached → (mem.word k).toNat = 1 →
          exec .portGrant s =
            .next
              { posted with
                rqu.queue := []
                rqu.unread := false
                rqu.service :=
                  some ⟨i, mem.word k, mem.word (k + 2), [], .answered ⟨4, 0, 0, 0⟩ 0⟩ }))

/-- The PFU's words (R16): in SAVING the save's, before the controller's, the last of which ends the
save as SAVE_DONE does (R174), and in RUNNING and SAVED, behind the controller's, the 0000h over the
validity word and its read-back (R161), the A1E7h written there once more (R175, R177), and the words of
the context that step 5 reads once step 4 has read its last (R176), which are counted (the model's choice,
log 15). -/
def Sys2Proof.Clause.PowerWordsGranted : Prop :=
  ∀ s : State, s.powered = true →
    let validity := baseOf .context s + 0xFE
    (∀ a w rest, s.pfu.power = .saving → s.pfu.save = (a, w) :: rest →
      let stored : State := { s with mem := s.mem.store a w .both, pfu.save := rest }
      (rest ≠ [] → exec .portGrant s = .next stored) ∧
      (rest = [] → s.pfu.warning = true →
        exec .portGrant s = .next { stored with pfu.power := .saved }) ∧
      (rest = [] → exec .portGrant s = exec .saveDone s)) ∧
    (s.pfu.save = [] → waits .controller s = false ∨ s.pfu.power = .saving →
      (∀ u, s.pfu.again = false → s.pfu.unsave = some u →
        (u.stage = .write →
          exec .portGrant s =
            .next
              { s with
                mem := s.mem.store validity 0 .both
                pfu.unsave := some ⟨.read, u.rewrite⟩ }) ∧
        (u.stage = .read →
          exec .portGrant s = .next { s with pfu.unsave := some ⟨.compare, u.rewrite⟩ })) ∧
      (s.pfu.again = false → s.pfu.unsave = none → s.pfu.power = .running →
        (s.pfu.step5 = .invalidate .write →
          exec .portGrant s =
            .next
              { s with mem := s.mem.store validity 0 .both, pfu.step5 := .invalidate .read }) ∧
        (s.pfu.step5 = .invalidate .read →
          exec .portGrant s = .next { s with pfu.step5 := .invalidate .compare }) ∧
        ((∀ stage, s.pfu.step5 ≠ .invalidate stage) → s.cfl.step = .tariff → s.cfl.fault = none →
          (∀ rev, s.tru.compare = some rev → checkedWords s < rev.length) →
          s.pfu.contextRead < 100 →
          exec .portGrant s = .next { s with pfu.contextRead := s.pfu.contextRead + 1 })) ∧
      (s.pfu.again = true → s.pfu.warning = true →
        exec .portGrant s =
          .next { s with mem := s.mem.store validity 0xA1E7 .both, pfu.again := false }) ∧
      (s.pfu.again = true → s.pfu.warning = false → s.pfu.wroteValidity = true →
        exec .portGrant s =
          .next
            { s with
              mem := s.mem.store validity 0xA1E7 .both
              pfu.again := false
              pfu.unsave := some ⟨.write, false⟩ }))

/-- A word of the ADU's writer, behind the controller and the PFU: its write and its read-back (R16,
R161), a write not yet begun in RUNNING alone (R165). -/
def Sys2Proof.Clause.WriterWordGranted : Prop :=
  ∀ (s : State) (r : Run) (a : Nat) (w : Word) (rest : List (Nat × Word)), s.powered = true →
    s.adu.run = some r → r.todo = (a, w) :: rest →
    waits .controller s = false → waits .pfu s = false →
    (r.stage = .write → (s.pfu.power = .running ∨ r.tries ≠ 0) →
      exec .portGrant s =
        .next
          { s with
            mem := s.mem.store a w .both
            adu.run := some { r with stage := .read, begun := true } }) ∧
    (r.stage = .read →
      exec .portGrant s = .next { s with adu.run := some { r with stage := .compare } })

/-- A word that the ADU reads in step 3 of the start-up (R16, R153, R160, R164, R137), while the power
state is RUNNING (R31) and not in config fault (R26): 49 of the tally area, 32 of the remap table, 32 of
each call-log slot and 16 of each incident-log slot, remaps followed, and once more those of a slot that
fails its CRC. That they are counted, in this order, is the model's choice (log 15). -/
def Sys2Proof.Clause.LoadWordGranted : Prop :=
  ∀ s : State, s.powered = true → s.cfl.step = .audit → s.cfl.fault = none →
    s.pfu.power = .running → s.adu.run = none →
    waits .controller s = false → waits .pfu s = false →
    let good (log : LogId) (k : Nat) : Prop := crcGood (slotWords log k (loadRemap s)) = true
    let n := s.adu.loaded + 1
    let read (again : Nat) : Prop :=
      exec .portGrant s = .next { s with adu.loaded := n, adu.rereading := again }
    let callEnds (k : Nat) : Prop := k < 256 ∧ n = 49 + 32 + 32 * (k + 1)
    let incidentEnds (k : Nat) : Prop := k < 64 ∧ n = 49 + 32 + 8192 + 16 * (k + 1)
    (s.adu.rereading ≠ 0 →
      exec .portGrant s = .next { s with adu.rereading := s.adu.rereading - 1 }) ∧
    (s.adu.rereading = 0 → n ≤ 9297 →
      (∀ k, callEnds k → (good .call k → read 0) ∧ (¬good .call k → read 32)) ∧
      (∀ k, incidentEnds k → (good .incident k → read 0) ∧ (¬good .incident k → read 16)) ∧
      ((∀ k, ¬callEnds k ∧ ¬incidentEnds k) → read 0))

/-- A word of the TRU, behind those and the writer: one read by a check (R73), by the power-on
comparison (R78; in STARTING while the power state is RUNNING, R31), or by the analysis of a number
(R79), whose words are counted, and which has its outcome with the last of them (the model's choice, log
22). -/
def Sys2Proof.Clause.TariffWordGranted : Prop :=
  ∀ s : State, s.powered = true →
    waits .controller s = false → waits .pfu s = false → waits .adu s = false →
    let wordAfter (rev : List Word) : Word := s.mem.word (baseOf .tariff s + 2 * rev.length)
    let reads : Prop := ∃ k, s.tru.check = some k ∧ k.writing = false ∧ k.rev.length < k.size
    let compares : Prop :=
      ∃ rev, s.pfu.power = .running ∧ s.tru.compare = some rev ∧ rev.length < checkedWords s + 1
    (∀ k, s.tru.check = some k → k.writing = false → k.rev.length < k.size →
      exec .portGrant s =
        .next { s with tru.check := some { k with rev := wordAfter k.rev :: k.rev } }) ∧
    (∀ rev, ¬reads → s.pfu.power = .running → s.tru.compare = some rev →
      rev.length < checkedWords s + 1 →
      exec .portGrant s = .next { s with tru.compare := some (wordAfter rev :: rev) }) ∧
    ∀ number, ¬reads → ¬compares → numberInHand s = some number →
      s.tru.analysed < analysisSize number s →
      let n := s.tru.analysed + 1
      exec .portGrant s =
        .next
          { s with
            tru.analysed := n
            tru.outcome := if analysisSize number s ≤ n then some (analyse number s) else none }

/-- A word of the RQU, behind those and the TRU (R16): the words of a completion in their order, with
the last of which the slot is free and REQUEST is raised, the next index to be judged in STARTING
(R37, R29); the words of an abandoning likewise (R40); the kind word of an index to be judged (R29); and
the words of a slot that is taken, its kind word, its sequence word and of a kind code its 26 parameters
(R36). With an abandoning and a word that serves a request both outstanding it is either (R40; log
5). -/
def Sys2Proof.Clause.RequestWordGranted : Prop :=
  ∀ s : State, s.powered = true →
    waits .controller s = false → waits .pfu s = false → waits .adu s = false →
    waits .tru s = false →
    let b (i : Nat) : Nat := baseOf .request s + 0x40 * i
    let word (i k : Nat) : Word := s.mem.word (b i + k)
    let completed (v : Service) (a : Answer) (n : Nat) (s : State) : State :=
      let base := b v.slot
      if n < 5 then
        let word :=
          [(base + 6, a.r1), (base + 8, a.r2), (base + 10, a.r3), (base + 4, a.code),
            (base + 2, v.seq)].getD n (0, 0)
        { s with
          mem := s.mem.store word.1 word.2 .both
          rqu.service := some { v with phase := .answered a (n + 1) } }
      else
        { s with
          mem := s.mem.store base 0 .both
          bpu.busy := s.bpu.busy.set v.slot false
          rqu.service := none
          rqu.flags := setFlag s.rqu.flags .request
          rqu.unread := if starting s = true ∧ s.rqu.queue ≠ [] then true else s.rqu.unread }
    let abandoned (x : Abandon) (rest : List Abandon) (s : State) : State :=
      let base := b x.slot
      if x.written < 4 then
        let word :=
          [(base + 6, 0), (base + 8, 0), (base + 10, 0), (base + 4, 21)].getD x.written (0, 0)
        { s with
          mem := s.mem.store word.1 word.2 .both
          rqu.abandon := { x with written := x.written + 1 } :: rest }
      else
        { s with
          mem := s.mem.store base 0 .both
          bpu.busy := s.bpu.busy.set x.slot false
          rqu.abandon := rest
          rqu.flags := setFlag s.rqu.flags .request }
    let judged (i : Nat) (rest : List Nat) (s : State) : State :=
      if (word i 0).toNat = 1 then
        { s with
          rqu.queue := rest
          rqu.unread := false
          rqu.service := some ⟨i, word i 0, 0, [], .seqWord true⟩ }
      else { s with rqu.unread := false }
    let taken (i : Nat) (rest : List Nat) (s : State) : State :=
      { s with
        rqu.queue := rest
        rqu.service := some ⟨i, word i 0, 0, [], .seqWord false⟩
        tru.edited := false
        tru.analysed := 0
        tru.outcome := none }
    let sequenceRead (v : Service) (refused : Bool) (s : State) : State :=
      { s with
        rqu.service :=
          some
            { v with
              seq := word v.slot 2
              phase :=
                if refused = true then .answered ⟨4, 0, 0, 0⟩ 0
                else if 1 ≤ v.kind.toNat ∧ v.kind.toNat ≤ 18 then .paramWords
                else .answered ⟨22, v.kind, 0, 0⟩ 0 } }
    let parameterRead (v : Service) (s : State) : State :=
      { s with
        rqu.service :=
          some
            { v with
              params := v.params ++ [word v.slot (12 + 2 * v.params.length)]
              phase := if v.params.length = 25 then .handed else .paramWords } }
    let idle : Prop := s.rqu.service = none
    let serves (f : State → State) : Prop :=
      (∃ v a n, s.rqu.service = some v ∧ v.phase = .answered a n ∧ n < 6 ∧ f = completed v a n) ∨
      (∃ i rest, idle ∧ starting s = true ∧ s.rqu.unread = true ∧ s.rqu.queue = i :: rest ∧
        f = judged i rest) ∨
      (∃ i rest, idle ∧ starting s = false ∧ s.rqu.queue = i :: rest ∧ f = taken i rest) ∨
      (∃ v r, s.rqu.service = some v ∧ v.phase = .seqWord r ∧ f = sequenceRead v r) ∨
      ∃ v, s.rqu.service = some v ∧ v.phase = .paramWords ∧ v.params.length < 26 ∧
        f = parameterRead v
    (∀ v, s.rqu.service = some v → v.phase = .paramWords → v.params.length < 26) →
    (s.rqu.abandon = [] → ∀ f, serves f → exec .portGrant s = .next (f s)) ∧
    ∀ x rest, s.rqu.abandon = x :: rest → x.written < 5 →
      ((∀ f, ¬serves f) → exec .portGrant s = .next (abandoned x rest s)) ∧
      ∀ f, serves f →
        let t := { s with free := s.free + 1 }
        exec .portGrant s = .next (abandoned x rest t) ∨ exec .portGrant s = .next (f t)

/-- A word of the CFL, behind all others (R16): a word read by a walk (R20), or a preload tuple, those
before it that are skipped being counted (R27); at start-up while the power state is RUNNING (R31). -/
def Sys2Proof.Clause.ConfigurationWordGranted : Prop :=
  ∀ s : State, s.powered = true → (s.cfl.reloading = true ∨ s.pfu.power = .running) →
    waits .controller s = false → waits .pfu s = false → waits .adu s = false →
    waits .tru s = false → waits .rqu s = false →
    let skipped (t : Nat × Word) : Prop :=
      t.1 % 2 = 1 ∨ 0x40000 ≤ t.1 ∨
        ∃ w, windowAt s t.1 = some w ∧ w.kind ≠ .plain ∧ w.kind ≠ .request
    (∀ k, s.cfl.walk = some k → k.stage ≠ .ended →
      exec .portGrant s = .next { s with cfl.walk := some (k.feed (s.mem.word k.next)) }) ∧
    ∀ before t rest, s.cfl.walk = none → s.cfl.preload = some (before ++ t :: rest) →
      (∀ x ∈ before, skipped x) → ¬skipped t →
      exec .portGrant s =
        .next
          { s with
            mem := s.mem.store t.1 t.2 .both
            cfl.preload := some rest
            cfl.skip := s.cfl.skip + before.length }

/-- The order of the grants (R16): the port reaches a party exactly while none of those before it
waits, the PFU's save before the controller in SAVING; with none waiting no word is granted. -/
def Sys2Proof.Clause.PortReached : Prop :=
  ∀ s : State, s.powered = true →
    let quiet (p : Party) : Prop := waits p s = false
    ((∀ p, quiet p) → exec .portGrant s = .next s) ∧
    (portReaches .controller s = true ↔ (s.pfu.power = .saving → quiet .pfu)) ∧
    (portReaches .pfu s = true ↔ (s.pfu.power ≠ .saving → quiet .controller)) ∧
    (portReaches .adu s = true ↔ quiet .controller ∧ quiet .pfu) ∧
    (portReaches .tru s = true ↔ quiet .controller ∧ quiet .pfu ∧ quiet .adu) ∧
    (portReaches .rqu s = true ↔ quiet .controller ∧ quiet .pfu ∧ quiet .adu ∧ quiet .tru) ∧
    (portReaches .cfl s = true ↔
      quiet .controller ∧ quiet .pfu ∧ quiet .adu ∧ quiet .tru ∧ quiet .rqu)

/-- The word of the party granted first, party by party, and the order they are granted in. -/
def Obligations.PortGrantOrder : Prop :=
  Clause.PortReached ∧ Clause.ControllerWordGranted ∧ Clause.PowerWordsGranted ∧
  Clause.WriterWordGranted ∧ Clause.LoadWordGranted ∧ Clause.TariffWordGranted ∧
  Clause.RequestWordGranted ∧ Clause.ConfigurationWordGranted

/-! ### Start-up and configuration -/

/-- The chain walk's end installs the image's window table and parameters, or, the walk having
failed, the default windows (R13) and the "If absent" parameters with the reason and failing index
and a CONFIG_FAULT occurrence, which the INU holds until its rebuild (R1, R23 to R25, R137); the
word held on the wait line is classed against the installed table, the image's or the default one (R1).
Words left to read wait
until the port comes to the CFL (R16); that they are then read in one step is the model's choice
(log 4). -/
def Sys2Proof.Clause.ConfigurationInstalled : Prop :=
  ∀ (s : State) (k : Walk), s.powered = true → s.cfl.step = .walk → s.cfl.walk = some k →
    s.pfu.power = .running →
    let reached : Prop := k.stage = .ended ∨ portReaches .cfl s = true
    let e := k.finish s.mem
    let good : State :=
      { s with
        bpu := { s.bpu with table := some (tableOf (windowDescs e.found)), cycle := none }
        cfl :=
          { s.cfl with
            params := paramsOf e.found
            walk := none
            preload := some (preloadOf e.found)
            skip := 0
            step := .preload } }
    let bad (v : WalkReason × Nat) : State :=
      { s with
        bpu :=
          { s.bpu with
            table :=
              some
                [⟨.request, 0x3F000, 0x100, 0⟩, ⟨.status, 0x3F100, 0x80, 1⟩,
                  ⟨.config, 0x80000, 0x20000, 2⟩]
            cycle := none }
        cfl :=
          { s.cfl with
            params := Params.absent
            fault := some v
            walk := none
            preload := some []
            skip := 0
            step := .preload } }
    (¬reached → exec .chainWalkDone s = .next s) ∧
    (reached → e.outcome = none → s.bpu.cycle = none → exec .chainWalkDone s = .next good) ∧
    (∀ c, reached → e.outcome = none → s.bpu.cycle = some c →
      exec .chainWalkDone s = .next (classWord { c with route := none } good)) ∧
    (∀ v, reached → e.outcome = some v → s.bpu.cycle = none → s.inu.rebuilt = false →
      exec .chainWalkDone s =
        .next
          { bad v with held := s.held ++ [.occurrence .configFault 0] }) ∧
    ∀ v c, reached → e.outcome = some v → s.bpu.cycle = some c → s.inu.rebuilt = false →
      let u := classWord { c with route := none } (bad v)
      exec .chainWalkDone s = .next { u with held := u.held ++ [.occurrence .configFault 0] }

/-- A walk from the anchor fails with BAD_ANCHOR and index FFh on a wrong signature or a first
offset of 0 (R20), with OFFSET_RANGE and index 0 on a first offset that is odd or beyond the first
800h bytes, and with OFFSET_ORDER and index 0 on one below 6 (R21). -/
def Sys2Proof.Clause.AnchorJudged : Prop :=
  ∀ m : Memory,
    let e := (Walk.start 0x80000 0x80800 true).finish m
    let off := value32 (m.word 0x80002) (m.word 0x80004)
    (m.word 0x80000 ≠ 0x4B44 → e.outcome = some (.badAnchor, 0xFF)) ∧
    (m.word 0x80000 = 0x4B44 →
      (off = 0 → e.outcome = some (.badAnchor, 0xFF)) ∧
      ((off % 2 = 1 ∨ 0x800 ≤ off) → e.outcome = some (.offsetRange, 0)) ∧
      (off = 2 ∨ off = 4 → e.outcome = some (.offsetOrder, 0)))

/-- The walk at a descriptor's header (R21, R22): its end is judged against the chain range, then
its length, then a duplicate, then its body's fields in body order, each failure at its chain index;
an unknown kind is skipped unread. Then its next offset is followed: to the end of the chain, where
COINS must have been found, to TOO_MANY after the 32nd descriptor, or to the next one, whose start
must be even and in the chain range, and then beyond this one. That OFFSET_RANGE of a descriptor's end
comes before LENGTH, and LENGTH before DUPLICATE, is the model's choice (log 14). -/
def Sys2Proof.Clause.DescriptorsJudged : Prop :=
  ∀ (m : Memory) (k : Walk), k.stage = .header → k.unit = [] → k.verdict = none →
    k.next = 0x80000 + k.off →
    let a := 0x80000 + k.off
    let link := value32 (m.word a) (m.word (a + 2))
    let kind := (m.word (a + 4)).toNat
    let len := (m.word (a + 6)).toNat
    let word (i : Nat) : Word := m.word (a + 8 + 2 * i)
    let good (i : Nat) : Bool := fieldGood kind (fun j => (word j).toNat) i
    let failed (r : WalkReason) (i : Nat) : Prop := (k.finish m).outcome = some (r, i)
    let inRange : Prop := a + 8 + 2 * len ≤ k.hi
    let known : Prop := 1 ≤ kind ∧ kind ≤ 10
    let lengthGood : Prop :=
      (kind, len) ∈
          [(1, 5), (2, 13), (3, 8), (4, 29), (5, 33), (6, 10), (7, 2), (8, 1), (9, 10)] ∨
        (kind = 10 ∧ len % 3 = 0 ∧ len ≤ 96)
    let single : Prop := kind = 1 ∨ ∀ f ∈ k.found, f.kind ≠ kind
    let passes : Prop :=
      inRange ∧ (known → lengthGood ∧ single ∧ ∀ i, i < len → good i = true)
    let found : List Found :=
      if 1 ≤ kind ∧ kind ≤ 10 then k.found ++ [⟨kind, k.idx, (List.range len).map word⟩] else k.found
    let start := 0x80000 + link
    let inChain : Prop := link % 2 = 0 ∧ k.anchored = true ∧ k.lo ≤ start ∧ start < k.hi
    (¬inRange → failed .offsetRange k.idx) ∧
    (inRange → known → ¬lengthGood → failed .length k.idx) ∧
    (inRange → known → lengthGood → ¬single → failed .duplicate k.idx) ∧
    (∀ i, inRange → known → lengthGood → single → i < len → (∀ j, j < i → good j = true) →
      good i = false → failed .field k.idx) ∧
    (passes → link = 0 → (∀ f ∈ found, f.kind ≠ 2) → failed .missing 0xFF) ∧
    (passes → link = 0 → (∃ f ∈ found, f.kind = 2) →
      (k.finish m).verdict = none ∧ (k.finish m).found = found) ∧
    (passes → link ≠ 0 → 31 ≤ k.idx → failed .tooMany 32) ∧
    (passes → link ≠ 0 → k.idx < 31 → ¬inChain → failed .offsetRange (k.idx + 1)) ∧
    (passes → link ≠ 0 → k.idx < 31 → inChain → link ≤ k.off →
      failed .offsetOrder (k.idx + 1)) ∧
    (passes → link ≠ 0 → k.idx < 31 → inChain → k.off < link →
      let n := k.run m (if 1 ≤ kind ∧ kind ≤ 10 then 4 + len else 4)
      n.stage = .header ∧ n.unit = [] ∧ n.verdict = none ∧ n.off = link ∧ n.next = start ∧
      n.idx = k.idx + 1 ∧ n.found = found ∧ n.lo = k.lo ∧ n.hi = k.hi ∧ n.anchored = k.anchored)

/-- The ranges of the body fields, kind by kind (R23, R24): WINDOW, COINS, LINE, EMERGENCY, REPORT,
ATTRIBUTE, CASHBOX, LOG, SERVICE; PRELOAD has none. Places and numbers beyond a count are not
checked. -/
def Sys2Proof.Clause.FieldRanges : Prop :=
  ∀ w : Nat → Nat,
    let is (kind i : Nat) (p : Prop) : Prop := fieldGood kind w i = true ↔ p
    let inside (kind i lo hi : Nat) : Prop := is kind i (lo ≤ w i ∧ w i ≤ hi)
    (inside 1 0 0 9 ∧ is 1 1 True ∧ is 1 2 (w 2 % 2 = 0) ∧ is 1 3 True ∧ is 1 4 (w 4 % 2 = 0)) ∧
    ((∀ d, d < 6 → inside 2 (2 * d) 1 5000 ∧ inside 2 (2 * d + 1) 0 1) ∧
      is 2 12 (w 12 = 0 ∨ 300 ≤ w 12 ∧ w 12 ≤ 3000)) ∧
    (inside 3 0 1 5 ∧ inside 3 1 50 200 ∧ inside 3 2 50 200 ∧ inside 3 3 30 180 ∧
      inside 3 4 15 120 ∧ inside 3 5 5 60 ∧ inside 3 6 5 30 ∧ inside 3 7 0 240) ∧
    (inside 4 0 0 4 ∧
      ∀ n, n < 4 → is 4 (7 * n + 1) (w 0 ≤ n ∨ 1 ≤ w (7 * n + 1) ∧ w (7 * n + 1) ≤ 6) ∧
        ∀ p, 1 ≤ p → p ≤ 6 →
          is 4 (7 * n + 1 + p) (w 0 ≤ n ∨ w (7 * n + 1) < p ∨ w (7 * n + 1 + p) ≤ 9)) ∧
    (inside 5 0 1 16 ∧ (∀ i, 1 ≤ i → i ≤ 16 → is 5 i (w 0 < i ∨ w i ≤ 9)) ∧
      (∀ i, 17 ≤ i → i ≤ 24 → inside 5 i 0 9) ∧ (∀ i, 25 ≤ i → i ≤ 30 → inside 5 i 1 1440) ∧
      inside 5 31 0 1440 ∧ inside 5 32 0 1440) ∧
    (∀ a, a < 5 → inside 6 (2 * a) 0 255 ∧ inside 6 (2 * a + 1) 0 1440) ∧
    (inside 7 0 1 1999 ∧ is 7 1 (2 ≤ w 1 ∧ w 1 ≤ 2000 ∧ w 0 < w 1)) ∧
    inside 8 0 1 247 ∧
    (inside 9 0 4 8 ∧ (∀ i, 1 ≤ i → i ≤ 8 → is 9 i (w 0 < i ∨ w i ≤ 9)) ∧ inside 9 9 0 240) ∧
    ∀ i, is 10 i True

/-- A good image's parameters, and those of a descriptor that it lacks (R24). -/
def Sys2Proof.Clause.ParametersTaken : Prop :=
  ∀ found : List Found,
    let p := paramsOf found
    let given (kind : Nat) (values : (Nat → Nat) → Prop) (absent : Prop) : Prop :=
      (∀ f, (found.find? fun f => f.kind = kind) = some f →
        values fun i => (f.body.getD i 0).toNat) ∧
      ((found.find? fun f => f.kind = kind) = none → absent)
    let digits (w : Nat → Nat) (first n : Nat) : List Nat :=
      (List.range n).map fun i => w (first + i)
    given 2
      (fun w =>
        p.denoms = ((List.range 6).map fun d => ⟨w (2 * d), decide (w (2 * d + 1) = 1)⟩) ∧
        p.pathWindow = if w 12 = 0 then 1200 else w 12)
      (p.denoms = [] ∧ p.pathWindow = 1200) ∧
    given 3
      (fun w =>
        p.dialDelay = w 0 ∧ p.toneOn = w 1 ∧ p.toneOff = w 2 ∧ p.answerTimeout = w 3 ∧
        p.readyTimeout = w 4 ∧ p.followWindow = w 5 ∧ p.graceTime = w 6 ∧ p.maxDuration = w 7)
      (p.dialDelay = 2 ∧ p.toneOn = 80 ∧ p.toneOff = 80 ∧ p.answerTimeout = 90 ∧
        p.readyTimeout = 60 ∧ p.followWindow = 20 ∧ p.graceTime = 10 ∧ p.maxDuration = 60) ∧
    given 4
      (fun w =>
        p.emergency = (List.range (w 0)).map fun j => digits w (7 * j + 2) (w (7 * j + 1)))
      (p.emergency = []) ∧
    given 5
      (fun w =>
        p.report = some ⟨digits w 1 (w 0), digits w 17 8, digits w 25 6⟩ ∧ p.hold2 = w 31 ∧
        p.hold1 = w 32)
      (p.report = none ∧ p.hold2 = 5 ∧ p.hold1 = 360) ∧
    given 6
      (fun w => p.attrs = ⟨⟨w 0, w 1⟩, ⟨w 2, w 3⟩, ⟨w 4, w 5⟩, ⟨w 6, w 7⟩, ⟨w 8, w 9⟩⟩)
      (p.attrs = ⟨⟨5, 10⟩, ⟨8, 5⟩, ⟨3, 30⟩, ⟨16, 10⟩, ⟨4, 0⟩⟩) ∧
    given 7 (fun w => p.boxNearFull = w 0 ∧ p.boxFull = w 1)
      (p.boxNearFull = 900 ∧ p.boxFull = 1000) ∧
    given 8 (fun w => p.logNearFull = w 0) (p.logNearFull = 224) ∧
    given 9 (fun w => p.code = some (digits w 1 (w 0)) ∧ p.lapse = w 9)
      (p.code = none ∧ p.lapse = 30)

/-- The window set of a chain that ended well, judged as one (R23): which sets pass, and the failing
index of each condition, where no condition above it in the table of R23 fails; that they are judged
in the table's order is the model's choice (log 14). A set that passes is sorted by base, each
window's index its load order. -/
def Sys2Proof.Clause.WindowSetJudged : Prop :=
  ∀ (k : Walk) (ds : List WindowDesc), k.verdict = none → windowDescs k.found = ds →
    let failed (i : Nat) : Prop := k.outcome = some (.windowSet, i)
    let minimum : WindowKind → Nat
      | .plain => 1
      | .request => 0x100
      | .status => 0x80
      | .tariff => 0x2000
      | .config => 0x800
      | .tally => 0x100
      | .callLog => 0x4000
      | .incidentLog => 0x800
      | .context => 0x100
      | .spare => 0x240
    let inRam (d : WindowDesc) : Prop := d.base + d.size ≤ 0x40000
    let inNv (d : WindowDesc) : Prop := 0x80000 ≤ d.base ∧ d.base + d.size ≤ 0xA0000
    let placed (d : WindowDesc) : Prop :=
      match d.kind with
      | .plain => inRam d ∨ inNv d
      | .request => inRam d
      | .status => inRam d
      | _ => inNv d
    let large (d : WindowDesc) : Prop := minimum d.kind ≤ d.size
    let meet (d e : WindowDesc) : Prop := d.base < e.base + e.size ∧ e.base < d.base + d.size
    let same (d e : WindowDesc) : Prop := d.kind ≠ .plain ∧ d.kind = e.kind
    let required : List WindowKind :=
      [.request, .status, .tariff, .config, .tally, .callLog, .incidentLog, .context, .spare]
    let few : Prop := ds.length ≤ 12
    let allPlaced : Prop := ∀ d ∈ ds, placed d
    let allLarge : Prop := ∀ d ∈ ds, large d
    let apart (l : List WindowDesc) : Prop := l.Pairwise fun d e => ¬meet d e
    let single (l : List WindowDesc) : Prop := l.Pairwise fun d e => ¬same d e
    let complete : Prop := ∀ x ∈ required, ∃ d ∈ ds, d.kind = x
    (k.outcome = none ↔ few ∧ allPlaced ∧ allLarge ∧ apart ds ∧ single ds ∧ complete) ∧
    (∀ d, ds[12]? = some d → failed d.chain) ∧
    (∀ before d after, ds = before ++ d :: after → few →
      ((∀ e ∈ before, placed e) → ¬placed d → failed d.chain) ∧
      (allPlaced → (∀ e ∈ before, large e) → ¬large d → failed d.chain) ∧
      (allPlaced → allLarge → apart before → (∃ e ∈ before, meet e d) → failed d.chain) ∧
      (allPlaced → allLarge → apart ds → single before → (∃ e ∈ before, same e d) →
        failed d.chain)) ∧
    (few → allPlaced → allLarge → apart ds → single ds → ¬complete → failed 0xFF) ∧
    (k.outcome = none →
      ((tableOf ds).Pairwise fun v w => v.base ≤ w.base) ∧
      ∀ w, w ∈ tableOf ds ↔
        ∃ d, ds[w.index]? = some d ∧ d.kind = w.kind ∧ d.base = w.base ∧ d.size = w.size)

/-- A WINDOW descriptor with a kind code, a base and a size gives the set one window (R23). -/
def Sys2Proof.Clause.WindowsCollected : Prop :=
  ∀ (found : List Found) (f : Found),
    windowDescs [] = [] ∧
    (f.kind ≠ 1 → windowDescs (found ++ [f]) = windowDescs found) ∧
    ∀ (kind : WindowKind) (bh bl sh sl : Word), f.kind = 1 →
      f.body = [wordOf kind.code, bh, bl, sh, sl] →
      windowDescs (found ++ [f]) =
        windowDescs found ++ [⟨kind, value32 bh bl, value32 sh sl, f.chain⟩]

/-- The start-up's chain walk: its anchor, descriptors, window set and parameters, and its end. -/
def Obligations.ChainWalkEnds : Prop :=
  Clause.AnchorJudged ∧ Clause.DescriptorsJudged ∧ Clause.FieldRanges ∧ Clause.WindowsCollected ∧
  Clause.WindowSetJudged ∧ Clause.ParametersTaken ∧ Clause.ConfigurationInstalled

/-- The PRELOAD tuples are written in order but for those at an odd address, outside RAM, or in a
window neither PLAIN nor REQUEST, which are skipped and counted (R27), at start-up and at a reload,
whose request is then answered OK, or OK_WINDOWS_DEFERRED if the image's window set differs (R34).
Tuples left to write wait until the port comes to the CFL (R16); that they are then written in one
step is the model's choice (log 4). -/
def Sys2Proof.Clause.PreloadWritten : Prop :=
  ∀ (s : State) (ts : List (Nat × Word)), s.powered = true → s.cfl.preload = some ts →
    let skipped (t : Nat × Word) : Bool :=
      t.1 % 2 = 1 || 0x40000 ≤ t.1 ||
        (windowAt s t.1).any fun w => w.kind ≠ .plain && w.kind ≠ .request
    let mem := s.mem.storeAll (ts.filter fun t => !skipped t)
    let skip := s.cfl.skip + (ts.filter skipped).length
    let ends : Prop := portReaches .cfl s = true ∨ ts.all skipped = true
    (¬ends → exec .preloadDone s = .next s ∧ exec .reloadPreloadDone s = .next s) ∧
    (ends → s.cfl.step = .preload → s.pfu.power = .running →
      exec .preloadDone s =
        .next
          { s with
            mem := mem
            cfl := { s.cfl with preload := none, skip := skip, step := .audit } }) ∧
    ∀ v, ends → s.cfl.reloading = true → s.rqu.service = some v → v.phase = .held →
      v.kind.toNat = 18 →
      exec .reloadPreloadDone s =
        .next
          { s with
            mem := mem
            cfl := { s.cfl with preload := none, skip := skip, reloading := false, image := [] }
            rqu.service :=
              some
                (v.answered
                  (if imageList s.cfl.image = tableList (s.bpu.table.getD []) then .ok
                    else .okWindowsDeferred)
                  0 0 0) }

/-- RELOAD_CONFIG is judged in the order of R32 and its walk begins over the CONFIG window; a walk
that fails changes no parameter and answers CHAIN_BAD with index and reason; a good one gives the
blocks their parameters, without a change to the window table (R33, R34). At once CASHBOX_COINS is
compared with the new fill counts, an occurrence being handed while its latch is clear (R65), LOG is raised
if the uncollected count is at or above the new near-full count and was below the old one, and a stopped
decay timer of a decay period that is not 0 starts (R128); the access mode's lapse, the line's timers and
the chute keep what they had. Words left to read wait until the port comes to the CFL (R16); that they are
then read in one step is the model's choice (log 4). -/
def Sys2Proof.Clause.ReloadJudged : Prop :=
  ∀ (s : State) (v : Service),
    (InService kindReloadConfig v s →
      let answered (c : ResultCode) : State :=
        { s with rqu.service := some (v.answered c 0 0 0) }
      (s.acu.mode ≠ .service → exec .reloadConfig s = .next (answered .refusedMode)) ∧
      (s.acu.mode = .service →
        (s.pfu.power ≠ .running ∨ s.lnu.state ≠ .idle ∨ s.cnu.escrow ≠ []) →
        exec .reloadConfig s = .next (answered .refusedState)) ∧
      ∀ w, s.acu.mode = .service → s.pfu.power = .running → s.lnu.state = .idle →
        s.cnu.escrow = [] → windowOf .config s = some w →
        exec .reloadConfig s =
          .next
            { s with
              cfl.walk := some (Walk.start w.base (w.base + w.size) (w.base = 0x80000))
              cfl.reloading := true
              rqu.service := some v.accepted }) ∧
    ∀ k, s.powered = true → s.cfl.reloading = true → s.cfl.walk = some k →
      let e := k.finish s.mem
      let reached : Prop := k.stage = .ended ∨ portReaches .cfl s = true
      (¬reached → exec .reloadWalkDone s = .next s) ∧
      (∀ r i, reached → e.outcome = some (r, i) → s.rqu.service = some v → v.phase = .held →
        v.kind.toNat = 18 →
        exec .reloadWalkDone s =
          .next
            { s with
              cfl.walk := none
              cfl.reloading := false
              rqu.service := some (v.answered .chainBad (wordOf i) (wordOf r.code) 0) }) ∧
      (reached → e.outcome = none →
        ∃ t, exec .reloadWalkDone s = .next t ∧
          OnlyChanges [.cfl, .rqu, .lnu, .inu, .rpu, .adu, .held] s t ∧
          t.cfl =
            { s.cfl with
              params := paramsOf e.found
              walk := none
              image := windowDescs e.found
              preload := some (preloadOf e.found)
              skip := 0 } ∧
          t.rqu.service = s.rqu.service ∧ t.adu.cache = s.adu.cache ∧
          let p := paramsOf e.found
          let was (k : IncKind) : Bool := latched s.inu.latches k
          let near : Bool := p.boxNearFull ≤ s.adu.cache.boxCoins
          let full : Bool := p.boxFull ≤ s.adu.cache.boxCoins
          let log : Bool := p.logNearFull ≤ uncollected s && uncollected s < s.cfl.params.logNearFull
          (near = true → was .cashboxNearFull = false → OccurrenceReached .cashboxNearFull 0 s t) ∧
          (full = true → was .cashboxFull = false → OccurrenceReached .cashboxFull 0 s t) ∧
          (s.pfu.power = .running → s.inu.rebuilt = true → ∀ k,
            latched t.inu.latches k =
              (was k || (decide (k = .cashboxNearFull) && near) ||
                (decide (k = .cashboxFull) && full))) ∧
          (log = true → flagOf t.rqu.flags .log = true) ∧
          ((near = true → was .cashboxNearFull = true) → (full = true → was .cashboxFull = true) →
            OnlyChanges [.cfl, .rqu, .inu] s t ∧ t.inu = { s.inu with attrs := t.inu.attrs } ∧
            t.rqu = { s.rqu with flags := if log then setFlag s.rqu.flags .log else s.rqu.flags }) ∧
          ∀ a,
            let v := s.inu.attrs.get a
            let decay := (p.attrs.get a).decay
            t.inu.attrs.get a =
              { v with
                timer :=
                  if v.timer = none ∧ decay ≠ 0 then some (s.inu.ms + decay * 60000) else v.timer })

/-- The preload, and RELOAD_CONFIG to its answers. -/
def Obligations.PreloadAndReload : Prop := Clause.PreloadWritten ∧ Clause.ReloadJudged

/-- Step 3 of the start-up (R137, R153, R160, R164): the tally cache is loaded, or stays at zero over an
area that has never been written, tally-suspect tells a CRC that does not match, the next call sequence is
one more than the greater of the greatest sequence held and LOG_COLLECTED_THROUGH, the sensors and counts
set their latches, what the INU holds is applied, and the decay timers start. In config fault nothing is
loaded (R26), no decay timer starts, and the CONFIG_FAULT held since the walk (R25) sets its latch.
A latch is claimed where no held notice clears it. Then step 4 may begin to read the TARIFF window
(R78). That the words which the port has not carried are read in one step, once the port comes to the ADU,
is the model's choice (log 15). -/
def Sys2Proof.Clause.LoadsTaken : Prop :=
  ∀ (s : State) (calls incidents : List Nat), s.powered = true → s.cfl.step = .audit →
    s.pfu.power = .running → s.lnu.quiet = false →
    let ws := s.mem.words (baseOf .tally s) 48
    let check := s.mem.word (baseOf .tally s + 96)
    let reached : Prop := s.cfl.fault.isSome = true ∨ portReaches .adu s = true
    (¬reached → exec (.startupAuditLoadDone calls incidents) s = .next s) ∧
    (reached →
      ∃ t, exec (.startupAuditLoadDone calls incidents) s = .next t ∧
        OnlyChanges [.cfl, .rqu, .tru, .inu, .adu, .held] s t ∧
        t.cfl = { s.cfl with step := .tariff } ∧ t.inu.rebuilt = true ∧
        t.tru =
          { s.tru with compare := if (windowOf .tariff s).isSome = true then some [] else none } ∧
        t.held = s.held.filter (fun h => !h.isIncident) ∧
        (s.cfl.fault = none →
          t.adu.suspect = decide (crc ws ≠ check) ∧ t.adu.check = check ∧
          (let loaded : Tallies :=
            if crc ws = check ∨ ∃ w ∈ ws ++ [check], w ≠ 0xFFFF then talliesOf ws else Tallies.zero
          risingTallies t.adu.cache = risingTallies loaded ∧ t.adu.cache.escrow = loaded.escrow ∧
            t.adu.cache.boxValue = loaded.boxValue ∧ t.adu.cache.boxCoins = loaded.boxCoins) ∧
          (∀ k q, k < 256 → heldCall k t = some q → q ≤ t.adu.greatest) ∧
          (t.adu.greatest = 0 ∨ ∃ k, k < 256 ∧ heldCall k t = some t.adu.greatest) ∧
          t.adu.nextCall =
            (max t.adu.greatest t.adu.cache.collectedThrough + 1) % 0x100000000 ∧
          ∀ a, (t.inu.attrs.get a).timer =
            if (s.cfl.params.attrs.get a).decay = 0 then none
            else some (s.inu.ms + (s.cfl.params.attrs.get a).decay * 60000)) ∧
        (s.cfl.fault.isSome = true →
          t.adu.suspect = true ∧ t.adu.nextCall = 1 ∧ t.adu.remap = List.replicate 8 .bad ∧
          risingTallies t.adu.cache = risingTallies Tallies.zero ∧ t.adu.cache.escrow = 0 ∧
          (∀ a, (t.inu.attrs.get a).timer = none) ∧
          ∀ d, .occurrence .configFault d ∈ s.held → .clearLatch .configFault ∉ s.held →
            latched t.inu.latches .configFault = true) ∧
        let set (k : IncKind) : Prop :=
          .clearLatch k ∉ s.held → latched t.inu.latches k = true
        (s.cfl.fault = none → crc ws ≠ check → set .auditSuspect) ∧
        (s.inu.doorOpen = true → set .cashDoorOpen) ∧
        (s.inu.boxPresent = false → set .cashboxRemoved) ∧
        (s.inu.cordWhole = false → set .cordCut) ∧
        (s.cfl.params.boxNearFull ≤ t.adu.cache.boxCoins → set .cashboxNearFull) ∧
        (s.cfl.params.boxFull ≤ t.adu.cache.boxCoins → set .cashboxFull) ∧
        (248 ≤ uncollected t → set .logFull))

/-- The remap table read in step 3 (R164): an entry whose state word reads FREE or FFFFh is FREE; one that
reads MAPPED with a good CRC, a log code and a slot of that log is MAPPED to it, unless a lower entry is; any
other is BAD. -/
def Sys2Proof.Clause.RemapRead : Prop :=
  ∀ (s : State) (calls incidents : List Nat), s.powered = true → s.cfl.step = .audit →
    s.pfu.power = .running → s.cfl.fault = none → portReaches .adu s = true →
    let entry (j : Nat) : List Word := s.mem.words (baseOf .spare s + 8 * j) 4
    let w (j i : Nat) : Nat := ((entry j).getD i 0).toNat
    let free (j : Nat) : Prop := w j 0 = 0 ∨ w j 0 = 0xFFFF
    let names (j : Nat) (log : LogId) (slot : Nat) : Prop :=
      w j 0 = 1 ∧ (entry j).getD 3 0 = crc ((entry j).take 3) ∧ w j 2 = slot ∧
      match log with
      | .call => w j 1 = 1 ∧ slot < 256
      | .incident => w j 1 = 2 ∧ slot < 64
    ∃ t, exec (.startupAuditLoadDone calls incidents) s = .next t ∧ t.adu.remap.length = 8 ∧
      ∀ j, j < 8 →
        (free j → t.adu.remap[j]? = some .free) ∧
        (∀ log slot, names j log slot →
          ((∀ i, i < j → ¬names i log slot) → t.adu.remap[j]? = some (.mapped log slot)) ∧
          ((∃ i, i < j ∧ names i log slot) → t.adu.remap[j]? = some .bad)) ∧
        (¬free j → (∀ log slot, ¬names j log slot) → t.adu.remap[j]? = some .bad)

/-- What a slot of the incident log gives (R137 step 2): a record with a good CRC and a kind of 1 to 17 is
read field by field as it was written (3.6), and any other slot is free. -/
def Sys2Proof.Clause.IncidentSlotRead : Prop :=
  ∀ (s : State) (k : Nat),
    let ws := slotWords .incident k s
    (crcGood ws = false → heldIncident k s = none) ∧
    ((ws.getD 1 0).toNat / 256 = 0 ∨ 17 < (ws.getD 1 0).toNat / 256 → heldIncident k s = none) ∧
    ∀ r : IncRec, ws = incidentWords r → r.seq < 65536 → r.detail < 256 → r.count < 256 →
      r.attempts < 256 → (∀ v, r.snapshot = some v → v < 0xFFFFFFFF) →
      heldIncident k s = some { r with slot := k, due := 0 }

/-- Creation order (R137 step 3), of records with distinct sequences: once around the circle of the 65536
sequences, from the one after the largest gap to the one before it, of equal gaps the one that begins at the
greatest sequence. -/
def Sys2Proof.Clause.CreationOrdered : Prop :=
  ∀ rs : List IncRec, (rs.map (·.seq)).Nodup → (∀ r ∈ rs, r.seq < 65536) →
    let ordered := creationOrder rs
    let gap (a b : IncRec) : Nat := (b.seq + 65536 - a.seq) % 65536
    ordered.Perm rs ∧
    ∀ first, ordered.head? = some first →
      ordered.Pairwise (fun a b => gap first a < gap first b) ∧
      ∀ last, ordered.getLast? = some last → last ≠ first →
        ∀ before a b after, ordered = before ++ a :: b :: after →
          gap a b < gap last first ∨ (gap a b = gap last first ∧ a.seq < last.seq)

/-- The INU's rebuild (R137), seen in the state `u` between its steps 7 and 8. The attributes are those
loaded, armed where the level is 0. The index holds the records read, in creation order, each due at once;
where of each kind one record at most is not REPORTED, each REPORTING one is PENDING, its attempts kept, and
its write is handed. The counter is one more than the newest sequence. A service latch is set by an unmarked
latest record of its kind, and the count latches by their counts. From `u` the sensors' occurrences are
taken, then what the INU holds, the start-up's own items last in their order: AUDIT_SUSPECT of a tally area
that fails its CRC (R153), and an NV_RETRIES event for each slot read a second time (R160); then the decay
timers start. -/
def Sys2Proof.Clause.IndexRebuilt : Prop :=
  ∀ (s : State) (calls incidents : List Nat), s.powered = true → s.cfl.step = .audit →
    s.pfu.power = .running → s.lnu.quiet = false → s.cfl.fault = none → s.inu.rebuilt = false →
    portReaches .adu s = true →
    let ws := s.mem.words (baseOf .tally s) 48
    let check := s.mem.word (baseOf .tally s + 96)
    let loaded : Tallies :=
      if crc ws = check ∨ ∃ w ∈ ws ++ [check], w ≠ 0xFFFF then talliesOf ws else Tallies.zero
    let known (r : IncRec) :=
      (r.slot, r.seq, r.kind, r.detail, r.attempts, r.cleared, r.first, r.nextAttempt, r.snapshot)
    let sensed (c : Bool) (k : IncKind) (x : State) : State := if c = true then occur k 0 x else x
    ∃ t u, exec (.startupAuditLoadDone calls incidents) s = .next t ∧
      (let ordered := creationOrder ((List.range 64).filterMap fun k => heldIncident k t)
      u.inu.rebuilt = true ∧ u.pfu.power = .running ∧
      (∀ a,
        let c := loaded.attrs.get a
        let v : Attr := ⟨c.total, c.level, c.armed || decide (c.level = 0), none⟩
        u.inu.attrs.get a = v ∧ u.adu.cache.attrs.get a = ⟨v.total, v.level, v.armed⟩) ∧
      u.inu.records.map known = ordered.map known ∧
      (∀ r ∈ u.inu.records, r.due = s.inu.ms / 1000) ∧
      ((∀ r ∈ ordered, ∀ x ∈ ordered, r.state ≠ .reported → x.state ≠ .reported →
          x.kind = r.kind ∨ x.seq = r.seq → x = r) →
        u.inu.records =
          (ordered.map fun r =>
            { r with
              state := if r.state = .reporting then .pending else r.state
              due := s.inu.ms / 1000 }) ∧
        ∀ r ∈ ordered, r.state = .reporting → hasWindow .incidentLog s = true →
          .record .incident r.slot (incidentWords { r with state := .pending }) ∈ u.adu.jobs) ∧
      u.inu.counter =
        ((u.inu.records.getLast?.map fun r => (r.seq + 1) % 65536).getD 0) ∧
      (∀ k,
        let service : Prop :=
          (k = .cashDoorOpen ∨ k = .cashboxRemoved ∨ k = .escrowFault ∨ k = .auditSuspect) ∧
          ∃ r, (u.inu.records.filter fun x => x.kind = k).getLast? = some r ∧ r.cleared = false
        let counted : Prop :=
          (k = .cashboxNearFull ∧ s.cfl.params.boxNearFull ≤ loaded.boxCoins) ∨
          (k = .cashboxFull ∧ s.cfl.params.boxFull ≤ loaded.boxCoins) ∨
          (k = .logFull ∧ 248 ≤ uncollected t)
        latched u.inu.latches k = true ↔ latched s.inu.latches k = true ∨ service ∨ counted)) ∧
      let x :=
        sensed (!s.inu.cordWhole) .cordCut
          (sensed (!s.inu.boxPresent) .cashboxRemoved (sensed s.inu.doorOpen .cashDoorOpen u))
      let again := rereads .call calls t + rereads .incident incidents t
      let items :=
        s.held.filter Held.isIncident ++
        (if crc ws = check then [] else [.occurrence .auditSuspect 1]) ++
        List.replicate again (.attrEvent .nvRetries)
      t =
        { startStoppedDecays (items.foldl heldTaken x) with
          cfl.step := .tariff
          tru.compare := if (windowOf .tariff s).isSome = true then some [] else none }

/-- The CRC-16 (R71): FFFFh over no words and 1D0Fh over one word of 0; a further word adds its high byte
and then its low byte, each combined into the top eight bits of the register and followed by eight shifts
left, after each of which 1021h is combined where a 1 left the top. Words that end in their own CRC are good,
and no others. -/
def Sys2Proof.Clause.CrcComputed : Prop :=
  let shift (r : Word) : Word := if r.msb = true then (r <<< 1) ^^^ 0x1021 else r <<< 1
  let byte (r b : Word) : Word := shift^[8] (r ^^^ (b <<< 8))
  crc [] = 0xFFFF ∧ crc [0] = 0x1D0F ∧
  (∀ ws w, crc (ws ++ [w]) = byte (byte (crc ws) (w >>> 8)) (w &&& 0xFF)) ∧
  ∀ ws w, crcGood (ws ++ [w]) = true ↔ w = crc ws

/-- The tallies read back from the 48 words written of them are those tallies (R46, R153), each within the
width its place has. -/
def Sys2Proof.Clause.TalliesReadBack : Prop :=
  ∀ t : Tallies,
    (∀ n ∈ [t.credited, t.collected, t.returned, t.consumed, t.excess, t.escrow, t.boxValue, t.boxCoins,
        t.coins1, t.coins2, t.coins3, t.coins4, t.coins5, t.coins6, t.paidAnswered, t.free,
        t.unanswered, t.unlogged, t.collectedThrough], n < 0x100000000) →
    (∀ a, (t.attrs.get a).total < 65536 ∧ (t.attrs.get a).level < 256) →
    talliesOf (tallyWords t) = t

/-- Step 3 of the start-up: the loads with their CRCs, the remap table, and the INU's rebuild. -/
def Obligations.AuditLoaded : Prop :=
  Clause.LoadsTaken ∧ Clause.CrcComputed ∧ Clause.TalliesReadBack ∧ Clause.RemapRead ∧
  Clause.IncidentSlotRead ∧ Clause.CreationOrdered ∧ Clause.IndexRebuilt

/-- Step 4 takes the tariff as valid if its CRC matches its check word and else hands TARIFF_INVALID
(R78); step 5 then settles a good context on the settle path, or on the finish path when the tallies
are not suspect and the saved check word differs, clears the tube when the context is bad over an
ESCROW_BALANCE that is not 0, and otherwise ends STARTING, the line taking its state from voltage
and hook (R28, R176 to R178). Over a tube that reads empty the clearance ends with no drop made (R63), and
the accounting follows at once: the whole ESCROW_BALANCE goes to RETURNED_VALUE, AUDIT_SUSPECT is handed, and
a write-back is waited for (R178). The words compared are those the port has carried and, once it comes
to the TRU (R16), those left; that they, and what is left of the context, are then read in one step is the
model's choice (logs 4 and 15). -/
def Sys2Proof.Clause.ComparedAndJudged : Prop :=
  ∀ s : State, s.powered = true → s.cfl.step = .tariff → s.pfu.power = .running → s.held = [] →
    s.inu.rebuilt = true → s.lnu.quiet = false → s.cfl.fault = none →
    ∀ rev, s.tru.compare = some rev →
    (checkedWords s < rev.length ∨ portReaches .tru s = true) → portReaches .pfu s = true →
    let read :=
      rev.reverse ++
        s.mem.words (baseOf .tariff s + 2 * rev.length) (checkedWords s + 1 - rev.length)
    let area := read.take (checkedWords s)
    let check := read.getD (checkedWords s) 0
    let ws := s.mem.words (baseOf .context s) 99
    let good : Prop := s.mem.word (baseOf .context s + 0xFE) = 0xA1E7 ∧ crcGood ws = true
    ∃ t, exec .tariffCompareDone s = .next t ∧ t.mem = s.mem ∧ t.bpu = s.bpu ∧ t.acu = s.acu ∧
      (crc area = check →
        t.tru =
          { s.tru with
            valid := true
            calendar := some (calendarOf (readArea area))
            compare := none }) ∧
      (crc area ≠ check →
        t.tru = { s.tru with compare := none } ∧ latched t.inu.latches .tariffInvalid = true) ∧
      (good → (s.adu.suspect = true ∨ wordAt ws 3 = s.adu.check) →
        t.cfl.step = .settle ∧
        t.cnu.escrow = ((savedCoins ws).map (·.coin)).filter (fun c => c.status ≠ .dropping) ∧
        t.adu.cache.excess = satAdd s.adu.cache.excess (savedCredit ws)) ∧
      (good → s.adu.suspect = false → wordAt ws 3 ≠ s.adu.check →
        t.cfl.step = .settle ∧ t.pfu.step5 = .invalidate .write ∧
        t.cnu.escrow = ((savedCoins ws).map (·.coin)).filter (fun c => c.status ≠ .dropping) ∧
        t.adu.cache = s.adu.cache) ∧
      (¬good → s.adu.cache.escrow ≠ 0 → s.cnu.tubeEmpty = false →
        t.cfl.step = .settle ∧ t.pfu.step5 = .clearing ∧ t.cnu.diverter = .ret ∧
        t.cnu.clearance = some ⟨1, s.cnu.ms + 500, false⟩) ∧
      (¬good → s.adu.cache.escrow ≠ 0 → s.cnu.tubeEmpty = true →
        t.cfl.step = .settle ∧ t.pfu.step5 = .writeBack true ∧
        t.cnu = { s.cnu with clearance := none } ∧
        t.adu.cache =
          { s.adu.cache with
            returned := satAdd s.adu.cache.returned s.adu.cache.escrow
            escrow := 0 } ∧
        OccurrenceReached .auditSuspect 2 s t ∧
        (writeBackWaiting t = true ∨ writeBackRunning t = true)) ∧
      (¬good → s.adu.cache.escrow = 0 → starting t = false ∧
        t.lnu.state =
          (if s.lnu.timers.absent.any (fun p => p ≤ s.lnu.ms) then .down
            else if s.lnu.offHook then .ready else s.lnu.state))

/-- Step 5 over a good context (R177), on the settle path and on the finish path (R176). Step 1, on the
settle path alone: the movements of R58 for the coin saved DROPPING, in its recorded direction; that
ESCROW_BALANCE stops at 0 under them and that no fill check follows a COLLECT one are the model's choices
(logs 56 and 40). Step 2: the
other entries are the escrow list, each with its drop, a COMMITTED one's to COLLECT and a HELD one's to
RETURN, whatever its owner, and the next coin sequence follows the top entry's (R63). Step 3, on the settle
path: U goes to EXCESS_VALUE. Step 4: a saved call is logged if its sequence is the next and there is room,
also one opened unlogged (the model's choice, log 34), and is then past (R160); its record, with end cause
POWER_LOSS, the power-loss-settled flag, follow-on clear and carried out 0, is with the writer in the call's
slot (R158), on the finish path only if the log did not hold it; the call counts move on the settle path
alone. Step 5: the records named that are REPORTING are PENDING again (R132), said where the step hands no
occurrence and no two records that are not REPORTED are of a kind. Step 6: the settle path waits for a write-
back, and with nothing to write back goes on to the invalidation (the model's choice, log 36), as the finish
path does at once. The three fields of the record named here, and what `ContextBlockLayout`,
`SavedContextReadBack` and `CallRecordLayout` say of the saved words and of the record's, give the rest of it. -/
def Sys2Proof.Clause.ContextSettled : Prop :=
  ∀ s : State, s.powered = true → s.cfl.step = .tariff → s.pfu.power = .running →
    s.cfl.fault = none →
    ∀ rev, s.tru.compare = some rev →
    (checkedWords s < rev.length ∨ portReaches .tru s = true) → portReaches .pfu s = true →
    let read :=
      rev.reverse ++
        s.mem.words (baseOf .tariff s + 2 * rev.length) (checkedWords s + 1 - rev.length)
    let ws := s.mem.words (baseOf .context s) 99
    s.mem.word (baseOf .context s + 0xFE) = 0xA1E7 → crcGood ws = true →
    let settles : Prop := s.adu.suspect = true ∨ wordAt ws 3 = s.adu.check
    let falling (c : SavedCoin) : Bool := c.coin.status = .dropping
    let tube := ((savedCoins ws).filter fun c => !falling c).map (·.coin)
    let owner := savedOwner ws
    let slot := slotWords .call (owner.seq % 256) s
    let inLog : Prop :=
      crcGood slot = true ∧ value32 (slot.getD 0 0) (slot.getD 1 0) = owner.seq
    let logged : Prop := owner.seq = s.adu.nextCall ∧ uncollected s < 256
    let recorded : Prop := callSaved ws = true ∧ logged ∧ (settles ∨ ¬inLog)
    let words := callWords (savedRecord ws ⟨owner.seq, false⟩)
    let closed (t : Tallies) : Tallies :=
      if callSaved ws = true then
        let answered : Bool := valueAt ws 39 ≠ 0xFFFFFFFF
        let paid : Bool := firstByte (wordAt ws 17) ≠ 0
        { t with
          excess := satAdd t.excess (valueAt ws 29 + valueAt ws 33 - valueAt ws 31)
          unanswered := if answered then t.unanswered else satAdd t.unanswered 1
          paidAnswered := if answered && paid then satAdd t.paidAnswered 1 else t.paidAnswered
          free := if answered && !paid then satAdd t.free 1 else t.free
          unlogged := if logged then t.unlogged else satAdd t.unlogged 1 }
      else { t with excess := satAdd t.excess (valueAt ws 91) }
    let x := s.adu.cache
    ∃ t, exec .tariffCompareDone s = .next t ∧ t.cfl.step = .settle ∧
      t.cnu =
        { s.cnu with
          escrow := tube
          drops := tube.map fun c => ⟨c.seq, if c.status = .committed then .collect else .ret⟩
          nextSeq := (tube.getLast?.map fun c => (c.seq + 1) % 65536).getD s.cnu.nextSeq
          restored := tube.map (·.seq)
          coinSince := false } ∧
      (settles →
        ((∀ c ∈ savedCoins ws, falling c = false) → t.adu.cache = closed x) ∧
        (∀ c, (savedCoins ws).filter falling = [c] →
          (c.dir = .ret →
            t.adu.cache =
              closed
                { x with
                  returned := satAdd x.returned c.coin.value
                  escrow := x.escrow - c.coin.value }) ∧
          (c.dir = .collect →
            t.adu.cache =
              closed
                (Tallies.countCoin c.coin.denom
                  { x with
                    collected := satAdd x.collected c.coin.value
                    boxValue := satAdd x.boxValue c.coin.value
                    boxCoins := satAdd x.boxCoins 1
                    escrow := x.escrow - c.coin.value }))) ∧
        (t.pfu.step5 = .writeBack false ∧
            (writeBackWaiting t = true ∨ writeBackRunning t = true) ∨
          t.pfu.step5 = .invalidate .write ∧ t.adu.dirty = false ∧
            writeBackWaiting t = false ∧ writeBackRunning t = false)) ∧
      (¬settles → t.adu.cache = x ∧ t.pfu.step5 = .invalidate .write) ∧
      (recorded →
        t.adu.nextCall = (owner.seq + 1) % 0x100000000 ∧
        (hasWindow .callLog s = true → .record .call (owner.seq % 256) words ∈ t.adu.jobs) ∧
        (words.getD 28 0).toNat / 256 = 8 ∧ (words.getD 28 0).getLsbD 0 = false ∧
        (words.getD 28 0).getLsbD 2 = true ∧ words.getD 26 0 = 0 ∧ words.getD 27 0 = 0) ∧
      (¬recorded → t.adu.nextCall = s.adu.nextCall) ∧
      (crc (read.take (checkedWords s)) = read.getD (checkedWords s) 0 →
        (recorded → uncollected s ≠ 247) → x.collectedThrough < 0x100000000 → IndexLaw s →
        (s.inu.records.map (·.seq)).Nodup →
        (∀ r ∈ s.inu.records, r.state = .reporting → r.seq ∈ savedSeqs ws →
          ∀ y ∈ s.inu.records, y.kind = r.kind → y.state ≠ .reported → y = r) →
        t.inu.records =
          s.inu.records.map fun r =>
            if r.state = .reporting ∧ r.seq ∈ savedSeqs ws then { r with state := .pending }
            else r)

/-- In config fault step 4 makes no check, so that the tariff stays invalid with no TARIFF_INVALID handed,
and step 5 has no context to judge (R26): STARTING ends at once, the line taking its state from voltage and
hook (R28), and no tally moves. Out of RUNNING the steps wait (R31). -/
def Sys2Proof.Clause.NothingComparedInFault : Prop :=
  ∀ s : State, s.powered = true → s.cfl.step = .tariff →
    (s.pfu.power ≠ .running → exec .tariffCompareDone s = .next s) ∧
    (s.pfu.power = .running → s.cfl.fault.isSome = true → s.tru.compare = none → s.held = [] →
      s.inu.rebuilt = true → s.lnu.quiet = false →
      ∃ t, exec .tariffCompareDone s = .next t ∧ starting t = false ∧ t.pfu.step5 = .idle ∧
        t.mem = s.mem ∧ t.bpu = s.bpu ∧ t.acu = s.acu ∧ t.tru = s.tru ∧
        t.adu.cache = s.adu.cache ∧ t.cfl = { s.cfl with step := .done } ∧
        latched t.inu.latches .tariffInvalid = latched s.inu.latches .tariffInvalid ∧
        t.lnu.state =
          (if s.lnu.timers.absent.any (fun p => p ≤ s.lnu.ms) then .down
            else if s.lnu.offHook then .ready else s.lnu.state))

/-- Steps 4 and 5 of the start-up, with a configuration and without. -/
def Obligations.TariffComparedAndContextJudged : Prop :=
  Clause.ComparedAndJudged ∧ Clause.ContextSettled ∧ Clause.NothingComparedInFault

/-! ### Coins -/

/-- An offer is granted when the gate is open and the denomination enabled, and joins the chute list
with its value, grant time and deadline; else it is declined and only the answer is kept (R48). In config
fault no denomination is enabled, also after a good reload there (R34), so that every offer is declined. -/
def Obligations.OfferJudged : Prop :=
  ∀ (s : State) (code : Nat) (d : Denom), s.powered = true →
    let gate : Prop :=
      starting s = false ∧ coinsBarred s = false ∧ s.pfu.power = .running ∧
      s.lnu.state ∈
        [.ready, .seizing, .dialling, .awaitAnswer, .connected, .grace, LineState.followOn] ∧
      s.cnu.escrow.length + s.cnu.chute.length < 8
    let coin : Prop :=
      s.cfl.fault = none ∧ 1 ≤ code ∧ code ≤ 6 ∧ s.cfl.params.denoms[code - 1]? = some d ∧
      d.enabled = true
    (gate → coin →
      exec (.offer code) s =
        .next
          { s with
            cnu :=
              { s.cnu with
                chute :=
                  s.cnu.chute ++
                    [⟨code, d.value, s.cnu.ms, s.cnu.ms + s.cfl.params.pathWindow⟩]
                offerAnswer := some true
                coinSince := true } }) ∧
    ((¬gate ∨ s.cfl.fault.isSome = true ∨ code = 0 ∨ 6 < code ∨ s.cfl.params.denoms[code - 1]? = none ∨
        (s.cfl.params.denoms[code - 1]? = some d ∧ d.enabled = false)) →
      exec (.offer code) s = .next { s with cnu := { s.cnu with offerAnswer := some false } })

/-- REJECT hands one event to the INU for COIN_REJECTS in every line state, access mode and power
state and while STARTING, and changes none of the CNU's lists (R49). -/
def Obligations.RejectCounts : Prop :=
  ∀ s : State, s.powered = true →
    ∃ t, exec .reject s = .next t ∧ EventReached .coinRejects s t ∧ t.cnu = s.cnu

/-- An entry passage with room in the tube credits the oldest chute coin, or a foreign coin of value
0 when the chute is empty, to the top of the escrow list with its owner; CREDITED_VALUE and
ESCROW_BALANCE take the value and CREDIT is raised (R50, R51, R52). A full tube takes nothing, and
it and a foreign coin count one COIN_PATH_ERRORS event. The sensor's clearing moves the chute
deadlines (R54); that a coin granted during the blocking gains only the time since its grant is the
model's choice (log 18). Out of RUNNING and in STARTING the passage is held and only the sensor's
clearing is followed (R62, R63; the model's choice, log 9). -/
def Sys2Proof.Clause.PassageCredited : Prop :=
  ∀ (s : State) (level : Bool), s.powered = true →
    let active : Prop := s.pfu.power = .running ∧ starting s = false
    let owner : Option Owner :=
      s.cnu.openCall.or
        (if s.lnu.state = .ready ∨ s.lnu.state = .followOn then some ⟨s.adu.nextCall, false⟩
          else none)
    let later (c : ChuteCoin) : ChuteCoin :=
      { c with
        deadline :=
          c.deadline + (s.cnu.blockedSince.map fun b => s.cnu.ms - max b c.granted).getD 0 }
    ∃ t, exec (.entryPassage level) s = .next t ∧ t.cnu.tubeEmpty = level ∧
      (¬active →
        t =
          { s with
            cnu :=
              { s.cnu with
                tubeEmpty := level
                chute := s.cnu.chute.map later
                blockedSince := none
                jamDue := none }
            held := s.held ++ [.entryPassage] }) ∧
      (active → t.cnu.blockedSince = none ∧ t.cnu.jamDue = none ∧
        (8 ≤ s.cnu.escrow.length →
          t.cnu.escrow = s.cnu.escrow ∧ t.cnu.chute = s.cnu.chute.map later ∧
          t.adu.cache.credited = s.adu.cache.credited ∧
          t.adu.cache.escrow = s.adu.cache.escrow ∧
          (s.inu.rebuilt = true → EventReached .coinPathErrors s t)) ∧
        (∀ c cs, s.cnu.escrow.length < 8 → s.cnu.chute = c :: cs →
          t.cnu.escrow.map Coin.identity =
            s.cnu.escrow.map Coin.identity ++ [(s.cnu.nextSeq, c.denom, c.value, false, owner)] ∧
          t.cnu.chute = cs.map later ∧ t.cnu.nextSeq = (s.cnu.nextSeq + 1) % 65536 ∧
          t.adu.cache.credited = satAdd s.adu.cache.credited c.value ∧
          t.adu.cache.escrow = satAdd s.adu.cache.escrow c.value ∧
          flagOf t.rqu.flags .credit = true ∧
          (∀ x, s.rtu.ctx = some x → s.cnu.openCall = some x.owner → x.phase ≠ .grace →
            t.rtu.ctx = some { x with roll := x.roll ++ [⟨s.cnu.nextSeq, c.value, false⟩] }) ∧
          (s.rtu.ctx = none → owner = some ⟨s.adu.nextCall, false⟩ →
            t.rtu.waiting = s.rtu.waiting ++ [⟨s.cnu.nextSeq, c.value, false⟩]) ∧
          (owner = none → s.cnu.escrow = [] → s.cnu.drops = [] → s.cnu.motion = none →
            s.cnu.clearance = none → s.cnu.frozen = false →
            t.cnu.motion = some ⟨.ret, s.cnu.ms + 500⟩ ∧ t.cnu.diverter = .ret)) ∧
        (s.cnu.escrow.length < 8 → s.cnu.chute = [] →
          t.cnu.escrow.map Coin.identity =
            s.cnu.escrow.map Coin.identity ++ [(s.cnu.nextSeq, 0, 0, true, owner)] ∧
          t.cnu.nextSeq = (s.cnu.nextSeq + 1) % 65536 ∧
          t.adu.cache.credited = satAdd s.adu.cache.credited 0 ∧
          flagOf t.rqu.flags .credit = true ∧
          (s.inu.rebuilt = true → EventReached .coinPathErrors s t)))

/-- The grace test (R97): a coin of a call in GRACE, foreign or not, joins its roll. While the remaining
credit stays below the due charge that is all. Once it covers it, the interval is paid: K and the
intervals charged grow, the charge is consumed, the roll's coins that K reaches are marked, and of them
those HELD with no drop queued go to the box (R95, R56); the line is CONNECTED, CREDIT is raised, and no
charge is due. Then every interval end at or before now is taken in order; how many of them an interval of
L 0, which no judged tariff holds, gives is the model's choice (log 32). A foreign coin counts its
COIN_PATH_ERRORS event after that. -/
def Sys2Proof.Clause.GraceTested : Prop :=
  ∀ (s : State) (level : Bool) (x : Ctx), s.powered = true → s.pfu.power = .running →
    starting s = false → s.cnu.escrow.length < 8 → s.cnu.openCall = some x.owner →
    s.rtu.ctx = some x → x.phase = .grace →
    let coin : Coin :=
      match s.cnu.chute with
      | c :: _ => ⟨s.cnu.nextSeq, c.denom, c.value, false, some x.owner, .held⟩
      | [] => ⟨s.cnu.nextSeq, 0, 0, true, some x.owner, .held⟩
    let tube := s.cnu.escrow ++ [coin]
    let last (u : State) : State := if s.cnu.chute = [] then attrEvent .coinPathErrors u else u
    let roll := x.roll ++ [⟨coin.seq, coin.value, false⟩]
    let before (i : Nat) : Nat := ((roll.take i).map (·.value)).sum
    let k := x.consumed + x.due
    let reached (i : Nat) : Bool := x.cin + before i < k
    let fresh : List RollCoin :=
      (roll.zipIdx.filter fun p => !p.1.committed && reached p.2).map (·.1)
    let paid : Ctx :=
      { x with
        phase := .charging
        consumed := k
        intervals := x.intervals + 1
        roll := roll.zipIdx.map fun p => { p.1 with committed := p.1.committed || reached p.2 }
        committed := x.committed + (fresh.map (·.value)).sum
        due := 0
        graceDeadline := none }
    let cache : Tallies :=
      { s.adu.cache with
        credited := satAdd s.adu.cache.credited coin.value
        escrow := satAdd s.adu.cache.escrow coin.value }
    let covered : Prop := x.due ≤ x.cin + (roll.map (·.value)).sum - x.consumed
    ∃ t u, exec (.entryPassage level) s = .next t ∧
      OnlyChanges [.cnu, .rqu, .rtu, .lnu, .inu, .adu, .held] s u ∧
      u.cnu.escrow.map Coin.identity = tube.map Coin.identity ∧ flagOf u.rqu.flags .credit = true ∧
      (¬covered →
        t = last u ∧ u.rtu = { s.rtu with ctx := some { x with roll := roll } } ∧ u.lnu = s.lnu ∧
        { u.adu.cache with attrs := s.adu.cache.attrs } = cache) ∧
      (covered →
        t = last (endsTaken (s.rtu.ms / 1000 + 1 - x.finish.getD 0) u) ∧
        u.rtu = { s.rtu with ctx := some paid } ∧
        { u.adu.cache with attrs := s.adu.cache.attrs } =
          { cache with consumed := satAdd s.adu.cache.consumed x.due } ∧
        u.lnu.state = (if s.lnu.state = .grace then .connected else s.lnu.state) ∧
        u.lnu.buffer = s.lnu.buffer ∧ u.lnu.relay = s.lnu.relay ∧
        ∀ y ∈ fresh, ∀ c ∈ u.cnu.escrow, c.seq = y.seq →
          (∀ b ∈ tube, b.seq = y.seq → b.status = .held) → (∀ d ∈ s.cnu.drops, d.seq ≠ y.seq) →
          (c.status = .committed ∧ ⟨c.seq, .collect⟩ ∈ u.cnu.drops) ∨
            (c.status = .dropping ∧ u.cnu.motion.map (·.dir) = some .collect))

/-- An entry passage taken ends the jam (R54, R125): the COIN_JAM latch is clear afterwards, every other
latch as before, and CONDITION is raised if it was set. The passage then acts as on the state with that latch
clear, CONDITION raised, and the latch-cleared mark on the latest COIN_JAM record, which is handed for
rewriting (R131). Before the INU's rebuild the notice is among what the INU holds (the model's choice,
log 9). -/
def Sys2Proof.Clause.PassageEndsJam : Prop :=
  ∀ (s : State) (level : Bool), s.powered = true → s.pfu.power = .running → starting s = false →
    let was (k : IncKind) : Bool := latched s.inu.latches k
    let ended : State :=
      { s with
        inu.latches := clearLatchBit s.inu.latches .coinJam
        rqu.flags := setFlag s.rqu.flags .condition }
    (s.inu.rebuilt = true →
      ∃ t, exec (.entryPassage level) s = .next t ∧
        (∀ k, latched t.inu.latches k = (was k && decide (k ≠ .coinJam))) ∧
        (was .coinJam = true → flagOf t.rqu.flags .condition = true)) ∧
    (s.inu.rebuilt = true → was .coinJam = true → IndexLaw s →
      ((∀ r ∈ s.inu.records, r.kind ≠ .coinJam) →
        exec (.entryPassage level) s = exec (.entryPassage level) ended) ∧
      ∀ before r after, s.inu.records = before ++ r :: after → r.kind = .coinJam →
        (∀ x ∈ after, x.kind ≠ .coinJam) →
        let marked : IncRec := { r with cleared := true }
        exec (.entryPassage level) s =
          exec (.entryPassage level)
            (rewrite marked { ended with inu.records := before ++ marked :: after })) ∧
    (s.inu.rebuilt = false →
      ∃ t, exec (.entryPassage level) s = .next t ∧ .clearLatch .coinJam ∈ t.held)

/-- An entry passage: its coin, the grace test of a call that waits for it, and the end of a jam. -/
def Obligations.EntryPassageCredits : Prop :=
  Clause.PassageCredited ∧ Clause.GraceTested ∧ Clause.PassageEndsJam

/-- The entry sensor's edge stops the deadlines, in every power state and in STARTING: over a blocked
sensor no deadline runs out, and none does out of RUNNING (R54, R62). Blocked for 2 s it forms one entry
blocked event a blocking, which hands COIN_JAM (R47, R54), or is held out of RUNNING and in STARTING (R62,
R63); a coin whose deadline comes first and runs out over a clear sensor is taken off the chute list and
counts a COIN_PATH_ERROR (R53). That no save stops the 2 s, and that ENTRY_BLOCKED over a clear sensor or
a second time in a blocking, or an edge over a blocked one, changes nothing, is the model's choice (logs 4,
9, 13, 53). -/
def Obligations.EntrySensorTimes : Prop :=
  ∀ s : State, s.powered = true →
    let active : Prop := s.pfu.power = .running ∧ starting s = false
    (s.cnu.blockedSince = none →
      exec .entrySensorBlockedEdge s =
        .next
          { s with cnu.blockedSince := some s.cnu.ms, cnu.jamDue := some (s.cnu.edgeMs + 2000) }) ∧
    (s.cnu.blockedSince.isSome = true → exec .entrySensorBlockedEdge s = .next s) ∧
    (s.cnu.jamDue = none → exec .entryBlocked s = .next s) ∧
    ((s.cnu.blockedSince.isSome = true ∨ s.pfu.power ≠ .running ∨ s.cnu.chute = []) →
      exec .chuteDeadline s = .next s) ∧
    (∀ p, s.cnu.jamDue = some p →
      let u : State := { elapse (p - s.cnu.edgeMs) s with cnu.jamDue := none }
      (active → exec .entryBlocked s = .next (occur .coinJam 0 u)) ∧
      (¬active → exec .entryBlocked s = .next { u with held := s.held ++ [.entryBlocked] })) ∧
    ∀ c before after, s.cnu.chute = before ++ c :: after → s.pfu.power = .running →
      s.cnu.blockedSince = none → (∀ x ∈ before, c.deadline < x.deadline) →
      (∀ x ∈ after, c.deadline ≤ x.deadline) →
      let u := elapse (c.deadline - s.cnu.ms) s
      exec .chuteDeadline s =
        .next (attrEvent .coinPathErrors { u with cnu.chute := before ++ after })

/-- An exit passage completes the drop in motion, or that of the stuck coin that comes free late
(R59): the bottom coin leaves the escrow list and its value leaves ESCROW_BALANCE for
COLLECTED_VALUE and the cash box, counted by its denomination, or for RETURNED_VALUE (R58, R60). A
COLLECT completion that brings CASHBOX_COINS to a fill count hands CASHBOX_NEAR_FULL or CASHBOX_FULL
while that latch is clear, and nothing once it is set (R65). The drop of the last restored coin begins a
sweep, if both lists are then empty, no coin has been granted or credited since, and the tube-empty switch
reads not empty (R177): a clearance drop that counts its object on COIN_PATH_ERRORS at its release, which is
the model's choice (log 31). So is that ESCROW_BALANCE stops at 0 under a drop above it (log 56). -/
def Sys2Proof.Clause.ExitPassageCompletesDrop : Prop :=
  ∀ (s : State) (level : Bool) (c : Coin) (cs : List Coin) (dir : Dir), s.powered = true →
    s.pfu.power = .running → starting s = false → s.cnu.clearance = none →
    s.cnu.escrow = c :: cs →
    ((∃ m, s.cnu.motion = some m ∧ m.dir = dir) ∨
      (s.cnu.motion = none ∧ s.cnu.stuck = some dir ∧ c.status = .dropping)) →
    let x := s.adu.cache
    let was (k : IncKind) : Bool := latched s.inu.latches k
    let near : Bool := s.cfl.params.boxNearFull ≤ satAdd x.boxCoins 1
    let full : Bool := s.cfl.params.boxFull ≤ satAdd x.boxCoins 1
    let swept : Prop :=
      s.cnu.restored = [c.seq] ∧ s.cnu.coinSince = false ∧ cs = [] ∧ s.cnu.chute = [] ∧ level = false
    ∃ t, exec (.exitPassage level) s = .next t ∧
      t.cnu.escrow.map Coin.identity = cs.map Coin.identity ∧ t.cnu.stuck = none ∧
      t.cnu.tubeEmpty = level ∧ (s.cnu.drops = [] → t.cnu.motion = none) ∧
      t.cnu.restored = s.cnu.restored.filter (fun q => q ≠ c.seq) ∧
      (dir = .ret →
        { t.adu.cache with attrs := x.attrs } =
          { x with returned := satAdd x.returned c.value, escrow := x.escrow - c.value } ∧
        t.inu.latches = s.inu.latches) ∧
      (dir = .collect →
        { t.adu.cache with attrs := x.attrs } =
          Tallies.countCoin c.denom
            { x with
              collected := satAdd x.collected c.value
              boxValue := satAdd x.boxValue c.value
              boxCoins := satAdd x.boxCoins 1
              escrow := x.escrow - c.value } ∧
        (near = true → was .cashboxNearFull = false → OccurrenceReached .cashboxNearFull 0 s t) ∧
        (full = true → was .cashboxFull = false → OccurrenceReached .cashboxFull 0 s t) ∧
        (s.inu.rebuilt = true → ∀ k,
          latched t.inu.latches k =
            (was k || (decide (k = .cashboxNearFull) && near) ||
              (decide (k = .cashboxFull) && full)))) ∧
      (¬swept →
        t.cnu.clearance = none ∧ t.adu.cache.attrs = x.attrs ∧
        (dir = .ret ∨
            ((near = true → was .cashboxNearFull = true) ∧
              (full = true → was .cashboxFull = true)) →
          t.inu = s.inu ∧ t.held = s.held)) ∧
      (swept →
        t.cnu.clearance = some ⟨1, s.cnu.ms + 500, true⟩ ∧ t.cnu.diverter = .ret ∧
        t.cnu.motion = none ∧ (s.inu.rebuilt = true → EventReached .coinPathErrors s t) ∧
        (s.inu.rebuilt = false → .attrEvent .coinPathErrors ∈ t.held))

/-- A stray exit, with no drop in motion and no stuck coin (R59), hands one event to the INU for
COIN_PATH_ERRORS; it changes no list and moves no tally (R61). -/
def Sys2Proof.Clause.StrayExit : Prop :=
  ∀ (s : State) (level : Bool), s.powered = true → s.pfu.power = .running → starting s = false →
    s.cnu.clearance = none → s.cnu.motion = none →
    (s.cnu.stuck = none ∨ s.cnu.escrow.all (fun c => c.status ≠ .dropping) = true) →
    ∃ t, exec (.exitPassage level) s = .next t ∧ EventReached .coinPathErrors s t ∧
      t.cnu = { s.cnu with tubeEmpty := level } ∧
      t.adu.cache = { s.adu.cache with attrs := t.adu.cache.attrs }

/-- An exit passage out of RUNNING, or in STARTING with no clearance in progress, is held, the tube-empty
switch being read as a level (R62, R63, R47). It keeps whether a clearance was in progress, of which it is
then an exit if that clearance still is (R63). -/
def Sys2Proof.Clause.ExitPassageHeld : Prop :=
  ∀ (s : State) (level : Bool), s.powered = true →
    (s.pfu.power ≠ .running ∨ (starting s = true ∧ s.cnu.clearance = none)) →
    exec (.exitPassage level) s =
      .next
        { s with
          cnu.tubeEmpty := level
          held := s.held ++ [.exitPassage s.cnu.clearance.isSome] }

/-- Exit passages of a tube that is not being cleared, and those that the CNU holds. -/
def Obligations.ExitPassages : Prop :=
  Clause.ExitPassageCompletesDrop ∧ Clause.StrayExit ∧ Clause.ExitPassageHeld

/-- An exit passage of a tube clearance ends it when the tube is empty, with ESCROW_FAULT after 8
drops that did not empty it, and else releases the next object (R63, R177, R178). That an eighth
drop which empties the tube ends it without a fault, that a sweep counts at each release, and that
it ends with ESCROW_FAULT as a clearance does, is the model's choice (log 31). -/
def Sys2Proof.Clause.ClearanceGoesOn : Prop :=
  ∀ (s : State) (level : Bool) (c : Clearance), s.powered = true → s.pfu.power = .running →
    s.cnu.clearance = some c →
    ∃ t, exec (.exitPassage level) s = .next t ∧ t.cnu.tubeEmpty = level ∧
      t.cnu.escrow.map Coin.identity = s.cnu.escrow.map Coin.identity ∧
      (level = false → c.made < 8 →
        t.cnu.clearance = some ⟨c.made + 1, s.cnu.ms + 500, c.sweep⟩ ∧ t.cnu.diverter = .ret ∧
        (c.sweep = true → EventReached .coinPathErrors s t)) ∧
      ((level = true ∨ 8 ≤ c.made) → t.cnu.clearance = none) ∧
      (level = false → 8 ≤ c.made → OccurrenceReached .escrowFault 0 s t) ∧
      ((level = true ∨ 8 ≤ c.made) → c.sweep = false →
        t.adu.cache.returned = satAdd s.adu.cache.returned s.adu.cache.escrow ∧
        t.adu.cache.escrow = 0 ∧ t.pfu.step5 = .writeBack true ∧
        OccurrenceReached .auditSuspect 2 s t)

/-- The exit timer running out over a drop in motion hands ESCROW_FAULT and freezes the drop queue,
the coin kept with its direction (R59): it runs out once its 500 ms have passed, with which the sensors'
debounce counts go on too (logs 4 and 53). A watched settlement is told to the ADU as stuck, so that a
write-back is waiting or running unless no tally has changed (R56, R155). Over a clearance it ends it with
ESCROW_FAULT (R63), the accounting of a start-up's clearance then made (R178); that it ends a sweep so too is
the model's choice (log 31), and that it changes nothing with neither in progress (log 13). -/
def Sys2Proof.Clause.ExitTimerRunsOut : Prop :=
  ∀ s : State, s.powered = true → s.pfu.power = .running →
    (∀ m, s.cnu.clearance = none → s.cnu.motion = some m →
      ∃ t, exec .exitTimeout s = .next t ∧
        t.cnu =
          { s.cnu with
            ms := max s.cnu.ms m.deadline
            edgeMs := s.cnu.edgeMs + (m.deadline - s.cnu.ms)
            frozen := true
            stuck := some m.dir
            motion := none } ∧
        t.adu.cache = s.adu.cache ∧ OccurrenceReached .escrowFault 0 s t ∧
        (s.cnu.watch ≠ [] →
          writeBackWaiting t = true ∨ writeBackRunning t = true ∨ t.adu.dirty = false)) ∧
    (∀ c, s.cnu.clearance = some c →
      ∃ t, exec .exitTimeout s = .next t ∧ t.cnu.clearance = none ∧
        OccurrenceReached .escrowFault 0 s t ∧
        (c.sweep = false →
          t.adu.cache.returned = satAdd s.adu.cache.returned s.adu.cache.escrow ∧
          t.adu.cache.escrow = 0 ∧ t.pfu.step5 = .writeBack true ∧
          OccurrenceReached .auditSuspect 2 s t)) ∧
    (s.cnu.clearance = none → s.cnu.motion = none → exec .exitTimeout s = .next s)

/-- The tube clearance and the exit timer. -/
def Obligations.ClearanceAndExitTimer : Prop := Clause.ClearanceGoesOn ∧ Clause.ExitTimerRunsOut

/-- The CNU and the INU keep door and box; an open door or an absent box outside SERVICE is an
occurrence, and a box put back lets a waiting COLLECT drop start (R58, R64). That a level which
already stands changes nothing is the model's choice (log 13). -/
def Sys2Proof.Clause.CashBoxSwitches : Prop :=
  ∀ s : State, s.powered = true →
    (∀ b, s.cnu.doorOpen = b → exec (.cashDoorChange b) s = .next s) ∧
    (∀ b, s.cnu.boxPresent = b → exec (.cashboxPresenceChange b) s = .next s) ∧
    (s.cnu.doorOpen = false →
      let u := { s with cnu.doorOpen := true, inu.doorOpen := true }
      (s.acu.mode = .service → exec (.cashDoorChange true) s = .next u) ∧
      (s.acu.mode ≠ .service →
        exec (.cashDoorChange true) s = .next (occur .cashDoorOpen 0 u))) ∧
    (s.cnu.doorOpen = true →
      exec (.cashDoorChange false) s =
        .next { s with cnu.doorOpen := false, inu.doorOpen := false }) ∧
    (s.cnu.boxPresent = true →
      let u := { s with cnu.boxPresent := false, inu.boxPresent := false }
      (s.acu.mode = .service → exec (.cashboxPresenceChange false) s = .next u) ∧
      (s.acu.mode ≠ .service →
        exec (.cashboxPresenceChange false) s = .next (occur .cashboxRemoved 0 u))) ∧
    (s.cnu.boxPresent = false →
      let u := { s with cnu.boxPresent := true, inu.boxPresent := true }
      (s.cnu.drops = [] → exec (.cashboxPresenceChange true) s = .next u) ∧
      ∀ c cs d ds, s.cnu.escrow = c :: cs → s.cnu.drops = d :: ds → d.seq = c.seq →
        s.cnu.motion = none → s.cnu.clearance = none → s.cnu.frozen = false →
        s.pfu.power = .running → starting s = false →
        exec (.cashboxPresenceChange true) s =
          .next
            { u with
              cnu :=
                { u.cnu with
                  escrow := { c with status := .dropping } :: cs
                  drops := ds
                  motion := some ⟨d.dir, s.cnu.ms + 500⟩
                  diverter := d.dir } })

/-- EMPTY_CASHBOX is judged in the order of R66; accepted, it sets CASHBOX_VALUE and CASHBOX_COINS
to 0, moves no other tally, clears both fill latches, and triggers a write-back: of a cache that is dirty
one waits or is running afterwards (R154, R155). -/
def Sys2Proof.Clause.CashBoxEmptied : Prop :=
  ∀ (s : State) (v : Service), InService kindEmptyCashbox v s →
    let answered (c : ResultCode) : State := { s with rqu.service := some (v.answered c 0 0 0) }
    (s.acu.mode ≠ .service → exec .emptyCashbox s = .next (answered .refusedMode)) ∧
    (s.acu.mode = .service → (s.pfu.power ≠ .running ∨ s.cnu.boxPresent = false) →
      exec .emptyCashbox s = .next (answered .refusedState)) ∧
    (s.acu.mode = .service → s.pfu.power = .running → s.cnu.boxPresent = true →
      ∃ t, exec .emptyCashbox s = .next t ∧ OnlyChanges [.rqu, .inu, .adu, .held] s t ∧
        t.adu.cache = { s.adu.cache with boxValue := 0, boxCoins := 0 } ∧
        t.adu.dirty =
          (s.adu.dirty || decide (s.adu.cache.boxValue ≠ 0 ∨ s.adu.cache.boxCoins ≠ 0)) ∧
        (t.adu.dirty = true → writeBackWaiting t = true ∨ writeBackRunning t = true) ∧
        t.rqu.service = some (v.answered .ok 0 0 0) ∧
        (s.inu.rebuilt = true →
          latched t.inu.latches .cashboxNearFull = false ∧
          latched t.inu.latches .cashboxFull = false))

/-- The cash box. -/
def Obligations.CashBoxWatchedAndEmptied : Prop := Clause.CashBoxSwitches ∧ Clause.CashBoxEmptied

/-! ### Tariff and clock -/

/-- TARIFF_CHECK outside SERVICE is refused; in SERVICE a check begins, or waits for the running
one, and the request is answered at its end (R73); that it waits behind those that came before it is the
model's choice (log 50). With no TARIFF window R73 gives no answer: the
code is one that an owner may give, and the result words are 0 (R39; which code is free, log 5). -/
def Sys2Proof.Clause.TariffCheckAsked : Prop :=
  ∀ (s : State) (v : Service), InService kindTariffCheck v s →
    (s.acu.mode ≠ .service →
      exec .tariffCheck s =
        .next { s with rqu.service := some (v.answered .refusedMode 0 0 0) }) ∧
    (s.acu.mode = .service → hasWindow .tariff s = true → s.tru.check = none →
      exec .tariffCheck s =
        .next
          { s with
            rqu.service := some v.accepted
            tru.check := some ⟨[], checkedWords s, false, true, false⟩ }) ∧
    (s.acu.mode = .service → hasWindow .tariff s = true → s.tru.check.isSome = true →
      exec .tariffCheck s =
        .next
          { s with
            rqu.service := some v.accepted
            tru.waiting := s.tru.waiting ++ [true] }) ∧
    (s.acu.mode = .service → hasWindow .tariff s = false →
      ∃ c : ResultCode, c ≠ .starting ∧ c ≠ .abandoned ∧ c ≠ .unknownKind ∧
        exec .tariffCheck s =
          .next
            { s with
              rqu.service := some (v.answered c 0 0 0)
              free := s.free + 1 })

/-- The end of a check's reads (R73 to R75): a check whose items all pass hands its CRC to the ADU's
writer; one that fails clears tariff-valid, hands TARIFF_INVALID, clears tariff-unsettled unless a
write has overtaken it, answers TARIFF_BAD with the failing item, and lets the next check begin
(R77). Words left to read wait until the port comes to the TRU (R16). That they are then read in one
step, and that of several waiting checks the first to come begins, is the model's choice (logs 4 and
50). -/
def Sys2Proof.Clause.TariffReadsJudged : Prop :=
  ∀ (s : State) (k : Check), s.powered = true → s.tru.check = some k → k.writing = false →
    let reached : Prop := k.size ≤ k.rev.length ∨ portReaches .tru s = true
    let ws :=
      k.rev.reverse ++ s.mem.words (baseOf .tariff s + 2 * k.rev.length) (k.size - k.rev.length)
    (¬reached → exec .tariffCheckReadsDone s = .next s) ∧
    (reached → judgeArea (readArea ws) = none →
      exec .tariffCheckReadsDone s =
        .next
          { s with
            tru.check := some { k with rev := ws.reverse, writing := true }
            adu.jobs := s.adu.jobs ++ [.checkWord (crc ws)] }) ∧
    ∀ b, reached → judgeArea (readArea ws) = some b →
      ∃ t, exec .tariffCheckReadsDone s = .next t ∧ t.mem = s.mem ∧ t.tru.valid = false ∧
        t.tru.calendar = s.tru.calendar ∧
        t.tru.unsettled = (s.tru.unsettled && k.overtaken) ∧
        t.tru.check = s.tru.waiting.head?.map (fun f => ⟨[], checkedWords s, false, f, false⟩) ∧
        t.tru.waiting = s.tru.waiting.drop 1 ∧ OccurrenceReached .tariffInvalid 0 s t ∧
        ∀ v, k.forRequest = true → s.rqu.service = some v → v.phase = .held →
          v.kind.toNat = kindTariffCheck →
          t.rqu.service =
            some (v.answered .tariffBad (wordOf b.table) (wordOf b.index) (wordOf b.field))

/-- The items of a tariff check are judged in order, the header first (R73, R75): a surcharge above
500, more than 256 entries, more than 16 holidays; then the prefix entries, each its digits first
and then its length, in the order of R69; and an area with a good header, no entry, no row in use,
good schedules of one point and no holiday passes. That of a length above 8 the 8 places that stand
are read as digits is the model's choice (log 21). -/
def Sys2Proof.Clause.TariffItemsInOrder : Prop :=
  ∀ w : Area,
    let digit (i : Nat) : Nat := w (4 + i / 4) / 16 ^ (3 - i % 4) % 16
    let n := w 6 / 256
    let entered : Prop := w 0 ≤ 500 ∧ 1 ≤ w 1 ∧ w 1 ≤ 256 ∧ w 3 ≤ 16
    (500 < w 0 → judgeArea w = some ⟨1, 0, 1⟩) ∧
    (w 0 ≤ 500 → 256 < w 1 → judgeArea w = some ⟨1, 0, 2⟩) ∧
    (w 0 ≤ 500 → w 1 ≤ 256 → 16 < w 3 → judgeArea w = some ⟨1, 0, 3⟩) ∧
    (∀ i, entered → i < n → i < 8 → 9 < digit i → judgeArea w = some ⟨2, 0, 2⟩) ∧
    (entered → (∀ i, i < n → i < 8 → digit i ≤ 9) → (n = 0 ∨ 8 < n) →
      judgeArea w = some ⟨2, 0, 1⟩) ∧
    (w 0 ≤ 500 → w 1 = 0 → w 3 = 0 → (∀ c, 1 ≤ c → c ≤ 31 → w (1284 + 10 * c) = 0) →
      (∀ j, j < 3 → w (1604 + 17 * j) = 1 ∧ w (1605 + 17 * j) = 0 ∧ w (1606 + 17 * j) ≤ 3) →
      judgeArea w = none) ∧
    (w 0 ≤ 500 → w 1 = 0 → w 3 = 0 → 1 < w 1294 → judgeArea w = some ⟨3, 1, 1⟩)

/-- The failing item of a check is the first, in the order of R73, of these conditions that holds, each
with its table, index and field (R68 to R70, R75): of the header, of every entry in force, of the class
rows 1 to 31, of the three schedules with their switch points in turn, and of the holidays in force. The
model's choices (log 21): of a length above 8 the 8 places that stand are read, and a row's four L come
before its four C. -/
def Sys2Proof.Clause.FirstBadItemFound : Prop :=
  ∀ w : Area,
    let header : List (Bool × BadItem) :=
      [(500 < w 0, ⟨1, 0, 1⟩), (256 < w 1, ⟨1, 0, 2⟩), (16 < w 3, ⟨1, 0, 3⟩)]
    let length (i : Nat) : Nat := w (6 + 5 * i) / 256
    let places (i : Nat) : Nat := min (length i) 8
    let digit (i k : Nat) : Nat := w (4 + 5 * i + k / 4) / 16 ^ (3 - k % 4) % 16
    let follows (i j : Nat) : Bool :=
      (List.range 9).any fun k =>
        ((List.range k).all fun m => digit i m = digit j m) &&
          ((k < places i && k < places j && digit i k < digit j k) ||
            (k = places i && k < places j))
    let entry (i : Nat) : List (Bool × BadItem) :=
      let cls := w (6 + 5 * i) % 256
      let least := w (8 + 5 * i) / 256
      let most := w (8 + 5 * i) % 256
      [((List.range (places i)).any fun k => 9 < digit i k, ⟨2, i, 2⟩),
        (length i < 1 || 8 < length i, ⟨2, i, 1⟩),
        (31 < cls, ⟨2, i, 3⟩),
        (1 < w (7 + 5 * i), ⟨2, i, 4⟩),
        (least < length i || most < least || 20 < most, ⟨2, i, 5⟩),
        (i ≠ 0 && !follows (i - 1) i, ⟨2, i, 6⟩),
        (cls ≠ 0 && w (1284 + 10 * cls) ≠ 1, ⟨2, i, 7⟩)]
    let row (c : Nat) : List (Bool × BadItem) :=
      let r := 1284 + 10 * c
      let used : Bool := w r = 1
      let lengths : List (Bool × BadItem) :=
        (List.range 4).map fun b =>
          (used && (w (r + 2 + 2 * b) < 1 || 600 < w (r + 2 + 2 * b)), ⟨3, c, 3 + b⟩)
      let charges : List (Bool × BadItem) :=
        (List.range 4).map fun b => (used && 9999 < w (r + 3 + 2 * b), ⟨3, c, 7 + b⟩)
      let flags : List (Bool × BadItem) :=
        [(1 < w r, ⟨3, c, 1⟩), (used && 9999 < w (r + 1), ⟨3, c, 2⟩)]
      flags ++ lengths ++ charges
    let schedule (j : Nat) : List (Bool × BadItem) :=
      let a := 1604 + 17 * j
      (w a < 1 || 8 < w a, ⟨4, j, 1⟩) ::
        (List.range (min (w a) 8)).flatMap fun k =>
          let minute := w (a + 1 + 2 * k)
          [(1439 < minute, ⟨4, j, 2⟩), (3 < w (a + 2 + 2 * k), ⟨4, j, 3⟩),
            (k = 0 && minute ≠ 0, ⟨4, j, 4⟩), (k ≠ 0 && minute ≤ w (a + 2 * k - 1), ⟨4, j, 5⟩)]
    let holiday (i : Nat) : List (Bool × BadItem) :=
      let month := w (1655 + i) / 256
      let day := w (1655 + i) % 256
      let longest := if month = 2 then 29 else if month ∈ [4, 6, 9, 11] then 30 else 31
      [(month < 1 || 12 < month, ⟨5, i, 1⟩), (day < 1 || longest < day, ⟨5, i, 2⟩)]
    let items :=
      header ++ (List.range (w 1)).flatMap entry ++
        (List.range 31).flatMap (fun c => row (c + 1)) ++ (List.range 3).flatMap schedule ++
        (List.range (w 3)).flatMap holiday
    judgeArea w = (items.find? (·.1)).map (·.2)

/-- The end of the check word's write (R74, R75): verified, the check passes, and tariff-valid and
the settled calendar are set, the TARIFF_INVALID latch is cleared and OK is answered; failed, the
check fails at table 6, index 0, field 1. A check word left to write waits for RUNNING (R165) and
for the port (R16); that it then takes at once is the model's choice (logs 4 and 19). -/
def Sys2Proof.Clause.CheckWordEnds : Prop :=
  ∀ (s : State) (r : Run) (w : Word) (k : Check), s.powered = true → s.adu.run = some r →
    r.job = .checkWord w → s.tru.check = some k →
    let ends : Prop := (s.pfu.power = .running ∧ portReaches .adu s = true) ∨ r.todo = []
    let next := s.tru.waiting.head?.map (fun f => (⟨[], checkedWords s, false, f, false⟩ : Check))
    (¬ends → exec .checkWordWriteDone s = .next s) ∧
    (ends →
      ∃ t, exec .checkWordWriteDone s = .next t ∧ t.mem = s.mem.storeAll r.todo ∧
      t.adu.run = none ∧
      t.tru.unsettled = (s.tru.unsettled && k.overtaken) ∧ t.tru.check = next ∧
      t.tru.waiting = s.tru.waiting.drop 1 ∧
      (r.failed = 0 →
        t.tru.valid = true ∧ t.tru.calendar = some (calendarOf (readArea k.rev.reverse)) ∧
        (s.inu.rebuilt = true → s.pfu.power = .running →
          latched t.inu.latches .tariffInvalid = false)) ∧
      (r.failed ≠ 0 →
        t.tru.valid = false ∧ t.tru.calendar = s.tru.calendar ∧
        OccurrenceReached .tariffInvalid 0 s t) ∧
      ∀ v, k.forRequest = true → s.rqu.service = some v → v.phase = .held →
        v.kind.toNat = kindTariffCheck →
        t.rqu.service =
          some (if r.failed = 0 then v.answered .ok 0 0 0 else v.answered .tariffBad 6 0 1))

/-- A tariff check from its request to its end, and the CRC its check word is (R71). -/
def Obligations.TariffChecked : Prop :=
  Clause.TariffCheckAsked ∧ Clause.TariffReadsJudged ∧
  Clause.FirstBadItemFound ∧ Clause.TariffItemsInOrder ∧ Clause.CheckWordEnds ∧ Clause.CrcComputed

/-- A valid clock moves on by one second: through the ends of minute, hour, day and every month,
with 29 days in February of a year divisible by 4, and from the end of 2099 to the start of 2000
(R81); an invalid clock does not move. That the second in hand is run to its end first is the
model's choice (log 4). -/
def Sys2Proof.Clause.ClockSecondAdvances : Prop :=
  ∀ s : State, s.powered = true →
    (s.tru.clock = none → exec .clockSecond s = .next s) ∧
    ∀ c, s.tru.clock = some c →
      ∃ t d, exec .clockSecond s = .next t ∧
        OnlyChanges [.cnu, .tru, .rtu, .lnu, .inu, .rpu, .acu] s t ∧ t.tru.clock = some d ∧
        (s.tru.phase ≤ 1000 → t.tru = { s.tru with clock := some d, phase := 0 }) ∧
        (c.second < 59 → d = { c with second := c.second + 1 }) ∧
        (c.second = 59 → c.minute < 59 → d = { c with minute := c.minute + 1, second := 0 }) ∧
        (c.second = 59 → c.minute = 59 → c.hour < 23 →
          d = { c with hour := c.hour + 1, minute := 0, second := 0 }) ∧
        (c.second = 59 → c.minute = 59 → c.hour = 23 →
          let nextDay : Prop := d = ⟨c.year, c.month, c.day + 1, 0, 0, 0⟩
          let nextMonth : Prop := d = ⟨c.year, c.month + 1, 1, 0, 0, 0⟩
          (c.day < 28 → nextDay) ∧
          (c.month = 2 → c.day = 28 → c.year % 4 = 0 → nextDay) ∧
          (c.month = 2 → c.day = 28 → c.year % 4 ≠ 0 → nextMonth) ∧
          (c.month = 2 → c.day = 29 → nextMonth) ∧
          (c.month ∈ [4, 6, 9, 11] → c.day < 30 → nextDay) ∧
          (c.month ∈ [4, 6, 9, 11] → c.day = 30 → nextMonth) ∧
          (c.month ∈ [1, 3, 5, 7, 8, 10, 12] → c.day < 31 → nextDay) ∧
          (c.month ∈ [1, 3, 5, 7, 8, 10] → c.day = 31 → nextMonth) ∧
          (c.month = 12 → c.day = 31 → c.year < 99 → d = ⟨c.year + 1, 1, 1, 0, 0, 0⟩) ∧
          (c.month = 12 → c.day = 31 → c.year = 99 → d = ⟨0, 1, 1, 0, 0, 0⟩))

/-- SET_CLOCK is judged in the order of R83: REFUSED_MODE over a valid clock outside SERVICE,
REFUSED_STATE out of RUNNING, BAD_PARAM for a field out of range, and else the clock is set with a
new second phase and CLOCK is raised. -/
def Sys2Proof.Clause.ClockSetByRequest : Prop :=
  ∀ (s : State) (v : Service), InService kindSetClock v s →
    let p (i : Nat) : Nat := param v.params i
    let days : Nat :=
      if p 2 = 2 then (if p 1 % 4 = 0 then 29 else 28)
      else if p 2 = 4 ∨ p 2 = 6 ∨ p 2 = 9 ∨ p 2 = 11 then 30
      else 31
    let good : Prop :=
      2000 ≤ p 1 ∧ p 1 ≤ 2099 ∧ 1 ≤ p 2 ∧ p 2 ≤ 12 ∧ 1 ≤ p 3 ∧ p 3 ≤ days ∧ p 4 ≤ 23 ∧ p 5 ≤ 59 ∧
      p 6 ≤ 59
    let answered (c : ResultCode) : State := { s with rqu.service := some (v.answered c 0 0 0) }
    let allowed : Prop := s.acu.mode = .service ∨ s.tru.clock = none
    (¬allowed → exec .setClock s = .next (answered .refusedMode)) ∧
    (allowed → s.pfu.power ≠ .running → exec .setClock s = .next (answered .refusedState)) ∧
    (allowed → s.pfu.power = .running → ¬good → exec .setClock s = .next (answered .badParam)) ∧
    (allowed → s.pfu.power = .running → good →
      exec .setClock s =
        .next
          { answered .ok with
            rqu.flags := setFlag s.rqu.flags .clock
            tru.clock := some ⟨p 1 - 2000, p 2, p 3, p 4, p 5, p 6⟩
            tru.phase := 0 })

/-- The calendar clock. -/
def Obligations.ClockKept : Prop := Clause.ClockSecondAdvances ∧ Clause.ClockSetByRequest

/-! ### Rating -/

/-- The band an interval is priced by (R82, R89): the one the TRU answers; with an invalid clock or
an empty calendar the lowest-numbered of the bands whose charge in the row is the largest. -/
def Sys2Proof.Clause.BandChosen : Prop :=
  ∀ (r : Row) (s : State),
    (∀ b, bandLookup s = some b → chooseBand r s = b) ∧
    ((s.tru.clock = none ∨ s.tru.calendar = none) → bandLookup s = none) ∧
    (bandLookup s = none →
      chooseBand r s < 4 ∧
      (∀ i, i < 4 → (r.rate i).charge ≤ (r.rate (chooseBand r s)).charge) ∧
      ∀ i, i < chooseBand r s → (r.rate i).charge < (r.rate (chooseBand r s)).charge)

/-- An interval end in CHARGING begins the next interval at that point (R94): its band is chosen
then, its end set by the band's length, and its surcharged charge (R87) is taken if the remaining
credit (R88) covers it, committing every coin of the roll that it reaches (R95, R56), and else left due in
GRACE, which ends the grace time after the interval's start (R96), a CONNECTED line becoming GRACE. Nothing
else changes but the time that passes until that end. That a band above 3, which no judged tariff holds, is
read as band 3 is the model's choice (log 32). Out of RUNNING an end already reached is held (R105). -/
def Sys2Proof.Clause.IntervalBegins : Prop :=
  ∀ (s : State) (c : Ctx) (r : Row) (e : Nat), s.powered = true → s.rtu.ctx = some c →
    c.phase = .charging → c.finish = some e → c.row = some r →
    (s.pfu.power ≠ .running → e ≤ s.rtu.ms / 1000 →
      exec .intervalEnd s = .next { s with held := s.held ++ [.intervalEnd] }) ∧
    (s.pfu.power = .running →
      let b := chooseBand r s
      let x := (r.rate b).charge
      let charge := min 9999 (x + (x * r.surcharge + 999) / 1000)
      let credit := c.cin + (c.roll.map (·.value)).sum - c.consumed
      let begun : Ctx :=
        { c with band := some b, start := some e, finish := some (e + (r.rate b).len) }
      let u := elapse (e * 1000 - s.rtu.ms) s
      (charge ≤ credit → exec .intervalEnd s = .next (chargeTaken begun charge u)) ∧
      (credit < charge →
        let g := graceEntered begun charge e u
        exec .intervalEnd s = .next (if s.lnu.state = .connected then callLine .grace g else g)))

/-- Band lookup (R82): the day type is SUNDAY on a holiday of the settled calendar and else follows
the weekday, which the days since 1 January 2000 give, Saturday first; the band is that of the
switch point whose minute is the greatest not after the current minute of day. -/
def Sys2Proof.Clause.BandLookedUp : Prop :=
  ∀ (s : State) (c : Cal) (k : Calendar), s.tru.clock = some c → s.tru.calendar = some k →
    1 ≤ c.month → c.month ≤ 12 → 1 ≤ c.day →
    let before : Nat := [0, 31, 59, 90, 120, 151, 181, 212, 243, 273, 304, 334].getD (c.month - 1) 0
    let leapDay : Nat := if 2 < c.month ∧ c.year % 4 = 0 then 1 else 0
    let days := 365 * c.year + (c.year + 3) / 4 + before + leapDay + (c.day - 1)
    let points : List SwitchPoint :=
      if (c.month, c.day) ∈ k.holidays then k.sunday
      else if days % 7 = 0 then k.saturday
      else if days % 7 = 1 then k.sunday
      else k.weekday
    let minute := c.hour * 60 + c.minute
    points.Pairwise (fun p q => p.minute < q.minute) →
    ∀ p ∈ points, p.minute ≤ minute →
      (∀ q ∈ points, q.minute ≤ minute → q.minute ≤ p.minute) → bandLookup s = some p.band

/-- The pricing of an interval and its beginning. -/
def Obligations.IntervalsRated : Prop :=
  Clause.BandLookedUp ∧ Clause.BandChosen ∧ Clause.IntervalBegins

/-- An answer (R93, R113): polarity reversal in AWAIT_ANSWER stops the answer timer, records the
answer point and latches grace time, maximum duration and, unless it is 0 or the call an emergency call, the
maximum-duration end; a class 0 call is CONNECTED without a charge. The first interval of a priced one begins
at the answer point, in the band chosen then (R89) and over that band's length, and its charge is the
surcharged S plus the surcharged C of the band (R87). It is taken if the remaining credit (R88) covers it,
committing the coins that it reaches (R95, R56), the line CONNECTED; else the call is in GRACE with it due,
and so is the line (R96). Nothing else changes. That a band above 3, which no judged tariff holds, is read as
band 3 is the model's choice (log 32). In other states the reversal is kept, and answers a report
call that waits for its answer (R120). -/
def Obligations.ReversalAnswers : Prop :=
  ∀ s : State, s.powered = true →
    (s.pfu.power ≠ .running →
      exec .polarityReversal s = .next { s with held := s.held ++ [.reversal] }) ∧
    (s.pfu.power = .running → s.lnu.state ≠ .awaitAnswer → s.lnu.timers.reportAnswer = none →
      exec .polarityReversal s = .next { s with lnu.reversed := true }) ∧
    (s.pfu.power = .running → s.lnu.state ≠ .awaitAnswer → s.lnu.timers.reportAnswer.isSome = true →
      exec .polarityReversal s =
        .next
          { s with
            lnu.reversed := true
            lnu.timers.reportAnswer := none
            lnu.timers.sendDelay := some (s.lnu.ms + 1000) }) ∧
    ∀ c, s.pfu.power = .running → s.lnu.state = .awaitAnswer → s.rtu.ctx = some c →
      c.phase = .dialled →
      let now := s.rtu.ms / 1000
      let limit := s.cfl.params.maxDuration * 60
      let answered : Ctx :=
        { c with
          phase := .charging
          answerPoint := some now
          graceTime := s.cfl.params.graceTime
          maxDuration := limit
          maxEnd := if limit ≠ 0 ∧ c.emergency = false then some (now + limit) else none }
      let heard : State := { s with lnu.reversed := true, lnu.timers.answer := none }
      (c.row = none →
        exec .polarityReversal s =
          .next (callLine .connected { heard with rtu.ctx := some answered })) ∧
      ∀ r, c.row = some r →
        let b := chooseBand r s
        let figure (x : Nat) : Nat := min 9999 (x + (x * r.surcharge + 999) / 1000)
        let charge := figure r.setup + figure (r.rate b).charge
        let credit := c.cin + (c.roll.map (·.value)).sum - c.consumed
        let begun : Ctx :=
          { answered with
            band := some b
            start := some now
            finish := some (now + (r.rate b).len) }
        (charge ≤ credit →
          exec .polarityReversal s = .next (callLine .connected (chargeTaken begun charge heard))) ∧
        (credit < charge →
          exec .polarityReversal s = .next (callLine .grace (graceEntered begun charge now heard)))

/-! ### The end of a call -/

/-- Each event that ends a caller's call ends it with its cause: on-hook, far-end clear, the answer
timeout, the loop timer of a seizure, the grace deadline, the maximum-duration end, 2 s without loop
(which also hands LINE_FAULT), and RELEASE, which is answered OK (R98, R99, R111, R113, R114, R118,
R119). `CallEnded` says what ending does; that the settlement is in the same step as the end is the
model's choice (log 25). The timers' commands end it at the point they run out. -/
def Sys2Proof.Clause.CallsEnd : Prop :=
  ∀ (s : State) (c : Ctx), s.powered = true → s.pfu.power = .running → starting s = false →
    s.rtu.ctx = some c → s.lnu.state.isEndable = true →
    (∃ t, exec .onHook s = .next t ∧ CallEnded .onHook c { s with lnu.offHook := false } t) ∧
    ((s.lnu.state = .connected ∨ s.lnu.state = .grace) →
      ∃ t, exec .polarityReversion s = .next t ∧
        CallEnded .farEnd c { s with lnu.reversed := false } t) ∧
    (∀ p, s.lnu.timers.answer = some p →
      ∃ t, exec .answerTimeout s = .next t ∧
        CallEnded .noAnswer c (elapse (p - s.lnu.ms) s) t) ∧
    (∀ p, s.lnu.timers.loop = some p →
      ∃ t, exec .loopTimeout s = .next t ∧
        CallEnded .seizeFailed c (elapse (p - s.lnu.ms) s) t) ∧
    (∀ p, s.lnu.timers.loss = some p → s.lnu.quiet = false →
      ∃ t, exec .loopLossTimeout s = .next t ∧ OccurrenceReached .lineFault 0 s t ∧
        CallEnded .lineLost c (elapse (p - s.lnu.ms) s) t) ∧
    (∀ p, c.phase = .grace → c.graceDeadline = some p →
      ∃ t, exec .graceDeadline s = .next t ∧
        CallEnded .creditExhausted c (elapse (p * 1000 - s.rtu.ms) s) t) ∧
    (∀ p, c.phase ≠ .ending → c.maxEnd = some p →
      ∃ t, exec .maxDurationEnd s = .next t ∧
        CallEnded .maxDuration c (elapse (p * 1000 - s.rtu.ms) s) t) ∧
    ∀ v, InService kindRelease v s → param v.params 1 ≤ 1 →
      ∃ t, exec .release s = .next t ∧ t.rqu.service = some (v.answered .ok 0 0 0) ∧
        CallEnded .released c
          { s with lnu.followOn := s.lnu.followOn || decide (param v.params 1 = 1) } t

/-- Out of RUNNING the line's events and the rating timers' expiries already reached are held in
arrival order (R105, R123); RELEASE with a bad flag is answered BAD_PARAM, and out of a call or of
RUNNING REFUSED_STATE (R118). That the bad flag is judged first, in every line and power state, is
the model's choice (log 41). -/
def Sys2Proof.Clause.EndingsHeldOrRefused : Prop :=
  ∀ s : State, s.powered = true →
    (s.pfu.power ≠ .running →
      exec .onHook s = .next { s with held := s.held ++ [.onHook] } ∧
      exec .polarityReversion s = .next { s with held := s.held ++ [.reversion] } ∧
      exec .offHook s = .next { s with held := s.held ++ [.offHook] } ∧
      exec .loopAppears s = .next { s with held := s.held ++ [.loopAppears] } ∧
      exec .loopLost s = .next { s with held := s.held ++ [.loopLost] } ∧
      ∀ c p, s.rtu.ctx = some c → p ≤ s.rtu.ms / 1000 →
        (c.phase = .grace → c.graceDeadline = some p →
          exec .graceDeadline s = .next { s with held := s.held ++ [.graceDeadline] }) ∧
        (c.phase ≠ .ending → c.maxEnd = some p →
          exec .maxDurationEnd s = .next { s with held := s.held ++ [.maxDurationEnd] })) ∧
    ∀ v, InService kindRelease v s →
      (1 < param v.params 1 →
        exec .release s = .next { s with rqu.service := some (v.answered .badParam 0 0 0) }) ∧
      (param v.params 1 ≤ 1 → (s.pfu.power ≠ .running ∨ s.lnu.state.isEndable = false) →
        exec .release s = .next { s with rqu.service := some (v.answered .refusedState 0 0 0) })

/-- The words of a call's record by their places (section 3.6, R45, R104, R158): the sequence, the number
of digits and the class, the digits, the seize stamp, the answer offset and the answered duration, the
intervals and the consumed charge, the coins credited and their value, the committed, returned, carried-in and
carried-out values, the end cause, the flags, and the CRC. -/
def Sys2Proof.Clause.CallRecordLayout : Prop :=
  ∀ (c : Ctx) (cause : EndCause) (keep : Bool) (s : State),
    let ws := callWords (endRecord c cause keep s)
    let w (i : Nat) : Word := ws.getD (i / 2) 0
    let shows (i v : Nat) : Prop :=
      v < 0x100000000 → (w i).toNat * 65536 + (w (i + 2)).toNat = v
    let value (coins : List RollCoin) : Nat := (coins.map (·.value)).sum
    let now := s.rtu.ms / 1000
    let digit (i : Nat) : Nat := (w (0x06 + i / 4 * 2)).toNat / 16 ^ (3 - i % 4) % 16
    let ending : Nat :=
      match cause with
      | .onHook => 1
      | .farEnd => 2
      | .noAnswer => 3
      | .creditExhausted => 4
      | .maxDuration => 5
      | .released => 6
      | .lineLost => 7
      | .powerLoss => 8
      | .seizeFailed => 10
    ws.length = 32 ∧ shows 0x00 c.owner.seq ∧
    (s.lnu.number.length < 256 → c.cls < 256 →
      (w 0x04).toNat = s.lnu.number.length * 256 + c.cls) ∧
    (∀ i, i < 20 →
      (∀ d, s.lnu.number[i]? = some d → d < 16 → digit i = d) ∧
      (s.lnu.number.length ≤ i → digit i = 15)) ∧
    w 0x10 = c.seizeStamp.w0 ∧ w 0x12 = c.seizeStamp.w1 ∧ w 0x14 = c.seizeStamp.w2 ∧
    (c.answerPoint = none → w 0x16 = 0xFFFF ∧ shows 0x18 0) ∧
    (∀ a, c.answerPoint = some a →
      (a - c.seizePoint < 65536 → (w 0x16).toNat = a - c.seizePoint) ∧ shows 0x18 (now - a)) ∧
    (w 0x1C).toNat = min c.intervals 65535 ∧ shows 0x1E c.consumed ∧
    (c.roll.length < 65536 → (w 0x22).toNat = c.roll.length) ∧ shows 0x24 (value c.roll) ∧
    shows 0x28 c.committed ∧
    shows 0x2C (if keep then 0 else value (c.roll.filter fun x => !x.committed)) ∧
    shows 0x30 c.cin ∧ shows 0x34 (if keep then c.cin + c.committed - c.consumed else 0) ∧
    (w 0x38).toNat / 256 = ending ∧ (w 0x38).getLsbD 0 = keep ∧ (w 0x38).getLsbD 1 = c.graceUsed ∧
    (w 0x38).getLsbD 2 = false ∧
    (w 0x38).getLsbD 3 = (decide (c.seizeStamp = ⟨0, 0, 0⟩) || s.tru.clock.isNone) ∧
    (w 0x38).getLsbD 4 = false ∧ (w 0x38).getLsbD 5 = c.emergency ∧
    (w 0x38).getLsbD 6 = false ∧ (w 0x38).getLsbD 7 = false ∧
    w 0x3A = 0 ∧ w 0x3C = 0 ∧ w 0x3E = crc (ws.take 31)

/-- What ends a call, what is held or refused instead, and the record's words. -/
def Obligations.CallEndings : Prop :=
  Clause.CallsEnd ∧ Clause.EndingsHeldOrRefused ∧ Clause.CallRecordLayout

/-! ### The line -/

/-- The hook switch outside a call (R108, R116): off-hook takes IDLE to READY with the ready timer
running and only sets the level in the other caller's states; on-hook takes READY, FOLLOW_ON and
PARKED to IDLE with the quiet count running, READY returning the pre-call coins and FOLLOW_ON also
handing its carry to EXCESS_VALUE (R102). -/
def Sys2Proof.Clause.HookOutsideCalls : Prop :=
  ∀ s : State, s.powered = true → s.pfu.power = .running → starting s = false →
    let returned (t : State) : Prop :=
      t.rtu.waiting = [] ∧
      ∀ x ∈ freeCoins ⟨s.adu.nextCall, false⟩ s,
        ⟨x.seq, .ret⟩ ∈ t.cnu.drops ∨ t.cnu.motion.map (·.dir) = some .ret
    let idle (t : State) : Prop :=
      t.lnu.state = .idle ∧ t.lnu.offHook = false ∧ t.lnu.timers.quiet = some (s.lnu.ms + 30000) ∧
      t.lnu.timers.ready = none ∧ flagOf t.rqu.flags .line = true
    (s.lnu.state = .idle →
      ∃ t, exec .offHook s = .next t ∧ OnlyChanges [.lnu, .rqu] s t ∧ t.lnu.state = .ready ∧
        t.lnu.offHook = true ∧ t.lnu.quiet = false ∧ t.lnu.timers.quiet = none ∧
        t.lnu.timers.ready = some (s.lnu.ms + s.cfl.params.readyTimeout * 1000) ∧
        flagOf t.rqu.flags .line = true) ∧
    (s.lnu.state ≠ .idle → s.lnu.state.isReport = false →
      exec .offHook s = .next { s with lnu.offHook := true }) ∧
    (s.lnu.state = .ready → ∃ t, exec .onHook s = .next t ∧ idle t ∧ returned t ∧
      t.rtu.carry = s.rtu.carry ∧ t.adu = s.adu) ∧
    (s.lnu.state = .followOn → ∃ t, exec .onHook s = .next t ∧ idle t ∧ returned t ∧
      t.rtu.carry = 0 ∧ t.adu.cache.excess = satAdd s.adu.cache.excess s.rtu.carry ∧
      t.lnu.timers.window = none) ∧
    (s.lnu.state = .parked →
      ∃ t, exec .onHook s = .next t ∧ idle t ∧ OnlyChanges [.lnu, .rqu] s t)

/-- The ready timer parks the line and returns the pre-call coins; 30 s of IDLE make the line quiet
(R108). -/
def Sys2Proof.Clause.ReadyAndQuietTimes : Prop :=
  ∀ (s : State) (p : Nat), s.powered = true → s.pfu.power = .running →
    (s.lnu.timers.ready = some p → s.lnu.state = .ready →
      ∃ t, exec .readyTimeout s = .next t ∧ t.lnu.state = .parked ∧ t.rtu.waiting = [] ∧
        t.lnu.ms = max s.lnu.ms p ∧
        ∀ x ∈ freeCoins ⟨s.adu.nextCall, false⟩ s,
          ⟨x.seq, .ret⟩ ∈ t.cnu.drops ∨ t.cnu.motion.map (·.dir) = some .ret) ∧
    (s.lnu.timers.quiet = some p → s.cfl.params.report = none →
      let u := elapse (p - s.lnu.ms) s
      exec .quietTime s =
        .next
          (withdrawClockRequest { u with lnu.quiet := true, lnu.timers.quiet := none }))

/-- The line outside a call. -/
def Obligations.HookAndQuietLine : Prop := Clause.HookOutsideCalls ∧ Clause.ReadyAndQuietTimes

/-- DIAL is judged in the order of R109, and every refusal changes nothing but the request's answer:
power state and DOWN, the form of the number, an emergency number's line state, a report call, the
line state, OUT_OF_ORDER, the analysis (R79), the call log's reserve, PAID_BARRED and the deposit
(R90). While words of the TARIFF window are left for an analysis that reads it and a party before the
TRU waits for the port, DIAL is not judged (R16; the model's choice, logs 4 and 22), and the tariff flags
are asked with the first of those words (the model's choice, log 22). A band above 3 is read as band 3 in the
deposit (the model's choice, log 32). -/
def Sys2Proof.Clause.DialRefusals : Prop :=
  ∀ (s : State) (v : Service), InService kindDial v s →
    let refused (c : ResultCode) : Prop :=
      exec .dial s = .next { s with rqu.service := some (v.answered c 0 0 0) }
    let n := param v.params 1
    let number := (List.range n).map fun i => param v.params (2 + i)
    let up : Prop := s.pfu.power = .running ∧ s.lnu.state ≠ .down
    let formed : Prop := 1 ≤ n ∧ n ≤ 20 ∧ ∀ d ∈ number, d ≤ 11
    let listed : Prop := number ∈ s.cfl.params.emergency
    let callable : Prop := s.lnu.state = .ready ∨ s.lnu.state = .followOn
    let open' : Prop := up ∧ formed ∧ ¬listed ∧ callable ∧ outOfOrder s = false
    let fresh : Prop := open' ∧ s.tru.outcome = none ∧ s.tru.analysed = 0
    let through : Prop :=
      open' ∧ s.tru.outcome = none ∧
        (s.tru.analysed ≠ 0 ∨ (s.tru.unsettled = false ∧ s.tru.valid = true))
    let carried : Prop :=
      portReaches .tru s = true ∨ s.tru.outcome.isSome = true ∨
        analysisSize number s ≤ s.tru.analysed
    (¬up → refused .refusedState) ∧
    (up → ¬formed → refused .badParam) ∧
    (up → formed → listed → s.lnu.state.isReport = false → ¬callable → s.lnu.state ≠ .parked →
      refused .refusedState) ∧
    (up → formed → listed → s.lnu.state.isReport = true → s.lnu.offHook = false →
      refused .refusedState) ∧
    (up → formed → ¬listed → s.lnu.state.isReport = true → refused .lineBusy) ∧
    (up → formed → ¬listed → s.lnu.state.isReport = false → ¬callable → refused .refusedState) ∧
    (up → formed → ¬listed → callable → outOfOrder s = true → refused .refusedState) ∧
    (fresh → s.tru.unsettled = true → refused .tariffUnsettled) ∧
    (fresh → s.tru.unsettled = false → s.tru.valid = false → refused .paidBarred) ∧
    (through → s.tru.edited = true → refused .tariffUnsettled) ∧
    (through → s.tru.edited = false → ¬carried → exec .dial s = .next s) ∧
    (∀ c, open' → carried → analyse number s = .refused c → refused c) ∧
    ∀ cls e row, open' → carried → analyse number s = .route cls e row → cls ≠ 0 →
      (248 ≤ uncollected s → refused .logFull) ∧
      (uncollected s < 248 → paidBarred s = true → refused .paidBarred) ∧
      ∀ r, uncollected s < 248 → paidBarred s = false → row = some r →
        let figure (x : Nat) : Nat := min 9999 (x + (x * r.surcharge + 999) / 1000)
        let deposit := figure r.setup + figure (r.rate (chooseBand r s)).charge
        s.rtu.carry + (s.rtu.waiting.map (·.value)).sum < deposit → refused .insufficientCredit

/-- An accepted DIAL (R110): the call takes the next call sequence, logged while there is room for
it, its context opens with the waiting roll and the carry (R91), the number is in the buffer, the
line is SEIZING, with the relay closed and the loop timer running once the clear guard allows (R107,
R111), and the request is answered OK with class, emergency mark and sequence. That the coins put in
for an unlogged call take its marked owner is the model's choice (log 26), and so is the point at
which an analysis reads the TARIFF window (logs 4 and 22). -/
def Sys2Proof.Clause.DialAccepted : Prop :=
  ∀ (s : State) (v : Service), InService kindDial v s →
    let n := param v.params 1
    let number := (List.range n).map fun i => param v.params (2 + i)
    let listed : Prop := number ∈ s.cfl.params.emergency
    let accepted (cls : Nat) (emergency : Bool) (row : Option Row) : Prop :=
      let logged : Bool := uncollected s < 256
      let guarded : Bool := s.lnu.relayOpened.any fun p => s.lnu.ms < p + 1000
      ∃ t c, exec .dial s = .next t ∧
        t.lnu.state = .seizing ∧ t.lnu.buffer = number ∧ t.lnu.number = number ∧
        t.lnu.followOn = false ∧ t.lnu.relay = (s.lnu.relay || !guarded) ∧
        t.lnu.timers.window = none ∧
        (guarded = false → t.lnu.timers.loop = some (s.lnu.ms + 1000)) ∧
        (guarded = true →
          t.lnu.timers.guard = s.lnu.relayOpened.map fun p => p + 1000) ∧
        t.rtu.ctx = some c ∧ c.owner = ⟨s.adu.nextCall, !logged⟩ ∧ c.cls = cls ∧
        c.emergency = emergency ∧ c.row = row ∧ c.phase = .dialled ∧ c.roll = s.rtu.waiting ∧
        c.cin = s.rtu.carry ∧ c.consumed = 0 ∧ t.rtu.waiting = [] ∧ t.rtu.carry = 0 ∧
        t.cnu.openCall = some c.owner ∧ t.adu.cache = s.adu.cache ∧
        t.cnu.escrow =
          (s.cnu.escrow.map fun x =>
            if logged = false ∧ x ∈ freeCoins ⟨s.adu.nextCall, false⟩ s then
              { x with owner := some ⟨s.adu.nextCall, true⟩ }
            else x) ∧
        t.adu.nextCall =
          (if logged then (s.adu.nextCall + 1) % 0x100000000 else s.adu.nextCall) ∧
        t.rqu.service =
          some
            (v.answered .ok (bytePair cls (if emergency then 1 else 0))
              (wordOf (s.adu.nextCall / 65536)) (wordOf s.adu.nextCall))
    s.pfu.power = .running → s.lnu.quiet = false → 1 ≤ n → n ≤ 20 → (∀ d ∈ number, d ≤ 11) →
    (listed → (s.lnu.state = .ready ∨ s.lnu.state = .followOn ∨ s.lnu.state = .parked) →
      accepted 0 true none) ∧
    (¬listed → (s.lnu.state = .ready ∨ s.lnu.state = .followOn) → outOfOrder s = false →
      (portReaches .tru s = true ∨ s.tru.outcome.isSome = true ∨
        analysisSize number s ≤ s.tru.analysed) →
      ∀ cls e row, analyse number s = .route cls e row →
        (cls = 0 → row = none → accepted 0 false none) ∧
        ∀ r, cls ≠ 0 → row = some r → uncollected s < 248 → paidBarred s = false →
          let figure (x : Nat) : Nat := min 9999 (x + (x * r.surcharge + 999) / 1000)
          let deposit := figure r.setup + figure (r.rate (chooseBand r s)).charge
          deposit ≤ s.rtu.carry + (s.rtu.waiting.map (·.value)).sum →
          accepted cls false (some r))

/-- The analysis of a number (R67, R79, R80): a listed emergency number needs no tariff; an
unsettled or invalid tariff refuses; the matched entry is the one of the longest prefix that the
number begins with, and its barring, lengths and class give the answer. A word which has passed into the
TARIFF window after step 3 and before the last word was read refuses; once that has been read the outcome
stands. That step 3 is taken with the first word, and how many words are read, is the model's choice (log
22). So is what an area that no check has judged gives (log 32): an entry whose prefix length is outside 1
to 8 fits no number, and a class above 31 takes the words where its row would stand. -/
def Sys2Proof.Clause.NumberAnalysed : Prop :=
  ∀ (number : List Nat) (s : State),
    let w (i : Nat) : Nat := (s.mem.word (baseOf .tariff s + 2 * i)).toNat
    let len (i : Nat) : Nat := w (6 + 5 * i) / 256
    let digit (i k : Nat) : Nat := w (4 + 5 * i + k / 4) / 16 ^ (3 - k % 4) % 16
    let fits (i : Nat) : Prop :=
      i < w 1 ∧ 1 ≤ len i ∧ len i ≤ 8 ∧
        ∀ k, k < len i → digit i k ≤ 9 ∧ number[k]? = some (digit i k)
    let row (c : Nat) : Row :=
      let r := 1284 + 10 * c
      ⟨w (r + 1), ⟨w (r + 2), w (r + 3)⟩, ⟨w (r + 4), w (r + 5)⟩, ⟨w (r + 6), w (r + 7)⟩,
        ⟨w (r + 8), w (r + 9)⟩, w 0⟩
    let plain : Prop := number ∉ s.cfl.params.emergency
    let first : Prop := plain ∧ s.tru.outcome = none ∧ s.tru.analysed = 0
    let settled : Prop :=
      plain ∧ s.tru.outcome = none ∧
        (s.tru.analysed ≠ 0 ∨ (s.tru.unsettled = false ∧ s.tru.valid = true))
    let read : Prop := settled ∧ s.tru.edited = false ∧ w 1 ≤ 256
    (¬plain → analyse number s = .route 0 true none) ∧
    (∀ a, plain → s.tru.outcome = some a → analyse number s = a) ∧
    (first → s.tru.unsettled = true → analyse number s = .refused .tariffUnsettled) ∧
    (first → s.tru.unsettled = false → s.tru.valid = false →
      analyse number s = .refused .paidBarred) ∧
    (settled → s.tru.edited = true → analyse number s = .refused .tariffUnsettled) ∧
    (read →
      analysisSize number s =
        4 + 5 * w 1 + match analyse number s with | .route _ _ (some _) => 10 | _ => 0) ∧
    (read → (∀ i, ¬fits i) → analyse number s = .refused .noRoute) ∧
    ∀ i, read → fits i → (∀ j, fits j → j ≠ i → len j < len i) →
      let cls := w (6 + 5 * i) % 256
      let barred : Prop := w (7 + 5 * i) = 1
      let least := w (8 + 5 * i) / 256
      let most := w (8 + 5 * i) % 256
      (barred → analyse number s = .refused .barred) ∧
      (¬barred → number.length < least → analyse number s = .refused .tooShort) ∧
      (¬barred → least ≤ number.length → most < number.length →
        analyse number s = .refused .tooLong) ∧
      (¬barred → least ≤ number.length → number.length ≤ most →
        analyse number s = .route cls false (if cls = 0 then none else some (row cls)))

/-- DIAL in the order of R109, with the analysis of its number. -/
def Obligations.DialJudged : Prop :=
  Clause.NumberAnalysed ∧ Clause.DialRefusals ∧ Clause.DialAccepted

/-- The steps of a seizure (R107, R111, R119): the clear guard's end closes the relay and starts the
loop timer, loop current that appears while it runs starts the dial delay, and the dial delay's end
starts tone sending; the loop's loss starts 2 s over a call whose loop had appeared. -/
def Sys2Proof.Clause.SeizureSteps : Prop :=
  ∀ s : State, s.powered = true → s.pfu.power = .running →
    (∀ p, s.lnu.timers.guard = some p →
      let u := elapse (p - s.lnu.ms) s
      exec .clearGuardEnd s =
        .next
          { u with
            lnu.relay := true
            lnu.timers.guard := none
            lnu.timers.loop := some (u.lnu.ms + 1000) }) ∧
    (s.lnu.timers.loop.isSome = true →
      exec .loopAppears s =
        .next
          { s with
            lnu.loop := true
            lnu.loopSeen := true
            lnu.timers.loss := none
            lnu.timers.loop := none
            lnu.timers.dialDelay := some (s.lnu.ms + s.cfl.params.dialDelay * 1000) }) ∧
    (s.lnu.timers.loop = none →
      exec .loopAppears s = .next { s with lnu.loop := true, lnu.timers.loss := none }) ∧
    (∀ p, s.lnu.timers.dialDelay = some p → s.lnu.state = .seizing → s.lnu.buffer ≠ [] →
      ∃ t, exec .dialDelayEnd s = .next t ∧ t.lnu.state = .dialling ∧
        t.lnu.timers.dialDelay = none ∧ t.lnu.buffer = s.lnu.buffer ∧
        t.lnu.tone =
          some ⟨true, max s.lnu.ms p + s.cfl.params.toneOn, s.cfl.params.toneOff⟩) ∧
    (s.lnu.state.watchesLoop = true → s.lnu.relay = true → s.lnu.loopSeen = true →
      exec .loopLost s =
        .next { s with lnu.loop := false, lnu.timers.loss := some (s.lnu.ms + 2000) }) ∧
    ((s.lnu.state.watchesLoop = false ∨ s.lnu.relay = false ∨ s.lnu.loopSeen = false) →
      exec .loopLost s = .next { s with lnu.loop := false })

/-- A digit's tone is followed by its silence, and the digit then leaves the buffer; the next one
starts with the times then in force, and after the last DIALLING becomes AWAIT_ANSWER, answered at
once over reversed polarity and else with the answer timer running (R112, R113). -/
def Sys2Proof.Clause.TonesSent : Prop :=
  ∀ (s : State) (x : ToneStage), s.powered = true → s.pfu.power = .running →
    s.lnu.tone = some x →
    let now := max s.lnu.ms x.finish
    (x.on = true →
      ∃ t, exec .toneOnEnd s = .next t ∧
        t.lnu = { s.lnu with ms := now, tone := some ⟨false, now + x.offTime, x.offTime⟩ } ∧
        t.mem = s.mem ∧ t.rqu = s.rqu) ∧
    (∀ d e ds, x.on = false → s.lnu.buffer = d :: e :: ds → s.lnu.state ≠ .reportSending →
      ∃ t, exec .toneOffEnd s = .next t ∧
        t.lnu =
          { s.lnu with
            ms := now
            buffer := e :: ds
            tone := some ⟨true, now + s.cfl.params.toneOn, s.cfl.params.toneOff⟩ }) ∧
    (∀ d, x.on = false → s.lnu.buffer = [d] → s.lnu.state = .dialling → s.lnu.reversed = false →
      ∃ t, exec .toneOffEnd s = .next t ∧ t.lnu.state = .awaitAnswer ∧ t.lnu.buffer = [] ∧
        t.lnu.tone = none ∧
        t.lnu.timers.answer = some (now + s.cfl.params.answerTimeout * 1000) ∧
        t.rtu.ctx = s.rtu.ctx) ∧
    (∀ d, x.on = false → s.lnu.buffer = [d] → s.lnu.state = .dialling → s.lnu.reversed = true →
      ∃ t, exec .toneOffEnd s = .next t ∧ t.lnu.buffer = [] ∧ t.lnu.timers.answer = none ∧
        (t.lnu.state = .connected ∨ t.lnu.state = .grace)) ∧
    (∀ d, x.on = false → s.lnu.buffer = [d] → (s.lnu.state = .connected ∨ s.lnu.state = .grace) →
      ∃ t, exec .toneOffEnd s = .next t ∧
        t.lnu = { s.lnu with ms := now, buffer := [], tone := none })

/-- From the closing of the relay to the last tone. -/
def Obligations.NumberDialled : Prop := Clause.SeizureSteps ∧ Clause.TonesSent

/-- CLEARING ends in FOLLOW_ON with its window when follow-on was kept and the handset is off-hook,
in IDLE with the carry released when it is on-hook, and else in PARKED or IDLE by the hook switch
(R115, R116); the window's end parks the line and releases the carry (R102, R116). -/
def Obligations.ClearingAndFollowOnEnd : Prop :=
  ∀ (s : State) (p : Nat), s.powered = true → s.pfu.power = .running →
    let released (t : State) : Prop :=
      t.rtu.carry = 0 ∧ t.rtu.waiting = [] ∧
      t.adu.cache.excess = satAdd s.adu.cache.excess s.rtu.carry
    (s.lnu.timers.clearing = some p → s.lnu.state = .clearing →
      ∃ t, exec .clearingEnd s = .next t ∧ t.lnu.keep = false ∧ t.lnu.timers.clearing = none ∧
        (s.lnu.keep = true → s.lnu.offHook = true →
          t.lnu.state = .followOn ∧
          t.lnu.timers.window = some (max s.lnu.ms p + s.cfl.params.followWindow * 1000) ∧
          t.rtu.carry = s.rtu.carry ∧ t.rtu.waiting = s.rtu.waiting) ∧
        (s.lnu.keep = true → s.lnu.offHook = false → t.lnu.state = .idle ∧ released t) ∧
        (s.lnu.keep = false → s.lnu.offHook = true → t.lnu.state = .parked ∧ t.adu = s.adu) ∧
        (s.lnu.keep = false → s.lnu.offHook = false → t.lnu.state = .idle ∧ t.adu = s.adu)) ∧
    (s.lnu.timers.window = some p → s.lnu.state = .followOn →
      ∃ t, exec .followOnWindowEnd s = .next t ∧ t.lnu.state = .parked ∧
        t.lnu.timers.window = none ∧ released t)

/-- SEND_DIGITS is judged in the order of R117 and appends its digits behind those still being sent;
the request changes neither the rating context nor the call log. -/
def Sys2Proof.Clause.SendDigitsJudged : Prop :=
  ∀ (s : State) (v : Service), InService kindSendDigits v s →
    let n := param v.params 1
    let ds := (List.range n).map fun i => param v.params (2 + i)
    let answered (c : ResultCode) : State := { s with rqu.service := some (v.answered c 0 0 0) }
    let sends : Prop :=
      s.pfu.power = .running ∧ (s.lnu.state = .connected ∨ s.lnu.state = .grace)
    let formed : Prop := 1 ≤ n ∧ n ≤ 16 ∧ ∀ d ∈ ds, d ≤ 11
    (¬sends → exec .sendDigits s = .next (answered .refusedState)) ∧
    (sends → ¬formed → exec .sendDigits s = .next (answered .badParam)) ∧
    (sends → formed → 36 < s.lnu.buffer.length + n →
      exec .sendDigits s = .next (answered .refusedState)) ∧
    (sends → formed → s.lnu.buffer.length + n ≤ 36 →
      exec .sendDigits s =
        .next
          { answered .ok with
            lnu :=
              { s.lnu with
                buffer := s.lnu.buffer ++ ds
                tone :=
                  some
                    (s.lnu.tone.getD
                      ⟨true, s.lnu.ms + s.cfl.params.toneOn, s.cfl.params.toneOff⟩) } })

/-- FOLLOW_ON sets the follow-on mark of a call from AWAIT_ANSWER on and is refused in every other
line state and out of RUNNING (R118). -/
def Sys2Proof.Clause.FollowOnJudged : Prop :=
  ∀ (s : State) (v : Service), InService kindFollowOn v s →
    let armable : Prop :=
      s.pfu.power = .running ∧
      (s.lnu.state = .awaitAnswer ∨ s.lnu.state = .connected ∨ s.lnu.state = .grace)
    (armable →
      exec .followOn s =
        .next { s with lnu.followOn := true, rqu.service := some (v.answered .ok 0 0 0) }) ∧
    (¬armable →
      exec .followOn s = .next { s with rqu.service := some (v.answered .refusedState 0 0 0) })

/-- The requests of a call in progress that do not end it. -/
def Obligations.DigitsAndFollowOn : Prop := Clause.SendDigitsJudged ∧ Clause.FollowOnJudged

/-- The line voltage (R106, R119): a change restarts the watch of its line state; absent for 5 s,
with no call open, it hands LINE_FAULT and the line is DOWN, leaving READY with its pre-call coins
returned and FOLLOW_ON with its coins returned and its carry released (R102); present again for 5 s in
DOWN, the fault ends, and the line is READY or IDLE by the hook switch. Through STARTING the verdict waits
(R28), and out of RUNNING the change is held (R123). That a level which already stands changes nothing is
the model's choice (log 13). -/
def Obligations.LineVoltageWatched : Prop :=
  ∀ (s : State) (b : Bool) (p : Nat), s.powered = true →
    let returned (t : State) : Prop :=
      t.rtu.waiting = [] ∧
      ∀ x ∈ freeCoins ⟨s.adu.nextCall, false⟩ s,
        ⟨x.seq, .ret⟩ ∈ t.cnu.drops ∨ t.cnu.motion.map (·.dir) = some .ret
    (s.pfu.power ≠ .running →
      exec (.lineVoltageChange b) s = .next { s with held := s.held ++ [.voltage b] }) ∧
    (s.pfu.power = .running → s.lnu.voltage = b → exec (.lineVoltageChange b) s = .next s) ∧
    (s.pfu.power = .running → s.lnu.voltage ≠ b →
      exec (.lineVoltageChange b) s =
        .next
          { s with
            lnu.voltage := b
            lnu.timers.absent :=
              if s.lnu.state.watchesVoltage = true ∧ b = false then some (s.lnu.ms + 5000) else none
            lnu.timers.present :=
              if s.lnu.state = .down ∧ b = true then some (s.lnu.ms + 5000) else none }) ∧
    (s.pfu.power = .running → s.lnu.timers.absent = some p → starting s = true →
      exec .voltageAbsentTimeout s = .next (elapse (p - s.lnu.ms) s)) ∧
    (s.pfu.power = .running → s.lnu.timers.absent = some p → starting s = false →
      (s.lnu.quiet = true → s.lnu.state = .idle) →
      ∃ t, exec .voltageAbsentTimeout s = .next t ∧ t.lnu.state = .down ∧ t.lnu.relay = false ∧
        OccurrenceReached .lineFault 0 s t ∧
        (s.lnu.state = .ready → returned t ∧ t.rtu.carry = s.rtu.carry ∧
          t.adu.cache = s.adu.cache) ∧
        (s.lnu.state = .followOn → returned t ∧ t.rtu.carry = 0 ∧
          t.adu.cache.excess = satAdd s.adu.cache.excess s.rtu.carry) ∧
        (s.lnu.state ≠ .ready → s.lnu.state ≠ .followOn →
          t.rtu.waiting = s.rtu.waiting ∧ t.rtu.carry = s.rtu.carry ∧
          t.cnu.drops = s.cnu.drops ∧ t.cnu.escrow = s.cnu.escrow)) ∧
    (s.pfu.power = .running → s.lnu.timers.present = some p →
      ∃ t, exec .voltageRestored s = .next t ∧
        t.lnu.state = (if s.lnu.offHook then .ready else .idle) ∧
        (s.inu.rebuilt = true → latched t.inu.latches .lineFault = false))

/-! ### Report calls -/

/-- A start of a report call is judged over a quiet line (R120, R132, R139 to R141): at the quiet
notice, at the due point of a PENDING record or of the time request, and at an accepted TEST_REPORT;
at a record that is due when it is made, `OccurrenceMade` says so. A time request of origin CLOCK is
withdrawn first if the clock is valid. A start is wanted out of config fault, with no report call open, a
REPORT descriptor, and a due record or a due time request. That an accepted TEST_REPORT gives a riding
request a due point of now is the model's choice (log 55). The call carries at most 4 PENDING records, the
due ones first and then the others, each group gravest first and oldest first within a severity; they become
REPORTING, a standing time request rides, and the centre's number is dialled. Over a line that is not quiet
nothing is judged. -/
def Sys2Proof.Clause.ReportStarts : Prop :=
  ∀ s : State, s.powered = true → s.pfu.power = .running →
    (∀ p, s.lnu.timers.quiet = some p → s.lnu.state = .idle →
      ∃ t, exec .quietTime s = .next t ∧
        StartJudged { elapse (p - s.lnu.ms) s with lnu.quiet := true, lnu.timers.quiet := none } t) ∧
    (pendingRecords s = [] → exec .recordDuePoint s = .next s) ∧
    (∀ r ∈ pendingRecords s, (∀ x ∈ pendingRecords s, r.due ≤ x.due) →
      (s.lnu.quiet = true → s.lnu.state = .idle) →
      let u := elapse (r.due * 1000 - s.inu.ms) s
      ∃ t, exec .recordDuePoint s = .next t ∧ (s.lnu.quiet = false → t = u) ∧
        (s.lnu.quiet = true → StartJudged u t)) ∧
    (s.rpu.timeRequest = none → exec .timeRequestDue s = .next s) ∧
    (∀ x, s.rpu.timeRequest = some x → (s.lnu.quiet = true → s.lnu.state = .idle) →
      let u := elapse (x.due * 1000 - s.rpu.ms) s
      ∃ t, exec .timeRequestDue s = .next t ∧ (s.lnu.quiet = false → t = u) ∧
        (s.lnu.quiet = true → StartJudged u t)) ∧
    ∀ v, InService kindTestReport v s → s.acu.mode = .service →
      s.cfl.params.report.isSome = true → (s.lnu.quiet = true → s.lnu.state = .idle) →
      let attempts := (s.rpu.timeRequest.map (·.attempts)).getD 0
      let u : State :=
        { s with
          rpu.timeRequest := some ⟨.test, attempts, s.rpu.ms / 1000⟩
          rqu.service := some (v.answered .ok 0 0 0) }
      ∃ t, exec .testReport s = .next t ∧ (s.lnu.quiet = false → t = u) ∧
        (s.lnu.quiet = true → StartJudged u t)

/-- TEST_REPORT is refused outside SERVICE, and in it out of RUNNING or with no REPORT descriptor in
force (R139). -/
def Sys2Proof.Clause.TestReportRefusals : Prop :=
  ∀ (s : State) (v : Service), InService kindTestReport v s →
    (s.acu.mode ≠ .service →
      exec .testReport s = .next { s with rqu.service := some (v.answered .refusedMode 0 0 0) }) ∧
    (s.acu.mode = .service → (s.pfu.power ≠ .running ∨ s.cfl.params.report = none) →
      exec .testReport s = .next { s with rqu.service := some (v.answered .refusedState 0 0 0) })

/-- The start of a report call. -/
def Obligations.ReportCallStarts : Prop := Clause.ReportStarts ∧ Clause.TestReportRefusals

/-- The message of a report call (R120, R142, R143): at the send delay's end it is composed under
the next number: `*`, the terminal id, the number, the count of the carried records and 18 digits of
each, the check digit, and `#`. Its first 36 tones are handed at once and the others as tones leave
the buffer; after the last one the line awaits the acknowledgement with the 10 s timer running. -/
def Sys2Proof.Clause.MessageSent : Prop :=
  ∀ (s : State) (c : ReportCall), s.powered = true → s.pfu.power = .running →
    s.rpu.call = some c →
    let digits (k v : Nat) : List Nat := (List.range k).map fun i => v / 10 ^ (k - 1 - i) % 10
    let fields (r : IncRec) : List Nat :=
      digits 2 r.kind.code ++ [r.kind.severity] ++ digits 3 r.count ++
      digits 2 (r.first.w1.toNat / 256) ++ digits 2 (r.first.w1.toNat % 256) ++
      digits 2 (r.first.w2.toNat / 256) ++ digits 6 (min (r.snapshot.getD 0) 999999)
    (∀ p cfg (rs : List IncRec), s.lnu.timers.sendDelay = some p → c.number = none →
      s.cfl.params.report = some cfg → c.carried.map (·.seq) = rs.map (·.seq) →
      (∀ r ∈ rs,
        (s.inu.records.find? fun x => x.seq = r.seq && x.state = .reporting) = some r) →
      let n := s.rpu.counter
      let body := cfg.terminal ++ digits 4 n ++ [rs.length] ++ rs.flatMap fields
      let message := [10] ++ body ++ [(10 - body.sum % 10) % 10, 11]
      ∃ t, exec .reportSendDelayEnd s = .next t ∧ t.lnu.state = .reportSending ∧
        t.lnu.timers.sendDelay = none ∧ t.rpu.counter = (n + 1) % 10000 ∧
        t.lnu.buffer = message.take 36 ∧
        t.rpu.call =
          some { c with number := some n, message := message, toHand := message.drop 36 } ∧
        t.lnu.tone =
          some ⟨true, max s.lnu.ms p + s.cfl.params.toneOn, s.cfl.params.toneOff⟩) ∧
    (∀ x d ds y ys, s.lnu.tone = some x → x.on = false → s.lnu.state = .reportSending →
      s.lnu.buffer = d :: ds → c.toHand = y :: ys →
      ∃ t, exec .toneOffEnd s = .next t ∧ t.lnu.state = .reportSending ∧
        t.lnu.buffer = ds ++ [y] ∧ t.rpu.call = some { c with toHand := ys }) ∧
    (∀ d x, s.lnu.tone = some x → x.on = false → s.lnu.state = .reportSending →
      s.lnu.buffer = [d] → c.toHand = [] →
      ∃ t, exec .toneOffEnd s = .next t ∧ t.lnu.state = .reportAwaitAck ∧ t.lnu.buffer = [] ∧
        t.rpu.firstTone = some (max s.rpu.ms (s.rpu.ms + (x.finish - s.lnu.ms)) + 10000))

/-- A centre that does not answer ends the report. A caller's off-hook makes a report that is not
yet sending, and carries nothing of severity 3, yield the line, its record PENDING again as it was,
and is else remembered; an on-hook clears the memory (R120, R121, R132, R149). An accepted emergency
DIAL makes any report in flight yield, the call waiting for the clear guard (R107, R122); at ack stage
AFTER_A the report is then accepted, without time digits (R149). Of the records it is said where the call
does not take the uncollected count across the reserve (R157). -/
def Sys2Proof.Clause.ReportYieldsOrEnds : Prop :=
  ∀ (s : State) (c : ReportCall), s.powered = true → s.pfu.power = .running →
    starting s = false → s.rpu.call = some c → s.lnu.quiet = false →
    let returned (t : State) : Prop :=
      t.rpu.call = none ∧ t.rpu.timeRequest = s.rpu.timeRequest ∧
      t.rpu.counter = s.rpu.counter ∧ flagOf t.rqu.flags .report = true ∧
      ∀ r, c.carried = [⟨r.seq, r.kind.severity⟩] → s.inu.records = [r] → r.state = .reporting →
        (248 ≤ uncollected s ↔ 248 ≤ uncollected t) →
        t.inu.records = [{ r with state := .pending }]
    (∀ p, s.lnu.timers.reportAnswer = some p → s.lnu.state = .reportAwaitAnswer →
      c.stage = .none →
      ∃ t, exec .reportAnswerTimeout s = .next t ∧ t.lnu.state = .reportClearing ∧
        t.lnu.relay = false ∧ t.rpu.call = none ∧ flagOf t.rqu.flags .report = true ∧
        t.lnu.timers.reportAnswer = none ∧
        t.lnu.timers.reportClearing = some (max s.lnu.ms p + 1000)) ∧
    ((∀ x ∈ c.carried, x.severity ≠ 3) → c.stage = .none →
      (s.lnu.state = .reportSeizing ∨ s.lnu.state = .reportDialling ∨
        s.lnu.state = .reportAwaitAnswer) →
      ∃ t, exec .offHook s = .next t ∧ t.lnu.state = .ready ∧ t.lnu.relay = false ∧
        t.lnu.buffer = [] ∧ t.lnu.offHook = true ∧ returned t) ∧
    (((∃ x ∈ c.carried, x.severity = 3) ∧ s.lnu.state.isReport = true ∨
        s.lnu.state = .reportSending ∨ s.lnu.state = .reportAwaitAck) →
      exec .offHook s = .next { s with lnu.offHook := true, lnu.offHookMemory := true }) ∧
    (s.lnu.state.isReport = true →
      exec .onHook s = .next { s with lnu.offHook := false, lnu.offHookMemory := false }) ∧
    ∀ v, InService kindDial v s →
      let n := param v.params 1
      let number := (List.range n).map fun i => param v.params (2 + i)
      1 ≤ n → n ≤ 20 → (∀ d ∈ number, d ≤ 11) → number ∈ s.cfl.params.emergency →
      s.lnu.state.isReport = true → s.lnu.state ≠ .reportClearing → s.lnu.offHook = true →
      ∃ t x, exec .dial s = .next t ∧ t.lnu.state = .seizing ∧ t.lnu.buffer = number ∧
        t.lnu.offHookMemory = false ∧ (c.stage = .none → returned t) ∧
        (c.stage = .afterA → ReportOver t ∧
          (Carries c s → (248 ≤ uncollected s ↔ 248 ≤ uncollected t) →
            ReportAccepted c s t ∧ t.tru.clock = s.tru.clock)) ∧
        t.rtu.ctx = some x ∧ x.emergency = true ∧ x.cls = 0 ∧ t.rpu.firstTone = none ∧
        (s.lnu.relay = true →
          t.lnu.relay = false ∧ t.lnu.timers.guard = some (s.lnu.ms + 1000))

/-- The line of a report call up to the centre's answer (R112, R119, R120): the dial delay's end starts the
sending of the centre's number, and its last tone's end awaits the answer for 45 s, or finds it given over
reversed polarity. The line's own ends of a report call (R114, R119, R120, R147, R150): no loop in 1 s of
the seizure, the centre's clear while the message is sent or its acknowledgement awaited, and 2 s without
loop, which also hands LINE_FAULT and takes the line DOWN, its off-hook memory cleared (the model's choice,
log 23). In the other report states a reversion changes the polarity alone. -/
def Sys2Proof.Clause.ReportDialsOrFails : Prop :=
  ∀ (s : State) (c : ReportCall), s.powered = true → s.pfu.power = .running →
    s.rpu.call = some c → s.lnu.quiet = false →
    let clearing (now : Nat) (t : State) : Prop :=
      t.lnu.state = .reportClearing ∧ t.lnu.relay = false ∧ t.lnu.buffer = [] ∧
      t.lnu.tone = none ∧ t.lnu.timers.reportClearing = some (now + 1000)
    (∀ p, s.lnu.timers.dialDelay = some p → s.lnu.state = .reportSeizing → s.lnu.buffer ≠ [] →
      ∃ t, exec .dialDelayEnd s = .next t ∧ t.lnu.state = .reportDialling ∧
        t.lnu.timers.dialDelay = none ∧ t.lnu.buffer = s.lnu.buffer ∧ t.rpu.call = some c ∧
        t.lnu.tone =
          some ⟨true, max s.lnu.ms p + s.cfl.params.toneOn, s.cfl.params.toneOff⟩) ∧
    (∀ d x, s.lnu.tone = some x → x.on = false → s.lnu.buffer = [d] →
      s.lnu.state = .reportDialling →
      let now := max s.lnu.ms x.finish
      ∃ t, exec .toneOffEnd s = .next t ∧ t.lnu.state = .reportAwaitAnswer ∧ t.lnu.buffer = [] ∧
        t.lnu.tone = none ∧ t.rpu.call = some c ∧
        (s.lnu.reversed = false → t.lnu.timers.reportAnswer = some (now + 45000)) ∧
        (s.lnu.reversed = true → t.lnu.timers.reportAnswer = none ∧
          t.lnu.timers.sendDelay = some (now + 1000))) ∧
    (∀ p, s.lnu.timers.loop = some p → s.lnu.state = .reportSeizing →
      ∃ t, exec .loopTimeout s = .next t ∧ clearing (max s.lnu.ms p) t ∧
        t.lnu.timers.loop = none ∧ LineEndedReport c s t) ∧
    ((s.lnu.state = .reportSending ∨ s.lnu.state = .reportAwaitAck) →
      ∃ t, exec .polarityReversion s = .next t ∧ t.lnu.reversed = false ∧ clearing s.lnu.ms t ∧
        LineEndedReport c s t) ∧
    ((s.lnu.state = .reportSeizing ∨ s.lnu.state = .reportDialling ∨
        s.lnu.state = .reportAwaitAnswer) →
      exec .polarityReversion s = .next { s with lnu.reversed := false }) ∧
    ∀ p, s.lnu.timers.loss = some p → s.lnu.state.isReport = true →
      let u := occur .lineFault 0 { elapse (p - s.lnu.ms) s with lnu.timers.loss := none }
      ∃ t, exec .loopLossTimeout s = .next t ∧ OccurrenceReached .lineFault 0 s t ∧
        t.lnu.state = .down ∧ t.lnu.relay = false ∧ t.lnu.buffer = [] ∧
        t.lnu.offHookMemory = false ∧ LineEndedReport c u t

/-- REPORT_CLEARING stands after the outcome, with no report call open (R120, R121, R146): an
off-hook is remembered and an on-hook clears the memory, and its end takes the line to READY or IDLE
by the memory. An emergency DIAL is accepted in it and makes nothing yield (R122); the records stay
as they are where the call does not take the uncollected count across the reserve (R157). -/
def Sys2Proof.Clause.ReportClears : Prop :=
  ∀ s : State, s.powered = true → s.pfu.power = .running → starting s = false →
    s.rpu.call = none → s.lnu.quiet = false → s.lnu.state = .reportClearing →
    exec .offHook s = .next { s with lnu.offHook := true, lnu.offHookMemory := true } ∧
    exec .onHook s = .next { s with lnu.offHook := false, lnu.offHookMemory := false } ∧
    (∀ p, s.lnu.timers.reportClearing = some p →
      ∃ t, exec .reportClearingEnd s = .next t ∧ t.lnu.offHookMemory = false ∧
        t.lnu.timers.reportClearing = none ∧
        (s.lnu.offHookMemory = true → t.lnu.state = .ready ∧
          t.lnu.timers.ready = some (max s.lnu.ms p + s.cfl.params.readyTimeout * 1000)) ∧
        (s.lnu.offHookMemory = false → t.lnu.state = .idle ∧
          t.lnu.timers.quiet = some (max s.lnu.ms p + 30000))) ∧
    ∀ v, InService kindDial v s →
      let n := param v.params 1
      let number := (List.range n).map fun i => param v.params (2 + i)
      1 ≤ n → n ≤ 20 → (∀ d ∈ number, d ≤ 11) → number ∈ s.cfl.params.emergency →
      s.lnu.offHook = true →
      ∃ t, exec .dial s = .next t ∧ t.lnu.state = .seizing ∧ t.lnu.buffer = number ∧
        t.lnu.timers.reportClearing = none ∧ t.lnu.offHookMemory = false ∧
        t.rpu = s.rpu ∧
        ((248 ≤ uncollected s ↔ 248 ≤ uncollected t) → t.inu.records = s.inu.records)

/-- A report call from its message to the end of its clearing. -/
def Obligations.ReportCallOnTheLine : Prop :=
  Clause.MessageSent ∧ Clause.ReportDialsOrFails ∧ Clause.ReportYieldsOrEnds ∧ Clause.ReportClears

/-- The centre's tones in REPORT_AWAIT_ACK (R106, R144, R145): A stops the first-tone timer and opens
the time digits, each of which restarts the 1 s timer; a first B sends the same message again; in any
other line state a tone is discarded, and out of RUNNING it is held (R123). -/
def Sys2Proof.Clause.AcknowledgementTones : Prop :=
  ∀ (s : State) (c : ReportCall), s.powered = true → s.rpu.call = some c →
    (∀ x, s.pfu.power ≠ .running →
      exec (.toneReceived x) s = .next { s with held := s.held ++ [.tone x] }) ∧
    (∀ x, s.pfu.power = .running → s.lnu.state ≠ .reportAwaitAck →
      exec (.toneReceived x) s = .next s) ∧
    (s.pfu.power = .running → s.lnu.state = .reportAwaitAck → c.stage = .none →
      exec (.toneReceived .a) s =
        .next
          { s with
            rpu.call := some { c with stage := .afterA }
            rpu.firstTone := none
            rpu.interTone := some (s.rpu.ms + 1000) } ∧
      (c.resend = false → c.number.isSome = true →
        ∃ t, exec (.toneReceived .b) s = .next t ∧ t.lnu.state = .reportSending ∧
          t.lnu.buffer = c.message.take 36 ∧ t.rpu.firstTone = none ∧
          t.rpu.counter = s.rpu.counter ∧
          t.rpu.call = some { c with resend := true, toHand := c.message.drop 36 })) ∧
    ∀ d, s.pfu.power = .running → s.lnu.state = .reportAwaitAck → c.stage = .afterA →
      c.digits.length < 12 →
      exec (.toneReceived (.digit d)) s =
        .next
          { s with
            rpu.call := some { c with digits := c.digits ++ [d.val] }
            rpu.interTone := some (s.rpu.ms + 1000) }

/-- The outcomes of a report call (R132, R144 to R148), whatever it carries. Failed, by the
first-tone timer, a second B or a tone that is neither A nor B, each carried record is PENDING again
with an attempt more and due after the backoff for its attempts, and so is a riding time request.
Accepted, by `#` or any other closing tone or by silence after A, each is REPORTED, and a riding
time request is withdrawn, or stands anew while the clock is invalid; twelve digits closed by `#`
set the clock if they are in range, and else nothing sets it (R84). Either way REPORT is raised, the
call is over and the line is clearing. -/
def Sys2Proof.Clause.ReportOutcomes : Prop :=
  ∀ (s : State) (c : ReportCall), s.powered = true → s.pfu.power = .running →
    s.lnu.state = .reportAwaitAck → s.lnu.quiet = false → s.rpu.call = some c → Carries c s →
    let ended (t : State) : Prop :=
      t.lnu.state = .reportClearing ∧ t.lnu.relay = false ∧
      t.lnu.timers.reportClearing = some (t.lnu.ms + 1000)
    let failed (t : State) : Prop := ended t ∧ ReportFailed c s t
    let accepted (t : State) : Prop := ended t ∧ ReportAccepted c s t
    let untimed (t : State) : Prop := accepted t ∧ t.tru.clock = s.tru.clock
    let later (d : Nat) (t : State) : Prop :=
      t.inu.ms = s.inu.ms + d ∧ t.rpu.ms = s.rpu.ms + d ∧ t.lnu.ms = s.lnu.ms + d
    (c.stage = .none →
      (∀ p, s.rpu.firstTone = some p →
        ∃ t, exec .firstToneTimeout s = .next t ∧ failed t ∧ later (p - s.rpu.ms) t) ∧
      ∀ x : Tone, x ≠ .a → (x = .b → c.resend = true) →
        ∃ t, exec (.toneReceived x) s = .next t ∧ failed t ∧ later 0 t) ∧
    (c.stage = .afterA →
      (∀ p, s.rpu.interTone = some p →
        ∃ t, exec .interToneTimeout s = .next t ∧ untimed t ∧ later (p - s.rpu.ms) t) ∧
      (∀ x : Tone, (∀ d, x = .digit d → 12 ≤ c.digits.length) →
        (x = .hash → c.digits.length ≠ 12) →
        ∃ t, exec (.toneReceived x) s = .next t ∧ untimed t ∧ later 0 t) ∧
      (c.digits.length = 12 →
        let two (i : Nat) : Nat := c.digits.getD (2 * i) 0 * 10 + c.digits.getD (2 * i + 1) 0
        let days : Nat :=
          if two 1 = 2 then (if two 0 % 4 = 0 then 29 else 28)
          else if two 1 = 4 ∨ two 1 = 6 ∨ two 1 = 9 ∨ two 1 = 11 then 30
          else 31
        let good : Prop :=
          two 0 ≤ 99 ∧ 1 ≤ two 1 ∧ two 1 ≤ 12 ∧ 1 ≤ two 2 ∧ two 2 ≤ days ∧ two 3 ≤ 23 ∧
            two 4 ≤ 59 ∧ two 5 ≤ 59
        ∃ t, exec (.toneReceived .hash) s = .next t ∧ accepted t ∧ later 0 t ∧
          (good →
            t.tru =
              { s.tru with
                clock := some ⟨two 0, two 1, two 2, two 3, two 4, two 5⟩, phase := 0 } ∧
            flagOf t.rqu.flags .clock = true) ∧
          (¬good → t.tru = s.tru)))

/-- A record that returns to PENDING absorbs the PENDING record of its kind that came while it was
carried, which is rewritten as REPORTED (R132). -/
def Sys2Proof.Clause.ReturnedRecordAbsorbs : Prop :=
  ∀ (s : State) (c : ReportCall) (r x : IncRec), s.powered = true → s.pfu.power = .running →
    s.lnu.state = .reportAwaitAck → s.lnu.quiet = false → s.rpu.call = some c →
    c.stage = .none → c.carried = [⟨r.seq, r.kind.severity⟩] → s.inu.records = [r, x] →
    r.state = .reporting → x.state = .pending → x.kind = r.kind → x.slot ≠ r.slot →
    ∃ t back, exec (.toneReceived .hash) s = .next t ∧
      t.inu.records = [back, { x with state := .reported }] ∧ back.seq = r.seq ∧
      back.state = .pending ∧ back.count = min 255 (r.count + x.count) ∧ back.last = x.last ∧
      back.first = r.first ∧ back.attempts = min 255 (r.attempts + 1)

/-- The acknowledgement of a report call and its outcomes. -/
def Obligations.ReportAcknowledged : Prop :=
  Clause.AcknowledgementTones ∧ Clause.ReportOutcomes ∧ Clause.ReturnedRecordAbsorbs

/-! ### Incidents -/

/-- An occurrence of any kind, as a block hands it (R125, R129 to R131). The INU takes it in RUNNING once
it has rebuilt its index, and else holds it (R136, R137). With no PENDING record of the kind it makes one
in the lowest free slot, or in that of the oldest REPORTED record when none is free, due after the hold
of its severity, with a snapshot of CASHBOX_VALUE for kinds 1, 2, 7, 8 and 9; else it adds to that
record. The record is handed to the writer in place of one that waits for its slot (R155); the latch of
a latching kind is set, CONDITION raised if that changes it, and INCIDENT is raised. A record made due,
which is one of severity 3 or of a hold of 0, is judged for a start over a quiet line (R140). -/
def Sys2Proof.Clause.OccurrenceMade : Prop :=
  ∀ (k : IncKind) (detail : Nat) (s : State),
    let active : Prop := s.pfu.power = .running ∧ s.inu.rebuilt = true
    let hold : Nat :=
      match k with
      | .cashDoorOpen | .cashboxRemoved | .unlockLockout | .configFault => 0
      | .coinJam | .cashboxNearFull | .controllerFault => s.cfl.params.hold1
      | _ => s.cfl.params.hold2
    let latching : Bool :=
      match k with
      | .shock | .coinPath | .tamperAccess | .controllerFault => false
      | _ => true
    let stamp := Stamp.ofClock s.tru.clock
    let made (i : Nat) : IncRec :=
      { slot := i
        seq := s.inu.counter
        kind := k
        detail := detail
        count := 1
        state := .pending
        attempts := 0
        cleared := false
        first := stamp
        last := stamp
        nextAttempt := Stamp.ofClock (s.tru.clock.map (·.addMinutes hold))
        snapshot :=
          match k with
          | .cashDoorOpen | .cashboxRemoved | .escrowFault | .cashboxNearFull | .cashboxFull =>
            some s.adu.cache.boxValue
          | _ => none
        due := s.inu.ms / 1000 + hold * 60 }
    let words (r : IncRec) : List Word :=
      withCrc
        ([wordOf r.seq, bytePair k.code k.severity, bytePair r.detail r.count,
            bytePair r.attempts 0] ++
          r.first.words ++ r.last.words ++ r.nextAttempt.words ++
          match r.snapshot with | some v => words32 v | none => [0xFFFF, 0xFFFF])
    let handed (r : IncRec) : List Job :=
      if windowOf .incidentLog s = none then s.adu.jobs
      else if s.adu.jobs.any (Job.isRecordOf .incident r.slot) = true then
        s.adu.jobs.map fun j =>
          if j.isRecordOf .incident r.slot then .record .incident r.slot (words r) else j
      else s.adu.jobs ++ [.record .incident r.slot (words r)]
    let bit := BitVec.twoPow 17 (k.code - 1)
    let changes : Prop := latching = true ∧ s.inu.latches &&& bit = 0
    let taken (r : IncRec) (records : List IncRec) (counter : Nat) : State :=
      { s with
        inu.records := records
        inu.counter := counter
        inu.latches := if latching = true then s.inu.latches ||| bit else s.inu.latches
        adu.jobs := handed r
        rqu.flags :=
          setFlag (if changes then setFlag s.rqu.flags .condition else s.rqu.flags) .incident }
    let makes (i : Nat) (others : List IncRec) : Prop :=
      let u := taken (made i) (others ++ [made i]) ((s.inu.counter + 1) % 65536)
      ((hold ≠ 0 ∨ s.lnu.quiet = false) → occur k detail s = u) ∧
      (hold = 0 → s.lnu.quiet = true → s.lnu.state = .idle → StartJudged u (occur k detail s))
    (¬active → occur k detail s = { s with held := s.held ++ [.occurrence k detail] }) ∧
    (∀ i, active → pendingOf k s = none → i < 64 → (∀ x ∈ s.inu.records, x.slot ≠ i) →
      (∀ j, j < i → ∃ x ∈ s.inu.records, x.slot = j) → makes i s.inu.records) ∧
    (∀ before x after, active → pendingOf k s = none →
      (∀ i, i < 64 → ∃ y ∈ s.inu.records, y.slot = i) → s.inu.records = before ++ x :: after →
      x.state = .reported → (∀ y ∈ before, y.state ≠ .reported) →
      makes x.slot (s.inu.records.filter fun y => y.slot ≠ x.slot)) ∧
    ∀ r, active → pendingOf k s = some r →
      let merged : IncRec := { r with count := min 255 (r.count + 1), last := stamp, cleared := false }
      occur k detail s =
        taken merged (s.inu.records.map fun x => if x.slot = r.slot then merged else x) s.inu.counter

/-- An occurrence the INU takes (R125, R130, R131), seen at the cord's break: with no PENDING record
of the kind it makes one in the lowest free slot, or in that of the oldest REPORTED record when none
is free, due after the hold of its severity; else it adds to that record's count; its latch is set.
The cord made whole clears the latch and marks the kind's latest record (R126, R131). That a level
already known changes nothing is the model's choice (log 13). -/
def Sys2Proof.Clause.CordWatched : Prop :=
  ∀ s : State, s.powered = true → s.pfu.power = .running → s.inu.rebuilt = true →
    s.lnu.quiet = false →
    let stamp := Stamp.ofClock s.tru.clock
    let made (i : Nat) : IncRec :=
      { slot := i
        seq := s.inu.counter
        kind := .cordCut
        detail := 0
        count := 1
        state := .pending
        attempts := 0
        cleared := false
        first := stamp
        last := stamp
        nextAttempt := Stamp.ofClock (s.tru.clock.map (·.addMinutes s.cfl.params.hold2))
        snapshot := none
        due := s.inu.ms / 1000 + s.cfl.params.hold2 * 60 }
    (exec (.cordContinuityChange s.inu.cordWhole) s = .next s) ∧
    (s.inu.cordWhole = true →
      ∃ t, exec (.cordContinuityChange false) s = .next t ∧
        OnlyChanges [.rqu, .inu, .adu] s t ∧ t.inu.cordWhole = false ∧
        t.inu.latches = s.inu.latches ||| 4 ∧ t.adu.cache = s.adu.cache ∧
        flagOf t.rqu.flags .incident = true ∧
        (s.inu.latches.getLsbD 2 = false → flagOf t.rqu.flags .condition = true) ∧
        (∀ i, pendingOf .cordCut s = none → i < 64 → (∀ x ∈ s.inu.records, x.slot ≠ i) →
          (∀ j, j < i → ∃ x ∈ s.inu.records, x.slot = j) →
          t.inu.counter = (s.inu.counter + 1) % 65536 ∧
          t.inu.records = s.inu.records ++ [made i]) ∧
        (∀ before x after, pendingOf .cordCut s = none →
          (∀ i, i < 64 → ∃ y ∈ s.inu.records, y.slot = i) →
          s.inu.records = before ++ x :: after → x.state = .reported →
          (∀ y ∈ before, y.state ≠ .reported) →
          t.inu.counter = (s.inu.counter + 1) % 65536 ∧
          t.inu.records = (s.inu.records.filter fun y => y.slot ≠ x.slot) ++ [made x.slot]) ∧
        (∀ r, pendingOf .cordCut s = some r →
          t.inu.counter = s.inu.counter ∧
          t.inu.records =
            s.inu.records.map fun x =>
              if x.slot = r.slot then
                { r with count := min 255 (r.count + 1), last := stamp, cleared := false }
              else x)) ∧
    (s.inu.cordWhole = false →
      (s.inu.latches.getLsbD 2 = false →
        exec (.cordContinuityChange true) s = .next { s with inu.cordWhole := true }) ∧
      (s.inu.latches.getLsbD 2 = true →
        ∃ t, exec (.cordContinuityChange true) s = .next t ∧ t.inu.cordWhole = true ∧
          t.inu.latches = s.inu.latches &&& ~~~4 ∧ flagOf t.rqu.flags .condition = true ∧
          ∀ r, latestOf .cordCut s = some r →
            t.inu.records =
              s.inu.records.map fun x =>
                if x.slot = r.slot then { r with cleared := true } else x))

/-- The taking of an occurrence, and the cord watch that hands and clears one. -/
def Obligations.OccurrenceTaken : Prop := Clause.OccurrenceMade ∧ Clause.CordWatched

/-- An event of any of the five attributes, as a block hands it (R127). The INU counts it in RUNNING once it
has rebuilt its index, and else holds it (R136, R137): total and level grow by 1, each saturating, and the
tally cache is handed the values. An armed attribute whose threshold is not 0 and which its level reaches
disarms and raises the occurrence of its kind and detail (R124); any other counts and raises nothing. -/
def Sys2Proof.Clause.AttributeCounted : Prop :=
  ∀ (a : AttrId) (s : State),
    let v := s.inu.attrs.get a
    let threshold := (s.cfl.params.attrs.get a).threshold
    let counted : Attr := { v with total := min 65535 (v.total + 1), level := min 255 (v.level + 1) }
    let active : Prop := s.pfu.power = .running ∧ s.inu.rebuilt = true
    let crosses : Prop := v.armed = true ∧ threshold ≠ 0 ∧ threshold ≤ counted.level
    let raised : IncKind × Nat :=
      match a with
      | .shockPulses => (.shock, 0)
      | .coinRejects => (.coinPath, 1)
      | .coinPathErrors => (.coinPath, 2)
      | .blockedWrites => (.tamperAccess, 0)
      | .nvRetries => (.auditSuspect, 4)
    let put (x : Attr) : State :=
      let cached := s.adu.cache.attrs.set a ⟨x.total, x.level, x.armed⟩
      { s with
        inu.attrs := s.inu.attrs.set a x
        adu.cache.attrs := cached
        adu.dirty := s.adu.dirty || decide (cached ≠ s.adu.cache.attrs) }
    (¬active → attrEvent a s = { s with held := s.held ++ [.attrEvent a] }) ∧
    (active → ¬crosses → attrEvent a s = put counted) ∧
    (active → crosses →
      attrEvent a s = occur raised.1 raised.2 (put { counted with armed := false }))

/-- A shock pulse counts 200 ms or more after the last one counted, in every power state (R126, R136; log
33). A decay step takes 1 from the level, arms the attribute at 0, hands the tally cache the values and
starts the next period (R128); out of RUNNING none is made (R136). -/
def Sys2Proof.Clause.ShockAndDecay : Prop :=
  ∀ s : State, s.powered = true →
    let due : Prop := ∀ p, s.inu.lastShock = some p → p + 200 ≤ s.inu.edgeMs
    (¬due → exec .shockPulse s = .next s) ∧
    (due →
      exec .shockPulse s =
        .next (attrEvent .shockPulses { s with inu.lastShock := some s.inu.edgeMs })) ∧
    (∀ a, (s.pfu.power ≠ .running ∨ (s.inu.attrs.get a).timer = none) →
      exec (.decayExpiry a) s = .next s) ∧
    ∀ a p, s.pfu.power = .running → (s.inu.attrs.get a).timer = some p →
      let e := elapse (p - s.inu.ms) s
      let x := s.inu.attrs.get a
      let period := (s.cfl.params.attrs.get a).decay
      let armed : Bool := x.armed || decide (x.level ≤ 1)
      let cached := s.adu.cache.attrs.set a ⟨x.total, x.level - 1, armed⟩
      exec (.decayExpiry a) s =
        .next
          { e with
            inu.attrs :=
              s.inu.attrs.set a
                { total := x.total
                  level := x.level - 1
                  armed := armed
                  timer := if period = 0 then none else some (e.inu.ms + period * 60000) }
            adu.cache.attrs := cached
            adu.dirty := s.adu.dirty || decide (cached ≠ s.adu.cache.attrs) }

/-- The attributes' events and their decay. -/
def Obligations.AttributesCountAndDecay : Prop := Clause.AttributeCounted ∧ Clause.ShockAndDecay

/-- REPORT_FAULT refuses a code above 15 with BAD_PARAM, and else hands CONTROLLER_FAULT with the
code as its detail and answers OK, in every access mode, line state and power state (R133, R136). -/
def Obligations.FaultReported : Prop :=
  ∀ (s : State) (v : Service), InService kindReportFault v s →
    let code := param v.params 1
    (15 < code →
      exec .reportFault s = .next { s with rqu.service := some (v.answered .badParam 0 0 0) }) ∧
    (code ≤ 15 →
      ∃ t, exec .reportFault s = .next t ∧ t.rqu.service = some (v.answered .ok 0 0 0) ∧
        OccurrenceReached .controllerFault code s t ∧ t.adu.cache = s.adu.cache ∧ t.cnu = s.cnu ∧
        (s.inu.rebuilt = true → s.pfu.power = .running →
          (pendingOf .controllerFault s = none → ∀ i, slotForNew s.inu.records = some i →
            ∃ r ∈ t.inu.records, r.slot = i ∧ r.kind = .controllerFault ∧ r.kind.severity = 1 ∧
              r.detail = code ∧ r.count = 1) ∧
          ∀ r, pendingOf .controllerFault s = some r →
            ∃ x ∈ t.inu.records, x.slot = r.slot ∧ x.detail = r.detail ∧
              x.count = min 255 (r.count + 1)))

/-- CLEAR_INCIDENT is judged in the order of R134. An accepted one is answered OK. Of the latches
its code names, all four for 0, each that is set is cleared and its kind's cause looked at again: an
open door and an absent box make a new occurrence, which sets the latch again, and ESCROW_FAULT
unfreezes the drop queue and retries a stuck coin (R60); each that is not set stays clear, with no
notice to the CNU. That a coin stuck on a COLLECT drop is retried over an absent box too is the model's
choice (log 44). -/
def Obligations.IncidentCleared : Prop :=
  ∀ (s : State) (v : Service), InService kindClearIncident v s →
    let code := param v.params 1
    let named := s.acu.mode = .service ∧ s.pfu.power = .running
    let answered (c : ResultCode) : State := { s with rqu.service := some (v.answered c 0 0 0) }
    let was (k : IncKind) : Bool := latched s.inu.latches k
    let names (k : IncKind) : Prop := code = 0 ∨ code = k.code
    (s.acu.mode ≠ .service → exec .clearIncident s = .next (answered .refusedMode)) ∧
    (s.acu.mode = .service → s.pfu.power ≠ .running →
      exec .clearIncident s = .next (answered .refusedState)) ∧
    (named → code ∉ [0, 1, 2, 7, 15] → exec .clearIncident s = .next (answered .badParam)) ∧
    (named → code ∈ [0, 1, 2, 7, 15] →
      (names .cashDoorOpen → was .cashDoorOpen = false) →
      (names .cashboxRemoved → was .cashboxRemoved = false) →
      (names .escrowFault → was .escrowFault = false) →
      (names .auditSuspect → was .auditSuspect = false) →
      exec .clearIncident s = .next (answered .ok)) ∧
    (named → s.inu.rebuilt = true → code ∈ [0, 1, 2, 7, 15] →
      ∃ t, exec .clearIncident s = .next t ∧ t.rqu.service = some (v.answered .ok 0 0 0) ∧
        let now (k : IncKind) : Bool := latched t.inu.latches k
        (names .cashDoorOpen →
          now .cashDoorOpen = (was .cashDoorOpen && s.inu.doorOpen) ∧
          (was .cashDoorOpen = true → flagOf t.rqu.flags .condition = true ∧
            (s.inu.doorOpen = true → flagOf t.rqu.flags .incident = true))) ∧
        (names .cashboxRemoved →
          now .cashboxRemoved = (was .cashboxRemoved && !s.inu.boxPresent) ∧
          (was .cashboxRemoved = true → flagOf t.rqu.flags .condition = true ∧
            (s.inu.boxPresent = false → flagOf t.rqu.flags .incident = true))) ∧
        (names .escrowFault → now .escrowFault = false) ∧
        (names .auditSuspect → now .auditSuspect = false) ∧
        (∀ k, ¬names k → now k = was k) ∧
        ((¬names .escrowFault ∨ was .escrowFault = false) → t.cnu = s.cnu) ∧
        ∀ d, names .escrowFault → was .escrowFault = true → s.cnu.stuck = some d →
          t.cnu =
            { s.cnu with
              frozen := false
              stuck := none
              motion := some ⟨d, s.cnu.ms + 500⟩
              diverter := d })

/-- CLEAR_ATTRIBUTES is accepted in SERVICE in RUNNING alone; it sets total and level of the five
attributes to 0 and arms them, in the INU and in the cache, asks for a write-back, and changes no
record, no latch and no decay timer (R135). -/
def Obligations.AttributesCleared : Prop :=
  ∀ (s : State) (v : Service), InService kindClearAttributes v s →
    let answered (c : ResultCode) : State := { s with rqu.service := some (v.answered c 0 0 0) }
    (s.acu.mode ≠ .service → exec .clearAttributes s = .next (answered .refusedMode)) ∧
    (s.acu.mode = .service → s.pfu.power ≠ .running →
      exec .clearAttributes s = .next (answered .refusedState)) ∧
    (s.acu.mode = .service → s.pfu.power = .running →
      ∃ t, exec .clearAttributes s = .next t ∧ OnlyChanges [.rqu, .inu, .adu] s t ∧
        t.rqu = { s.rqu with service := some (v.answered .ok 0 0 0) } ∧
        t.inu = { s.inu with attrs := t.inu.attrs } ∧
        (∀ a, t.inu.attrs.get a =
            { s.inu.attrs.get a with total := 0, level := 0, armed := true } ∧
          t.adu.cache.attrs.get a = ⟨0, 0, true⟩) ∧
        t.adu.cache = { s.adu.cache with attrs := t.adu.cache.attrs } ∧
        (t.adu.dirty = true → s.adu.run.isNone = true →
          t.adu.jobs.any Job.isWriteBack = true))

/-! ### Audit -/

/-- The writer takes its jobs in order (R155), none out of RUNNING (R165): a record goes to its
slot's place or the slot's spare (R162); a write-back clears the dirty flag, computes its check
word, puts it in the cache and writes the 49 words from the TALLY window's base (R154). -/
def Sys2Proof.Clause.WriterTakesJob : Prop :=
  ∀ (s : State) (j : Job) (rest : List Job), s.powered = true → s.adu.run = none →
    s.adu.jobs = j :: rest →
    (s.pfu.power ≠ .running → exec .writerJobStart s = .next s) ∧
    (s.pfu.power = .running →
      (∀ log slot ws, j = .record log slot ws →
        exec .writerJobStart s =
          .next
            { s with
              adu.jobs := rest
              adu.run :=
                some ⟨j, .home, placed (recordAddr log slot s) ws, .write, 0, 0, false⟩ }) ∧
      (∀ f d w, j = .writeBack f d → windowOf .tally s = some w →
        let check := crc (tallyWords s.adu.cache)
        exec .writerJobStart s =
          .next
            { s with
              adu.jobs := rest
              adu.check := check
              adu.dirty := false
              adu.run :=
                some
                  ⟨j, .home, placed w.base (tallyWords s.adu.cache ++ [check]), .write, 0, 0,
                    false⟩ }) ∧
      ∀ w, j = .checkWord w →
        exec .writerJobStart s =
          .next
            { s with
              adu.jobs := rest
              adu.run := some ⟨j, .home, [(checkWordAddr s, w)], .write, 0, 0, false⟩ })

/-- A verified write (R161), the job's last word too: a word that reads back as written is done with; a
mismatch is written again, counted on NV_RETRIES, up to twice; a word of a write-back or of a check word
that still mismatches has failed and its job goes on (R154, R74), and a record's moves to the lowest FREE
spare, or is written in place once more when none is left or the slot is remapped already (R162, R163).
In that last writing a word that still mismatches is left, and the next is written. A spare that fails
while the record is written to it is marked BAD and its entry written as BAD; one whose entry fails is
marked BAD in the copy, and the job goes on to the next FREE spare (R162). Out of RUNNING no word is
begun, and one that has begun goes on (R165); a word not yet carried waits for the port (R16). How a
record's last word ends its job stands in `RecordJobEnds`. The model's choices: the cell holds the word
read back (log 19), the words of a BAD entry (log 30), and a read-back that stands for the words not
yet carried (log 4). -/
def Sys2Proof.Clause.WordVerified : Prop :=
  ∀ (s : State) (r : Run) (a : Nat) (w : Word) (rest : List (Nat × Word)) (read : Word),
    s.powered = true → s.adu.run = some r → r.todo = (a, w) :: rest →
    let stored := s.mem.store a read .both
    let next : Run := { r with todo := rest, stage := .write, tries := 0, begun := true }
    let isRecord : Prop := ∃ log slot ws, r.job = .record log slot ws
    let again (todo : List (Nat × Word)) (phase : RunPhase) : Run :=
      { r with todo := todo, phase := phase, stage := .write, tries := 0, begun := true }
    let reached : Prop :=
      (s.pfu.power = .running ∨ r.stage ≠ .write ∨ r.tries ≠ 0) ∧
        (r.stage = .compare ∨ portReaches .adu s = true)
    (¬reached → exec (.nvReadbackDone read) s = .next s) ∧
    (reached → read = w → (rest ≠ [] ∨ ¬isRecord) →
      exec (.nvReadbackDone read) s = .next { s with mem := stored, adu.run := some next }) ∧
    (reached → read ≠ w → r.tries < 2 →
      exec (.nvReadbackDone read) s =
        .next
          (attrEvent .nvRetries
            { s with
              mem := stored
              adu.run := some { r with stage := .write, tries := r.tries + 1, begun := true } })) ∧
    (reached → read ≠ w → 2 ≤ r.tries → ¬isRecord →
      exec (.nvReadbackDone read) s =
        .next { s with mem := stored, adu.run := some { next with failed := r.failed + 1 } }) ∧
    (∀ log slot ws, reached → read ≠ w → 2 ≤ r.tries → r.job = .record log slot ws →
      r.phase = .home →
      let final := again (placed (recordAddr log slot s) (unverified log ws)) .final
      (∀ j, mappedSpare log slot s = none →
        (s.adu.remap.findIdx? fun e => e = .free) = some j →
        exec (.nvReadbackDone read) s =
          .next
            { s with
              mem := stored
              adu.run := some (again (placed (spareAddr j s) ws) (.spare j)) }) ∧
      (((s.adu.remap.findIdx? fun e => e = .free) = none ∨
          (mappedSpare log slot s).isSome = true) →
        exec (.nvReadbackDone read) s =
          .next { s with mem := stored, adu.run := some final })) ∧
    ∀ log slot ws j, reached → read ≠ w → 2 ≤ r.tries → r.job = .record log slot ws →
      let remap := s.adu.remap.set j .bad
      let final := again (placed (recordAddr log slot { s with adu.remap := remap })
        (unverified log ws)) .final
      (r.phase = .spare j →
        exec (.nvReadbackDone read) s =
          .next
            { s with
              mem := stored
              adu.remap := remap
              adu.run :=
                some
                  (again
                    (placed (baseOf .spare s + 8 * j) (withCrc [2, wordOf log.code, wordOf slot]))
                    (.entryBad j)) }) ∧
      (∀ i, r.phase = .entry j → (remap.findIdx? fun e => e = .free) = some i →
        exec (.nvReadbackDone read) s =
          .next
            { s with
              mem := stored
              adu.remap := remap
              adu.run := some (again (placed (spareAddr i s) ws) (.spare i)) }) ∧
      (r.phase = .entry j → (remap.findIdx? fun e => e = .free) = none →
        exec (.nvReadbackDone read) s =
          .next { s with mem := stored, adu.remap := remap, adu.run := some final }) ∧
      ((r.phase = .entryBad j ∨ r.phase = .final) → rest ≠ [] →
        exec (.nvReadbackDone read) s = .next { s with mem := stored, adu.run := some next })

/-- A record whose last word verifies ends (R162, R163): in its place its sequence counts as
written; in a spare the spare's entry is written next as MAPPED, and after the entry the copy shows
the spare; after a BAD entry, written or not, the record goes to the next FREE spare, or in place
when none is left; after the writing in place that gives up on verifying, its last word verified or
not, AUDIT_SUSPECT is handed. That the cell holds the word read back is the model's choice (log 19). -/
def Sys2Proof.Clause.RecordJobEnds : Prop :=
  ∀ (s : State) (r : Run) (a : Nat) (w : Word) (log : LogId) (slot : Nat) (ws : List Word),
    s.powered = true → s.adu.run = some r → r.todo = [(a, w)] → r.job = .record log slot ws →
    (s.pfu.power = .running ∨ r.stage ≠ .write ∨ r.tries ≠ 0) →
    let seq := value32 (ws.getD 0 0) (ws.getD 1 0)
    let greatest := if log = .call then max s.adu.greatest seq else s.adu.greatest
    let stored := s.mem.store a w .both
    let again (todo : List (Nat × Word)) (phase : RunPhase) : Run :=
      { r with todo := todo, phase := phase, stage := .write, tries := 0, begun := true }
    (r.stage = .compare ∨ portReaches .adu s = true) →
    (r.phase = .home →
      exec (.nvReadbackDone w) s =
        .next { s with mem := stored, adu.run := none, adu.greatest := greatest }) ∧
    (∀ j, r.phase = .spare j →
      exec (.nvReadbackDone w) s =
        .next
          { s with
            mem := stored
            adu.run :=
              some
                (again
                  (placed (baseOf .spare s + 8 * j) (withCrc [1, wordOf log.code, wordOf slot]))
                  (.entry j)) }) ∧
    (∀ j, r.phase = .entry j →
      exec (.nvReadbackDone w) s =
        .next
          { s with
            mem := stored
            adu.run := none
            adu.greatest := greatest
            adu.remap := s.adu.remap.set j (.mapped log slot) }) ∧
    (∀ j read, r.phase = .entryBad j → (read = w ∨ 2 ≤ r.tries) →
      (∀ i, (s.adu.remap.findIdx? fun e => e = .free) = some i →
        exec (.nvReadbackDone read) s =
          .next
            { s with
              mem := s.mem.store a read .both
              adu.run := some (again (placed (spareAddr i s) ws) (.spare i)) }) ∧
      ((s.adu.remap.findIdx? fun e => e = .free) = none →
        exec (.nvReadbackDone read) s =
          .next
            { s with
              mem := s.mem.store a read .both
              adu.run :=
                some (again (placed (recordAddr log slot s) (unverified log ws)) .final) })) ∧
    ∀ read, r.phase = .final → (read = w ∨ 2 ≤ r.tries) →
      ∃ t, exec (.nvReadbackDone read) s = .next t ∧ t.adu.run = none ∧
        t.adu.greatest = greatest ∧ t.mem = s.mem.store a read .both ∧
        OccurrenceReached .auditSuspect 3 s t

/-- The ADU's writer: its jobs and its verified writes, and the CRC that its check word and its records
carry (R71). -/
def Obligations.WriterWorks : Prop :=
  Clause.WriterTakesJob ∧ Clause.WordVerified ∧ Clause.RecordJobEnds ∧ Clause.CrcComputed

/-- A write-back's end (R154 to R156): its words are in memory; a FLUSH that waits for it is
answered OK with its failed words, and one answered DEFERRED brings TALLY and clears the
flush-pending mark; if the cache has been dirtied meanwhile the next write-back is queued. Words
left to write wait for RUNNING (R165) and for the port (R16); that they then take at once is the
model's choice (logs 4 and 19). -/
def Sys2Proof.Clause.WriteBackEnded : Prop :=
  ∀ (s : State) (r : Run) (f d : Bool), s.powered = true → s.adu.run = some r →
    r.job = .writeBack f d → starting s = false → s.pfu.step5 = .idle →
    let ends : Prop := (s.pfu.power = .running ∧ portReaches .adu s = true) ∨ r.todo = []
    (¬ends → exec .writeBackDone s = .next s) ∧
    (ends → ∃ t, exec .writeBackDone s = .next t ∧ OnlyChanges [.mem, .rqu, .adu] s t ∧
      t.mem = s.mem.storeAll r.todo ∧ t.adu.run = none ∧ t.adu.cache = s.adu.cache ∧
      (∀ v, f = true → s.rqu.service = some v → v.phase = .held → v.kind.toNat = kindFlush →
        t.rqu.service = some (v.answered .ok (wordOf r.failed) 0 0)) ∧
      (f = false → t.rqu.service = s.rqu.service) ∧
      (d = true → t.adu.flushPending = false ∧ flagOf t.rqu.flags .tally = true) ∧
      (d = false → t.adu.flushPending = s.adu.flushPending ∧ t.rqu.flags = s.rqu.flags) ∧
      (s.adu.dirty = true → t.adu.jobs.any Job.isWriteBack = true) ∧
      (s.adu.dirty = false → t.adu.jobs = s.adu.jobs))

/-- The write-back that step 5 of the start-up waits for. On the settle path its end goes on to the
invalidation of the context, and on the lost-context path it ends STARTING (R177, R178), the line taking its
state from voltage and hook (R28). Out of RUNNING step 5 waits (R31). That the words left are written in one
step once the port comes to the ADU is the model's choice (log 4). -/
def Sys2Proof.Clause.Step5WriteBackEnded : Prop :=
  ∀ (s : State) (r : Run) (f d : Bool), s.powered = true → s.adu.run = some r →
    r.job = .writeBack f d → starting s = true →
    (s.pfu.power ≠ .running → exec .writeBackDone s = .next s) ∧
    (s.pfu.power = .running → (portReaches .adu s = true ∨ r.todo = []) →
      (s.pfu.step5 = .writeBack false →
        ∃ t, exec .writeBackDone s = .next t ∧ OnlyChanges [.mem, .rqu, .adu, .pfu] s t ∧
          t.mem = s.mem.storeAll r.todo ∧ t.adu.run = none ∧ t.adu.cache = s.adu.cache ∧
          t.pfu = { s.pfu with step5 := .invalidate .write }) ∧
      (s.pfu.step5 = .writeBack true → s.held = [] → s.inu.rebuilt = true → s.lnu.quiet = false →
        ∃ t, exec .writeBackDone s = .next t ∧ starting t = false ∧
          t.mem = s.mem.storeAll r.todo ∧ t.adu.run = none ∧ t.adu.cache = s.adu.cache ∧
          t.pfu = { s.pfu with step5 := .idle } ∧
          t.lnu.state =
            (if s.lnu.timers.absent.any (fun p => p ≤ s.lnu.ms) then .down
              else if s.lnu.offHook then .ready else s.lnu.state)) ∧
      ((∀ lost, s.pfu.step5 ≠ .writeBack lost) →
        ∃ t, exec .writeBackDone s = .next t ∧ OnlyChanges [.mem, .rqu, .adu] s t ∧
          t.mem = s.mem.storeAll r.todo ∧ t.adu.run = none))

/-- The end of a write-back, of one that step 5 of the start-up waits for too. -/
def Obligations.WriteBackEnds : Prop := Clause.WriteBackEnded ∧ Clause.Step5WriteBackEnded

/-- FLUSH (R156): refused out of RUNNING; DEFERRED, with the flush-pending mark set, while drops are
outstanding and the drop queue is not frozen, and whenever the mark is set already; else a
write-back is queued, or the waiting one taken, and the request is answered at its end. That a running
clearance or sweep counts as a drop outstanding is the model's choice (log 31). -/
def Sys2Proof.Clause.FlushJudged : Prop :=
  ∀ (s : State) (v : Service), InService kindFlush v s →
    let drops : Prop :=
      s.cnu.motion.isSome = true ∨ s.cnu.clearance.isSome = true ∨ s.cnu.drops ≠ []
    (s.pfu.power ≠ .running →
      exec .flush s = .next { s with rqu.service := some (v.answered .refusedState 0 0 0) }) ∧
    (s.pfu.power = .running → (drops ∧ s.cnu.frozen = false ∨ s.adu.flushPending = true) →
      exec .flush s =
        .next
          { s with
            adu.flushPending := true
            rqu.service := some (v.answered .deferred 0 0 0) }) ∧
    (s.pfu.power = .running → (¬drops ∨ s.cnu.frozen = true) → s.adu.flushPending = false →
      (s.adu.jobs.any Job.isWriteBack = false →
        exec .flush s =
          .next
            { s with
              adu.jobs := s.adu.jobs ++ [.writeBack true false]
              rqu.service := some v.accepted }) ∧
      ∀ before f d after, s.adu.jobs = before ++ .writeBack f d :: after →
        before.any Job.isWriteBack = false →
        exec .flush s =
          .next
            { s with
              adu.jobs := before ++ .writeBack true d :: after
              rqu.service := some v.accepted })

/-- COLLECT_LOG (R159): refused out of RUNNING, BAD_PARAM below LOG_COLLECTED_THROUGH or beyond the
last record, OK with no change at LOG_COLLECTED_THROUGH itself, and else LOG_COLLECTED_THROUGH takes
the sequence, which a write-back that waits or is running will write (R154, R155); a count that falls below
the reserve clears LOG_FULL (R157). -/
def Sys2Proof.Clause.LogCollected : Prop :=
  ∀ (s : State) (v : Service), InService kindCollectLog v s →
    let seq := param v.params 1 * 65536 + param v.params 2
    let through := s.adu.cache.collectedThrough
    let last := max s.adu.greatest through
    let answered (c : ResultCode) : State := { s with rqu.service := some (v.answered c 0 0 0) }
    (s.pfu.power ≠ .running → exec .collectLog s = .next (answered .refusedState)) ∧
    (s.pfu.power = .running → (seq < through ∨ last < seq) →
      exec .collectLog s = .next (answered .badParam)) ∧
    (s.pfu.power = .running → seq = through → exec .collectLog s = .next (answered .ok)) ∧
    (s.pfu.power = .running → through < seq → seq ≤ last →
      ∃ t, exec .collectLog s = .next t ∧
        t.adu.cache = { s.adu.cache with collectedThrough := seq } ∧ t.adu.dirty = true ∧
        (writeBackWaiting t = true ∨ writeBackRunning t = true) ∧
        t.rqu.service = some (v.answered .ok 0 0 0) ∧ t.adu.nextCall = s.adu.nextCall ∧
        t.cnu = s.cnu ∧ t.rtu = s.rtu ∧
        (s.inu.rebuilt = true → 248 ≤ uncollected s → uncollected t < 248 →
          latched t.inu.latches .logFull = false))

/-- FLUSH and COLLECT_LOG. -/
def Obligations.AuditRequestsJudged : Prop := Clause.FlushJudged ∧ Clause.LogCollected

/-! ### Access and power -/

/-- SERVICE_UNLOCK is judged in the order of R168; the code opens SERVICE with the counter at 0 and
the lapse timer running (R171), and a wrong one is counted and the fifth locks the terminal out. -/
def Obligations.ServiceUnlockJudged : Prop :=
  ∀ (s : State) (v : Service), InService kindServiceUnlock v s →
    let n := param v.params 1
    let ds := (List.range n).map fun i => param v.params (2 + i)
    let answered (c : ResultCode) : State := { s with rqu.service := some (v.answered c 0 0 0) }
    let judged : Prop := s.acu.mode = .normal ∧ s.pfu.power = .running ∧ s.acu.keyOn = true
    let formed : Prop := 4 ≤ n ∧ n ≤ 8 ∧ ∀ d ∈ ds, d ≤ 9
    let opened : Prop :=
      exec .serviceUnlock s =
        .next
          { s with
            acu :=
              { s.acu with
                mode := .service
                attempts := 0
                lapse :=
                  if s.cfl.params.lapse = 0 then none
                  else some (s.acu.ms + s.cfl.params.lapse * 60000) }
            rqu :=
              { s.rqu with
                flags := setFlag s.rqu.flags .mode
                service := some (v.answered .ok 0 0 0) } }
    (s.acu.mode = .lockout → exec .serviceUnlock s = .next (answered .lockedOut)) ∧
    ((s.acu.mode = .frozen ∨ s.acu.mode = .service) →
      exec .serviceUnlock s = .next (answered .refusedMode)) ∧
    (s.acu.mode = .normal → (s.pfu.power ≠ .running ∨ s.acu.keyOn = false) →
      exec .serviceUnlock s = .next (answered .refusedState)) ∧
    (judged → (s.cfl.fault.isSome = true ∨ s.cfl.params.code = none) → opened) ∧
    ∀ code, judged → s.cfl.fault = none → s.cfl.params.code = some code →
      (¬formed → exec .serviceUnlock s = .next (answered .badParam)) ∧
      (formed → ds = code → opened) ∧
      (formed → ds ≠ code → s.acu.attempts + 1 ≠ 5 →
        exec .serviceUnlock s =
          .next
            { s with
              acu.attempts := s.acu.attempts + 1
              rqu.service := some (v.answered .wrongCode (wordOf (s.acu.attempts + 1)) 0 0) }) ∧
      (formed → ds ≠ code → s.acu.attempts = 4 →
        ∃ t, exec .serviceUnlock s = .next t ∧
          t.acu = { s.acu with mode := .lockout, attempts := 5 } ∧
          t.rqu.service = some (v.answered .wrongCode 5 0 0) ∧ flagOf t.rqu.flags .mode = true ∧
          OccurrenceReached .unlockLockout 0 s t)

/-- FREEZE (R169): any mode but NORMAL gives REFUSED_MODE, and NORMAL out of RUNNING REFUSED_STATE;
accepted, the mode becomes FROZEN, MODE is raised, the result is OK, and counter and lapse timer are
unchanged. In FROZEN SERVICE_UNLOCK is refused and no attempt is counted, and a controller reset in
RUNNING ends it (R172). Out of RUNNING the mode does not change (R172); that the ACU holds the reset
is the model's choice (log 17). -/
def Obligations.FreezeJudged : Prop :=
  ∀ (s : State) (v : Service),
    (InService kindFreeze v s →
      (s.acu.mode ≠ .normal →
        exec .freeze s = .next { s with rqu.service := some (v.answered .refusedMode 0 0 0) }) ∧
      (s.acu.mode = .normal → s.pfu.power ≠ .running →
        exec .freeze s = .next { s with rqu.service := some (v.answered .refusedState 0 0 0) }) ∧
      (s.acu.mode = .normal → s.pfu.power = .running →
        exec .freeze s =
          .next
            { s with
              acu := { s.acu with mode := .frozen }
              rqu :=
                { s.rqu with
                  flags := setFlag s.rqu.flags .mode
                  service := some (v.answered .ok 0 0 0) } })) ∧
    (InService kindServiceUnlock v s → s.acu.mode = .frozen →
      exec .serviceUnlock s = .next { s with rqu.service := some (v.answered .refusedMode 0 0 0) }) ∧
    (s.powered = true → s.acu.mode = .frozen →
      (s.pfu.power = .running →
        ∃ t, exec .controllerReset s = .next t ∧ t.acu = { s.acu with mode := .normal }) ∧
      (s.pfu.power ≠ .running →
        ∃ t, exec .controllerReset s = .next t ∧ t.acu = s.acu ∧
          t.held = s.held ++ [.accessReset]))

/-- A SERVICE session ends by SERVICE_END, by the key, and by the lapse timer's expiry (R167, R170,
R171): the mode is NORMAL, the lapse timer stops, MODE is raised, an unsettled tariff begins a check
(R77), and an open door or an absent box is judged afresh (R64). The key in any other mode, and a key
turned on, change its level alone; out of RUNNING key and expiry are held (R172). -/
def Obligations.SessionEnds : Prop :=
  ∀ s : State, s.powered = true →
    let ended (u t : State) : Prop :=
      t.acu = { u.acu with mode := .normal, lapse := none } ∧ flagOf t.rqu.flags .mode = true ∧
      t.tru.check =
        (if u.tru.unsettled = true ∧ u.tru.check = none then
          some ⟨[], checkedWords u, false, false, false⟩ else u.tru.check) ∧
      (u.cnu.doorOpen = true → OccurrenceReached .cashDoorOpen 0 u t) ∧
      (u.cnu.boxPresent = false → OccurrenceReached .cashboxRemoved 0 u t) ∧ t.cnu = u.cnu
    (∀ v, InService kindServiceEnd v s →
      (s.acu.mode ≠ .service →
        exec .serviceEnd s = .next { s with rqu.service := some (v.answered .refusedMode 0 0 0) }) ∧
      (s.acu.mode = .service → s.pfu.power ≠ .running →
        exec .serviceEnd s = .next { s with rqu.service := some (v.answered .refusedState 0 0 0) }) ∧
      (s.acu.mode = .service → s.pfu.power = .running →
        ∃ t, exec .serviceEnd s = .next t ∧ ended s t ∧
          t.rqu.service = some (v.answered .ok 0 0 0))) ∧
    (s.pfu.power = .running →
      (∀ on, on = true ∨ s.acu.mode ≠ .service →
        exec (.serviceKeyChange on) s = .next { s with acu.keyOn := on }) ∧
      (s.acu.mode = .service →
        ∃ t, exec (.serviceKeyChange false) s = .next t ∧ ended { s with acu.keyOn := false } t) ∧
      ∀ p, s.acu.lapse = some p →
        (s.acu.mode = .service →
          ∃ t, exec .lapseExpiry s = .next t ∧ ended (elapse (p - s.acu.ms) s) t) ∧
        (s.acu.mode ≠ .service → exec .lapseExpiry s = .next (elapse (p - s.acu.ms) s))) ∧
    (s.pfu.power ≠ .running →
      (∀ on, exec (.serviceKeyChange on) s = .next { s with held := s.held ++ [.key on] }) ∧
      ∀ p, s.acu.lapse = some p → p ≤ s.acu.ms →
        exec .lapseExpiry s = .next { s with held := s.held ++ [.lapse] })

/-- A power warning in RUNNING stops tone sending and begins the save (R173, R174): of a terminal that is
not STARTING the tallies with their check word, the context block with its CRC, and the validity word, in
their places. In STARTING step 5 decides: once it has applied its movements (R177) the tallies with their
check word are saved, without a validity word, and before that, or with no such windows (R26), nothing
is, and the save is over at once. SAVE_DONE's end is SAVED, with the save's words in memory, and a warning
asserted while the save runs is kept (R175). That a warning already asserted changes nothing is the
model's choice (log 13), and so is that SAVE_DONE writes the words left in one step (log 4). -/
def Sys2Proof.Clause.SaveBegins : Prop :=
  ∀ s : State, s.powered = true →
    let words := tallyWords s.adu.cache
    let settled : Prop := s.pfu.step5 = .writeBack false ∨ ∃ b, s.pfu.step5 = .invalidate b
    (s.pfu.warning = true → exec .powerWarning s = .next s) ∧
    (s.pfu.warning = false → s.pfu.power = .running → s.bpu.cycle = none →
      (∀ w x, starting s = false → windowOf .tally s = some w → windowOf .context s = some x →
        exec .powerWarning s =
          .next
            { s with
              lnu.tone := none
              adu.check := crc words
              pfu.power := .saving
              pfu.warning := true
              pfu.wroteValidity := true
              pfu.save :=
                placed w.base (words ++ [crc words]) ++
                (placed x.base (withCrc (contextBody (crc words) s)) ++
                  [(x.base + 0xFE, 0xA1E7)]) }) ∧
      (∀ w, starting s = true → settled → windowOf .tally s = some w → hasWindow .context s = true →
        exec .powerWarning s =
          .next
            { s with
              lnu.tone := none
              adu.check := crc words
              pfu.power := .saving
              pfu.warning := true
              pfu.wroteValidity := false
              pfu.save := placed w.base (words ++ [crc words]) }) ∧
      ((windowOf .tally s = none ∨ windowOf .context s = none ∨ (starting s = true ∧ ¬settled)) →
        exec .powerWarning s =
          .next
            { s with
              lnu.tone := none
              pfu.power := .saved
              pfu.warning := true
              pfu.wroteValidity := false
              pfu.save := [] })) ∧
    (s.pfu.warning = false → s.pfu.power = .saving →
      exec .powerWarning s = .next { s with pfu.warning := true }) ∧
    (s.pfu.warning = true → s.pfu.power = .saving →
      exec .saveDone s =
        .next
          { s with
            mem := s.mem.storeAll s.pfu.save
            pfu.power := .saved
            pfu.save := [] })

/-- A controller word held on the wait line when the save begins is classed afresh by the new power state
(R18): it acts as the same word arriving then would, in place of the one held, before a save with nothing
to write ends. -/
def Sys2Proof.Clause.HeldWordClassedAgain : Prop :=
  ∀ (s : State) (c : Cycle) (addr : BitVec 20), s.powered = true → s.pfu.warning = false →
    s.pfu.power = .running → s.bpu.table.isSome = true → s.bpu.cycle = some c →
    c.addr = addr.toNat → addr.toNat % 2 = 0 →
    (c.write = false → c.data = 0 ∧ s.bpu.answer = none) →
    let word : Instr :=
      if c.write = true then .controllerWrite addr c.data c.lanes
      else .controllerRead addr c.lanes false
    ∃ u, exec .powerWarning { s with bpu.cycle := none } = .next u ∧
      ∃ t, exec word { u with pfu.power := .saving } = .next t ∧
        exec .powerWarning s = .next { t with pfu.power := u.pfu.power }

/-- The context block's words by their places (section 3.6, R45, R174): the stamp, the check word of the
saved tallies, the call and rating parts or FFFFh over them, the escrow entries and the free places after
them, the carry, the sequences of the REPORTING records, and the CRC. -/
def Sys2Proof.Clause.ContextBlockLayout : Prop :=
  ∀ (check : Word) (s : State),
    let ws := withCrc (contextBody check s)
    let w (i : Nat) : Word := ws.getD (i / 2) 0
    let holds (i v : Nat) : Prop := v < 65536 → (w i).toNat = v
    let shows (i v : Nat) : Prop :=
      v < 0x100000000 → (w i).toNat * 65536 + (w (i + 2)).toNat = v
    let now := s.rtu.ms / 1000
    let digit (i : Nat) : Nat := (w (0x0E + i / 4 * 2)).toNat / 16 ^ (3 - i % 4) % 16
    let dropping : Nat :=
      match s.cnu.motion, s.cnu.stuck with
      | some m, _ => if m.dir = .collect then 1 else 2
      | none, some d => if d = .collect then 1 else 2
      | none, none => 0
    let reporting := ((s.inu.records.filter fun r => r.state = .reporting).map (·.seq)).take 4
    ws.length = 99 ∧
    (s.tru.clock = none → w 0x00 = 0 ∧ w 0x02 = 0 ∧ w 0x04 = 0) ∧
    (∀ x, s.tru.clock = some x → x.year < 256 → x.month < 256 → x.day < 256 → x.hour < 256 →
      x.minute < 256 → x.second < 256 →
      (w 0x00).toNat = x.year * 256 + x.month ∧ (w 0x02).toNat = x.day * 256 + x.hour ∧
      (w 0x04).toNat = x.minute * 256 + x.second) ∧
    w 0x06 = check ∧
    (s.rtu.ctx = none → ∀ i, 0x08 ≤ i → i < 0x54 → w i = 0xFFFF) ∧
    (∀ c, s.rtu.ctx = some c →
      shows 0x08 c.owner.seq ∧ holds 0x0C s.lnu.number.length ∧
      (∀ i, i < 20 →
        (∀ d, s.lnu.number[i]? = some d → d < 16 → digit i = d) ∧
        (s.lnu.number.length ≤ i → digit i = 15)) ∧
      w 0x18 = c.seizeStamp.w0 ∧ w 0x1A = c.seizeStamp.w1 ∧ w 0x1C = c.seizeStamp.w2 ∧
      shows 0x1E (now - c.seizePoint) ∧
      (c.cls < 256 → (w 0x22).toNat = c.cls * 256 + (if c.emergency then 1 else 0)) ∧
      (c.row = none → ∀ i, 0x24 ≤ i → i < 0x38 → w i = 0xFFFF) ∧
      (∀ r, c.row = some r →
        holds 0x24 r.setup ∧ holds 0x26 r.b0.len ∧ holds 0x28 r.b0.charge ∧ holds 0x2A r.b1.len ∧
        holds 0x2C r.b1.charge ∧ holds 0x2E r.b2.len ∧ holds 0x30 r.b2.charge ∧
        holds 0x32 r.b3.len ∧ holds 0x34 r.b3.charge ∧ holds 0x36 r.surcharge) ∧
      (w 0x38).toNat / 256 =
        (match c.phase with
          | .dialled => 0
          | .charging => 1
          | .grace => 2
          | .ending => 3) ∧
      (c.band = none → (w 0x38).toNat % 256 = 0xFF) ∧
      (∀ b, c.band = some b → b < 256 → (w 0x38).toNat % 256 = b) ∧
      shows 0x3A c.cin ∧ shows 0x3E c.consumed ∧ shows 0x42 c.committed ∧
      (w 0x46).toNat = min c.intervals 65535 ∧ holds 0x48 c.roll.length ∧
      shows 0x4A (c.roll.map (·.value)).sum ∧
      (c.answerPoint = none → w 0x4E = 0xFFFF ∧ w 0x50 = 0xFFFF) ∧
      (∀ a, c.answerPoint = some a → shows 0x4E (now - a)) ∧
      (w 0x52).toNat = (if c.graceUsed then 1 else 0) + (if c.owner.unlogged then 2 else 0)) ∧
    (w 0x54).toNat = min s.cnu.escrow.length 8 ∧
    (∀ i x, i < 8 → s.cnu.escrow[i]? = some x →
      let a := 0x56 + 0x0C * i
      holds a x.seq ∧
      (x.denom < 256 →
        (w (a + 2)).toNat =
          x.denom * 256 +
            (match x.status with
              | .held => 0
              | .committed => 1
              | .dropping => 2)) ∧
      holds (a + 4) x.value ∧
      (x.owner = none → w (a + 6) = 0xFFFF ∧ w (a + 8) = 0xFFFF) ∧
      (∀ o, x.owner = some o → shows (a + 6) o.seq) ∧
      (w (a + 10)).toNat =
        (if x.isForeign then 1 else 0) + (if x.owner.any (·.unlogged) then 2 else 0) +
          256 * (if x.status = .dropping then dropping else 0)) ∧
    (∀ i, s.cnu.escrow.length ≤ i → i < 8 →
      ∀ j, j < 12 → w (0x56 + 0x0C * i + j) = 0xFFFF) ∧
    shows 0xB6 (if s.rtu.ctx.isSome then 0 else s.rtu.carry) ∧
    (w 0xBA).toNat = reporting.length ∧
    (∀ i q, reporting[i]? = some q → holds (0xBC + 2 * i) q) ∧
    (∀ i, reporting.length ≤ i → i < 4 → w (0xBC + 2 * i) = 0xFFFF) ∧
    w 0xC4 = crc (ws.take 98)

/-- What the next power-on reads of a saved context block is what was saved (R174, R176, R177): a good CRC and
the tallies' check word, the escrow list with the direction of the coin DROPPING, the REPORTING sequences,
and the open credit; of an open call its owner and its record, ended by POWER_LOSS with its HELD coins
returned and nothing carried out. -/
def Sys2Proof.Clause.SavedContextReadBack : Prop :=
  ∀ (check : Word) (s : State),
    let ws := withCrc (contextBody check s)
    let now := s.rtu.ms / 1000
    let reporting := (s.inu.records.filter fun r => r.state = .reporting).map (·.seq)
    let value (roll : List RollCoin) : Nat := (roll.map (·.value)).sum
    s.cnu.escrow.length ≤ 8 →
    (∀ x ∈ s.cnu.escrow, x.seq < 65536 ∧ x.denom < 256 ∧ x.value < 65536 ∧
      ∀ o, x.owner = some o → o.seq < 0xFFFFFFFF) →
    reporting.length ≤ 4 → (∀ q ∈ reporting, q < 65536) →
    crcGood ws = true ∧ wordAt ws 3 = check ∧
    (savedCoins ws).map (·.coin) = s.cnu.escrow ∧
    (∀ d, (s.cnu.motion.map (·.dir) = some d ∨ (s.cnu.motion = none ∧ s.cnu.stuck = some d)) →
      ∀ x ∈ savedCoins ws, x.coin.status = .dropping → x.dir = d) ∧
    savedSeqs ws = reporting ∧
    (s.rtu.ctx = none → s.rtu.carry < 0x100000000 →
      callSaved ws = false ∧ savedCredit ws = s.rtu.carry) ∧
    ∀ c, s.rtu.ctx = some c → c.owner.seq < 0x100000000 → c.cls < 256 →
      s.lnu.number.length ≤ 20 → (∀ d ∈ s.lnu.number, d < 16) → c.seizePoint ≤ now →
      now - c.seizePoint < 0x100000000 →
      (∀ a, c.answerPoint = some a → a ≤ now ∧ now - a < 0xFFFFFFFF) →
      c.intervals < 65536 → c.consumed < 0x100000000 → c.roll.length < 65536 →
      value c.roll < 0x100000000 → c.committed < 0x100000000 → c.cin < 0x100000000 →
      (∀ x, s.tru.clock = some x → 0 < x.month ∧ x.month < 256) →
      callSaved ws = true ∧ savedOwner ws = c.owner ∧
      savedCredit ws = c.cin + c.committed - c.consumed ∧
      ∀ o, savedRecord ws o =
        { endRecord c .powerLoss false s with
          owner := o
          returned :=
            ((s.cnu.escrow.filter fun x => x.status = .held && x.owner = some c.owner).map
              (·.value)).sum
          powerLoss := true }

/-- The save, the words of its context block, and the controller word it finds on the wait line. -/
def Obligations.PowerSaved : Prop :=
  Clause.SaveBegins ∧ Clause.ContextBlockLayout ∧ Clause.SavedContextReadBack ∧
  Clause.HeldWordClassedAgain

/-- The warning clears in SAVED (R175): a save that wrote a validity word has it made invalid, and a
save that wrote none resumes at once; WARNING_CLEARED with no warning changes nothing (the model's
choice, log 13). The warning asserted again before the word verifies is kept. In SAVING the save first
runs to its end. `resumed` says how the blocks resume and take what they held; that the INU's held
events come before the others', and all before a drop that waits, is the model's choice (logs 9 and
49). -/
def Sys2Proof.Clause.WarningClears : Prop :=
  ∀ s : State, s.powered = true →
    (s.pfu.warning = true → s.pfu.power = .saving →
      exec .warningCleared s = .next { s with pfu.warning := false }) ∧
    (s.pfu.warning = false → exec .warningCleared s = .next s) ∧
    (s.pfu.warning = true → s.pfu.power = .saved → s.pfu.unsave = none → s.pfu.again = false →
      (s.pfu.wroteValidity = true →
        exec .warningCleared s =
          .next { s with pfu.warning := false, pfu.unsave := some ⟨.write, false⟩ }) ∧
      (s.pfu.wroteValidity = false →
        exec .warningCleared s = .next (resumed { s with pfu.warning := false }))) ∧
    (∀ u, s.pfu.unsave = some u → s.pfu.power = .saved →
      (s.pfu.warning = false →
        exec .powerWarning s =
          .next { s with pfu.warning := true, pfu.unsave := some { u with rewrite := true } }) ∧
      (s.pfu.warning = true →
        exec .warningCleared s = .next { s with pfu.warning := false })) ∧
    (s.pfu.warning = false → s.pfu.power = .saving → s.pfu.wroteValidity = false →
      exec .saveDone s =
        .next (resumed { s with mem := s.mem.storeAll s.pfu.save, pfu.power := .saved })) ∧
    (s.pfu.warning = false → s.pfu.power = .saving → s.pfu.wroteValidity = true →
      exec .saveDone s =
        .next
          { s with
            mem := s.mem.storeAll s.pfu.save
            pfu.power := .saved
            pfu.save := []
            pfu.unsave := some ⟨.write, false⟩ })

/-- The invalidating word (R175): once it verifies, or has failed after its two retries, the power state
is RUNNING and the blocks resume. Each retry is an event of NV_RETRIES and the failure an occurrence of
AUDIT_SUSPECT, detail 2, which the INU holds until the power state is RUNNING (R136) and then takes first
(log 9). With the warning asserted again A1E7h is to be written once more, and the state stays SAVED; a
warning that clears meanwhile waits for that word. While the controller's word is before the PFU's on
the port no word is written (R16). The model's choices: a word that fails leaves its third read-back in
the cell (log 19), A1E7h is written by a grant of its own or by SAVE_DONE, and not read back, and also after
a word that has failed (log 42). -/
def Sys2Proof.Clause.ValidityWordWritten : Prop :=
  ∀ s : State, s.powered = true →
    let validity := baseOf .context s + 0xFE
    let retries (n : Nat) : List Held := List.replicate n (.attrEvent .nvRetries)
    (∀ ws, portReaches .pfu s = false → exec (.validityWordVerified ws) s = .next s) ∧
    (∀ u, portReaches .pfu s = true → s.pfu.unsave = some u → s.pfu.power = .saved →
      (∀ bad rest, bad.length ≤ 2 → (∀ x ∈ bad, x ≠ 0) → (rest = [] ∨ rest.head? = some 0) →
        let t : State :=
          { s with
            mem := s.mem.store validity 0 .both
            held := s.held ++ retries bad.length }
        (u.rewrite = false →
          exec (.validityWordVerified (bad ++ rest)) s = .next (resumed t)) ∧
        (u.rewrite = true →
          exec (.validityWordVerified (bad ++ rest)) s =
            .next { t with pfu.unsave := none, pfu.again := true })) ∧
      ∀ x y z rest, x ≠ 0 → y ≠ 0 → z ≠ 0 →
        let t : State :=
          { s with
            mem := s.mem.store validity z .both
            held := s.held ++ retries 2 ++ [.occurrence .auditSuspect 2] }
        (u.rewrite = false →
          exec (.validityWordVerified (x :: y :: z :: rest)) s = .next (resumed t)) ∧
        (u.rewrite = true →
          exec (.validityWordVerified (x :: y :: z :: rest)) s =
            .next { t with pfu.unsave := none, pfu.again := true })) ∧
    (s.pfu.again = true → s.pfu.power = .saved → s.pfu.save = [] →
      let t : State := { s with mem := s.mem.store validity 0xA1E7 .both, pfu.again := false }
      (s.pfu.warning = true → s.pfu.unsave = none →
        exec .warningCleared s = .next { s with pfu.warning := false }) ∧
      (portReaches .pfu s = false → exec .saveDone s = .next s) ∧
      (portReaches .pfu s = true → exec .portGrant s = exec .saveDone s) ∧
      (portReaches .pfu s = true → s.pfu.warning = true → exec .saveDone s = .next t) ∧
      (portReaches .pfu s = true → s.pfu.warning = false → s.pfu.wroteValidity = true →
        exec .saveDone s = .next { t with pfu.unsave := some ⟨.write, false⟩ }))

/-- After step 5's own invalidating word STARTING ends (R28, R177): the line takes its state from voltage
and hook, its quiet count starting if it is IDLE, the time request of a terminal without a valid clock
stands (R139), and the events the CNU held are taken (R63), after the line has its state and before a drop
that waits starts (the model's choice, log 49). The word is verified as R175 has it: up to two mismatches are
each retried and counted on NV_RETRIES, and a third fails it, which hands AUDIT_SUSPECT, detail 2, and ends
STARTING all the same; its third read-back then stands in the cell (the model's choice, log 19). -/
def Sys2Proof.Clause.StartingEnds : Prop :=
  ∀ (s : State) (stage : WordStage) (ws : List Word) (u : State), s.powered = true →
    portReaches .pfu s = true → s.pfu.unsave = none → s.pfu.step5 = .invalidate stage →
    s.pfu.power = .running →
    let validity := baseOf .context s + 0xFE
    let tried (n : Nat) (cell : Word) : State :=
      (attrEvent .nvRetries)^[n] { s with mem := s.mem.store validity cell .both }
    (∃ bad rest, ws = bad ++ rest ∧ bad.length ≤ 2 ∧ (∀ x ∈ bad, x ≠ 0) ∧
          (rest = [] ∨ rest.head? = some 0) ∧ u = tried bad.length 0) ∨
        (∃ x y z rest, ws = x :: y :: z :: rest ∧ x ≠ 0 ∧ y ≠ 0 ∧ z ≠ 0 ∧
          u = occur .auditSuspect 2 (tried 2 z)) →
    let base : State :=
      { u with
        cfl.step := .done
        pfu.step5 := .idle
        rpu.timeRequest :=
          if s.tru.clock = none ∧ s.cfl.params.report.isSome = true then
            some ⟨.clock, 0, u.rpu.ms / 1000⟩
          else u.rpu.timeRequest }
    let gone : Prop := ∃ p, u.lnu.timers.absent = some p ∧ p ≤ u.lnu.ms
    (∃ t, exec (.validityWordVerified ws) s = .next t ∧ starting t = false ∧ t.mem = u.mem ∧
      (s.cnu.clearance = none → t.pfu = { s.pfu with step5 := .idle })) ∧
    (¬gone → u.lnu.offHook = false →
      exec (.validityWordVerified ws) s =
        .next
          (dropStarted
            (allHeldTaken { base with lnu.timers.quiet := some (u.lnu.ms + 30000) }))) ∧
    (¬gone → u.lnu.offHook = true → u.lnu.state = .idle → u.lnu.voltage = true →
      exec (.validityWordVerified ws) s =
        .next
          (dropStarted
            (allHeldTaken
              { base with
                lnu.state := .ready
                lnu.quiet := false
                lnu.timers.ready := some (u.lnu.ms + s.cfl.params.readyTimeout * 1000)
                lnu.timers.quiet := none
                lnu.timers.absent := none
                lnu.timers.present := none
                rqu.flags := setFlag u.rqu.flags .line })))

/-- The return from SAVED and the end of STARTING over a context. -/
def Obligations.PowerReturns : Prop :=
  Clause.WarningClears ∧ Clause.ValidityWordWritten ∧ Clause.StartingEnds
end

