-- ==== Sys2Proof/Laws/State.lean ====
section
/-! SUPPORT. What the updates of single blocks leave alone, one conjunct per block or register:
the operations on flags, counters, memory, line timers, clock and tallies. Cite these and do not unfold
the updates. -/

namespace Sys2Proof.Machine

/-! ### Machine/Flags -/

@[simp] theorem foldl_powered {α : Type} (g : State → α → State) (l : List α) (s : State)
    (h : ∀ u a, (g u a).powered = u.powered) : (l.foldl g s).powered = s.powered := by
  induction l generalizing s with
  | nil => rfl
  | cons a l ih => simp [ih, h]

@[simp] theorem foldl_mem {α : Type} (g : State → α → State) (l : List α) (s : State)
    (h : ∀ u a, (g u a).mem = u.mem) : (l.foldl g s).mem = s.mem := by
  induction l generalizing s with
  | nil => rfl
  | cons a l ih => simp [ih, h]

@[simp] theorem foldl_bpu {α : Type} (g : State → α → State) (l : List α) (s : State)
    (h : ∀ u a, (g u a).bpu = u.bpu) : (l.foldl g s).bpu = s.bpu := by
  induction l generalizing s with
  | nil => rfl
  | cons a l ih => simp [ih, h]

@[simp] theorem foldl_cfl {α : Type} (g : State → α → State) (l : List α) (s : State)
    (h : ∀ u a, (g u a).cfl = u.cfl) : (l.foldl g s).cfl = s.cfl := by
  induction l generalizing s with
  | nil => rfl
  | cons a l ih => simp [ih, h]

@[simp] theorem foldl_rqu {α : Type} (g : State → α → State) (l : List α) (s : State)
    (h : ∀ u a, (g u a).rqu = u.rqu) : (l.foldl g s).rqu = s.rqu := by
  induction l generalizing s with
  | nil => rfl
  | cons a l ih => simp [ih, h]

@[simp] theorem foldl_cnu {α : Type} (g : State → α → State) (l : List α) (s : State)
    (h : ∀ u a, (g u a).cnu = u.cnu) : (l.foldl g s).cnu = s.cnu := by
  induction l generalizing s with
  | nil => rfl
  | cons a l ih => simp [ih, h]

@[simp] theorem foldl_tru {α : Type} (g : State → α → State) (l : List α) (s : State)
    (h : ∀ u a, (g u a).tru = u.tru) : (l.foldl g s).tru = s.tru := by
  induction l generalizing s with
  | nil => rfl
  | cons a l ih => simp [ih, h]

@[simp] theorem foldl_rtu {α : Type} (g : State → α → State) (l : List α) (s : State)
    (h : ∀ u a, (g u a).rtu = u.rtu) : (l.foldl g s).rtu = s.rtu := by
  induction l generalizing s with
  | nil => rfl
  | cons a l ih => simp [ih, h]

@[simp] theorem foldl_lnu {α : Type} (g : State → α → State) (l : List α) (s : State)
    (h : ∀ u a, (g u a).lnu = u.lnu) : (l.foldl g s).lnu = s.lnu := by
  induction l generalizing s with
  | nil => rfl
  | cons a l ih => simp [ih, h]

@[simp] theorem foldl_inu {α : Type} (g : State → α → State) (l : List α) (s : State)
    (h : ∀ u a, (g u a).inu = u.inu) : (l.foldl g s).inu = s.inu := by
  induction l generalizing s with
  | nil => rfl
  | cons a l ih => simp [ih, h]

@[simp] theorem foldl_rpu {α : Type} (g : State → α → State) (l : List α) (s : State)
    (h : ∀ u a, (g u a).rpu = u.rpu) : (l.foldl g s).rpu = s.rpu := by
  induction l generalizing s with
  | nil => rfl
  | cons a l ih => simp [ih, h]

@[simp] theorem foldl_adu {α : Type} (g : State → α → State) (l : List α) (s : State)
    (h : ∀ u a, (g u a).adu = u.adu) : (l.foldl g s).adu = s.adu := by
  induction l generalizing s with
  | nil => rfl
  | cons a l ih => simp [ih, h]

@[simp] theorem foldl_acu {α : Type} (g : State → α → State) (l : List α) (s : State)
    (h : ∀ u a, (g u a).acu = u.acu) : (l.foldl g s).acu = s.acu := by
  induction l generalizing s with
  | nil => rfl
  | cons a l ih => simp [ih, h]

@[simp] theorem foldl_pfu {α : Type} (g : State → α → State) (l : List α) (s : State)
    (h : ∀ u a, (g u a).pfu = u.pfu) : (l.foldl g s).pfu = s.pfu := by
  induction l generalizing s with
  | nil => rfl
  | cons a l ih => simp [ih, h]

@[simp] theorem foldl_held {α : Type} (g : State → α → State) (l : List α) (s : State)
    (h : ∀ u a, (g u a).held = u.held) : (l.foldl g s).held = s.held := by
  induction l generalizing s with
  | nil => rfl
  | cons a l ih => simp [ih, h]

@[simp] theorem foldl_free {α : Type} (g : State → α → State) (l : List α) (s : State)
    (h : ∀ u a, (g u a).free = u.free) : (l.foldl g s).free = s.free := by
  induction l generalizing s with
  | nil => rfl
  | cons a l ih => simp [ih, h]

@[simp] theorem foldl_pending {α : Type} (g : State → α → State) (l : List α) (s : State)
    (h : ∀ u a, (g u a).pending = u.pending) : (l.foldl g s).pending = s.pending := by
  induction l generalizing s with
  | nil => rfl
  | cons a l ih => simp [ih, h]

@[simp] theorem foldl_bpu_table {α : Type} (g : State → α → State) (l : List α) (s : State)
    (h : ∀ u a, (g u a).bpu.table = u.bpu.table) : (l.foldl g s).bpu.table = s.bpu.table := by
  induction l generalizing s with
  | nil => rfl
  | cons a l ih => simp [ih, h]

@[simp] theorem foldl_bpu_busy {α : Type} (g : State → α → State) (l : List α) (s : State)
    (h : ∀ u a, (g u a).bpu.busy = u.bpu.busy) : (l.foldl g s).bpu.busy = s.bpu.busy := by
  induction l generalizing s with
  | nil => rfl
  | cons a l ih => simp [ih, h]

@[simp] theorem foldl_bpu_cycle {α : Type} (g : State → α → State) (l : List α) (s : State)
    (h : ∀ u a, (g u a).bpu.cycle = u.bpu.cycle) : (l.foldl g s).bpu.cycle = s.bpu.cycle := by
  induction l generalizing s with
  | nil => rfl
  | cons a l ih => simp [ih, h]

@[simp] theorem foldl_bpu_intercepts {α : Type} (g : State → α → State) (l : List α) (s : State)
    (h : ∀ u a, (g u a).bpu.intercepts = u.bpu.intercepts) : (l.foldl g s).bpu.intercepts = s.bpu.intercepts := by
  induction l generalizing s with
  | nil => rfl
  | cons a l ih => simp [ih, h]

@[simp] theorem foldl_cfl_step {α : Type} (g : State → α → State) (l : List α) (s : State)
    (h : ∀ u a, (g u a).cfl.step = u.cfl.step) : (l.foldl g s).cfl.step = s.cfl.step := by
  induction l generalizing s with
  | nil => rfl
  | cons a l ih => simp [ih, h]

@[simp] theorem foldl_cfl_params {α : Type} (g : State → α → State) (l : List α) (s : State)
    (h : ∀ u a, (g u a).cfl.params = u.cfl.params) : (l.foldl g s).cfl.params = s.cfl.params := by
  induction l generalizing s with
  | nil => rfl
  | cons a l ih => simp [ih, h]

@[simp] theorem foldl_cfl_fault {α : Type} (g : State → α → State) (l : List α) (s : State)
    (h : ∀ u a, (g u a).cfl.fault = u.cfl.fault) : (l.foldl g s).cfl.fault = s.cfl.fault := by
  induction l generalizing s with
  | nil => rfl
  | cons a l ih => simp [ih, h]

@[simp] theorem foldl_rqu_service {α : Type} (g : State → α → State) (l : List α) (s : State)
    (h : ∀ u a, (g u a).rqu.service = u.rqu.service) : (l.foldl g s).rqu.service = s.rqu.service := by
  induction l generalizing s with
  | nil => rfl
  | cons a l ih => simp [ih, h]

@[simp] theorem foldl_rqu_queue {α : Type} (g : State → α → State) (l : List α) (s : State)
    (h : ∀ u a, (g u a).rqu.queue = u.rqu.queue) : (l.foldl g s).rqu.queue = s.rqu.queue := by
  induction l generalizing s with
  | nil => rfl
  | cons a l ih => simp [ih, h]

@[simp] theorem foldl_rqu_abandon {α : Type} (g : State → α → State) (l : List α) (s : State)
    (h : ∀ u a, (g u a).rqu.abandon = u.rqu.abandon) : (l.foldl g s).rqu.abandon = s.rqu.abandon := by
  induction l generalizing s with
  | nil => rfl
  | cons a l ih => simp [ih, h]

@[simp] theorem foldl_rqu_mask {α : Type} (g : State → α → State) (l : List α) (s : State)
    (h : ∀ u a, (g u a).rqu.mask = u.rqu.mask) : (l.foldl g s).rqu.mask = s.rqu.mask := by
  induction l generalizing s with
  | nil => rfl
  | cons a l ih => simp [ih, h]

@[simp] theorem foldl_cnu_escrow {α : Type} (g : State → α → State) (l : List α) (s : State)
    (h : ∀ u a, (g u a).cnu.escrow = u.cnu.escrow) : (l.foldl g s).cnu.escrow = s.cnu.escrow := by
  induction l generalizing s with
  | nil => rfl
  | cons a l ih => simp [ih, h]

@[simp] theorem foldl_cnu_chute {α : Type} (g : State → α → State) (l : List α) (s : State)
    (h : ∀ u a, (g u a).cnu.chute = u.cnu.chute) : (l.foldl g s).cnu.chute = s.cnu.chute := by
  induction l generalizing s with
  | nil => rfl
  | cons a l ih => simp [ih, h]

@[simp] theorem foldl_cnu_clearance {α : Type} (g : State → α → State) (l : List α) (s : State)
    (h : ∀ u a, (g u a).cnu.clearance = u.cnu.clearance) : (l.foldl g s).cnu.clearance = s.cnu.clearance := by
  induction l generalizing s with
  | nil => rfl
  | cons a l ih => simp [ih, h]

@[simp] theorem foldl_cnu_openCall {α : Type} (g : State → α → State) (l : List α) (s : State)
    (h : ∀ u a, (g u a).cnu.openCall = u.cnu.openCall) : (l.foldl g s).cnu.openCall = s.cnu.openCall := by
  induction l generalizing s with
  | nil => rfl
  | cons a l ih => simp [ih, h]

@[simp] theorem foldl_tru_clock {α : Type} (g : State → α → State) (l : List α) (s : State)
    (h : ∀ u a, (g u a).tru.clock = u.tru.clock) : (l.foldl g s).tru.clock = s.tru.clock := by
  induction l generalizing s with
  | nil => rfl
  | cons a l ih => simp [ih, h]

@[simp] theorem foldl_tru_valid {α : Type} (g : State → α → State) (l : List α) (s : State)
    (h : ∀ u a, (g u a).tru.valid = u.tru.valid) : (l.foldl g s).tru.valid = s.tru.valid := by
  induction l generalizing s with
  | nil => rfl
  | cons a l ih => simp [ih, h]

@[simp] theorem foldl_tru_unsettled {α : Type} (g : State → α → State) (l : List α) (s : State)
    (h : ∀ u a, (g u a).tru.unsettled = u.tru.unsettled) : (l.foldl g s).tru.unsettled = s.tru.unsettled := by
  induction l generalizing s with
  | nil => rfl
  | cons a l ih => simp [ih, h]

@[simp] theorem foldl_rtu_ctx {α : Type} (g : State → α → State) (l : List α) (s : State)
    (h : ∀ u a, (g u a).rtu.ctx = u.rtu.ctx) : (l.foldl g s).rtu.ctx = s.rtu.ctx := by
  induction l generalizing s with
  | nil => rfl
  | cons a l ih => simp [ih, h]

@[simp] theorem foldl_rtu_waiting {α : Type} (g : State → α → State) (l : List α) (s : State)
    (h : ∀ u a, (g u a).rtu.waiting = u.rtu.waiting) : (l.foldl g s).rtu.waiting = s.rtu.waiting := by
  induction l generalizing s with
  | nil => rfl
  | cons a l ih => simp [ih, h]

@[simp] theorem foldl_rtu_carry {α : Type} (g : State → α → State) (l : List α) (s : State)
    (h : ∀ u a, (g u a).rtu.carry = u.rtu.carry) : (l.foldl g s).rtu.carry = s.rtu.carry := by
  induction l generalizing s with
  | nil => rfl
  | cons a l ih => simp [ih, h]

@[simp] theorem foldl_lnu_state {α : Type} (g : State → α → State) (l : List α) (s : State)
    (h : ∀ u a, (g u a).lnu.state = u.lnu.state) : (l.foldl g s).lnu.state = s.lnu.state := by
  induction l generalizing s with
  | nil => rfl
  | cons a l ih => simp [ih, h]

@[simp] theorem foldl_lnu_offHook {α : Type} (g : State → α → State) (l : List α) (s : State)
    (h : ∀ u a, (g u a).lnu.offHook = u.lnu.offHook) : (l.foldl g s).lnu.offHook = s.lnu.offHook := by
  induction l generalizing s with
  | nil => rfl
  | cons a l ih => simp [ih, h]

@[simp] theorem foldl_lnu_buffer {α : Type} (g : State → α → State) (l : List α) (s : State)
    (h : ∀ u a, (g u a).lnu.buffer = u.lnu.buffer) : (l.foldl g s).lnu.buffer = s.lnu.buffer := by
  induction l generalizing s with
  | nil => rfl
  | cons a l ih => simp [ih, h]

@[simp] theorem foldl_lnu_timers {α : Type} (g : State → α → State) (l : List α) (s : State)
    (h : ∀ u a, (g u a).lnu.timers = u.lnu.timers) : (l.foldl g s).lnu.timers = s.lnu.timers := by
  induction l generalizing s with
  | nil => rfl
  | cons a l ih => simp [ih, h]

@[simp] theorem foldl_inu_rebuilt {α : Type} (g : State → α → State) (l : List α) (s : State)
    (h : ∀ u a, (g u a).inu.rebuilt = u.inu.rebuilt) : (l.foldl g s).inu.rebuilt = s.inu.rebuilt := by
  induction l generalizing s with
  | nil => rfl
  | cons a l ih => simp [ih, h]

@[simp] theorem foldl_inu_latches {α : Type} (g : State → α → State) (l : List α) (s : State)
    (h : ∀ u a, (g u a).inu.latches = u.inu.latches) : (l.foldl g s).inu.latches = s.inu.latches := by
  induction l generalizing s with
  | nil => rfl
  | cons a l ih => simp [ih, h]

@[simp] theorem foldl_inu_records {α : Type} (g : State → α → State) (l : List α) (s : State)
    (h : ∀ u a, (g u a).inu.records = u.inu.records) : (l.foldl g s).inu.records = s.inu.records := by
  induction l generalizing s with
  | nil => rfl
  | cons a l ih => simp [ih, h]

@[simp] theorem foldl_rpu_call {α : Type} (g : State → α → State) (l : List α) (s : State)
    (h : ∀ u a, (g u a).rpu.call = u.rpu.call) : (l.foldl g s).rpu.call = s.rpu.call := by
  induction l generalizing s with
  | nil => rfl
  | cons a l ih => simp [ih, h]

@[simp] theorem foldl_rpu_timeRequest {α : Type} (g : State → α → State) (l : List α) (s : State)
    (h : ∀ u a, (g u a).rpu.timeRequest = u.rpu.timeRequest) : (l.foldl g s).rpu.timeRequest = s.rpu.timeRequest := by
  induction l generalizing s with
  | nil => rfl
  | cons a l ih => simp [ih, h]

@[simp] theorem foldl_adu_cache {α : Type} (g : State → α → State) (l : List α) (s : State)
    (h : ∀ u a, (g u a).adu.cache = u.adu.cache) : (l.foldl g s).adu.cache = s.adu.cache := by
  induction l generalizing s with
  | nil => rfl
  | cons a l ih => simp [ih, h]

@[simp] theorem foldl_adu_run {α : Type} (g : State → α → State) (l : List α) (s : State)
    (h : ∀ u a, (g u a).adu.run = u.adu.run) : (l.foldl g s).adu.run = s.adu.run := by
  induction l generalizing s with
  | nil => rfl
  | cons a l ih => simp [ih, h]

@[simp] theorem foldl_adu_nextCall {α : Type} (g : State → α → State) (l : List α) (s : State)
    (h : ∀ u a, (g u a).adu.nextCall = u.adu.nextCall) : (l.foldl g s).adu.nextCall = s.adu.nextCall := by
  induction l generalizing s with
  | nil => rfl
  | cons a l ih => simp [ih, h]

@[simp] theorem foldl_adu_greatest {α : Type} (g : State → α → State) (l : List α) (s : State)
    (h : ∀ u a, (g u a).adu.greatest = u.adu.greatest) : (l.foldl g s).adu.greatest = s.adu.greatest := by
  induction l generalizing s with
  | nil => rfl
  | cons a l ih => simp [ih, h]

@[simp] theorem foldl_adu_remap {α : Type} (g : State → α → State) (l : List α) (s : State)
    (h : ∀ u a, (g u a).adu.remap = u.adu.remap) : (l.foldl g s).adu.remap = s.adu.remap := by
  induction l generalizing s with
  | nil => rfl
  | cons a l ih => simp [ih, h]

@[simp] theorem foldl_acu_mode {α : Type} (g : State → α → State) (l : List α) (s : State)
    (h : ∀ u a, (g u a).acu.mode = u.acu.mode) : (l.foldl g s).acu.mode = s.acu.mode := by
  induction l generalizing s with
  | nil => rfl
  | cons a l ih => simp [ih, h]

@[simp] theorem foldl_acu_attempts {α : Type} (g : State → α → State) (l : List α) (s : State)
    (h : ∀ u a, (g u a).acu.attempts = u.acu.attempts) : (l.foldl g s).acu.attempts = s.acu.attempts := by
  induction l generalizing s with
  | nil => rfl
  | cons a l ih => simp [ih, h]

@[simp] theorem foldl_pfu_power {α : Type} (g : State → α → State) (l : List α) (s : State)
    (h : ∀ u a, (g u a).pfu.power = u.pfu.power) : (l.foldl g s).pfu.power = s.pfu.power := by
  induction l generalizing s with
  | nil => rfl
  | cons a l ih => simp [ih, h]

@[simp] theorem foldl_pfu_step5 {α : Type} (g : State → α → State) (l : List α) (s : State)
    (h : ∀ u a, (g u a).pfu.step5 = u.pfu.step5) : (l.foldl g s).pfu.step5 = s.pfu.step5 := by
  induction l generalizing s with
  | nil => rfl
  | cons a l ih => simp [ih, h]

@[simp] theorem foldl_pfu_save {α : Type} (g : State → α → State) (l : List α) (s : State)
    (h : ∀ u a, (g u a).pfu.save = u.pfu.save) : (l.foldl g s).pfu.save = s.pfu.save := by
  induction l generalizing s with
  | nil => rfl
  | cons a l ih => simp [ih, h]

@[simp] theorem raise_frame (e : Event) (s : State) :
    (raise e s).powered = s.powered ∧
    (raise e s).mem = s.mem ∧
    (raise e s).bpu = s.bpu ∧
    (raise e s).cfl = s.cfl ∧
    (raise e s).cnu = s.cnu ∧
    (raise e s).tru = s.tru ∧
    (raise e s).rtu = s.rtu ∧
    (raise e s).lnu = s.lnu ∧
    (raise e s).inu = s.inu ∧
    (raise e s).rpu = s.rpu ∧
    (raise e s).adu = s.adu ∧
    (raise e s).acu = s.acu ∧
    (raise e s).pfu = s.pfu ∧
    (raise e s).held = s.held ∧
    (raise e s).free = s.free ∧
    (raise e s).pending = s.pending ∧
    (raise e s).rqu.service = s.rqu.service ∧
    (raise e s).rqu.queue = s.rqu.queue ∧
    (raise e s).rqu.abandon = s.rqu.abandon ∧
    (raise e s).rqu.mask = s.rqu.mask := by
  unfold raise
  simp

@[simp] theorem raiseIf_frame (c : Bool) (e : Event) (s : State) :
    (raiseIf c e s).powered = s.powered ∧
    (raiseIf c e s).mem = s.mem ∧
    (raiseIf c e s).bpu = s.bpu ∧
    (raiseIf c e s).cfl = s.cfl ∧
    (raiseIf c e s).cnu = s.cnu ∧
    (raiseIf c e s).tru = s.tru ∧
    (raiseIf c e s).rtu = s.rtu ∧
    (raiseIf c e s).lnu = s.lnu ∧
    (raiseIf c e s).inu = s.inu ∧
    (raiseIf c e s).rpu = s.rpu ∧
    (raiseIf c e s).adu = s.adu ∧
    (raiseIf c e s).acu = s.acu ∧
    (raiseIf c e s).pfu = s.pfu ∧
    (raiseIf c e s).held = s.held ∧
    (raiseIf c e s).free = s.free ∧
    (raiseIf c e s).pending = s.pending ∧
    (raiseIf c e s).rqu.service = s.rqu.service ∧
    (raiseIf c e s).rqu.queue = s.rqu.queue ∧
    (raiseIf c e s).rqu.abandon = s.rqu.abandon ∧
    (raiseIf c e s).rqu.mask = s.rqu.mask := by
  unfold raiseIf
  (repeat' split) <;> simp

/-! ### Machine/Ops -/

@[simp] theorem storeWord_frame (a : Nat) (w : Word) (s : State) :
    (storeWord a w s).powered = s.powered ∧
    (storeWord a w s).bpu = s.bpu ∧
    (storeWord a w s).cfl = s.cfl ∧
    (storeWord a w s).rqu = s.rqu ∧
    (storeWord a w s).cnu = s.cnu ∧
    (storeWord a w s).tru = s.tru ∧
    (storeWord a w s).rtu = s.rtu ∧
    (storeWord a w s).lnu = s.lnu ∧
    (storeWord a w s).inu = s.inu ∧
    (storeWord a w s).rpu = s.rpu ∧
    (storeWord a w s).adu = s.adu ∧
    (storeWord a w s).acu = s.acu ∧
    (storeWord a w s).pfu = s.pfu ∧
    (storeWord a w s).held = s.held ∧
    (storeWord a w s).free = s.free ∧
    (storeWord a w s).pending = s.pending := by
  unfold storeWord
  simp

@[simp] theorem elapse_frame (d : Nat) (s : State) :
    (elapse d s).powered = s.powered ∧
    (elapse d s).mem = s.mem ∧
    (elapse d s).bpu = s.bpu ∧
    (elapse d s).cfl = s.cfl ∧
    (elapse d s).rqu = s.rqu ∧
    (elapse d s).adu = s.adu ∧
    (elapse d s).pfu = s.pfu ∧
    (elapse d s).held = s.held ∧
    (elapse d s).free = s.free ∧
    (elapse d s).pending = s.pending ∧
    (elapse d s).cnu.escrow = s.cnu.escrow ∧
    (elapse d s).cnu.chute = s.cnu.chute ∧
    (elapse d s).cnu.clearance = s.cnu.clearance ∧
    (elapse d s).cnu.openCall = s.cnu.openCall ∧
    (elapse d s).tru.clock = s.tru.clock ∧
    (elapse d s).tru.valid = s.tru.valid ∧
    (elapse d s).tru.unsettled = s.tru.unsettled ∧
    (elapse d s).rtu.ctx = s.rtu.ctx ∧
    (elapse d s).rtu.waiting = s.rtu.waiting ∧
    (elapse d s).rtu.carry = s.rtu.carry ∧
    (elapse d s).lnu.state = s.lnu.state ∧
    (elapse d s).lnu.offHook = s.lnu.offHook ∧
    (elapse d s).lnu.buffer = s.lnu.buffer ∧
    (elapse d s).lnu.timers = s.lnu.timers ∧
    (elapse d s).inu.rebuilt = s.inu.rebuilt ∧
    (elapse d s).inu.latches = s.inu.latches ∧
    (elapse d s).inu.records = s.inu.records ∧
    (elapse d s).rpu.call = s.rpu.call ∧
    (elapse d s).rpu.timeRequest = s.rpu.timeRequest ∧
    (elapse d s).acu.mode = s.acu.mode ∧
    (elapse d s).acu.attempts = s.acu.attempts := by
  unfold elapse
  dsimp only
  (repeat' split) <;> simp

@[simp] theorem hold_frame (h : Held) (s : State) :
    (hold h s).powered = s.powered ∧
    (hold h s).mem = s.mem ∧
    (hold h s).bpu = s.bpu ∧
    (hold h s).cfl = s.cfl ∧
    (hold h s).rqu = s.rqu ∧
    (hold h s).cnu = s.cnu ∧
    (hold h s).tru = s.tru ∧
    (hold h s).rtu = s.rtu ∧
    (hold h s).lnu = s.lnu ∧
    (hold h s).inu = s.inu ∧
    (hold h s).rpu = s.rpu ∧
    (hold h s).adu = s.adu ∧
    (hold h s).acu = s.acu ∧
    (hold h s).pfu = s.pfu ∧
    (hold h s).free = s.free ∧
    (hold h s).pending = s.pending := by
  unfold hold
  simp

@[simp] theorem answer_frame (c : ResultCode) (r1 : Word) (r2 : Word) (r3 : Word) (s : State) :
    (answer c r1 r2 r3 s).powered = s.powered ∧
    (answer c r1 r2 r3 s).mem = s.mem ∧
    (answer c r1 r2 r3 s).bpu = s.bpu ∧
    (answer c r1 r2 r3 s).cfl = s.cfl ∧
    (answer c r1 r2 r3 s).cnu = s.cnu ∧
    (answer c r1 r2 r3 s).tru = s.tru ∧
    (answer c r1 r2 r3 s).rtu = s.rtu ∧
    (answer c r1 r2 r3 s).lnu = s.lnu ∧
    (answer c r1 r2 r3 s).inu = s.inu ∧
    (answer c r1 r2 r3 s).rpu = s.rpu ∧
    (answer c r1 r2 r3 s).adu = s.adu ∧
    (answer c r1 r2 r3 s).acu = s.acu ∧
    (answer c r1 r2 r3 s).pfu = s.pfu ∧
    (answer c r1 r2 r3 s).held = s.held ∧
    (answer c r1 r2 r3 s).free = s.free ∧
    (answer c r1 r2 r3 s).pending = s.pending ∧
    (answer c r1 r2 r3 s).rqu.queue = s.rqu.queue ∧
    (answer c r1 r2 r3 s).rqu.abandon = s.rqu.abandon ∧
    (answer c r1 r2 r3 s).rqu.mask = s.rqu.mask := by
  unfold answer
  (repeat' split) <;> simp

@[simp] theorem answer0_frame (c : ResultCode) (s : State) :
    (answer0 c s).powered = s.powered ∧
    (answer0 c s).mem = s.mem ∧
    (answer0 c s).bpu = s.bpu ∧
    (answer0 c s).cfl = s.cfl ∧
    (answer0 c s).cnu = s.cnu ∧
    (answer0 c s).tru = s.tru ∧
    (answer0 c s).rtu = s.rtu ∧
    (answer0 c s).lnu = s.lnu ∧
    (answer0 c s).inu = s.inu ∧
    (answer0 c s).rpu = s.rpu ∧
    (answer0 c s).adu = s.adu ∧
    (answer0 c s).acu = s.acu ∧
    (answer0 c s).pfu = s.pfu ∧
    (answer0 c s).held = s.held ∧
    (answer0 c s).free = s.free ∧
    (answer0 c s).pending = s.pending ∧
    (answer0 c s).rqu.queue = s.rqu.queue ∧
    (answer0 c s).rqu.abandon = s.rqu.abandon ∧
    (answer0 c s).rqu.mask = s.rqu.mask := by
  unfold answer0
  simp

@[simp] theorem holdRequest_frame (s : State) :
    (holdRequest s).powered = s.powered ∧
    (holdRequest s).mem = s.mem ∧
    (holdRequest s).bpu = s.bpu ∧
    (holdRequest s).cfl = s.cfl ∧
    (holdRequest s).cnu = s.cnu ∧
    (holdRequest s).tru = s.tru ∧
    (holdRequest s).rtu = s.rtu ∧
    (holdRequest s).lnu = s.lnu ∧
    (holdRequest s).inu = s.inu ∧
    (holdRequest s).rpu = s.rpu ∧
    (holdRequest s).adu = s.adu ∧
    (holdRequest s).acu = s.acu ∧
    (holdRequest s).pfu = s.pfu ∧
    (holdRequest s).held = s.held ∧
    (holdRequest s).free = s.free ∧
    (holdRequest s).pending = s.pending ∧
    (holdRequest s).rqu.queue = s.rqu.queue ∧
    (holdRequest s).rqu.abandon = s.rqu.abandon ∧
    (holdRequest s).rqu.mask = s.rqu.mask := by
  unfold holdRequest
  (repeat' split) <;> simp

@[simp] theorem answerHeld_frame (k : Nat) (c : ResultCode) (r1 : Word) (r2 : Word) (r3 : Word) (s : State) :
    (answerHeld k c r1 r2 r3 s).powered = s.powered ∧
    (answerHeld k c r1 r2 r3 s).mem = s.mem ∧
    (answerHeld k c r1 r2 r3 s).bpu = s.bpu ∧
    (answerHeld k c r1 r2 r3 s).cfl = s.cfl ∧
    (answerHeld k c r1 r2 r3 s).cnu = s.cnu ∧
    (answerHeld k c r1 r2 r3 s).tru = s.tru ∧
    (answerHeld k c r1 r2 r3 s).rtu = s.rtu ∧
    (answerHeld k c r1 r2 r3 s).lnu = s.lnu ∧
    (answerHeld k c r1 r2 r3 s).inu = s.inu ∧
    (answerHeld k c r1 r2 r3 s).rpu = s.rpu ∧
    (answerHeld k c r1 r2 r3 s).adu = s.adu ∧
    (answerHeld k c r1 r2 r3 s).acu = s.acu ∧
    (answerHeld k c r1 r2 r3 s).pfu = s.pfu ∧
    (answerHeld k c r1 r2 r3 s).held = s.held ∧
    (answerHeld k c r1 r2 r3 s).free = s.free ∧
    (answerHeld k c r1 r2 r3 s).pending = s.pending ∧
    (answerHeld k c r1 r2 r3 s).rqu.queue = s.rqu.queue ∧
    (answerHeld k c r1 r2 r3 s).rqu.abandon = s.rqu.abandon ∧
    (answerHeld k c r1 r2 r3 s).rqu.mask = s.rqu.mask := by
  unfold answerHeld
  (repeat' split) <;> simp

/-! ### Machine/LineOps -/

@[simp] theorem setLine_frame (st : LineState) (s : State) :
    (setLine st s).powered = s.powered ∧
    (setLine st s).mem = s.mem ∧
    (setLine st s).bpu = s.bpu ∧
    (setLine st s).cfl = s.cfl ∧
    (setLine st s).cnu = s.cnu ∧
    (setLine st s).tru = s.tru ∧
    (setLine st s).rtu = s.rtu ∧
    (setLine st s).inu = s.inu ∧
    (setLine st s).rpu = s.rpu ∧
    (setLine st s).adu = s.adu ∧
    (setLine st s).acu = s.acu ∧
    (setLine st s).pfu = s.pfu ∧
    (setLine st s).held = s.held ∧
    (setLine st s).free = s.free ∧
    (setLine st s).pending = s.pending ∧
    (setLine st s).rqu.service = s.rqu.service ∧
    (setLine st s).rqu.queue = s.rqu.queue ∧
    (setLine st s).rqu.abandon = s.rqu.abandon ∧
    (setLine st s).rqu.mask = s.rqu.mask ∧
    (setLine st s).lnu.offHook = s.lnu.offHook ∧
    (setLine st s).lnu.buffer = s.lnu.buffer := by
  unfold setLine
  (repeat' split) <;> simp

@[simp] theorem openRelay_frame (s : State) :
    (openRelay s).powered = s.powered ∧
    (openRelay s).mem = s.mem ∧
    (openRelay s).bpu = s.bpu ∧
    (openRelay s).cfl = s.cfl ∧
    (openRelay s).rqu = s.rqu ∧
    (openRelay s).cnu = s.cnu ∧
    (openRelay s).tru = s.tru ∧
    (openRelay s).rtu = s.rtu ∧
    (openRelay s).inu = s.inu ∧
    (openRelay s).rpu = s.rpu ∧
    (openRelay s).adu = s.adu ∧
    (openRelay s).acu = s.acu ∧
    (openRelay s).pfu = s.pfu ∧
    (openRelay s).held = s.held ∧
    (openRelay s).free = s.free ∧
    (openRelay s).pending = s.pending ∧
    (openRelay s).lnu.state = s.lnu.state ∧
    (openRelay s).lnu.offHook = s.lnu.offHook ∧
    (openRelay s).lnu.buffer = s.lnu.buffer ∧
    (openRelay s).lnu.timers = s.lnu.timers := by
  unfold openRelay
  (repeat' split) <;> simp

@[simp] theorem closeRelay_frame (s : State) :
    (closeRelay s).powered = s.powered ∧
    (closeRelay s).mem = s.mem ∧
    (closeRelay s).bpu = s.bpu ∧
    (closeRelay s).cfl = s.cfl ∧
    (closeRelay s).rqu = s.rqu ∧
    (closeRelay s).cnu = s.cnu ∧
    (closeRelay s).tru = s.tru ∧
    (closeRelay s).rtu = s.rtu ∧
    (closeRelay s).inu = s.inu ∧
    (closeRelay s).rpu = s.rpu ∧
    (closeRelay s).adu = s.adu ∧
    (closeRelay s).acu = s.acu ∧
    (closeRelay s).pfu = s.pfu ∧
    (closeRelay s).held = s.held ∧
    (closeRelay s).free = s.free ∧
    (closeRelay s).pending = s.pending ∧
    (closeRelay s).lnu.state = s.lnu.state ∧
    (closeRelay s).lnu.offHook = s.lnu.offHook ∧
    (closeRelay s).lnu.buffer = s.lnu.buffer := by
  unfold closeRelay
  simp

@[simp] theorem beginSeizure_frame (st : LineState) (s : State) :
    (beginSeizure st s).powered = s.powered ∧
    (beginSeizure st s).mem = s.mem ∧
    (beginSeizure st s).bpu = s.bpu ∧
    (beginSeizure st s).cfl = s.cfl ∧
    (beginSeizure st s).cnu = s.cnu ∧
    (beginSeizure st s).tru = s.tru ∧
    (beginSeizure st s).rtu = s.rtu ∧
    (beginSeizure st s).inu = s.inu ∧
    (beginSeizure st s).rpu = s.rpu ∧
    (beginSeizure st s).adu = s.adu ∧
    (beginSeizure st s).acu = s.acu ∧
    (beginSeizure st s).pfu = s.pfu ∧
    (beginSeizure st s).held = s.held ∧
    (beginSeizure st s).free = s.free ∧
    (beginSeizure st s).pending = s.pending ∧
    (beginSeizure st s).rqu.service = s.rqu.service ∧
    (beginSeizure st s).rqu.queue = s.rqu.queue ∧
    (beginSeizure st s).rqu.abandon = s.rqu.abandon ∧
    (beginSeizure st s).rqu.mask = s.rqu.mask ∧
    (beginSeizure st s).lnu.offHook = s.lnu.offHook ∧
    (beginSeizure st s).lnu.buffer = s.lnu.buffer := by
  unfold beginSeizure
  dsimp only
  (repeat' split) <;> simp

@[simp] theorem stopCall_frame (s : State) :
    (stopCall s).powered = s.powered ∧
    (stopCall s).mem = s.mem ∧
    (stopCall s).bpu = s.bpu ∧
    (stopCall s).cfl = s.cfl ∧
    (stopCall s).cnu = s.cnu ∧
    (stopCall s).tru = s.tru ∧
    (stopCall s).rtu = s.rtu ∧
    (stopCall s).inu = s.inu ∧
    (stopCall s).rpu = s.rpu ∧
    (stopCall s).adu = s.adu ∧
    (stopCall s).acu = s.acu ∧
    (stopCall s).pfu = s.pfu ∧
    (stopCall s).held = s.held ∧
    (stopCall s).free = s.free ∧
    (stopCall s).pending = s.pending ∧
    (stopCall s).rqu.queue = s.rqu.queue ∧
    (stopCall s).rqu.abandon = s.rqu.abandon ∧
    (stopCall s).rqu.mask = s.rqu.mask ∧
    (stopCall s).lnu.state = s.lnu.state ∧
    (stopCall s).lnu.offHook = s.lnu.offHook := by
  unfold stopCall
  simp

@[simp] theorem startTone_frame (s : State) :
    (startTone s).powered = s.powered ∧
    (startTone s).mem = s.mem ∧
    (startTone s).bpu = s.bpu ∧
    (startTone s).cfl = s.cfl ∧
    (startTone s).rqu = s.rqu ∧
    (startTone s).cnu = s.cnu ∧
    (startTone s).tru = s.tru ∧
    (startTone s).rtu = s.rtu ∧
    (startTone s).inu = s.inu ∧
    (startTone s).rpu = s.rpu ∧
    (startTone s).adu = s.adu ∧
    (startTone s).acu = s.acu ∧
    (startTone s).pfu = s.pfu ∧
    (startTone s).held = s.held ∧
    (startTone s).free = s.free ∧
    (startTone s).pending = s.pending ∧
    (startTone s).lnu.state = s.lnu.state ∧
    (startTone s).lnu.offHook = s.lnu.offHook ∧
    (startTone s).lnu.buffer = s.lnu.buffer ∧
    (startTone s).lnu.timers = s.lnu.timers := by
  unfold startTone
  (repeat' split) <;> simp

@[simp] theorem clearReport_frame (s : State) :
    (clearReport s).powered = s.powered ∧
    (clearReport s).mem = s.mem ∧
    (clearReport s).bpu = s.bpu ∧
    (clearReport s).cfl = s.cfl ∧
    (clearReport s).cnu = s.cnu ∧
    (clearReport s).tru = s.tru ∧
    (clearReport s).rtu = s.rtu ∧
    (clearReport s).inu = s.inu ∧
    (clearReport s).rpu = s.rpu ∧
    (clearReport s).adu = s.adu ∧
    (clearReport s).acu = s.acu ∧
    (clearReport s).pfu = s.pfu ∧
    (clearReport s).held = s.held ∧
    (clearReport s).free = s.free ∧
    (clearReport s).pending = s.pending ∧
    (clearReport s).rqu.queue = s.rqu.queue ∧
    (clearReport s).rqu.abandon = s.rqu.abandon ∧
    (clearReport s).rqu.mask = s.rqu.mask ∧
    (clearReport s).lnu.offHook = s.lnu.offHook := by
  unfold clearReport
  simp

/-! ### Machine/Clock -/

@[simp] theorem setCalendarClock_frame (c : Cal) (s : State) :
    (setCalendarClock c s).powered = s.powered ∧
    (setCalendarClock c s).mem = s.mem ∧
    (setCalendarClock c s).bpu = s.bpu ∧
    (setCalendarClock c s).cfl = s.cfl ∧
    (setCalendarClock c s).cnu = s.cnu ∧
    (setCalendarClock c s).rtu = s.rtu ∧
    (setCalendarClock c s).lnu = s.lnu ∧
    (setCalendarClock c s).inu = s.inu ∧
    (setCalendarClock c s).rpu = s.rpu ∧
    (setCalendarClock c s).adu = s.adu ∧
    (setCalendarClock c s).acu = s.acu ∧
    (setCalendarClock c s).pfu = s.pfu ∧
    (setCalendarClock c s).held = s.held ∧
    (setCalendarClock c s).free = s.free ∧
    (setCalendarClock c s).pending = s.pending ∧
    (setCalendarClock c s).rqu.service = s.rqu.service ∧
    (setCalendarClock c s).rqu.queue = s.rqu.queue ∧
    (setCalendarClock c s).rqu.abandon = s.rqu.abandon ∧
    (setCalendarClock c s).rqu.mask = s.rqu.mask ∧
    (setCalendarClock c s).tru.valid = s.tru.valid ∧
    (setCalendarClock c s).tru.unsettled = s.tru.unsettled := by
  unfold setCalendarClock
  simp

@[simp] theorem setClockFromDigits_frame (ds : List Nat) (s : State) :
    (setClockFromDigits ds s).powered = s.powered ∧
    (setClockFromDigits ds s).mem = s.mem ∧
    (setClockFromDigits ds s).bpu = s.bpu ∧
    (setClockFromDigits ds s).cfl = s.cfl ∧
    (setClockFromDigits ds s).cnu = s.cnu ∧
    (setClockFromDigits ds s).rtu = s.rtu ∧
    (setClockFromDigits ds s).lnu = s.lnu ∧
    (setClockFromDigits ds s).inu = s.inu ∧
    (setClockFromDigits ds s).rpu = s.rpu ∧
    (setClockFromDigits ds s).adu = s.adu ∧
    (setClockFromDigits ds s).acu = s.acu ∧
    (setClockFromDigits ds s).pfu = s.pfu ∧
    (setClockFromDigits ds s).held = s.held ∧
    (setClockFromDigits ds s).free = s.free ∧
    (setClockFromDigits ds s).pending = s.pending ∧
    (setClockFromDigits ds s).rqu.service = s.rqu.service ∧
    (setClockFromDigits ds s).rqu.queue = s.rqu.queue ∧
    (setClockFromDigits ds s).rqu.abandon = s.rqu.abandon ∧
    (setClockFromDigits ds s).rqu.mask = s.rqu.mask ∧
    (setClockFromDigits ds s).tru.valid = s.tru.valid ∧
    (setClockFromDigits ds s).tru.unsettled = s.tru.unsettled := by
  unfold setClockFromDigits
  dsimp only
  (repeat' split) <;> simp

@[simp] theorem setClockRequest_frame (ps : List Word) (s : State) :
    (setClockRequest ps s).powered = s.powered ∧
    (setClockRequest ps s).mem = s.mem ∧
    (setClockRequest ps s).bpu = s.bpu ∧
    (setClockRequest ps s).cfl = s.cfl ∧
    (setClockRequest ps s).cnu = s.cnu ∧
    (setClockRequest ps s).rtu = s.rtu ∧
    (setClockRequest ps s).lnu = s.lnu ∧
    (setClockRequest ps s).inu = s.inu ∧
    (setClockRequest ps s).rpu = s.rpu ∧
    (setClockRequest ps s).adu = s.adu ∧
    (setClockRequest ps s).acu = s.acu ∧
    (setClockRequest ps s).pfu = s.pfu ∧
    (setClockRequest ps s).held = s.held ∧
    (setClockRequest ps s).free = s.free ∧
    (setClockRequest ps s).pending = s.pending ∧
    (setClockRequest ps s).rqu.queue = s.rqu.queue ∧
    (setClockRequest ps s).rqu.abandon = s.rqu.abandon ∧
    (setClockRequest ps s).rqu.mask = s.rqu.mask ∧
    (setClockRequest ps s).tru.valid = s.tru.valid ∧
    (setClockRequest ps s).tru.unsettled = s.tru.unsettled := by
  unfold setClockRequest
  dsimp only
  (repeat' split) <;> simp

/-! ### Machine/Tally -/

@[simp] theorem moveTally_frame (f : Tallies → Tallies) (s : State) :
    (moveTally f s).powered = s.powered ∧
    (moveTally f s).mem = s.mem ∧
    (moveTally f s).bpu = s.bpu ∧
    (moveTally f s).cfl = s.cfl ∧
    (moveTally f s).rqu = s.rqu ∧
    (moveTally f s).cnu = s.cnu ∧
    (moveTally f s).tru = s.tru ∧
    (moveTally f s).rtu = s.rtu ∧
    (moveTally f s).lnu = s.lnu ∧
    (moveTally f s).inu = s.inu ∧
    (moveTally f s).rpu = s.rpu ∧
    (moveTally f s).acu = s.acu ∧
    (moveTally f s).pfu = s.pfu ∧
    (moveTally f s).held = s.held ∧
    (moveTally f s).free = s.free ∧
    (moveTally f s).pending = s.pending ∧
    (moveTally f s).adu.run = s.adu.run ∧
    (moveTally f s).adu.nextCall = s.adu.nextCall ∧
    (moveTally f s).adu.greatest = s.adu.greatest ∧
    (moveTally f s).adu.remap = s.adu.remap := by
  unfold moveTally
  simp

@[simp] theorem handAttr_frame (a : AttrId) (s : State) :
    (handAttr a s).powered = s.powered ∧
    (handAttr a s).mem = s.mem ∧
    (handAttr a s).bpu = s.bpu ∧
    (handAttr a s).cfl = s.cfl ∧
    (handAttr a s).rqu = s.rqu ∧
    (handAttr a s).cnu = s.cnu ∧
    (handAttr a s).tru = s.tru ∧
    (handAttr a s).rtu = s.rtu ∧
    (handAttr a s).lnu = s.lnu ∧
    (handAttr a s).inu = s.inu ∧
    (handAttr a s).rpu = s.rpu ∧
    (handAttr a s).acu = s.acu ∧
    (handAttr a s).pfu = s.pfu ∧
    (handAttr a s).held = s.held ∧
    (handAttr a s).free = s.free ∧
    (handAttr a s).pending = s.pending ∧
    (handAttr a s).adu.run = s.adu.run ∧
    (handAttr a s).adu.nextCall = s.adu.nextCall ∧
    (handAttr a s).adu.greatest = s.adu.greatest ∧
    (handAttr a s).adu.remap = s.adu.remap := by
  unfold handAttr
  simp

@[simp] theorem queueWriteBack_frame (flush : Bool) (deferred : Bool) (s : State) :
    (queueWriteBack flush deferred s).powered = s.powered ∧
    (queueWriteBack flush deferred s).mem = s.mem ∧
    (queueWriteBack flush deferred s).bpu = s.bpu ∧
    (queueWriteBack flush deferred s).cfl = s.cfl ∧
    (queueWriteBack flush deferred s).rqu = s.rqu ∧
    (queueWriteBack flush deferred s).cnu = s.cnu ∧
    (queueWriteBack flush deferred s).tru = s.tru ∧
    (queueWriteBack flush deferred s).rtu = s.rtu ∧
    (queueWriteBack flush deferred s).lnu = s.lnu ∧
    (queueWriteBack flush deferred s).inu = s.inu ∧
    (queueWriteBack flush deferred s).rpu = s.rpu ∧
    (queueWriteBack flush deferred s).acu = s.acu ∧
    (queueWriteBack flush deferred s).pfu = s.pfu ∧
    (queueWriteBack flush deferred s).held = s.held ∧
    (queueWriteBack flush deferred s).free = s.free ∧
    (queueWriteBack flush deferred s).pending = s.pending ∧
    (queueWriteBack flush deferred s).adu.cache = s.adu.cache ∧
    (queueWriteBack flush deferred s).adu.run = s.adu.run ∧
    (queueWriteBack flush deferred s).adu.nextCall = s.adu.nextCall ∧
    (queueWriteBack flush deferred s).adu.greatest = s.adu.greatest ∧
    (queueWriteBack flush deferred s).adu.remap = s.adu.remap := by
  unfold queueWriteBack
  (repeat' split) <;> simp

@[simp] theorem triggerWriteBack_frame (s : State) :
    (triggerWriteBack s).powered = s.powered ∧
    (triggerWriteBack s).mem = s.mem ∧
    (triggerWriteBack s).bpu = s.bpu ∧
    (triggerWriteBack s).cfl = s.cfl ∧
    (triggerWriteBack s).rqu = s.rqu ∧
    (triggerWriteBack s).cnu = s.cnu ∧
    (triggerWriteBack s).tru = s.tru ∧
    (triggerWriteBack s).rtu = s.rtu ∧
    (triggerWriteBack s).lnu = s.lnu ∧
    (triggerWriteBack s).inu = s.inu ∧
    (triggerWriteBack s).rpu = s.rpu ∧
    (triggerWriteBack s).acu = s.acu ∧
    (triggerWriteBack s).pfu = s.pfu ∧
    (triggerWriteBack s).held = s.held ∧
    (triggerWriteBack s).free = s.free ∧
    (triggerWriteBack s).pending = s.pending ∧
    (triggerWriteBack s).adu.cache = s.adu.cache ∧
    (triggerWriteBack s).adu.run = s.adu.run ∧
    (triggerWriteBack s).adu.nextCall = s.adu.nextCall ∧
    (triggerWriteBack s).adu.greatest = s.adu.greatest ∧
    (triggerWriteBack s).adu.remap = s.adu.remap := by
  unfold triggerWriteBack
  (repeat' split) <;> simp

@[simp] theorem queueRecord_frame (log : LogId) (slot : Nat) (ws : List Word) (s : State) :
    (queueRecord log slot ws s).powered = s.powered ∧
    (queueRecord log slot ws s).mem = s.mem ∧
    (queueRecord log slot ws s).bpu = s.bpu ∧
    (queueRecord log slot ws s).cfl = s.cfl ∧
    (queueRecord log slot ws s).rqu = s.rqu ∧
    (queueRecord log slot ws s).cnu = s.cnu ∧
    (queueRecord log slot ws s).tru = s.tru ∧
    (queueRecord log slot ws s).rtu = s.rtu ∧
    (queueRecord log slot ws s).lnu = s.lnu ∧
    (queueRecord log slot ws s).inu = s.inu ∧
    (queueRecord log slot ws s).rpu = s.rpu ∧
    (queueRecord log slot ws s).acu = s.acu ∧
    (queueRecord log slot ws s).pfu = s.pfu ∧
    (queueRecord log slot ws s).held = s.held ∧
    (queueRecord log slot ws s).free = s.free ∧
    (queueRecord log slot ws s).pending = s.pending ∧
    (queueRecord log slot ws s).adu.cache = s.adu.cache ∧
    (queueRecord log slot ws s).adu.run = s.adu.run ∧
    (queueRecord log slot ws s).adu.nextCall = s.adu.nextCall ∧
    (queueRecord log slot ws s).adu.greatest = s.adu.greatest ∧
    (queueRecord log slot ws s).adu.remap = s.adu.remap := by
  unfold queueRecord
  (repeat' split) <;> simp

@[simp] theorem queueCheckWord_frame (w : Word) (s : State) :
    (queueCheckWord w s).powered = s.powered ∧
    (queueCheckWord w s).mem = s.mem ∧
    (queueCheckWord w s).bpu = s.bpu ∧
    (queueCheckWord w s).cfl = s.cfl ∧
    (queueCheckWord w s).rqu = s.rqu ∧
    (queueCheckWord w s).cnu = s.cnu ∧
    (queueCheckWord w s).tru = s.tru ∧
    (queueCheckWord w s).rtu = s.rtu ∧
    (queueCheckWord w s).lnu = s.lnu ∧
    (queueCheckWord w s).inu = s.inu ∧
    (queueCheckWord w s).rpu = s.rpu ∧
    (queueCheckWord w s).acu = s.acu ∧
    (queueCheckWord w s).pfu = s.pfu ∧
    (queueCheckWord w s).held = s.held ∧
    (queueCheckWord w s).free = s.free ∧
    (queueCheckWord w s).pending = s.pending ∧
    (queueCheckWord w s).adu.cache = s.adu.cache ∧
    (queueCheckWord w s).adu.run = s.adu.run ∧
    (queueCheckWord w s).adu.nextCall = s.adu.nextCall ∧
    (queueCheckWord w s).adu.greatest = s.adu.greatest ∧
    (queueCheckWord w s).adu.remap = s.adu.remap := by
  unfold queueCheckWord
  simp

@[simp] theorem finishRun_frame (s : State) :
    (finishRun s).powered = s.powered ∧
    (finishRun s).bpu = s.bpu ∧
    (finishRun s).cfl = s.cfl ∧
    (finishRun s).rqu = s.rqu ∧
    (finishRun s).cnu = s.cnu ∧
    (finishRun s).tru = s.tru ∧
    (finishRun s).rtu = s.rtu ∧
    (finishRun s).lnu = s.lnu ∧
    (finishRun s).inu = s.inu ∧
    (finishRun s).rpu = s.rpu ∧
    (finishRun s).acu = s.acu ∧
    (finishRun s).pfu = s.pfu ∧
    (finishRun s).held = s.held ∧
    (finishRun s).free = s.free ∧
    (finishRun s).pending = s.pending ∧
    (finishRun s).adu.cache = s.adu.cache ∧
    (finishRun s).adu.nextCall = s.adu.nextCall ∧
    (finishRun s).adu.greatest = s.adu.greatest ∧
    (finishRun s).adu.remap = s.adu.remap := by
  unfold finishRun
  (repeat' split) <;> simp

/-! ### Machine/Records -/

@[simp] theorem rewrite_frame (r : IncRec) (s : State) :
    (rewrite r s).powered = s.powered ∧
    (rewrite r s).mem = s.mem ∧
    (rewrite r s).bpu = s.bpu ∧
    (rewrite r s).cfl = s.cfl ∧
    (rewrite r s).rqu = s.rqu ∧
    (rewrite r s).cnu = s.cnu ∧
    (rewrite r s).tru = s.tru ∧
    (rewrite r s).rtu = s.rtu ∧
    (rewrite r s).lnu = s.lnu ∧
    (rewrite r s).inu = s.inu ∧
    (rewrite r s).rpu = s.rpu ∧
    (rewrite r s).acu = s.acu ∧
    (rewrite r s).pfu = s.pfu ∧
    (rewrite r s).held = s.held ∧
    (rewrite r s).free = s.free ∧
    (rewrite r s).pending = s.pending ∧
    (rewrite r s).adu.cache = s.adu.cache ∧
    (rewrite r s).adu.run = s.adu.run ∧
    (rewrite r s).adu.nextCall = s.adu.nextCall ∧
    (rewrite r s).adu.greatest = s.adu.greatest ∧
    (rewrite r s).adu.remap = s.adu.remap := by
  unfold rewrite
  (repeat' split) <;> simp

@[simp] theorem putRecord_frame (r : IncRec) (s : State) :
    (putRecord r s).powered = s.powered ∧
    (putRecord r s).mem = s.mem ∧
    (putRecord r s).bpu = s.bpu ∧
    (putRecord r s).cfl = s.cfl ∧
    (putRecord r s).rqu = s.rqu ∧
    (putRecord r s).cnu = s.cnu ∧
    (putRecord r s).tru = s.tru ∧
    (putRecord r s).rtu = s.rtu ∧
    (putRecord r s).lnu = s.lnu ∧
    (putRecord r s).rpu = s.rpu ∧
    (putRecord r s).acu = s.acu ∧
    (putRecord r s).pfu = s.pfu ∧
    (putRecord r s).held = s.held ∧
    (putRecord r s).free = s.free ∧
    (putRecord r s).pending = s.pending ∧
    (putRecord r s).inu.rebuilt = s.inu.rebuilt ∧
    (putRecord r s).inu.latches = s.inu.latches ∧
    (putRecord r s).adu.cache = s.adu.cache ∧
    (putRecord r s).adu.run = s.adu.run ∧
    (putRecord r s).adu.nextCall = s.adu.nextCall ∧
    (putRecord r s).adu.greatest = s.adu.greatest ∧
    (putRecord r s).adu.remap = s.adu.remap := by
  unfold putRecord
  simp

@[simp] theorem carryRecord_frame (seq : Nat) (s : State) :
    (carryRecord seq s).powered = s.powered ∧
    (carryRecord seq s).mem = s.mem ∧
    (carryRecord seq s).bpu = s.bpu ∧
    (carryRecord seq s).cfl = s.cfl ∧
    (carryRecord seq s).rqu = s.rqu ∧
    (carryRecord seq s).cnu = s.cnu ∧
    (carryRecord seq s).tru = s.tru ∧
    (carryRecord seq s).rtu = s.rtu ∧
    (carryRecord seq s).lnu = s.lnu ∧
    (carryRecord seq s).rpu = s.rpu ∧
    (carryRecord seq s).acu = s.acu ∧
    (carryRecord seq s).pfu = s.pfu ∧
    (carryRecord seq s).held = s.held ∧
    (carryRecord seq s).free = s.free ∧
    (carryRecord seq s).pending = s.pending ∧
    (carryRecord seq s).inu.rebuilt = s.inu.rebuilt ∧
    (carryRecord seq s).inu.latches = s.inu.latches ∧
    (carryRecord seq s).adu.cache = s.adu.cache ∧
    (carryRecord seq s).adu.run = s.adu.run ∧
    (carryRecord seq s).adu.nextCall = s.adu.nextCall ∧
    (carryRecord seq s).adu.greatest = s.adu.greatest ∧
    (carryRecord seq s).adu.remap = s.adu.remap := by
  unfold carryRecord
  (repeat' split) <;> simp

@[simp] theorem acceptRecord_frame (seq : Nat) (s : State) :
    (acceptRecord seq s).powered = s.powered ∧
    (acceptRecord seq s).mem = s.mem ∧
    (acceptRecord seq s).bpu = s.bpu ∧
    (acceptRecord seq s).cfl = s.cfl ∧
    (acceptRecord seq s).rqu = s.rqu ∧
    (acceptRecord seq s).cnu = s.cnu ∧
    (acceptRecord seq s).tru = s.tru ∧
    (acceptRecord seq s).rtu = s.rtu ∧
    (acceptRecord seq s).lnu = s.lnu ∧
    (acceptRecord seq s).rpu = s.rpu ∧
    (acceptRecord seq s).acu = s.acu ∧
    (acceptRecord seq s).pfu = s.pfu ∧
    (acceptRecord seq s).held = s.held ∧
    (acceptRecord seq s).free = s.free ∧
    (acceptRecord seq s).pending = s.pending ∧
    (acceptRecord seq s).inu.rebuilt = s.inu.rebuilt ∧
    (acceptRecord seq s).inu.latches = s.inu.latches ∧
    (acceptRecord seq s).adu.cache = s.adu.cache ∧
    (acceptRecord seq s).adu.run = s.adu.run ∧
    (acceptRecord seq s).adu.nextCall = s.adu.nextCall ∧
    (acceptRecord seq s).adu.greatest = s.adu.greatest ∧
    (acceptRecord seq s).adu.remap = s.adu.remap := by
  unfold acceptRecord
  (repeat' split) <;> simp

@[simp] theorem returnRecord_frame (f : IncRec → IncRec) (seq : Nat) (s : State) :
    (returnRecord f seq s).powered = s.powered ∧
    (returnRecord f seq s).mem = s.mem ∧
    (returnRecord f seq s).bpu = s.bpu ∧
    (returnRecord f seq s).cfl = s.cfl ∧
    (returnRecord f seq s).rqu = s.rqu ∧
    (returnRecord f seq s).cnu = s.cnu ∧
    (returnRecord f seq s).tru = s.tru ∧
    (returnRecord f seq s).rtu = s.rtu ∧
    (returnRecord f seq s).lnu = s.lnu ∧
    (returnRecord f seq s).rpu = s.rpu ∧
    (returnRecord f seq s).acu = s.acu ∧
    (returnRecord f seq s).pfu = s.pfu ∧
    (returnRecord f seq s).held = s.held ∧
    (returnRecord f seq s).free = s.free ∧
    (returnRecord f seq s).pending = s.pending ∧
    (returnRecord f seq s).inu.rebuilt = s.inu.rebuilt ∧
    (returnRecord f seq s).inu.latches = s.inu.latches ∧
    (returnRecord f seq s).adu.cache = s.adu.cache ∧
    (returnRecord f seq s).adu.run = s.adu.run ∧
    (returnRecord f seq s).adu.nextCall = s.adu.nextCall ∧
    (returnRecord f seq s).adu.greatest = s.adu.greatest ∧
    (returnRecord f seq s).adu.remap = s.adu.remap := by
  unfold returnRecord
  (repeat' split) <;> simp

@[simp] theorem failRecord_frame (backoff : Nat → Nat) (seq : Nat) (s : State) :
    (failRecord backoff seq s).powered = s.powered ∧
    (failRecord backoff seq s).mem = s.mem ∧
    (failRecord backoff seq s).bpu = s.bpu ∧
    (failRecord backoff seq s).cfl = s.cfl ∧
    (failRecord backoff seq s).rqu = s.rqu ∧
    (failRecord backoff seq s).cnu = s.cnu ∧
    (failRecord backoff seq s).tru = s.tru ∧
    (failRecord backoff seq s).rtu = s.rtu ∧
    (failRecord backoff seq s).lnu = s.lnu ∧
    (failRecord backoff seq s).rpu = s.rpu ∧
    (failRecord backoff seq s).acu = s.acu ∧
    (failRecord backoff seq s).pfu = s.pfu ∧
    (failRecord backoff seq s).held = s.held ∧
    (failRecord backoff seq s).free = s.free ∧
    (failRecord backoff seq s).pending = s.pending ∧
    (failRecord backoff seq s).inu.rebuilt = s.inu.rebuilt ∧
    (failRecord backoff seq s).inu.latches = s.inu.latches ∧
    (failRecord backoff seq s).adu.cache = s.adu.cache ∧
    (failRecord backoff seq s).adu.run = s.adu.run ∧
    (failRecord backoff seq s).adu.nextCall = s.adu.nextCall ∧
    (failRecord backoff seq s).adu.greatest = s.adu.greatest ∧
    (failRecord backoff seq s).adu.remap = s.adu.remap := by
  unfold failRecord
  simp

@[simp] theorem yieldRecord_frame (seq : Nat) (s : State) :
    (yieldRecord seq s).powered = s.powered ∧
    (yieldRecord seq s).mem = s.mem ∧
    (yieldRecord seq s).bpu = s.bpu ∧
    (yieldRecord seq s).cfl = s.cfl ∧
    (yieldRecord seq s).rqu = s.rqu ∧
    (yieldRecord seq s).cnu = s.cnu ∧
    (yieldRecord seq s).tru = s.tru ∧
    (yieldRecord seq s).rtu = s.rtu ∧
    (yieldRecord seq s).lnu = s.lnu ∧
    (yieldRecord seq s).rpu = s.rpu ∧
    (yieldRecord seq s).acu = s.acu ∧
    (yieldRecord seq s).pfu = s.pfu ∧
    (yieldRecord seq s).held = s.held ∧
    (yieldRecord seq s).free = s.free ∧
    (yieldRecord seq s).pending = s.pending ∧
    (yieldRecord seq s).inu.rebuilt = s.inu.rebuilt ∧
    (yieldRecord seq s).inu.latches = s.inu.latches ∧
    (yieldRecord seq s).adu.cache = s.adu.cache ∧
    (yieldRecord seq s).adu.run = s.adu.run ∧
    (yieldRecord seq s).adu.nextCall = s.adu.nextCall ∧
    (yieldRecord seq s).adu.greatest = s.adu.greatest ∧
    (yieldRecord seq s).adu.remap = s.adu.remap := by
  unfold yieldRecord
  simp

@[simp] theorem markCleared_frame (k : IncKind) (s : State) :
    (markCleared k s).powered = s.powered ∧
    (markCleared k s).mem = s.mem ∧
    (markCleared k s).bpu = s.bpu ∧
    (markCleared k s).cfl = s.cfl ∧
    (markCleared k s).rqu = s.rqu ∧
    (markCleared k s).cnu = s.cnu ∧
    (markCleared k s).tru = s.tru ∧
    (markCleared k s).rtu = s.rtu ∧
    (markCleared k s).lnu = s.lnu ∧
    (markCleared k s).rpu = s.rpu ∧
    (markCleared k s).acu = s.acu ∧
    (markCleared k s).pfu = s.pfu ∧
    (markCleared k s).held = s.held ∧
    (markCleared k s).free = s.free ∧
    (markCleared k s).pending = s.pending ∧
    (markCleared k s).inu.rebuilt = s.inu.rebuilt ∧
    (markCleared k s).inu.latches = s.inu.latches ∧
    (markCleared k s).adu.cache = s.adu.cache ∧
    (markCleared k s).adu.run = s.adu.run ∧
    (markCleared k s).adu.nextCall = s.adu.nextCall ∧
    (markCleared k s).adu.greatest = s.adu.greatest ∧
    (markCleared k s).adu.remap = s.adu.remap := by
  unfold markCleared
  (repeat' split) <;> simp

end Sys2Proof.Machine
end

