-- ==== Sys2Proof/Laws/Frames.lean ====
section
/-! SUPPORT. What the operations shared by the commands leave alone, family by family. Each frame is
a conjunction over the blocks and registers the operation never writes. -/

namespace Sys2Proof.Machine

/-! ### Machine/ReportOps -/

@[simp] theorem forSeqs_powered (f : Nat → State → State) (qs : List Nat) (s : State)
    (h : ∀ q u, (f q u).powered = u.powered) : (forSeqs f qs s).powered = s.powered := by
  simp [forSeqs, h]

@[simp] theorem forSeqs_mem (f : Nat → State → State) (qs : List Nat) (s : State)
    (h : ∀ q u, (f q u).mem = u.mem) : (forSeqs f qs s).mem = s.mem := by
  simp [forSeqs, h]

@[simp] theorem forSeqs_bpu (f : Nat → State → State) (qs : List Nat) (s : State)
    (h : ∀ q u, (f q u).bpu = u.bpu) : (forSeqs f qs s).bpu = s.bpu := by
  simp [forSeqs, h]

@[simp] theorem forSeqs_cfl (f : Nat → State → State) (qs : List Nat) (s : State)
    (h : ∀ q u, (f q u).cfl = u.cfl) : (forSeqs f qs s).cfl = s.cfl := by
  simp [forSeqs, h]

@[simp] theorem forSeqs_rqu (f : Nat → State → State) (qs : List Nat) (s : State)
    (h : ∀ q u, (f q u).rqu = u.rqu) : (forSeqs f qs s).rqu = s.rqu := by
  simp [forSeqs, h]

@[simp] theorem forSeqs_cnu (f : Nat → State → State) (qs : List Nat) (s : State)
    (h : ∀ q u, (f q u).cnu = u.cnu) : (forSeqs f qs s).cnu = s.cnu := by
  simp [forSeqs, h]

@[simp] theorem forSeqs_tru (f : Nat → State → State) (qs : List Nat) (s : State)
    (h : ∀ q u, (f q u).tru = u.tru) : (forSeqs f qs s).tru = s.tru := by
  simp [forSeqs, h]

@[simp] theorem forSeqs_rtu (f : Nat → State → State) (qs : List Nat) (s : State)
    (h : ∀ q u, (f q u).rtu = u.rtu) : (forSeqs f qs s).rtu = s.rtu := by
  simp [forSeqs, h]

@[simp] theorem forSeqs_lnu (f : Nat → State → State) (qs : List Nat) (s : State)
    (h : ∀ q u, (f q u).lnu = u.lnu) : (forSeqs f qs s).lnu = s.lnu := by
  simp [forSeqs, h]

@[simp] theorem forSeqs_inu (f : Nat → State → State) (qs : List Nat) (s : State)
    (h : ∀ q u, (f q u).inu = u.inu) : (forSeqs f qs s).inu = s.inu := by
  simp [forSeqs, h]

@[simp] theorem forSeqs_rpu (f : Nat → State → State) (qs : List Nat) (s : State)
    (h : ∀ q u, (f q u).rpu = u.rpu) : (forSeqs f qs s).rpu = s.rpu := by
  simp [forSeqs, h]

@[simp] theorem forSeqs_adu (f : Nat → State → State) (qs : List Nat) (s : State)
    (h : ∀ q u, (f q u).adu = u.adu) : (forSeqs f qs s).adu = s.adu := by
  simp [forSeqs, h]

@[simp] theorem forSeqs_acu (f : Nat → State → State) (qs : List Nat) (s : State)
    (h : ∀ q u, (f q u).acu = u.acu) : (forSeqs f qs s).acu = s.acu := by
  simp [forSeqs, h]

@[simp] theorem forSeqs_pfu (f : Nat → State → State) (qs : List Nat) (s : State)
    (h : ∀ q u, (f q u).pfu = u.pfu) : (forSeqs f qs s).pfu = s.pfu := by
  simp [forSeqs, h]

@[simp] theorem forSeqs_held (f : Nat → State → State) (qs : List Nat) (s : State)
    (h : ∀ q u, (f q u).held = u.held) : (forSeqs f qs s).held = s.held := by
  simp [forSeqs, h]

@[simp] theorem forSeqs_free (f : Nat → State → State) (qs : List Nat) (s : State)
    (h : ∀ q u, (f q u).free = u.free) : (forSeqs f qs s).free = s.free := by
  simp [forSeqs, h]

@[simp] theorem forSeqs_pending (f : Nat → State → State) (qs : List Nat) (s : State)
    (h : ∀ q u, (f q u).pending = u.pending) : (forSeqs f qs s).pending = s.pending := by
  simp [forSeqs, h]

@[simp] theorem forSeqs_bpu_table (f : Nat → State → State) (qs : List Nat) (s : State)
    (h : ∀ q u, (f q u).bpu.table = u.bpu.table) : (forSeqs f qs s).bpu.table = s.bpu.table := by
  simp [forSeqs, h]

@[simp] theorem forSeqs_bpu_busy (f : Nat → State → State) (qs : List Nat) (s : State)
    (h : ∀ q u, (f q u).bpu.busy = u.bpu.busy) : (forSeqs f qs s).bpu.busy = s.bpu.busy := by
  simp [forSeqs, h]

@[simp] theorem forSeqs_bpu_cycle (f : Nat → State → State) (qs : List Nat) (s : State)
    (h : ∀ q u, (f q u).bpu.cycle = u.bpu.cycle) : (forSeqs f qs s).bpu.cycle = s.bpu.cycle := by
  simp [forSeqs, h]

@[simp] theorem forSeqs_bpu_intercepts (f : Nat → State → State) (qs : List Nat) (s : State)
    (h : ∀ q u, (f q u).bpu.intercepts = u.bpu.intercepts) : (forSeqs f qs s).bpu.intercepts = s.bpu.intercepts := by
  simp [forSeqs, h]

@[simp] theorem forSeqs_cfl_step (f : Nat → State → State) (qs : List Nat) (s : State)
    (h : ∀ q u, (f q u).cfl.step = u.cfl.step) : (forSeqs f qs s).cfl.step = s.cfl.step := by
  simp [forSeqs, h]

@[simp] theorem forSeqs_cfl_params (f : Nat → State → State) (qs : List Nat) (s : State)
    (h : ∀ q u, (f q u).cfl.params = u.cfl.params) : (forSeqs f qs s).cfl.params = s.cfl.params := by
  simp [forSeqs, h]

@[simp] theorem forSeqs_cfl_fault (f : Nat → State → State) (qs : List Nat) (s : State)
    (h : ∀ q u, (f q u).cfl.fault = u.cfl.fault) : (forSeqs f qs s).cfl.fault = s.cfl.fault := by
  simp [forSeqs, h]

@[simp] theorem forSeqs_rqu_service (f : Nat → State → State) (qs : List Nat) (s : State)
    (h : ∀ q u, (f q u).rqu.service = u.rqu.service) : (forSeqs f qs s).rqu.service = s.rqu.service := by
  simp [forSeqs, h]

@[simp] theorem forSeqs_rqu_queue (f : Nat → State → State) (qs : List Nat) (s : State)
    (h : ∀ q u, (f q u).rqu.queue = u.rqu.queue) : (forSeqs f qs s).rqu.queue = s.rqu.queue := by
  simp [forSeqs, h]

@[simp] theorem forSeqs_rqu_abandon (f : Nat → State → State) (qs : List Nat) (s : State)
    (h : ∀ q u, (f q u).rqu.abandon = u.rqu.abandon) : (forSeqs f qs s).rqu.abandon = s.rqu.abandon := by
  simp [forSeqs, h]

@[simp] theorem forSeqs_rqu_mask (f : Nat → State → State) (qs : List Nat) (s : State)
    (h : ∀ q u, (f q u).rqu.mask = u.rqu.mask) : (forSeqs f qs s).rqu.mask = s.rqu.mask := by
  simp [forSeqs, h]

@[simp] theorem forSeqs_cnu_escrow (f : Nat → State → State) (qs : List Nat) (s : State)
    (h : ∀ q u, (f q u).cnu.escrow = u.cnu.escrow) : (forSeqs f qs s).cnu.escrow = s.cnu.escrow := by
  simp [forSeqs, h]

@[simp] theorem forSeqs_cnu_chute (f : Nat → State → State) (qs : List Nat) (s : State)
    (h : ∀ q u, (f q u).cnu.chute = u.cnu.chute) : (forSeqs f qs s).cnu.chute = s.cnu.chute := by
  simp [forSeqs, h]

@[simp] theorem forSeqs_cnu_clearance (f : Nat → State → State) (qs : List Nat) (s : State)
    (h : ∀ q u, (f q u).cnu.clearance = u.cnu.clearance) : (forSeqs f qs s).cnu.clearance = s.cnu.clearance := by
  simp [forSeqs, h]

@[simp] theorem forSeqs_cnu_openCall (f : Nat → State → State) (qs : List Nat) (s : State)
    (h : ∀ q u, (f q u).cnu.openCall = u.cnu.openCall) : (forSeqs f qs s).cnu.openCall = s.cnu.openCall := by
  simp [forSeqs, h]

@[simp] theorem forSeqs_tru_clock (f : Nat → State → State) (qs : List Nat) (s : State)
    (h : ∀ q u, (f q u).tru.clock = u.tru.clock) : (forSeqs f qs s).tru.clock = s.tru.clock := by
  simp [forSeqs, h]

@[simp] theorem forSeqs_tru_valid (f : Nat → State → State) (qs : List Nat) (s : State)
    (h : ∀ q u, (f q u).tru.valid = u.tru.valid) : (forSeqs f qs s).tru.valid = s.tru.valid := by
  simp [forSeqs, h]

@[simp] theorem forSeqs_tru_unsettled (f : Nat → State → State) (qs : List Nat) (s : State)
    (h : ∀ q u, (f q u).tru.unsettled = u.tru.unsettled) : (forSeqs f qs s).tru.unsettled = s.tru.unsettled := by
  simp [forSeqs, h]

@[simp] theorem forSeqs_rtu_ctx (f : Nat → State → State) (qs : List Nat) (s : State)
    (h : ∀ q u, (f q u).rtu.ctx = u.rtu.ctx) : (forSeqs f qs s).rtu.ctx = s.rtu.ctx := by
  simp [forSeqs, h]

@[simp] theorem forSeqs_rtu_waiting (f : Nat → State → State) (qs : List Nat) (s : State)
    (h : ∀ q u, (f q u).rtu.waiting = u.rtu.waiting) : (forSeqs f qs s).rtu.waiting = s.rtu.waiting := by
  simp [forSeqs, h]

@[simp] theorem forSeqs_rtu_carry (f : Nat → State → State) (qs : List Nat) (s : State)
    (h : ∀ q u, (f q u).rtu.carry = u.rtu.carry) : (forSeqs f qs s).rtu.carry = s.rtu.carry := by
  simp [forSeqs, h]

@[simp] theorem forSeqs_lnu_state (f : Nat → State → State) (qs : List Nat) (s : State)
    (h : ∀ q u, (f q u).lnu.state = u.lnu.state) : (forSeqs f qs s).lnu.state = s.lnu.state := by
  simp [forSeqs, h]

@[simp] theorem forSeqs_lnu_offHook (f : Nat → State → State) (qs : List Nat) (s : State)
    (h : ∀ q u, (f q u).lnu.offHook = u.lnu.offHook) : (forSeqs f qs s).lnu.offHook = s.lnu.offHook := by
  simp [forSeqs, h]

@[simp] theorem forSeqs_lnu_buffer (f : Nat → State → State) (qs : List Nat) (s : State)
    (h : ∀ q u, (f q u).lnu.buffer = u.lnu.buffer) : (forSeqs f qs s).lnu.buffer = s.lnu.buffer := by
  simp [forSeqs, h]

@[simp] theorem forSeqs_lnu_timers (f : Nat → State → State) (qs : List Nat) (s : State)
    (h : ∀ q u, (f q u).lnu.timers = u.lnu.timers) : (forSeqs f qs s).lnu.timers = s.lnu.timers := by
  simp [forSeqs, h]

@[simp] theorem forSeqs_inu_rebuilt (f : Nat → State → State) (qs : List Nat) (s : State)
    (h : ∀ q u, (f q u).inu.rebuilt = u.inu.rebuilt) : (forSeqs f qs s).inu.rebuilt = s.inu.rebuilt := by
  simp [forSeqs, h]

@[simp] theorem forSeqs_inu_latches (f : Nat → State → State) (qs : List Nat) (s : State)
    (h : ∀ q u, (f q u).inu.latches = u.inu.latches) : (forSeqs f qs s).inu.latches = s.inu.latches := by
  simp [forSeqs, h]

@[simp] theorem forSeqs_inu_records (f : Nat → State → State) (qs : List Nat) (s : State)
    (h : ∀ q u, (f q u).inu.records = u.inu.records) : (forSeqs f qs s).inu.records = s.inu.records := by
  simp [forSeqs, h]

@[simp] theorem forSeqs_rpu_call (f : Nat → State → State) (qs : List Nat) (s : State)
    (h : ∀ q u, (f q u).rpu.call = u.rpu.call) : (forSeqs f qs s).rpu.call = s.rpu.call := by
  simp [forSeqs, h]

@[simp] theorem forSeqs_rpu_timeRequest (f : Nat → State → State) (qs : List Nat) (s : State)
    (h : ∀ q u, (f q u).rpu.timeRequest = u.rpu.timeRequest) : (forSeqs f qs s).rpu.timeRequest = s.rpu.timeRequest := by
  simp [forSeqs, h]

@[simp] theorem forSeqs_adu_cache (f : Nat → State → State) (qs : List Nat) (s : State)
    (h : ∀ q u, (f q u).adu.cache = u.adu.cache) : (forSeqs f qs s).adu.cache = s.adu.cache := by
  simp [forSeqs, h]

@[simp] theorem forSeqs_adu_run (f : Nat → State → State) (qs : List Nat) (s : State)
    (h : ∀ q u, (f q u).adu.run = u.adu.run) : (forSeqs f qs s).adu.run = s.adu.run := by
  simp [forSeqs, h]

@[simp] theorem forSeqs_adu_nextCall (f : Nat → State → State) (qs : List Nat) (s : State)
    (h : ∀ q u, (f q u).adu.nextCall = u.adu.nextCall) : (forSeqs f qs s).adu.nextCall = s.adu.nextCall := by
  simp [forSeqs, h]

@[simp] theorem forSeqs_adu_greatest (f : Nat → State → State) (qs : List Nat) (s : State)
    (h : ∀ q u, (f q u).adu.greatest = u.adu.greatest) : (forSeqs f qs s).adu.greatest = s.adu.greatest := by
  simp [forSeqs, h]

@[simp] theorem forSeqs_adu_remap (f : Nat → State → State) (qs : List Nat) (s : State)
    (h : ∀ q u, (f q u).adu.remap = u.adu.remap) : (forSeqs f qs s).adu.remap = s.adu.remap := by
  simp [forSeqs, h]

@[simp] theorem forSeqs_acu_mode (f : Nat → State → State) (qs : List Nat) (s : State)
    (h : ∀ q u, (f q u).acu.mode = u.acu.mode) : (forSeqs f qs s).acu.mode = s.acu.mode := by
  simp [forSeqs, h]

@[simp] theorem forSeqs_acu_attempts (f : Nat → State → State) (qs : List Nat) (s : State)
    (h : ∀ q u, (f q u).acu.attempts = u.acu.attempts) : (forSeqs f qs s).acu.attempts = s.acu.attempts := by
  simp [forSeqs, h]

@[simp] theorem forSeqs_pfu_power (f : Nat → State → State) (qs : List Nat) (s : State)
    (h : ∀ q u, (f q u).pfu.power = u.pfu.power) : (forSeqs f qs s).pfu.power = s.pfu.power := by
  simp [forSeqs, h]

@[simp] theorem forSeqs_pfu_step5 (f : Nat → State → State) (qs : List Nat) (s : State)
    (h : ∀ q u, (f q u).pfu.step5 = u.pfu.step5) : (forSeqs f qs s).pfu.step5 = s.pfu.step5 := by
  simp [forSeqs, h]

@[simp] theorem forSeqs_pfu_save (f : Nat → State → State) (qs : List Nat) (s : State)
    (h : ∀ q u, (f q u).pfu.save = u.pfu.save) : (forSeqs f qs s).pfu.save = s.pfu.save := by
  simp [forSeqs, h]

@[simp] theorem withdrawClockRequest_frame (s : State) :
    (withdrawClockRequest s).powered = s.powered ∧
    (withdrawClockRequest s).mem = s.mem ∧
    (withdrawClockRequest s).bpu = s.bpu ∧
    (withdrawClockRequest s).cfl = s.cfl ∧
    (withdrawClockRequest s).rqu = s.rqu ∧
    (withdrawClockRequest s).cnu = s.cnu ∧
    (withdrawClockRequest s).tru = s.tru ∧
    (withdrawClockRequest s).rtu = s.rtu ∧
    (withdrawClockRequest s).lnu = s.lnu ∧
    (withdrawClockRequest s).inu = s.inu ∧
    (withdrawClockRequest s).adu = s.adu ∧
    (withdrawClockRequest s).acu = s.acu ∧
    (withdrawClockRequest s).pfu = s.pfu ∧
    (withdrawClockRequest s).held = s.held ∧
    (withdrawClockRequest s).free = s.free ∧
    (withdrawClockRequest s).pending = s.pending ∧
    (withdrawClockRequest s).rpu.call = s.rpu.call := by
  unfold withdrawClockRequest
  (repeat' split) <;> simp

@[simp] theorem grantReport_frame (s : State) :
    (grantReport s).powered = s.powered ∧
    (grantReport s).mem = s.mem ∧
    (grantReport s).bpu = s.bpu ∧
    (grantReport s).cfl = s.cfl ∧
    (grantReport s).cnu = s.cnu ∧
    (grantReport s).tru = s.tru ∧
    (grantReport s).rtu = s.rtu ∧
    (grantReport s).acu = s.acu ∧
    (grantReport s).pfu = s.pfu ∧
    (grantReport s).held = s.held ∧
    (grantReport s).free = s.free ∧
    (grantReport s).pending = s.pending ∧
    (grantReport s).rqu.service = s.rqu.service ∧
    (grantReport s).rqu.queue = s.rqu.queue ∧
    (grantReport s).rqu.abandon = s.rqu.abandon ∧
    (grantReport s).rqu.mask = s.rqu.mask ∧
    (grantReport s).lnu.offHook = s.lnu.offHook ∧
    (grantReport s).inu.rebuilt = s.inu.rebuilt ∧
    (grantReport s).inu.latches = s.inu.latches ∧
    (grantReport s).rpu.timeRequest = s.rpu.timeRequest ∧
    (grantReport s).adu.cache = s.adu.cache ∧
    (grantReport s).adu.run = s.adu.run ∧
    (grantReport s).adu.nextCall = s.adu.nextCall ∧
    (grantReport s).adu.greatest = s.adu.greatest ∧
    (grantReport s).adu.remap = s.adu.remap := by
  unfold grantReport
  simp

@[simp] theorem judgeStart_frame (s : State) :
    (judgeStart s).powered = s.powered ∧
    (judgeStart s).mem = s.mem ∧
    (judgeStart s).bpu = s.bpu ∧
    (judgeStart s).cfl = s.cfl ∧
    (judgeStart s).cnu = s.cnu ∧
    (judgeStart s).tru = s.tru ∧
    (judgeStart s).rtu = s.rtu ∧
    (judgeStart s).acu = s.acu ∧
    (judgeStart s).pfu = s.pfu ∧
    (judgeStart s).held = s.held ∧
    (judgeStart s).free = s.free ∧
    (judgeStart s).pending = s.pending ∧
    (judgeStart s).rqu.service = s.rqu.service ∧
    (judgeStart s).rqu.queue = s.rqu.queue ∧
    (judgeStart s).rqu.abandon = s.rqu.abandon ∧
    (judgeStart s).rqu.mask = s.rqu.mask ∧
    (judgeStart s).lnu.offHook = s.lnu.offHook ∧
    (judgeStart s).inu.rebuilt = s.inu.rebuilt ∧
    (judgeStart s).inu.latches = s.inu.latches ∧
    (judgeStart s).adu.cache = s.adu.cache ∧
    (judgeStart s).adu.run = s.adu.run ∧
    (judgeStart s).adu.nextCall = s.adu.nextCall ∧
    (judgeStart s).adu.greatest = s.adu.greatest ∧
    (judgeStart s).adu.remap = s.adu.remap := by
  unfold judgeStart
  dsimp only
  (repeat' split) <;> simp

/-! ### Machine/Occur -/

@[simp] theorem createRecord_frame (k : IncKind) (detail : Nat) (s : State) :
    (createRecord k detail s).powered = s.powered ∧
    (createRecord k detail s).mem = s.mem ∧
    (createRecord k detail s).bpu = s.bpu ∧
    (createRecord k detail s).cfl = s.cfl ∧
    (createRecord k detail s).rqu = s.rqu ∧
    (createRecord k detail s).cnu = s.cnu ∧
    (createRecord k detail s).tru = s.tru ∧
    (createRecord k detail s).rtu = s.rtu ∧
    (createRecord k detail s).lnu = s.lnu ∧
    (createRecord k detail s).rpu = s.rpu ∧
    (createRecord k detail s).acu = s.acu ∧
    (createRecord k detail s).pfu = s.pfu ∧
    (createRecord k detail s).held = s.held ∧
    (createRecord k detail s).free = s.free ∧
    (createRecord k detail s).pending = s.pending ∧
    (createRecord k detail s).inu.rebuilt = s.inu.rebuilt ∧
    (createRecord k detail s).inu.latches = s.inu.latches ∧
    (createRecord k detail s).adu.cache = s.adu.cache ∧
    (createRecord k detail s).adu.run = s.adu.run ∧
    (createRecord k detail s).adu.nextCall = s.adu.nextCall ∧
    (createRecord k detail s).adu.greatest = s.adu.greatest ∧
    (createRecord k detail s).adu.remap = s.adu.remap := by
  unfold createRecord
  (repeat' split) <;> simp

@[simp] theorem setLatch_frame (k : IncKind) (s : State) :
    (setLatch k s).powered = s.powered ∧
    (setLatch k s).mem = s.mem ∧
    (setLatch k s).bpu = s.bpu ∧
    (setLatch k s).cfl = s.cfl ∧
    (setLatch k s).cnu = s.cnu ∧
    (setLatch k s).tru = s.tru ∧
    (setLatch k s).rtu = s.rtu ∧
    (setLatch k s).lnu = s.lnu ∧
    (setLatch k s).rpu = s.rpu ∧
    (setLatch k s).adu = s.adu ∧
    (setLatch k s).acu = s.acu ∧
    (setLatch k s).pfu = s.pfu ∧
    (setLatch k s).held = s.held ∧
    (setLatch k s).free = s.free ∧
    (setLatch k s).pending = s.pending ∧
    (setLatch k s).rqu.service = s.rqu.service ∧
    (setLatch k s).rqu.queue = s.rqu.queue ∧
    (setLatch k s).rqu.abandon = s.rqu.abandon ∧
    (setLatch k s).rqu.mask = s.rqu.mask ∧
    (setLatch k s).inu.rebuilt = s.inu.rebuilt ∧
    (setLatch k s).inu.records = s.inu.records := by
  unfold setLatch
  (repeat' split) <;> simp

@[simp] theorem takeOccurrence_frame (k : IncKind) (detail : Nat) (s : State) :
    (takeOccurrence k detail s).powered = s.powered ∧
    (takeOccurrence k detail s).mem = s.mem ∧
    (takeOccurrence k detail s).bpu = s.bpu ∧
    (takeOccurrence k detail s).cfl = s.cfl ∧
    (takeOccurrence k detail s).cnu = s.cnu ∧
    (takeOccurrence k detail s).tru = s.tru ∧
    (takeOccurrence k detail s).rtu = s.rtu ∧
    (takeOccurrence k detail s).acu = s.acu ∧
    (takeOccurrence k detail s).pfu = s.pfu ∧
    (takeOccurrence k detail s).held = s.held ∧
    (takeOccurrence k detail s).free = s.free ∧
    (takeOccurrence k detail s).pending = s.pending ∧
    (takeOccurrence k detail s).rqu.service = s.rqu.service ∧
    (takeOccurrence k detail s).rqu.queue = s.rqu.queue ∧
    (takeOccurrence k detail s).rqu.abandon = s.rqu.abandon ∧
    (takeOccurrence k detail s).rqu.mask = s.rqu.mask ∧
    (takeOccurrence k detail s).lnu.offHook = s.lnu.offHook ∧
    (takeOccurrence k detail s).inu.rebuilt = s.inu.rebuilt ∧
    (takeOccurrence k detail s).adu.cache = s.adu.cache ∧
    (takeOccurrence k detail s).adu.run = s.adu.run ∧
    (takeOccurrence k detail s).adu.nextCall = s.adu.nextCall ∧
    (takeOccurrence k detail s).adu.greatest = s.adu.greatest ∧
    (takeOccurrence k detail s).adu.remap = s.adu.remap := by
  unfold takeOccurrence
  (repeat' split) <;> simp

@[simp] theorem occur_frame (k : IncKind) (detail : Nat) (s : State) :
    (occur k detail s).powered = s.powered ∧
    (occur k detail s).mem = s.mem ∧
    (occur k detail s).bpu = s.bpu ∧
    (occur k detail s).cfl = s.cfl ∧
    (occur k detail s).cnu = s.cnu ∧
    (occur k detail s).tru = s.tru ∧
    (occur k detail s).rtu = s.rtu ∧
    (occur k detail s).acu = s.acu ∧
    (occur k detail s).pfu = s.pfu ∧
    (occur k detail s).free = s.free ∧
    (occur k detail s).pending = s.pending ∧
    (occur k detail s).rqu.service = s.rqu.service ∧
    (occur k detail s).rqu.queue = s.rqu.queue ∧
    (occur k detail s).rqu.abandon = s.rqu.abandon ∧
    (occur k detail s).rqu.mask = s.rqu.mask ∧
    (occur k detail s).lnu.offHook = s.lnu.offHook ∧
    (occur k detail s).inu.rebuilt = s.inu.rebuilt ∧
    (occur k detail s).adu.cache = s.adu.cache ∧
    (occur k detail s).adu.run = s.adu.run ∧
    (occur k detail s).adu.nextCall = s.adu.nextCall ∧
    (occur k detail s).adu.greatest = s.adu.greatest ∧
    (occur k detail s).adu.remap = s.adu.remap := by
  unfold occur
  (repeat' split) <;> simp

@[simp] theorem takeClearLatch_frame (k : IncKind) (s : State) :
    (takeClearLatch k s).powered = s.powered ∧
    (takeClearLatch k s).mem = s.mem ∧
    (takeClearLatch k s).bpu = s.bpu ∧
    (takeClearLatch k s).cfl = s.cfl ∧
    (takeClearLatch k s).cnu = s.cnu ∧
    (takeClearLatch k s).tru = s.tru ∧
    (takeClearLatch k s).rtu = s.rtu ∧
    (takeClearLatch k s).lnu = s.lnu ∧
    (takeClearLatch k s).rpu = s.rpu ∧
    (takeClearLatch k s).acu = s.acu ∧
    (takeClearLatch k s).pfu = s.pfu ∧
    (takeClearLatch k s).held = s.held ∧
    (takeClearLatch k s).free = s.free ∧
    (takeClearLatch k s).pending = s.pending ∧
    (takeClearLatch k s).rqu.service = s.rqu.service ∧
    (takeClearLatch k s).rqu.queue = s.rqu.queue ∧
    (takeClearLatch k s).rqu.abandon = s.rqu.abandon ∧
    (takeClearLatch k s).rqu.mask = s.rqu.mask ∧
    (takeClearLatch k s).inu.rebuilt = s.inu.rebuilt ∧
    (takeClearLatch k s).adu.cache = s.adu.cache ∧
    (takeClearLatch k s).adu.run = s.adu.run ∧
    (takeClearLatch k s).adu.nextCall = s.adu.nextCall ∧
    (takeClearLatch k s).adu.greatest = s.adu.greatest ∧
    (takeClearLatch k s).adu.remap = s.adu.remap := by
  unfold takeClearLatch
  (repeat' split) <;> simp

@[simp] theorem clearLatch_frame (k : IncKind) (s : State) :
    (clearLatch k s).powered = s.powered ∧
    (clearLatch k s).mem = s.mem ∧
    (clearLatch k s).bpu = s.bpu ∧
    (clearLatch k s).cfl = s.cfl ∧
    (clearLatch k s).cnu = s.cnu ∧
    (clearLatch k s).tru = s.tru ∧
    (clearLatch k s).rtu = s.rtu ∧
    (clearLatch k s).lnu = s.lnu ∧
    (clearLatch k s).rpu = s.rpu ∧
    (clearLatch k s).acu = s.acu ∧
    (clearLatch k s).pfu = s.pfu ∧
    (clearLatch k s).free = s.free ∧
    (clearLatch k s).pending = s.pending ∧
    (clearLatch k s).rqu.service = s.rqu.service ∧
    (clearLatch k s).rqu.queue = s.rqu.queue ∧
    (clearLatch k s).rqu.abandon = s.rqu.abandon ∧
    (clearLatch k s).rqu.mask = s.rqu.mask ∧
    (clearLatch k s).inu.rebuilt = s.inu.rebuilt ∧
    (clearLatch k s).adu.cache = s.adu.cache ∧
    (clearLatch k s).adu.run = s.adu.run ∧
    (clearLatch k s).adu.nextCall = s.adu.nextCall ∧
    (clearLatch k s).adu.greatest = s.adu.greatest ∧
    (clearLatch k s).adu.remap = s.adu.remap := by
  unfold clearLatch
  (repeat' split) <;> simp

@[simp] theorem putAttr_frame (a : AttrId) (v : Attr) (s : State) :
    (putAttr a v s).powered = s.powered ∧
    (putAttr a v s).mem = s.mem ∧
    (putAttr a v s).bpu = s.bpu ∧
    (putAttr a v s).cfl = s.cfl ∧
    (putAttr a v s).rqu = s.rqu ∧
    (putAttr a v s).cnu = s.cnu ∧
    (putAttr a v s).tru = s.tru ∧
    (putAttr a v s).rtu = s.rtu ∧
    (putAttr a v s).lnu = s.lnu ∧
    (putAttr a v s).rpu = s.rpu ∧
    (putAttr a v s).acu = s.acu ∧
    (putAttr a v s).pfu = s.pfu ∧
    (putAttr a v s).held = s.held ∧
    (putAttr a v s).free = s.free ∧
    (putAttr a v s).pending = s.pending ∧
    (putAttr a v s).inu.rebuilt = s.inu.rebuilt ∧
    (putAttr a v s).inu.latches = s.inu.latches ∧
    (putAttr a v s).inu.records = s.inu.records ∧
    (putAttr a v s).adu.run = s.adu.run ∧
    (putAttr a v s).adu.nextCall = s.adu.nextCall ∧
    (putAttr a v s).adu.greatest = s.adu.greatest ∧
    (putAttr a v s).adu.remap = s.adu.remap := by
  unfold putAttr
  simp

@[simp] theorem takeAttrEvent_frame (a : AttrId) (s : State) :
    (takeAttrEvent a s).powered = s.powered ∧
    (takeAttrEvent a s).mem = s.mem ∧
    (takeAttrEvent a s).bpu = s.bpu ∧
    (takeAttrEvent a s).cfl = s.cfl ∧
    (takeAttrEvent a s).cnu = s.cnu ∧
    (takeAttrEvent a s).tru = s.tru ∧
    (takeAttrEvent a s).rtu = s.rtu ∧
    (takeAttrEvent a s).acu = s.acu ∧
    (takeAttrEvent a s).pfu = s.pfu ∧
    (takeAttrEvent a s).held = s.held ∧
    (takeAttrEvent a s).free = s.free ∧
    (takeAttrEvent a s).pending = s.pending ∧
    (takeAttrEvent a s).rqu.service = s.rqu.service ∧
    (takeAttrEvent a s).rqu.queue = s.rqu.queue ∧
    (takeAttrEvent a s).rqu.abandon = s.rqu.abandon ∧
    (takeAttrEvent a s).rqu.mask = s.rqu.mask ∧
    (takeAttrEvent a s).lnu.offHook = s.lnu.offHook ∧
    (takeAttrEvent a s).inu.rebuilt = s.inu.rebuilt ∧
    (takeAttrEvent a s).adu.run = s.adu.run ∧
    (takeAttrEvent a s).adu.nextCall = s.adu.nextCall ∧
    (takeAttrEvent a s).adu.greatest = s.adu.greatest ∧
    (takeAttrEvent a s).adu.remap = s.adu.remap := by
  unfold takeAttrEvent
  dsimp only
  (repeat' split) <;> simp

@[simp] theorem attrEvent_frame (a : AttrId) (s : State) :
    (attrEvent a s).powered = s.powered ∧
    (attrEvent a s).mem = s.mem ∧
    (attrEvent a s).bpu = s.bpu ∧
    (attrEvent a s).cfl = s.cfl ∧
    (attrEvent a s).cnu = s.cnu ∧
    (attrEvent a s).tru = s.tru ∧
    (attrEvent a s).rtu = s.rtu ∧
    (attrEvent a s).acu = s.acu ∧
    (attrEvent a s).pfu = s.pfu ∧
    (attrEvent a s).free = s.free ∧
    (attrEvent a s).pending = s.pending ∧
    (attrEvent a s).rqu.service = s.rqu.service ∧
    (attrEvent a s).rqu.queue = s.rqu.queue ∧
    (attrEvent a s).rqu.abandon = s.rqu.abandon ∧
    (attrEvent a s).rqu.mask = s.rqu.mask ∧
    (attrEvent a s).lnu.offHook = s.lnu.offHook ∧
    (attrEvent a s).inu.rebuilt = s.inu.rebuilt ∧
    (attrEvent a s).adu.run = s.adu.run ∧
    (attrEvent a s).adu.nextCall = s.adu.nextCall ∧
    (attrEvent a s).adu.greatest = s.adu.greatest ∧
    (attrEvent a s).adu.remap = s.adu.remap := by
  unfold attrEvent
  (repeat' split) <;> simp

@[simp] theorem attrEvents_frame (a : AttrId) (n : Nat) (s : State) :
    (attrEvents a n s).powered = s.powered ∧
    (attrEvents a n s).mem = s.mem ∧
    (attrEvents a n s).bpu = s.bpu ∧
    (attrEvents a n s).cfl = s.cfl ∧
    (attrEvents a n s).cnu = s.cnu ∧
    (attrEvents a n s).tru = s.tru ∧
    (attrEvents a n s).rtu = s.rtu ∧
    (attrEvents a n s).acu = s.acu ∧
    (attrEvents a n s).pfu = s.pfu ∧
    (attrEvents a n s).free = s.free ∧
    (attrEvents a n s).pending = s.pending ∧
    (attrEvents a n s).rqu.service = s.rqu.service ∧
    (attrEvents a n s).rqu.queue = s.rqu.queue ∧
    (attrEvents a n s).rqu.abandon = s.rqu.abandon ∧
    (attrEvents a n s).rqu.mask = s.rqu.mask ∧
    (attrEvents a n s).lnu.offHook = s.lnu.offHook ∧
    (attrEvents a n s).inu.rebuilt = s.inu.rebuilt ∧
    (attrEvents a n s).adu.run = s.adu.run ∧
    (attrEvents a n s).adu.nextCall = s.adu.nextCall ∧
    (attrEvents a n s).adu.greatest = s.adu.greatest ∧
    (attrEvents a n s).adu.remap = s.adu.remap := by
  induction n generalizing s with
  | zero => simp [attrEvents]
  | succ n ih => simp [attrEvents, ih]

/-! ### Machine/CoinOps -/

@[simp] theorem noDropsNotice_frame (s : State) :
    (noDropsNotice s).powered = s.powered ∧
    (noDropsNotice s).mem = s.mem ∧
    (noDropsNotice s).bpu = s.bpu ∧
    (noDropsNotice s).cfl = s.cfl ∧
    (noDropsNotice s).rqu = s.rqu ∧
    (noDropsNotice s).cnu = s.cnu ∧
    (noDropsNotice s).tru = s.tru ∧
    (noDropsNotice s).rtu = s.rtu ∧
    (noDropsNotice s).lnu = s.lnu ∧
    (noDropsNotice s).inu = s.inu ∧
    (noDropsNotice s).rpu = s.rpu ∧
    (noDropsNotice s).acu = s.acu ∧
    (noDropsNotice s).pfu = s.pfu ∧
    (noDropsNotice s).held = s.held ∧
    (noDropsNotice s).free = s.free ∧
    (noDropsNotice s).pending = s.pending ∧
    (noDropsNotice s).adu.cache = s.adu.cache ∧
    (noDropsNotice s).adu.run = s.adu.run ∧
    (noDropsNotice s).adu.nextCall = s.adu.nextCall ∧
    (noDropsNotice s).adu.greatest = s.adu.greatest ∧
    (noDropsNotice s).adu.remap = s.adu.remap := by
  unfold noDropsNotice
  (repeat' split) <;> simp

@[simp] theorem checkWatch_frame (s : State) :
    (checkWatch s).powered = s.powered ∧
    (checkWatch s).mem = s.mem ∧
    (checkWatch s).bpu = s.bpu ∧
    (checkWatch s).cfl = s.cfl ∧
    (checkWatch s).rqu = s.rqu ∧
    (checkWatch s).tru = s.tru ∧
    (checkWatch s).rtu = s.rtu ∧
    (checkWatch s).lnu = s.lnu ∧
    (checkWatch s).inu = s.inu ∧
    (checkWatch s).rpu = s.rpu ∧
    (checkWatch s).acu = s.acu ∧
    (checkWatch s).pfu = s.pfu ∧
    (checkWatch s).held = s.held ∧
    (checkWatch s).free = s.free ∧
    (checkWatch s).pending = s.pending ∧
    (checkWatch s).cnu.escrow = s.cnu.escrow ∧
    (checkWatch s).cnu.chute = s.cnu.chute ∧
    (checkWatch s).cnu.clearance = s.cnu.clearance ∧
    (checkWatch s).cnu.openCall = s.cnu.openCall ∧
    (checkWatch s).adu.cache = s.adu.cache ∧
    (checkWatch s).adu.run = s.adu.run ∧
    (checkWatch s).adu.nextCall = s.adu.nextCall ∧
    (checkWatch s).adu.greatest = s.adu.greatest ∧
    (checkWatch s).adu.remap = s.adu.remap := by
  unfold checkWatch
  (repeat' split) <;> simp

@[simp] theorem queueDrop_frame (seq : Nat) (dir : Dir) (s : State) :
    (queueDrop seq dir s).powered = s.powered ∧
    (queueDrop seq dir s).mem = s.mem ∧
    (queueDrop seq dir s).bpu = s.bpu ∧
    (queueDrop seq dir s).cfl = s.cfl ∧
    (queueDrop seq dir s).rqu = s.rqu ∧
    (queueDrop seq dir s).tru = s.tru ∧
    (queueDrop seq dir s).rtu = s.rtu ∧
    (queueDrop seq dir s).lnu = s.lnu ∧
    (queueDrop seq dir s).inu = s.inu ∧
    (queueDrop seq dir s).rpu = s.rpu ∧
    (queueDrop seq dir s).adu = s.adu ∧
    (queueDrop seq dir s).acu = s.acu ∧
    (queueDrop seq dir s).pfu = s.pfu ∧
    (queueDrop seq dir s).held = s.held ∧
    (queueDrop seq dir s).free = s.free ∧
    (queueDrop seq dir s).pending = s.pending ∧
    (queueDrop seq dir s).cnu.escrow = s.cnu.escrow ∧
    (queueDrop seq dir s).cnu.chute = s.cnu.chute ∧
    (queueDrop seq dir s).cnu.clearance = s.cnu.clearance ∧
    (queueDrop seq dir s).cnu.openCall = s.cnu.openCall := by
  unfold queueDrop
  (repeat' split) <;> simp

@[simp] theorem startDrop_frame (s : State) :
    (startDrop s).powered = s.powered ∧
    (startDrop s).mem = s.mem ∧
    (startDrop s).bpu = s.bpu ∧
    (startDrop s).cfl = s.cfl ∧
    (startDrop s).rqu = s.rqu ∧
    (startDrop s).tru = s.tru ∧
    (startDrop s).rtu = s.rtu ∧
    (startDrop s).lnu = s.lnu ∧
    (startDrop s).inu = s.inu ∧
    (startDrop s).rpu = s.rpu ∧
    (startDrop s).adu = s.adu ∧
    (startDrop s).acu = s.acu ∧
    (startDrop s).pfu = s.pfu ∧
    (startDrop s).held = s.held ∧
    (startDrop s).free = s.free ∧
    (startDrop s).pending = s.pending ∧
    (startDrop s).cnu.chute = s.cnu.chute ∧
    (startDrop s).cnu.clearance = s.cnu.clearance ∧
    (startDrop s).cnu.openCall = s.cnu.openCall := by
  unfold startDrop
  (repeat' split) <;> simp

@[simp] theorem commitOrder_frame (seq : Nat) (s : State) :
    (commitOrder seq s).powered = s.powered ∧
    (commitOrder seq s).mem = s.mem ∧
    (commitOrder seq s).bpu = s.bpu ∧
    (commitOrder seq s).cfl = s.cfl ∧
    (commitOrder seq s).rqu = s.rqu ∧
    (commitOrder seq s).tru = s.tru ∧
    (commitOrder seq s).rtu = s.rtu ∧
    (commitOrder seq s).lnu = s.lnu ∧
    (commitOrder seq s).inu = s.inu ∧
    (commitOrder seq s).rpu = s.rpu ∧
    (commitOrder seq s).adu = s.adu ∧
    (commitOrder seq s).acu = s.acu ∧
    (commitOrder seq s).pfu = s.pfu ∧
    (commitOrder seq s).held = s.held ∧
    (commitOrder seq s).free = s.free ∧
    (commitOrder seq s).pending = s.pending ∧
    (commitOrder seq s).cnu.chute = s.cnu.chute ∧
    (commitOrder seq s).cnu.clearance = s.cnu.clearance ∧
    (commitOrder seq s).cnu.openCall = s.cnu.openCall := by
  unfold commitOrder
  (repeat' split) <;> simp

@[simp] theorem returnOrder_frame (o : Owner) (s : State) :
    (returnOrder o s).powered = s.powered ∧
    (returnOrder o s).mem = s.mem ∧
    (returnOrder o s).bpu = s.bpu ∧
    (returnOrder o s).cfl = s.cfl ∧
    (returnOrder o s).rqu = s.rqu ∧
    (returnOrder o s).tru = s.tru ∧
    (returnOrder o s).rtu = s.rtu ∧
    (returnOrder o s).lnu = s.lnu ∧
    (returnOrder o s).inu = s.inu ∧
    (returnOrder o s).rpu = s.rpu ∧
    (returnOrder o s).adu = s.adu ∧
    (returnOrder o s).acu = s.acu ∧
    (returnOrder o s).pfu = s.pfu ∧
    (returnOrder o s).held = s.held ∧
    (returnOrder o s).free = s.free ∧
    (returnOrder o s).pending = s.pending ∧
    (returnOrder o s).cnu.chute = s.cnu.chute ∧
    (returnOrder o s).cnu.clearance = s.cnu.clearance ∧
    (returnOrder o s).cnu.openCall = s.cnu.openCall := by
  unfold returnOrder
  simp

@[simp] theorem transferOrder_frame (old : Owner) (new : Owner) (s : State) :
    (transferOrder old new s).powered = s.powered ∧
    (transferOrder old new s).mem = s.mem ∧
    (transferOrder old new s).bpu = s.bpu ∧
    (transferOrder old new s).cfl = s.cfl ∧
    (transferOrder old new s).rqu = s.rqu ∧
    (transferOrder old new s).tru = s.tru ∧
    (transferOrder old new s).rtu = s.rtu ∧
    (transferOrder old new s).lnu = s.lnu ∧
    (transferOrder old new s).inu = s.inu ∧
    (transferOrder old new s).rpu = s.rpu ∧
    (transferOrder old new s).adu = s.adu ∧
    (transferOrder old new s).acu = s.acu ∧
    (transferOrder old new s).pfu = s.pfu ∧
    (transferOrder old new s).held = s.held ∧
    (transferOrder old new s).free = s.free ∧
    (transferOrder old new s).pending = s.pending ∧
    (transferOrder old new s).cnu.chute = s.cnu.chute ∧
    (transferOrder old new s).cnu.clearance = s.cnu.clearance ∧
    (transferOrder old new s).cnu.openCall = s.cnu.openCall := by
  unfold transferOrder
  simp

@[simp] theorem settlementTaken_frame (o : Owner) (s : State) :
    (settlementTaken o s).powered = s.powered ∧
    (settlementTaken o s).mem = s.mem ∧
    (settlementTaken o s).bpu = s.bpu ∧
    (settlementTaken o s).cfl = s.cfl ∧
    (settlementTaken o s).rqu = s.rqu ∧
    (settlementTaken o s).tru = s.tru ∧
    (settlementTaken o s).rtu = s.rtu ∧
    (settlementTaken o s).lnu = s.lnu ∧
    (settlementTaken o s).inu = s.inu ∧
    (settlementTaken o s).rpu = s.rpu ∧
    (settlementTaken o s).acu = s.acu ∧
    (settlementTaken o s).pfu = s.pfu ∧
    (settlementTaken o s).held = s.held ∧
    (settlementTaken o s).free = s.free ∧
    (settlementTaken o s).pending = s.pending ∧
    (settlementTaken o s).cnu.escrow = s.cnu.escrow ∧
    (settlementTaken o s).cnu.chute = s.cnu.chute ∧
    (settlementTaken o s).cnu.clearance = s.cnu.clearance ∧
    (settlementTaken o s).adu.cache = s.adu.cache ∧
    (settlementTaken o s).adu.run = s.adu.run ∧
    (settlementTaken o s).adu.nextCall = s.adu.nextCall ∧
    (settlementTaken o s).adu.greatest = s.adu.greatest ∧
    (settlementTaken o s).adu.remap = s.adu.remap := by
  unfold settlementTaken
  simp

@[simp] theorem fillCheck_frame (s : State) :
    (fillCheck s).powered = s.powered ∧
    (fillCheck s).mem = s.mem ∧
    (fillCheck s).bpu = s.bpu ∧
    (fillCheck s).cfl = s.cfl ∧
    (fillCheck s).cnu = s.cnu ∧
    (fillCheck s).tru = s.tru ∧
    (fillCheck s).rtu = s.rtu ∧
    (fillCheck s).acu = s.acu ∧
    (fillCheck s).pfu = s.pfu ∧
    (fillCheck s).free = s.free ∧
    (fillCheck s).pending = s.pending ∧
    (fillCheck s).rqu.service = s.rqu.service ∧
    (fillCheck s).rqu.queue = s.rqu.queue ∧
    (fillCheck s).rqu.abandon = s.rqu.abandon ∧
    (fillCheck s).rqu.mask = s.rqu.mask ∧
    (fillCheck s).lnu.offHook = s.lnu.offHook ∧
    (fillCheck s).inu.rebuilt = s.inu.rebuilt ∧
    (fillCheck s).adu.cache = s.adu.cache ∧
    (fillCheck s).adu.run = s.adu.run ∧
    (fillCheck s).adu.nextCall = s.adu.nextCall ∧
    (fillCheck s).adu.greatest = s.adu.greatest ∧
    (fillCheck s).adu.remap = s.adu.remap := by
  unfold fillCheck
  dsimp only
  (repeat' split) <;> simp

@[simp] theorem clearanceDrop_frame (made : Nat) (sweep : Bool) (s : State) :
    (clearanceDrop made sweep s).powered = s.powered ∧
    (clearanceDrop made sweep s).mem = s.mem ∧
    (clearanceDrop made sweep s).bpu = s.bpu ∧
    (clearanceDrop made sweep s).cfl = s.cfl ∧
    (clearanceDrop made sweep s).tru = s.tru ∧
    (clearanceDrop made sweep s).rtu = s.rtu ∧
    (clearanceDrop made sweep s).acu = s.acu ∧
    (clearanceDrop made sweep s).pfu = s.pfu ∧
    (clearanceDrop made sweep s).free = s.free ∧
    (clearanceDrop made sweep s).pending = s.pending ∧
    (clearanceDrop made sweep s).rqu.service = s.rqu.service ∧
    (clearanceDrop made sweep s).rqu.queue = s.rqu.queue ∧
    (clearanceDrop made sweep s).rqu.abandon = s.rqu.abandon ∧
    (clearanceDrop made sweep s).rqu.mask = s.rqu.mask ∧
    (clearanceDrop made sweep s).cnu.escrow = s.cnu.escrow ∧
    (clearanceDrop made sweep s).cnu.chute = s.cnu.chute ∧
    (clearanceDrop made sweep s).cnu.openCall = s.cnu.openCall ∧
    (clearanceDrop made sweep s).lnu.offHook = s.lnu.offHook ∧
    (clearanceDrop made sweep s).inu.rebuilt = s.inu.rebuilt ∧
    (clearanceDrop made sweep s).adu.run = s.adu.run ∧
    (clearanceDrop made sweep s).adu.nextCall = s.adu.nextCall ∧
    (clearanceDrop made sweep s).adu.greatest = s.adu.greatest ∧
    (clearanceDrop made sweep s).adu.remap = s.adu.remap := by
  unfold clearanceDrop
  (repeat' split) <;> simp

@[simp] theorem sweepCheck_frame (s : State) :
    (sweepCheck s).powered = s.powered ∧
    (sweepCheck s).mem = s.mem ∧
    (sweepCheck s).bpu = s.bpu ∧
    (sweepCheck s).cfl = s.cfl ∧
    (sweepCheck s).tru = s.tru ∧
    (sweepCheck s).rtu = s.rtu ∧
    (sweepCheck s).acu = s.acu ∧
    (sweepCheck s).pfu = s.pfu ∧
    (sweepCheck s).free = s.free ∧
    (sweepCheck s).pending = s.pending ∧
    (sweepCheck s).rqu.service = s.rqu.service ∧
    (sweepCheck s).rqu.queue = s.rqu.queue ∧
    (sweepCheck s).rqu.abandon = s.rqu.abandon ∧
    (sweepCheck s).rqu.mask = s.rqu.mask ∧
    (sweepCheck s).cnu.escrow = s.cnu.escrow ∧
    (sweepCheck s).cnu.chute = s.cnu.chute ∧
    (sweepCheck s).cnu.openCall = s.cnu.openCall ∧
    (sweepCheck s).lnu.offHook = s.lnu.offHook ∧
    (sweepCheck s).inu.rebuilt = s.inu.rebuilt ∧
    (sweepCheck s).adu.run = s.adu.run ∧
    (sweepCheck s).adu.nextCall = s.adu.nextCall ∧
    (sweepCheck s).adu.greatest = s.adu.greatest ∧
    (sweepCheck s).adu.remap = s.adu.remap := by
  unfold sweepCheck
  (repeat' split) <;> simp

@[simp] theorem completeDrop_frame (dir : Dir) (s : State) :
    (completeDrop dir s).powered = s.powered ∧
    (completeDrop dir s).mem = s.mem ∧
    (completeDrop dir s).bpu = s.bpu ∧
    (completeDrop dir s).cfl = s.cfl ∧
    (completeDrop dir s).tru = s.tru ∧
    (completeDrop dir s).rtu = s.rtu ∧
    (completeDrop dir s).acu = s.acu ∧
    (completeDrop dir s).pfu = s.pfu ∧
    (completeDrop dir s).free = s.free ∧
    (completeDrop dir s).pending = s.pending ∧
    (completeDrop dir s).rqu.service = s.rqu.service ∧
    (completeDrop dir s).rqu.queue = s.rqu.queue ∧
    (completeDrop dir s).rqu.abandon = s.rqu.abandon ∧
    (completeDrop dir s).rqu.mask = s.rqu.mask ∧
    (completeDrop dir s).cnu.chute = s.cnu.chute ∧
    (completeDrop dir s).cnu.openCall = s.cnu.openCall ∧
    (completeDrop dir s).lnu.offHook = s.lnu.offHook ∧
    (completeDrop dir s).inu.rebuilt = s.inu.rebuilt ∧
    (completeDrop dir s).adu.run = s.adu.run ∧
    (completeDrop dir s).adu.nextCall = s.adu.nextCall ∧
    (completeDrop dir s).adu.greatest = s.adu.greatest ∧
    (completeDrop dir s).adu.remap = s.adu.remap := by
  unfold completeDrop
  dsimp only
  (repeat' split) <;> simp

@[simp] theorem unfreeze_frame (s : State) :
    (unfreeze s).powered = s.powered ∧
    (unfreeze s).mem = s.mem ∧
    (unfreeze s).bpu = s.bpu ∧
    (unfreeze s).cfl = s.cfl ∧
    (unfreeze s).rqu = s.rqu ∧
    (unfreeze s).tru = s.tru ∧
    (unfreeze s).rtu = s.rtu ∧
    (unfreeze s).lnu = s.lnu ∧
    (unfreeze s).inu = s.inu ∧
    (unfreeze s).rpu = s.rpu ∧
    (unfreeze s).adu = s.adu ∧
    (unfreeze s).acu = s.acu ∧
    (unfreeze s).pfu = s.pfu ∧
    (unfreeze s).held = s.held ∧
    (unfreeze s).free = s.free ∧
    (unfreeze s).pending = s.pending ∧
    (unfreeze s).cnu.chute = s.cnu.chute ∧
    (unfreeze s).cnu.clearance = s.cnu.clearance ∧
    (unfreeze s).cnu.openCall = s.cnu.openCall := by
  unfold unfreeze
  dsimp only
  (repeat' split) <;> simp

/-! ### Machine/CallLog -/

@[simp] theorem judgeCount_frame (old : Nat) (s : State) :
    (judgeCount old s).powered = s.powered ∧
    (judgeCount old s).mem = s.mem ∧
    (judgeCount old s).bpu = s.bpu ∧
    (judgeCount old s).cfl = s.cfl ∧
    (judgeCount old s).cnu = s.cnu ∧
    (judgeCount old s).tru = s.tru ∧
    (judgeCount old s).rtu = s.rtu ∧
    (judgeCount old s).acu = s.acu ∧
    (judgeCount old s).pfu = s.pfu ∧
    (judgeCount old s).free = s.free ∧
    (judgeCount old s).pending = s.pending ∧
    (judgeCount old s).rqu.service = s.rqu.service ∧
    (judgeCount old s).rqu.queue = s.rqu.queue ∧
    (judgeCount old s).rqu.abandon = s.rqu.abandon ∧
    (judgeCount old s).rqu.mask = s.rqu.mask ∧
    (judgeCount old s).lnu.offHook = s.lnu.offHook ∧
    (judgeCount old s).inu.rebuilt = s.inu.rebuilt ∧
    (judgeCount old s).adu.cache = s.adu.cache ∧
    (judgeCount old s).adu.run = s.adu.run ∧
    (judgeCount old s).adu.nextCall = s.adu.nextCall ∧
    (judgeCount old s).adu.greatest = s.adu.greatest ∧
    (judgeCount old s).adu.remap = s.adu.remap := by
  unfold judgeCount
  dsimp only
  (repeat' split) <;> simp

@[simp] theorem settleRecord_frame (r : CallRecord) (s : State) :
    (settleRecord r s).powered = s.powered ∧
    (settleRecord r s).mem = s.mem ∧
    (settleRecord r s).bpu = s.bpu ∧
    (settleRecord r s).cfl = s.cfl ∧
    (settleRecord r s).rqu = s.rqu ∧
    (settleRecord r s).cnu = s.cnu ∧
    (settleRecord r s).tru = s.tru ∧
    (settleRecord r s).rtu = s.rtu ∧
    (settleRecord r s).lnu = s.lnu ∧
    (settleRecord r s).inu = s.inu ∧
    (settleRecord r s).rpu = s.rpu ∧
    (settleRecord r s).acu = s.acu ∧
    (settleRecord r s).pfu = s.pfu ∧
    (settleRecord r s).held = s.held ∧
    (settleRecord r s).free = s.free ∧
    (settleRecord r s).pending = s.pending ∧
    (settleRecord r s).adu.run = s.adu.run ∧
    (settleRecord r s).adu.nextCall = s.adu.nextCall ∧
    (settleRecord r s).adu.greatest = s.adu.greatest ∧
    (settleRecord r s).adu.remap = s.adu.remap := by
  unfold settleRecord
  dsimp only
  (repeat' split) <;> simp

/-! ### Machine/RatingOps -/

@[simp] theorem watchCredit_powered (f : State → State) (s : State) (h : (f s).powered = s.powered) :
    (watchCredit f s).powered = s.powered := by
  simp [watchCredit, h]

@[simp] theorem watchCredit_mem (f : State → State) (s : State) (h : (f s).mem = s.mem) :
    (watchCredit f s).mem = s.mem := by
  simp [watchCredit, h]

@[simp] theorem watchCredit_bpu (f : State → State) (s : State) (h : (f s).bpu = s.bpu) :
    (watchCredit f s).bpu = s.bpu := by
  simp [watchCredit, h]

@[simp] theorem watchCredit_cfl (f : State → State) (s : State) (h : (f s).cfl = s.cfl) :
    (watchCredit f s).cfl = s.cfl := by
  simp [watchCredit, h]

@[simp] theorem watchCredit_cnu (f : State → State) (s : State) (h : (f s).cnu = s.cnu) :
    (watchCredit f s).cnu = s.cnu := by
  simp [watchCredit, h]

@[simp] theorem watchCredit_tru (f : State → State) (s : State) (h : (f s).tru = s.tru) :
    (watchCredit f s).tru = s.tru := by
  simp [watchCredit, h]

@[simp] theorem watchCredit_rtu (f : State → State) (s : State) (h : (f s).rtu = s.rtu) :
    (watchCredit f s).rtu = s.rtu := by
  simp [watchCredit, h]

@[simp] theorem watchCredit_lnu (f : State → State) (s : State) (h : (f s).lnu = s.lnu) :
    (watchCredit f s).lnu = s.lnu := by
  simp [watchCredit, h]

@[simp] theorem watchCredit_inu (f : State → State) (s : State) (h : (f s).inu = s.inu) :
    (watchCredit f s).inu = s.inu := by
  simp [watchCredit, h]

@[simp] theorem watchCredit_rpu (f : State → State) (s : State) (h : (f s).rpu = s.rpu) :
    (watchCredit f s).rpu = s.rpu := by
  simp [watchCredit, h]

@[simp] theorem watchCredit_adu (f : State → State) (s : State) (h : (f s).adu = s.adu) :
    (watchCredit f s).adu = s.adu := by
  simp [watchCredit, h]

@[simp] theorem watchCredit_acu (f : State → State) (s : State) (h : (f s).acu = s.acu) :
    (watchCredit f s).acu = s.acu := by
  simp [watchCredit, h]

@[simp] theorem watchCredit_pfu (f : State → State) (s : State) (h : (f s).pfu = s.pfu) :
    (watchCredit f s).pfu = s.pfu := by
  simp [watchCredit, h]

@[simp] theorem watchCredit_held (f : State → State) (s : State) (h : (f s).held = s.held) :
    (watchCredit f s).held = s.held := by
  simp [watchCredit, h]

@[simp] theorem watchCredit_free (f : State → State) (s : State) (h : (f s).free = s.free) :
    (watchCredit f s).free = s.free := by
  simp [watchCredit, h]

@[simp] theorem watchCredit_pending (f : State → State) (s : State) (h : (f s).pending = s.pending) :
    (watchCredit f s).pending = s.pending := by
  simp [watchCredit, h]

@[simp] theorem watchCredit_bpu_table (f : State → State) (s : State) (h : (f s).bpu.table = s.bpu.table) :
    (watchCredit f s).bpu.table = s.bpu.table := by
  simp [watchCredit, h]

@[simp] theorem watchCredit_bpu_busy (f : State → State) (s : State) (h : (f s).bpu.busy = s.bpu.busy) :
    (watchCredit f s).bpu.busy = s.bpu.busy := by
  simp [watchCredit, h]

@[simp] theorem watchCredit_bpu_cycle (f : State → State) (s : State) (h : (f s).bpu.cycle = s.bpu.cycle) :
    (watchCredit f s).bpu.cycle = s.bpu.cycle := by
  simp [watchCredit, h]

@[simp] theorem watchCredit_bpu_intercepts (f : State → State) (s : State) (h : (f s).bpu.intercepts = s.bpu.intercepts) :
    (watchCredit f s).bpu.intercepts = s.bpu.intercepts := by
  simp [watchCredit, h]

@[simp] theorem watchCredit_cfl_step (f : State → State) (s : State) (h : (f s).cfl.step = s.cfl.step) :
    (watchCredit f s).cfl.step = s.cfl.step := by
  simp [watchCredit, h]

@[simp] theorem watchCredit_cfl_params (f : State → State) (s : State) (h : (f s).cfl.params = s.cfl.params) :
    (watchCredit f s).cfl.params = s.cfl.params := by
  simp [watchCredit, h]

@[simp] theorem watchCredit_cfl_fault (f : State → State) (s : State) (h : (f s).cfl.fault = s.cfl.fault) :
    (watchCredit f s).cfl.fault = s.cfl.fault := by
  simp [watchCredit, h]

@[simp] theorem watchCredit_rqu_service (f : State → State) (s : State) (h : (f s).rqu.service = s.rqu.service) :
    (watchCredit f s).rqu.service = s.rqu.service := by
  simp [watchCredit, h]

@[simp] theorem watchCredit_rqu_queue (f : State → State) (s : State) (h : (f s).rqu.queue = s.rqu.queue) :
    (watchCredit f s).rqu.queue = s.rqu.queue := by
  simp [watchCredit, h]

@[simp] theorem watchCredit_rqu_abandon (f : State → State) (s : State) (h : (f s).rqu.abandon = s.rqu.abandon) :
    (watchCredit f s).rqu.abandon = s.rqu.abandon := by
  simp [watchCredit, h]

@[simp] theorem watchCredit_rqu_mask (f : State → State) (s : State) (h : (f s).rqu.mask = s.rqu.mask) :
    (watchCredit f s).rqu.mask = s.rqu.mask := by
  simp [watchCredit, h]

@[simp] theorem watchCredit_cnu_escrow (f : State → State) (s : State) (h : (f s).cnu.escrow = s.cnu.escrow) :
    (watchCredit f s).cnu.escrow = s.cnu.escrow := by
  simp [watchCredit, h]

@[simp] theorem watchCredit_cnu_chute (f : State → State) (s : State) (h : (f s).cnu.chute = s.cnu.chute) :
    (watchCredit f s).cnu.chute = s.cnu.chute := by
  simp [watchCredit, h]

@[simp] theorem watchCredit_cnu_clearance (f : State → State) (s : State) (h : (f s).cnu.clearance = s.cnu.clearance) :
    (watchCredit f s).cnu.clearance = s.cnu.clearance := by
  simp [watchCredit, h]

@[simp] theorem watchCredit_cnu_openCall (f : State → State) (s : State) (h : (f s).cnu.openCall = s.cnu.openCall) :
    (watchCredit f s).cnu.openCall = s.cnu.openCall := by
  simp [watchCredit, h]

@[simp] theorem watchCredit_tru_clock (f : State → State) (s : State) (h : (f s).tru.clock = s.tru.clock) :
    (watchCredit f s).tru.clock = s.tru.clock := by
  simp [watchCredit, h]

@[simp] theorem watchCredit_tru_valid (f : State → State) (s : State) (h : (f s).tru.valid = s.tru.valid) :
    (watchCredit f s).tru.valid = s.tru.valid := by
  simp [watchCredit, h]

@[simp] theorem watchCredit_tru_unsettled (f : State → State) (s : State) (h : (f s).tru.unsettled = s.tru.unsettled) :
    (watchCredit f s).tru.unsettled = s.tru.unsettled := by
  simp [watchCredit, h]

@[simp] theorem watchCredit_rtu_ctx (f : State → State) (s : State) (h : (f s).rtu.ctx = s.rtu.ctx) :
    (watchCredit f s).rtu.ctx = s.rtu.ctx := by
  simp [watchCredit, h]

@[simp] theorem watchCredit_rtu_waiting (f : State → State) (s : State) (h : (f s).rtu.waiting = s.rtu.waiting) :
    (watchCredit f s).rtu.waiting = s.rtu.waiting := by
  simp [watchCredit, h]

@[simp] theorem watchCredit_rtu_carry (f : State → State) (s : State) (h : (f s).rtu.carry = s.rtu.carry) :
    (watchCredit f s).rtu.carry = s.rtu.carry := by
  simp [watchCredit, h]

@[simp] theorem watchCredit_lnu_state (f : State → State) (s : State) (h : (f s).lnu.state = s.lnu.state) :
    (watchCredit f s).lnu.state = s.lnu.state := by
  simp [watchCredit, h]

@[simp] theorem watchCredit_lnu_offHook (f : State → State) (s : State) (h : (f s).lnu.offHook = s.lnu.offHook) :
    (watchCredit f s).lnu.offHook = s.lnu.offHook := by
  simp [watchCredit, h]

@[simp] theorem watchCredit_lnu_buffer (f : State → State) (s : State) (h : (f s).lnu.buffer = s.lnu.buffer) :
    (watchCredit f s).lnu.buffer = s.lnu.buffer := by
  simp [watchCredit, h]

@[simp] theorem watchCredit_lnu_timers (f : State → State) (s : State) (h : (f s).lnu.timers = s.lnu.timers) :
    (watchCredit f s).lnu.timers = s.lnu.timers := by
  simp [watchCredit, h]

@[simp] theorem watchCredit_inu_rebuilt (f : State → State) (s : State) (h : (f s).inu.rebuilt = s.inu.rebuilt) :
    (watchCredit f s).inu.rebuilt = s.inu.rebuilt := by
  simp [watchCredit, h]

@[simp] theorem watchCredit_inu_latches (f : State → State) (s : State) (h : (f s).inu.latches = s.inu.latches) :
    (watchCredit f s).inu.latches = s.inu.latches := by
  simp [watchCredit, h]

@[simp] theorem watchCredit_inu_records (f : State → State) (s : State) (h : (f s).inu.records = s.inu.records) :
    (watchCredit f s).inu.records = s.inu.records := by
  simp [watchCredit, h]

@[simp] theorem watchCredit_rpu_call (f : State → State) (s : State) (h : (f s).rpu.call = s.rpu.call) :
    (watchCredit f s).rpu.call = s.rpu.call := by
  simp [watchCredit, h]

@[simp] theorem watchCredit_rpu_timeRequest (f : State → State) (s : State) (h : (f s).rpu.timeRequest = s.rpu.timeRequest) :
    (watchCredit f s).rpu.timeRequest = s.rpu.timeRequest := by
  simp [watchCredit, h]

@[simp] theorem watchCredit_adu_cache (f : State → State) (s : State) (h : (f s).adu.cache = s.adu.cache) :
    (watchCredit f s).adu.cache = s.adu.cache := by
  simp [watchCredit, h]

@[simp] theorem watchCredit_adu_run (f : State → State) (s : State) (h : (f s).adu.run = s.adu.run) :
    (watchCredit f s).adu.run = s.adu.run := by
  simp [watchCredit, h]

@[simp] theorem watchCredit_adu_nextCall (f : State → State) (s : State) (h : (f s).adu.nextCall = s.adu.nextCall) :
    (watchCredit f s).adu.nextCall = s.adu.nextCall := by
  simp [watchCredit, h]

@[simp] theorem watchCredit_adu_greatest (f : State → State) (s : State) (h : (f s).adu.greatest = s.adu.greatest) :
    (watchCredit f s).adu.greatest = s.adu.greatest := by
  simp [watchCredit, h]

@[simp] theorem watchCredit_adu_remap (f : State → State) (s : State) (h : (f s).adu.remap = s.adu.remap) :
    (watchCredit f s).adu.remap = s.adu.remap := by
  simp [watchCredit, h]

@[simp] theorem watchCredit_acu_mode (f : State → State) (s : State) (h : (f s).acu.mode = s.acu.mode) :
    (watchCredit f s).acu.mode = s.acu.mode := by
  simp [watchCredit, h]

@[simp] theorem watchCredit_acu_attempts (f : State → State) (s : State) (h : (f s).acu.attempts = s.acu.attempts) :
    (watchCredit f s).acu.attempts = s.acu.attempts := by
  simp [watchCredit, h]

@[simp] theorem watchCredit_pfu_power (f : State → State) (s : State) (h : (f s).pfu.power = s.pfu.power) :
    (watchCredit f s).pfu.power = s.pfu.power := by
  simp [watchCredit, h]

@[simp] theorem watchCredit_pfu_step5 (f : State → State) (s : State) (h : (f s).pfu.step5 = s.pfu.step5) :
    (watchCredit f s).pfu.step5 = s.pfu.step5 := by
  simp [watchCredit, h]

@[simp] theorem watchCredit_pfu_save (f : State → State) (s : State) (h : (f s).pfu.save = s.pfu.save) :
    (watchCredit f s).pfu.save = s.pfu.save := by
  simp [watchCredit, h]

@[simp] theorem takeCharge_frame (charge : Nat) (s : State) :
    (takeCharge charge s).powered = s.powered ∧
    (takeCharge charge s).mem = s.mem ∧
    (takeCharge charge s).bpu = s.bpu ∧
    (takeCharge charge s).cfl = s.cfl ∧
    (takeCharge charge s).rqu = s.rqu ∧
    (takeCharge charge s).tru = s.tru ∧
    (takeCharge charge s).lnu = s.lnu ∧
    (takeCharge charge s).inu = s.inu ∧
    (takeCharge charge s).rpu = s.rpu ∧
    (takeCharge charge s).acu = s.acu ∧
    (takeCharge charge s).pfu = s.pfu ∧
    (takeCharge charge s).held = s.held ∧
    (takeCharge charge s).free = s.free ∧
    (takeCharge charge s).pending = s.pending ∧
    (takeCharge charge s).cnu.chute = s.cnu.chute ∧
    (takeCharge charge s).cnu.clearance = s.cnu.clearance ∧
    (takeCharge charge s).cnu.openCall = s.cnu.openCall ∧
    (takeCharge charge s).rtu.waiting = s.rtu.waiting ∧
    (takeCharge charge s).rtu.carry = s.rtu.carry ∧
    (takeCharge charge s).adu.run = s.adu.run ∧
    (takeCharge charge s).adu.nextCall = s.adu.nextCall ∧
    (takeCharge charge s).adu.greatest = s.adu.greatest ∧
    (takeCharge charge s).adu.remap = s.adu.remap := by
  unfold takeCharge
  (repeat' split) <;> simp

@[simp] theorem enterGrace_frame (charge : Nat) (start : Nat) (s : State) :
    (enterGrace charge start s).powered = s.powered ∧
    (enterGrace charge start s).mem = s.mem ∧
    (enterGrace charge start s).bpu = s.bpu ∧
    (enterGrace charge start s).cfl = s.cfl ∧
    (enterGrace charge start s).cnu = s.cnu ∧
    (enterGrace charge start s).tru = s.tru ∧
    (enterGrace charge start s).inu = s.inu ∧
    (enterGrace charge start s).rpu = s.rpu ∧
    (enterGrace charge start s).adu = s.adu ∧
    (enterGrace charge start s).acu = s.acu ∧
    (enterGrace charge start s).pfu = s.pfu ∧
    (enterGrace charge start s).held = s.held ∧
    (enterGrace charge start s).free = s.free ∧
    (enterGrace charge start s).pending = s.pending ∧
    (enterGrace charge start s).rqu.service = s.rqu.service ∧
    (enterGrace charge start s).rqu.queue = s.rqu.queue ∧
    (enterGrace charge start s).rqu.abandon = s.rqu.abandon ∧
    (enterGrace charge start s).rqu.mask = s.rqu.mask ∧
    (enterGrace charge start s).rtu.waiting = s.rtu.waiting ∧
    (enterGrace charge start s).rtu.carry = s.rtu.carry ∧
    (enterGrace charge start s).lnu.offHook = s.lnu.offHook ∧
    (enterGrace charge start s).lnu.buffer = s.lnu.buffer := by
  unfold enterGrace
  dsimp only
  (repeat' split) <;> simp

@[simp] theorem beginInterval_frame (start : Nat) (first : Bool) (s : State) :
    (beginInterval start first s).powered = s.powered ∧
    (beginInterval start first s).mem = s.mem ∧
    (beginInterval start first s).bpu = s.bpu ∧
    (beginInterval start first s).cfl = s.cfl ∧
    (beginInterval start first s).tru = s.tru ∧
    (beginInterval start first s).inu = s.inu ∧
    (beginInterval start first s).rpu = s.rpu ∧
    (beginInterval start first s).acu = s.acu ∧
    (beginInterval start first s).pfu = s.pfu ∧
    (beginInterval start first s).held = s.held ∧
    (beginInterval start first s).free = s.free ∧
    (beginInterval start first s).pending = s.pending ∧
    (beginInterval start first s).rqu.service = s.rqu.service ∧
    (beginInterval start first s).rqu.queue = s.rqu.queue ∧
    (beginInterval start first s).rqu.abandon = s.rqu.abandon ∧
    (beginInterval start first s).rqu.mask = s.rqu.mask ∧
    (beginInterval start first s).cnu.chute = s.cnu.chute ∧
    (beginInterval start first s).cnu.clearance = s.cnu.clearance ∧
    (beginInterval start first s).cnu.openCall = s.cnu.openCall ∧
    (beginInterval start first s).rtu.waiting = s.rtu.waiting ∧
    (beginInterval start first s).rtu.carry = s.rtu.carry ∧
    (beginInterval start first s).lnu.offHook = s.lnu.offHook ∧
    (beginInterval start first s).lnu.buffer = s.lnu.buffer ∧
    (beginInterval start first s).adu.run = s.adu.run ∧
    (beginInterval start first s).adu.nextCall = s.adu.nextCall ∧
    (beginInterval start first s).adu.greatest = s.adu.greatest ∧
    (beginInterval start first s).adu.remap = s.adu.remap := by
  unfold beginInterval
  dsimp only
  (repeat' split) <;> simp

@[simp] theorem catchUp_frame (n : Nat) (s : State) :
    (catchUp n s).powered = s.powered ∧
    (catchUp n s).mem = s.mem ∧
    (catchUp n s).bpu = s.bpu ∧
    (catchUp n s).cfl = s.cfl ∧
    (catchUp n s).tru = s.tru ∧
    (catchUp n s).inu = s.inu ∧
    (catchUp n s).rpu = s.rpu ∧
    (catchUp n s).acu = s.acu ∧
    (catchUp n s).pfu = s.pfu ∧
    (catchUp n s).held = s.held ∧
    (catchUp n s).free = s.free ∧
    (catchUp n s).pending = s.pending ∧
    (catchUp n s).rqu.service = s.rqu.service ∧
    (catchUp n s).rqu.queue = s.rqu.queue ∧
    (catchUp n s).rqu.abandon = s.rqu.abandon ∧
    (catchUp n s).rqu.mask = s.rqu.mask ∧
    (catchUp n s).cnu.chute = s.cnu.chute ∧
    (catchUp n s).cnu.clearance = s.cnu.clearance ∧
    (catchUp n s).cnu.openCall = s.cnu.openCall ∧
    (catchUp n s).rtu.waiting = s.rtu.waiting ∧
    (catchUp n s).rtu.carry = s.rtu.carry ∧
    (catchUp n s).lnu.offHook = s.lnu.offHook ∧
    (catchUp n s).lnu.buffer = s.lnu.buffer ∧
    (catchUp n s).adu.run = s.adu.run ∧
    (catchUp n s).adu.nextCall = s.adu.nextCall ∧
    (catchUp n s).adu.greatest = s.adu.greatest ∧
    (catchUp n s).adu.remap = s.adu.remap := by
  induction n generalizing s with
  | zero => simp [catchUp]
  | succ n ih =>
    unfold catchUp
    (repeat' split) <;> simp [ih]

@[simp] theorem graceTest_frame (s : State) :
    (graceTest s).powered = s.powered ∧
    (graceTest s).mem = s.mem ∧
    (graceTest s).bpu = s.bpu ∧
    (graceTest s).cfl = s.cfl ∧
    (graceTest s).tru = s.tru ∧
    (graceTest s).inu = s.inu ∧
    (graceTest s).rpu = s.rpu ∧
    (graceTest s).acu = s.acu ∧
    (graceTest s).pfu = s.pfu ∧
    (graceTest s).held = s.held ∧
    (graceTest s).free = s.free ∧
    (graceTest s).pending = s.pending ∧
    (graceTest s).rqu.service = s.rqu.service ∧
    (graceTest s).rqu.queue = s.rqu.queue ∧
    (graceTest s).rqu.abandon = s.rqu.abandon ∧
    (graceTest s).rqu.mask = s.rqu.mask ∧
    (graceTest s).cnu.chute = s.cnu.chute ∧
    (graceTest s).cnu.clearance = s.cnu.clearance ∧
    (graceTest s).cnu.openCall = s.cnu.openCall ∧
    (graceTest s).rtu.waiting = s.rtu.waiting ∧
    (graceTest s).rtu.carry = s.rtu.carry ∧
    (graceTest s).lnu.offHook = s.lnu.offHook ∧
    (graceTest s).lnu.buffer = s.lnu.buffer ∧
    (graceTest s).adu.run = s.adu.run ∧
    (graceTest s).adu.nextCall = s.adu.nextCall ∧
    (graceTest s).adu.greatest = s.adu.greatest ∧
    (graceTest s).adu.remap = s.adu.remap := by
  unfold graceTest
  dsimp only
  (repeat' split) <;> simp

@[simp] theorem coinNotice_frame (o : Owner) (seq : Nat) (value : Nat) (s : State) :
    (coinNotice o seq value s).powered = s.powered ∧
    (coinNotice o seq value s).mem = s.mem ∧
    (coinNotice o seq value s).bpu = s.bpu ∧
    (coinNotice o seq value s).cfl = s.cfl ∧
    (coinNotice o seq value s).tru = s.tru ∧
    (coinNotice o seq value s).inu = s.inu ∧
    (coinNotice o seq value s).rpu = s.rpu ∧
    (coinNotice o seq value s).acu = s.acu ∧
    (coinNotice o seq value s).pfu = s.pfu ∧
    (coinNotice o seq value s).held = s.held ∧
    (coinNotice o seq value s).free = s.free ∧
    (coinNotice o seq value s).pending = s.pending ∧
    (coinNotice o seq value s).rqu.service = s.rqu.service ∧
    (coinNotice o seq value s).rqu.queue = s.rqu.queue ∧
    (coinNotice o seq value s).rqu.abandon = s.rqu.abandon ∧
    (coinNotice o seq value s).rqu.mask = s.rqu.mask ∧
    (coinNotice o seq value s).cnu.chute = s.cnu.chute ∧
    (coinNotice o seq value s).cnu.clearance = s.cnu.clearance ∧
    (coinNotice o seq value s).cnu.openCall = s.cnu.openCall ∧
    (coinNotice o seq value s).rtu.carry = s.rtu.carry ∧
    (coinNotice o seq value s).lnu.offHook = s.lnu.offHook ∧
    (coinNotice o seq value s).lnu.buffer = s.lnu.buffer ∧
    (coinNotice o seq value s).adu.run = s.adu.run ∧
    (coinNotice o seq value s).adu.nextCall = s.adu.nextCall ∧
    (coinNotice o seq value s).adu.greatest = s.adu.greatest ∧
    (coinNotice o seq value s).adu.remap = s.adu.remap := by
  unfold coinNotice watchCredit
  dsimp only
  (repeat' split) <;> simp

@[simp] theorem openContext_frame (o : Owner) (cls : Nat) (emergency : Bool) (row : Option Row) (s : State) :
    (openContext o cls emergency row s).powered = s.powered ∧
    (openContext o cls emergency row s).mem = s.mem ∧
    (openContext o cls emergency row s).bpu = s.bpu ∧
    (openContext o cls emergency row s).cfl = s.cfl ∧
    (openContext o cls emergency row s).rqu = s.rqu ∧
    (openContext o cls emergency row s).tru = s.tru ∧
    (openContext o cls emergency row s).lnu = s.lnu ∧
    (openContext o cls emergency row s).inu = s.inu ∧
    (openContext o cls emergency row s).rpu = s.rpu ∧
    (openContext o cls emergency row s).adu = s.adu ∧
    (openContext o cls emergency row s).acu = s.acu ∧
    (openContext o cls emergency row s).pfu = s.pfu ∧
    (openContext o cls emergency row s).held = s.held ∧
    (openContext o cls emergency row s).free = s.free ∧
    (openContext o cls emergency row s).pending = s.pending ∧
    (openContext o cls emergency row s).cnu.chute = s.cnu.chute ∧
    (openContext o cls emergency row s).cnu.clearance = s.cnu.clearance := by
  unfold openContext
  dsimp only
  split <;> simp

@[simp] theorem rateAnswer_frame (s : State) :
    (rateAnswer s).powered = s.powered ∧
    (rateAnswer s).mem = s.mem ∧
    (rateAnswer s).bpu = s.bpu ∧
    (rateAnswer s).cfl = s.cfl ∧
    (rateAnswer s).tru = s.tru ∧
    (rateAnswer s).inu = s.inu ∧
    (rateAnswer s).rpu = s.rpu ∧
    (rateAnswer s).acu = s.acu ∧
    (rateAnswer s).pfu = s.pfu ∧
    (rateAnswer s).held = s.held ∧
    (rateAnswer s).free = s.free ∧
    (rateAnswer s).pending = s.pending ∧
    (rateAnswer s).rqu.service = s.rqu.service ∧
    (rateAnswer s).rqu.queue = s.rqu.queue ∧
    (rateAnswer s).rqu.abandon = s.rqu.abandon ∧
    (rateAnswer s).rqu.mask = s.rqu.mask ∧
    (rateAnswer s).cnu.chute = s.cnu.chute ∧
    (rateAnswer s).cnu.clearance = s.cnu.clearance ∧
    (rateAnswer s).cnu.openCall = s.cnu.openCall ∧
    (rateAnswer s).rtu.waiting = s.rtu.waiting ∧
    (rateAnswer s).rtu.carry = s.rtu.carry ∧
    (rateAnswer s).lnu.offHook = s.lnu.offHook ∧
    (rateAnswer s).lnu.buffer = s.lnu.buffer ∧
    (rateAnswer s).adu.run = s.adu.run ∧
    (rateAnswer s).adu.nextCall = s.adu.nextCall ∧
    (rateAnswer s).adu.greatest = s.adu.greatest ∧
    (rateAnswer s).adu.remap = s.adu.remap := by
  unfold rateAnswer
  (repeat' split) <;> simp

@[simp] theorem settle_frame (cause : EndCause) (keep : Bool) (s : State) :
    (settle cause keep s).powered = s.powered ∧
    (settle cause keep s).mem = s.mem ∧
    (settle cause keep s).bpu = s.bpu ∧
    (settle cause keep s).cfl = s.cfl ∧
    (settle cause keep s).tru = s.tru ∧
    (settle cause keep s).lnu = s.lnu ∧
    (settle cause keep s).inu = s.inu ∧
    (settle cause keep s).rpu = s.rpu ∧
    (settle cause keep s).acu = s.acu ∧
    (settle cause keep s).pfu = s.pfu ∧
    (settle cause keep s).held = s.held ∧
    (settle cause keep s).free = s.free ∧
    (settle cause keep s).pending = s.pending ∧
    (settle cause keep s).rqu.service = s.rqu.service ∧
    (settle cause keep s).rqu.queue = s.rqu.queue ∧
    (settle cause keep s).rqu.abandon = s.rqu.abandon ∧
    (settle cause keep s).rqu.mask = s.rqu.mask ∧
    (settle cause keep s).cnu.chute = s.cnu.chute ∧
    (settle cause keep s).cnu.clearance = s.cnu.clearance ∧
    (settle cause keep s).adu.run = s.adu.run ∧
    (settle cause keep s).adu.nextCall = s.adu.nextCall ∧
    (settle cause keep s).adu.greatest = s.adu.greatest ∧
    (settle cause keep s).adu.remap = s.adu.remap := by
  unfold settle
  (repeat' split) <;> simp

@[simp] theorem releaseCarry_frame (s : State) :
    (releaseCarry s).powered = s.powered ∧
    (releaseCarry s).mem = s.mem ∧
    (releaseCarry s).bpu = s.bpu ∧
    (releaseCarry s).cfl = s.cfl ∧
    (releaseCarry s).tru = s.tru ∧
    (releaseCarry s).lnu = s.lnu ∧
    (releaseCarry s).inu = s.inu ∧
    (releaseCarry s).rpu = s.rpu ∧
    (releaseCarry s).acu = s.acu ∧
    (releaseCarry s).pfu = s.pfu ∧
    (releaseCarry s).held = s.held ∧
    (releaseCarry s).free = s.free ∧
    (releaseCarry s).pending = s.pending ∧
    (releaseCarry s).rqu.service = s.rqu.service ∧
    (releaseCarry s).rqu.queue = s.rqu.queue ∧
    (releaseCarry s).rqu.abandon = s.rqu.abandon ∧
    (releaseCarry s).rqu.mask = s.rqu.mask ∧
    (releaseCarry s).cnu.chute = s.cnu.chute ∧
    (releaseCarry s).cnu.clearance = s.cnu.clearance ∧
    (releaseCarry s).cnu.openCall = s.cnu.openCall ∧
    (releaseCarry s).rtu.ctx = s.rtu.ctx ∧
    (releaseCarry s).adu.run = s.adu.run ∧
    (releaseCarry s).adu.nextCall = s.adu.nextCall ∧
    (releaseCarry s).adu.greatest = s.adu.greatest ∧
    (releaseCarry s).adu.remap = s.adu.remap := by
  unfold releaseCarry
  simp

@[simp] theorem releasePreCall_frame (s : State) :
    (releasePreCall s).powered = s.powered ∧
    (releasePreCall s).mem = s.mem ∧
    (releasePreCall s).bpu = s.bpu ∧
    (releasePreCall s).cfl = s.cfl ∧
    (releasePreCall s).tru = s.tru ∧
    (releasePreCall s).lnu = s.lnu ∧
    (releasePreCall s).inu = s.inu ∧
    (releasePreCall s).rpu = s.rpu ∧
    (releasePreCall s).adu = s.adu ∧
    (releasePreCall s).acu = s.acu ∧
    (releasePreCall s).pfu = s.pfu ∧
    (releasePreCall s).held = s.held ∧
    (releasePreCall s).free = s.free ∧
    (releasePreCall s).pending = s.pending ∧
    (releasePreCall s).rqu.service = s.rqu.service ∧
    (releasePreCall s).rqu.queue = s.rqu.queue ∧
    (releasePreCall s).rqu.abandon = s.rqu.abandon ∧
    (releasePreCall s).rqu.mask = s.rqu.mask ∧
    (releasePreCall s).cnu.chute = s.cnu.chute ∧
    (releasePreCall s).cnu.clearance = s.cnu.clearance ∧
    (releasePreCall s).cnu.openCall = s.cnu.openCall ∧
    (releasePreCall s).rtu.ctx = s.rtu.ctx ∧
    (releasePreCall s).rtu.carry = s.rtu.carry := by
  unfold releasePreCall
  simp

/-! ### Machine/ReportOutcomes -/

@[simp] theorem composeMessage_frame (s : State) :
    (composeMessage s).powered = s.powered ∧
    (composeMessage s).mem = s.mem ∧
    (composeMessage s).bpu = s.bpu ∧
    (composeMessage s).cfl = s.cfl ∧
    (composeMessage s).rqu = s.rqu ∧
    (composeMessage s).cnu = s.cnu ∧
    (composeMessage s).tru = s.tru ∧
    (composeMessage s).rtu = s.rtu ∧
    (composeMessage s).lnu = s.lnu ∧
    (composeMessage s).inu = s.inu ∧
    (composeMessage s).adu = s.adu ∧
    (composeMessage s).acu = s.acu ∧
    (composeMessage s).pfu = s.pfu ∧
    (composeMessage s).held = s.held ∧
    (composeMessage s).free = s.free ∧
    (composeMessage s).pending = s.pending ∧
    (composeMessage s).rpu.timeRequest = s.rpu.timeRequest := by
  unfold composeMessage
  (repeat' split) <;> simp

@[simp] theorem sendMessage_frame (s : State) :
    (sendMessage s).powered = s.powered ∧
    (sendMessage s).mem = s.mem ∧
    (sendMessage s).bpu = s.bpu ∧
    (sendMessage s).cfl = s.cfl ∧
    (sendMessage s).cnu = s.cnu ∧
    (sendMessage s).tru = s.tru ∧
    (sendMessage s).rtu = s.rtu ∧
    (sendMessage s).inu = s.inu ∧
    (sendMessage s).adu = s.adu ∧
    (sendMessage s).acu = s.acu ∧
    (sendMessage s).pfu = s.pfu ∧
    (sendMessage s).held = s.held ∧
    (sendMessage s).free = s.free ∧
    (sendMessage s).pending = s.pending ∧
    (sendMessage s).rqu.service = s.rqu.service ∧
    (sendMessage s).rqu.queue = s.rqu.queue ∧
    (sendMessage s).rqu.abandon = s.rqu.abandon ∧
    (sendMessage s).rqu.mask = s.rqu.mask ∧
    (sendMessage s).lnu.offHook = s.lnu.offHook ∧
    (sendMessage s).rpu.timeRequest = s.rpu.timeRequest := by
  unfold sendMessage
  dsimp only
  (repeat' split) <;> simp

@[simp] theorem handTone_frame (s : State) :
    (handTone s).powered = s.powered ∧
    (handTone s).mem = s.mem ∧
    (handTone s).bpu = s.bpu ∧
    (handTone s).cfl = s.cfl ∧
    (handTone s).rqu = s.rqu ∧
    (handTone s).cnu = s.cnu ∧
    (handTone s).tru = s.tru ∧
    (handTone s).rtu = s.rtu ∧
    (handTone s).inu = s.inu ∧
    (handTone s).adu = s.adu ∧
    (handTone s).acu = s.acu ∧
    (handTone s).pfu = s.pfu ∧
    (handTone s).held = s.held ∧
    (handTone s).free = s.free ∧
    (handTone s).pending = s.pending ∧
    (handTone s).lnu.state = s.lnu.state ∧
    (handTone s).lnu.offHook = s.lnu.offHook ∧
    (handTone s).lnu.timers = s.lnu.timers ∧
    (handTone s).rpu.timeRequest = s.rpu.timeRequest := by
  unfold handTone
  (repeat' split) <;> simp

@[simp] theorem emptyReport_frame (s : State) :
    (emptyReport s).powered = s.powered ∧
    (emptyReport s).mem = s.mem ∧
    (emptyReport s).bpu = s.bpu ∧
    (emptyReport s).cfl = s.cfl ∧
    (emptyReport s).cnu = s.cnu ∧
    (emptyReport s).tru = s.tru ∧
    (emptyReport s).rtu = s.rtu ∧
    (emptyReport s).acu = s.acu ∧
    (emptyReport s).pfu = s.pfu ∧
    (emptyReport s).held = s.held ∧
    (emptyReport s).free = s.free ∧
    (emptyReport s).pending = s.pending ∧
    (emptyReport s).rqu.service = s.rqu.service ∧
    (emptyReport s).rqu.queue = s.rqu.queue ∧
    (emptyReport s).rqu.abandon = s.rqu.abandon ∧
    (emptyReport s).rqu.mask = s.rqu.mask ∧
    (emptyReport s).lnu.offHook = s.lnu.offHook ∧
    (emptyReport s).inu.rebuilt = s.inu.rebuilt ∧
    (emptyReport s).inu.latches = s.inu.latches ∧
    (emptyReport s).adu.cache = s.adu.cache ∧
    (emptyReport s).adu.run = s.adu.run ∧
    (emptyReport s).adu.nextCall = s.adu.nextCall ∧
    (emptyReport s).adu.greatest = s.adu.greatest ∧
    (emptyReport s).adu.remap = s.adu.remap := by
  unfold emptyReport
  simp

@[simp] theorem failTimeRequest_frame (s : State) :
    (failTimeRequest s).powered = s.powered ∧
    (failTimeRequest s).mem = s.mem ∧
    (failTimeRequest s).bpu = s.bpu ∧
    (failTimeRequest s).cfl = s.cfl ∧
    (failTimeRequest s).rqu = s.rqu ∧
    (failTimeRequest s).cnu = s.cnu ∧
    (failTimeRequest s).tru = s.tru ∧
    (failTimeRequest s).rtu = s.rtu ∧
    (failTimeRequest s).lnu = s.lnu ∧
    (failTimeRequest s).inu = s.inu ∧
    (failTimeRequest s).adu = s.adu ∧
    (failTimeRequest s).acu = s.acu ∧
    (failTimeRequest s).pfu = s.pfu ∧
    (failTimeRequest s).held = s.held ∧
    (failTimeRequest s).free = s.free ∧
    (failTimeRequest s).pending = s.pending ∧
    (failTimeRequest s).rpu.call = s.rpu.call := by
  unfold failTimeRequest
  simp

@[simp] theorem failReport_frame (s : State) :
    (failReport s).powered = s.powered ∧
    (failReport s).mem = s.mem ∧
    (failReport s).bpu = s.bpu ∧
    (failReport s).cfl = s.cfl ∧
    (failReport s).cnu = s.cnu ∧
    (failReport s).tru = s.tru ∧
    (failReport s).rtu = s.rtu ∧
    (failReport s).acu = s.acu ∧
    (failReport s).pfu = s.pfu ∧
    (failReport s).held = s.held ∧
    (failReport s).free = s.free ∧
    (failReport s).pending = s.pending ∧
    (failReport s).rqu.service = s.rqu.service ∧
    (failReport s).rqu.queue = s.rqu.queue ∧
    (failReport s).rqu.abandon = s.rqu.abandon ∧
    (failReport s).rqu.mask = s.rqu.mask ∧
    (failReport s).lnu.offHook = s.lnu.offHook ∧
    (failReport s).inu.rebuilt = s.inu.rebuilt ∧
    (failReport s).inu.latches = s.inu.latches ∧
    (failReport s).adu.cache = s.adu.cache ∧
    (failReport s).adu.run = s.adu.run ∧
    (failReport s).adu.nextCall = s.adu.nextCall ∧
    (failReport s).adu.greatest = s.adu.greatest ∧
    (failReport s).adu.remap = s.adu.remap := by
  unfold failReport
  (repeat' split) <;> simp

@[simp] theorem acceptTimeRequest_frame (s : State) :
    (acceptTimeRequest s).powered = s.powered ∧
    (acceptTimeRequest s).mem = s.mem ∧
    (acceptTimeRequest s).bpu = s.bpu ∧
    (acceptTimeRequest s).cfl = s.cfl ∧
    (acceptTimeRequest s).rqu = s.rqu ∧
    (acceptTimeRequest s).cnu = s.cnu ∧
    (acceptTimeRequest s).tru = s.tru ∧
    (acceptTimeRequest s).rtu = s.rtu ∧
    (acceptTimeRequest s).lnu = s.lnu ∧
    (acceptTimeRequest s).inu = s.inu ∧
    (acceptTimeRequest s).adu = s.adu ∧
    (acceptTimeRequest s).acu = s.acu ∧
    (acceptTimeRequest s).pfu = s.pfu ∧
    (acceptTimeRequest s).held = s.held ∧
    (acceptTimeRequest s).free = s.free ∧
    (acceptTimeRequest s).pending = s.pending ∧
    (acceptTimeRequest s).rpu.call = s.rpu.call := by
  unfold acceptTimeRequest
  simp

@[simp] theorem acceptReport_frame (ask : Bool) (timed : Bool) (s : State) :
    (acceptReport ask timed s).powered = s.powered ∧
    (acceptReport ask timed s).mem = s.mem ∧
    (acceptReport ask timed s).bpu = s.bpu ∧
    (acceptReport ask timed s).cfl = s.cfl ∧
    (acceptReport ask timed s).cnu = s.cnu ∧
    (acceptReport ask timed s).rtu = s.rtu ∧
    (acceptReport ask timed s).acu = s.acu ∧
    (acceptReport ask timed s).pfu = s.pfu ∧
    (acceptReport ask timed s).held = s.held ∧
    (acceptReport ask timed s).free = s.free ∧
    (acceptReport ask timed s).pending = s.pending ∧
    (acceptReport ask timed s).rqu.queue = s.rqu.queue ∧
    (acceptReport ask timed s).rqu.abandon = s.rqu.abandon ∧
    (acceptReport ask timed s).rqu.mask = s.rqu.mask ∧
    (acceptReport ask timed s).tru.valid = s.tru.valid ∧
    (acceptReport ask timed s).tru.unsettled = s.tru.unsettled ∧
    (acceptReport ask timed s).lnu.offHook = s.lnu.offHook ∧
    (acceptReport ask timed s).inu.rebuilt = s.inu.rebuilt ∧
    (acceptReport ask timed s).inu.latches = s.inu.latches ∧
    (acceptReport ask timed s).adu.cache = s.adu.cache ∧
    (acceptReport ask timed s).adu.run = s.adu.run ∧
    (acceptReport ask timed s).adu.nextCall = s.adu.nextCall ∧
    (acceptReport ask timed s).adu.greatest = s.adu.greatest ∧
    (acceptReport ask timed s).adu.remap = s.adu.remap := by
  unfold acceptReport
  (repeat' split) <;> simp

@[simp] theorem lineFailure_frame (s : State) :
    (lineFailure s).powered = s.powered ∧
    (lineFailure s).mem = s.mem ∧
    (lineFailure s).bpu = s.bpu ∧
    (lineFailure s).cfl = s.cfl ∧
    (lineFailure s).cnu = s.cnu ∧
    (lineFailure s).rtu = s.rtu ∧
    (lineFailure s).acu = s.acu ∧
    (lineFailure s).pfu = s.pfu ∧
    (lineFailure s).held = s.held ∧
    (lineFailure s).free = s.free ∧
    (lineFailure s).pending = s.pending ∧
    (lineFailure s).rqu.queue = s.rqu.queue ∧
    (lineFailure s).rqu.abandon = s.rqu.abandon ∧
    (lineFailure s).rqu.mask = s.rqu.mask ∧
    (lineFailure s).tru.valid = s.tru.valid ∧
    (lineFailure s).tru.unsettled = s.tru.unsettled ∧
    (lineFailure s).lnu.offHook = s.lnu.offHook ∧
    (lineFailure s).inu.rebuilt = s.inu.rebuilt ∧
    (lineFailure s).inu.latches = s.inu.latches ∧
    (lineFailure s).adu.cache = s.adu.cache ∧
    (lineFailure s).adu.run = s.adu.run ∧
    (lineFailure s).adu.nextCall = s.adu.nextCall ∧
    (lineFailure s).adu.greatest = s.adu.greatest ∧
    (lineFailure s).adu.remap = s.adu.remap := by
  unfold lineFailure
  (repeat' split) <;> simp

@[simp] theorem yieldReport_frame (s : State) :
    (yieldReport s).powered = s.powered ∧
    (yieldReport s).mem = s.mem ∧
    (yieldReport s).bpu = s.bpu ∧
    (yieldReport s).cfl = s.cfl ∧
    (yieldReport s).cnu = s.cnu ∧
    (yieldReport s).rtu = s.rtu ∧
    (yieldReport s).acu = s.acu ∧
    (yieldReport s).pfu = s.pfu ∧
    (yieldReport s).held = s.held ∧
    (yieldReport s).free = s.free ∧
    (yieldReport s).pending = s.pending ∧
    (yieldReport s).rqu.queue = s.rqu.queue ∧
    (yieldReport s).rqu.abandon = s.rqu.abandon ∧
    (yieldReport s).rqu.mask = s.rqu.mask ∧
    (yieldReport s).tru.valid = s.tru.valid ∧
    (yieldReport s).tru.unsettled = s.tru.unsettled ∧
    (yieldReport s).lnu.offHook = s.lnu.offHook ∧
    (yieldReport s).inu.rebuilt = s.inu.rebuilt ∧
    (yieldReport s).inu.latches = s.inu.latches ∧
    (yieldReport s).adu.cache = s.adu.cache ∧
    (yieldReport s).adu.run = s.adu.run ∧
    (yieldReport s).adu.nextCall = s.adu.nextCall ∧
    (yieldReport s).adu.greatest = s.adu.greatest ∧
    (yieldReport s).adu.remap = s.adu.remap := by
  unfold yieldReport
  (repeat' split) <;> simp

@[simp] theorem startTimeRequest_frame (s : State) :
    (startTimeRequest s).powered = s.powered ∧
    (startTimeRequest s).mem = s.mem ∧
    (startTimeRequest s).bpu = s.bpu ∧
    (startTimeRequest s).cfl = s.cfl ∧
    (startTimeRequest s).rqu = s.rqu ∧
    (startTimeRequest s).cnu = s.cnu ∧
    (startTimeRequest s).tru = s.tru ∧
    (startTimeRequest s).rtu = s.rtu ∧
    (startTimeRequest s).lnu = s.lnu ∧
    (startTimeRequest s).inu = s.inu ∧
    (startTimeRequest s).adu = s.adu ∧
    (startTimeRequest s).acu = s.acu ∧
    (startTimeRequest s).pfu = s.pfu ∧
    (startTimeRequest s).held = s.held ∧
    (startTimeRequest s).free = s.free ∧
    (startTimeRequest s).pending = s.pending ∧
    (startTimeRequest s).rpu.call = s.rpu.call := by
  unfold startTimeRequest
  (repeat' split) <;> simp

/-! ### Machine/Tariff -/

@[simp] theorem beginCheck_frame (forRequest : Bool) (s : State) :
    (beginCheck forRequest s).powered = s.powered ∧
    (beginCheck forRequest s).mem = s.mem ∧
    (beginCheck forRequest s).bpu = s.bpu ∧
    (beginCheck forRequest s).cfl = s.cfl ∧
    (beginCheck forRequest s).rqu = s.rqu ∧
    (beginCheck forRequest s).cnu = s.cnu ∧
    (beginCheck forRequest s).rtu = s.rtu ∧
    (beginCheck forRequest s).lnu = s.lnu ∧
    (beginCheck forRequest s).inu = s.inu ∧
    (beginCheck forRequest s).rpu = s.rpu ∧
    (beginCheck forRequest s).adu = s.adu ∧
    (beginCheck forRequest s).acu = s.acu ∧
    (beginCheck forRequest s).pfu = s.pfu ∧
    (beginCheck forRequest s).held = s.held ∧
    (beginCheck forRequest s).free = s.free ∧
    (beginCheck forRequest s).pending = s.pending ∧
    (beginCheck forRequest s).tru.clock = s.tru.clock ∧
    (beginCheck forRequest s).tru.valid = s.tru.valid ∧
    (beginCheck forRequest s).tru.unsettled = s.tru.unsettled := by
  unfold beginCheck
  (repeat' split) <;> simp

@[simp] theorem endCheck_frame (s : State) :
    (endCheck s).powered = s.powered ∧
    (endCheck s).mem = s.mem ∧
    (endCheck s).bpu = s.bpu ∧
    (endCheck s).cfl = s.cfl ∧
    (endCheck s).rqu = s.rqu ∧
    (endCheck s).cnu = s.cnu ∧
    (endCheck s).rtu = s.rtu ∧
    (endCheck s).lnu = s.lnu ∧
    (endCheck s).inu = s.inu ∧
    (endCheck s).rpu = s.rpu ∧
    (endCheck s).adu = s.adu ∧
    (endCheck s).acu = s.acu ∧
    (endCheck s).pfu = s.pfu ∧
    (endCheck s).held = s.held ∧
    (endCheck s).free = s.free ∧
    (endCheck s).pending = s.pending ∧
    (endCheck s).tru.clock = s.tru.clock ∧
    (endCheck s).tru.valid = s.tru.valid ∧
    (endCheck s).tru.unsettled = s.tru.unsettled := by
  unfold endCheck
  dsimp only
  (repeat' split) <;> simp

@[simp] theorem settleTariff_frame (overtaken : Bool) (s : State) :
    (settleTariff overtaken s).powered = s.powered ∧
    (settleTariff overtaken s).mem = s.mem ∧
    (settleTariff overtaken s).bpu = s.bpu ∧
    (settleTariff overtaken s).cfl = s.cfl ∧
    (settleTariff overtaken s).rqu = s.rqu ∧
    (settleTariff overtaken s).cnu = s.cnu ∧
    (settleTariff overtaken s).rtu = s.rtu ∧
    (settleTariff overtaken s).lnu = s.lnu ∧
    (settleTariff overtaken s).inu = s.inu ∧
    (settleTariff overtaken s).rpu = s.rpu ∧
    (settleTariff overtaken s).adu = s.adu ∧
    (settleTariff overtaken s).acu = s.acu ∧
    (settleTariff overtaken s).pfu = s.pfu ∧
    (settleTariff overtaken s).held = s.held ∧
    (settleTariff overtaken s).free = s.free ∧
    (settleTariff overtaken s).pending = s.pending ∧
    (settleTariff overtaken s).tru.clock = s.tru.clock ∧
    (settleTariff overtaken s).tru.valid = s.tru.valid := by
  unfold settleTariff
  (repeat' split) <;> simp

@[simp] theorem failCheck_frame (k : Check) (b : BadItem) (s : State) :
    (failCheck k b s).powered = s.powered ∧
    (failCheck k b s).mem = s.mem ∧
    (failCheck k b s).bpu = s.bpu ∧
    (failCheck k b s).cfl = s.cfl ∧
    (failCheck k b s).cnu = s.cnu ∧
    (failCheck k b s).rtu = s.rtu ∧
    (failCheck k b s).acu = s.acu ∧
    (failCheck k b s).pfu = s.pfu ∧
    (failCheck k b s).free = s.free ∧
    (failCheck k b s).pending = s.pending ∧
    (failCheck k b s).rqu.queue = s.rqu.queue ∧
    (failCheck k b s).rqu.abandon = s.rqu.abandon ∧
    (failCheck k b s).rqu.mask = s.rqu.mask ∧
    (failCheck k b s).tru.clock = s.tru.clock ∧
    (failCheck k b s).lnu.offHook = s.lnu.offHook ∧
    (failCheck k b s).inu.rebuilt = s.inu.rebuilt ∧
    (failCheck k b s).adu.cache = s.adu.cache ∧
    (failCheck k b s).adu.run = s.adu.run ∧
    (failCheck k b s).adu.nextCall = s.adu.nextCall ∧
    (failCheck k b s).adu.greatest = s.adu.greatest ∧
    (failCheck k b s).adu.remap = s.adu.remap := by
  unfold failCheck
  (repeat' split) <;> simp

@[simp] theorem passCheck_frame (k : Check) (s : State) :
    (passCheck k s).powered = s.powered ∧
    (passCheck k s).mem = s.mem ∧
    (passCheck k s).bpu = s.bpu ∧
    (passCheck k s).cfl = s.cfl ∧
    (passCheck k s).cnu = s.cnu ∧
    (passCheck k s).rtu = s.rtu ∧
    (passCheck k s).lnu = s.lnu ∧
    (passCheck k s).rpu = s.rpu ∧
    (passCheck k s).acu = s.acu ∧
    (passCheck k s).pfu = s.pfu ∧
    (passCheck k s).free = s.free ∧
    (passCheck k s).pending = s.pending ∧
    (passCheck k s).rqu.queue = s.rqu.queue ∧
    (passCheck k s).rqu.abandon = s.rqu.abandon ∧
    (passCheck k s).rqu.mask = s.rqu.mask ∧
    (passCheck k s).tru.clock = s.tru.clock ∧
    (passCheck k s).inu.rebuilt = s.inu.rebuilt ∧
    (passCheck k s).adu.cache = s.adu.cache ∧
    (passCheck k s).adu.run = s.adu.run ∧
    (passCheck k s).adu.nextCall = s.adu.nextCall ∧
    (passCheck k s).adu.greatest = s.adu.greatest ∧
    (passCheck k s).adu.remap = s.adu.remap := by
  unfold passCheck
  (repeat' split) <;> simp

@[simp] theorem tariffWritten_frame (s : State) :
    (tariffWritten s).powered = s.powered ∧
    (tariffWritten s).mem = s.mem ∧
    (tariffWritten s).bpu = s.bpu ∧
    (tariffWritten s).cfl = s.cfl ∧
    (tariffWritten s).rqu = s.rqu ∧
    (tariffWritten s).cnu = s.cnu ∧
    (tariffWritten s).rtu = s.rtu ∧
    (tariffWritten s).lnu = s.lnu ∧
    (tariffWritten s).inu = s.inu ∧
    (tariffWritten s).rpu = s.rpu ∧
    (tariffWritten s).adu = s.adu ∧
    (tariffWritten s).acu = s.acu ∧
    (tariffWritten s).pfu = s.pfu ∧
    (tariffWritten s).held = s.held ∧
    (tariffWritten s).free = s.free ∧
    (tariffWritten s).pending = s.pending ∧
    (tariffWritten s).tru.clock = s.tru.clock ∧
    (tariffWritten s).tru.valid = s.tru.valid := by
  unfold tariffWritten
  simp

@[simp] theorem autoCheck_frame (s : State) :
    (autoCheck s).powered = s.powered ∧
    (autoCheck s).mem = s.mem ∧
    (autoCheck s).bpu = s.bpu ∧
    (autoCheck s).cfl = s.cfl ∧
    (autoCheck s).rqu = s.rqu ∧
    (autoCheck s).cnu = s.cnu ∧
    (autoCheck s).rtu = s.rtu ∧
    (autoCheck s).lnu = s.lnu ∧
    (autoCheck s).inu = s.inu ∧
    (autoCheck s).rpu = s.rpu ∧
    (autoCheck s).adu = s.adu ∧
    (autoCheck s).acu = s.acu ∧
    (autoCheck s).pfu = s.pfu ∧
    (autoCheck s).held = s.held ∧
    (autoCheck s).free = s.free ∧
    (autoCheck s).pending = s.pending ∧
    (autoCheck s).tru.clock = s.tru.clock ∧
    (autoCheck s).tru.valid = s.tru.valid ∧
    (autoCheck s).tru.unsettled = s.tru.unsettled := by
  unfold autoCheck
  (repeat' split) <;> simp

@[simp] theorem tariffCheckRequest_frame (x : List Word) (s : State) :
    (tariffCheckRequest x s).powered = s.powered ∧
    (tariffCheckRequest x s).mem = s.mem ∧
    (tariffCheckRequest x s).bpu = s.bpu ∧
    (tariffCheckRequest x s).cfl = s.cfl ∧
    (tariffCheckRequest x s).cnu = s.cnu ∧
    (tariffCheckRequest x s).rtu = s.rtu ∧
    (tariffCheckRequest x s).lnu = s.lnu ∧
    (tariffCheckRequest x s).inu = s.inu ∧
    (tariffCheckRequest x s).rpu = s.rpu ∧
    (tariffCheckRequest x s).adu = s.adu ∧
    (tariffCheckRequest x s).acu = s.acu ∧
    (tariffCheckRequest x s).pfu = s.pfu ∧
    (tariffCheckRequest x s).held = s.held ∧
    (tariffCheckRequest x s).pending = s.pending ∧
    (tariffCheckRequest x s).rqu.queue = s.rqu.queue ∧
    (tariffCheckRequest x s).rqu.abandon = s.rqu.abandon ∧
    (tariffCheckRequest x s).rqu.mask = s.rqu.mask ∧
    (tariffCheckRequest x s).tru.clock = s.tru.clock ∧
    (tariffCheckRequest x s).tru.valid = s.tru.valid ∧
    (tariffCheckRequest x s).tru.unsettled = s.tru.unsettled := by
  unfold tariffCheckRequest
  (repeat' split) <;> simp

/-! ### Machine/Coin -/

@[simp] theorem creditCoin_frame (denom : Nat) (value : Nat) (isForeign : Bool) (s : State) :
    (creditCoin denom value isForeign s).powered = s.powered ∧
    (creditCoin denom value isForeign s).mem = s.mem ∧
    (creditCoin denom value isForeign s).bpu = s.bpu ∧
    (creditCoin denom value isForeign s).cfl = s.cfl ∧
    (creditCoin denom value isForeign s).tru = s.tru ∧
    (creditCoin denom value isForeign s).inu = s.inu ∧
    (creditCoin denom value isForeign s).rpu = s.rpu ∧
    (creditCoin denom value isForeign s).acu = s.acu ∧
    (creditCoin denom value isForeign s).pfu = s.pfu ∧
    (creditCoin denom value isForeign s).held = s.held ∧
    (creditCoin denom value isForeign s).free = s.free ∧
    (creditCoin denom value isForeign s).pending = s.pending ∧
    (creditCoin denom value isForeign s).rqu.service = s.rqu.service ∧
    (creditCoin denom value isForeign s).rqu.queue = s.rqu.queue ∧
    (creditCoin denom value isForeign s).rqu.abandon = s.rqu.abandon ∧
    (creditCoin denom value isForeign s).rqu.mask = s.rqu.mask ∧
    (creditCoin denom value isForeign s).cnu.chute = s.cnu.chute ∧
    (creditCoin denom value isForeign s).cnu.clearance = s.cnu.clearance ∧
    (creditCoin denom value isForeign s).cnu.openCall = s.cnu.openCall ∧
    (creditCoin denom value isForeign s).rtu.carry = s.rtu.carry ∧
    (creditCoin denom value isForeign s).lnu.offHook = s.lnu.offHook ∧
    (creditCoin denom value isForeign s).lnu.buffer = s.lnu.buffer ∧
    (creditCoin denom value isForeign s).adu.run = s.adu.run ∧
    (creditCoin denom value isForeign s).adu.nextCall = s.adu.nextCall ∧
    (creditCoin denom value isForeign s).adu.greatest = s.adu.greatest ∧
    (creditCoin denom value isForeign s).adu.remap = s.adu.remap := by
  unfold creditCoin
  dsimp only
  (repeat' split) <;> simp

@[simp] theorem sensorClears_frame (s : State) :
    (sensorClears s).powered = s.powered ∧
    (sensorClears s).mem = s.mem ∧
    (sensorClears s).bpu = s.bpu ∧
    (sensorClears s).cfl = s.cfl ∧
    (sensorClears s).tru = s.tru ∧
    (sensorClears s).rtu = s.rtu ∧
    (sensorClears s).lnu = s.lnu ∧
    (sensorClears s).rpu = s.rpu ∧
    (sensorClears s).acu = s.acu ∧
    (sensorClears s).pfu = s.pfu ∧
    (sensorClears s).free = s.free ∧
    (sensorClears s).pending = s.pending ∧
    (sensorClears s).rqu.service = s.rqu.service ∧
    (sensorClears s).rqu.queue = s.rqu.queue ∧
    (sensorClears s).rqu.abandon = s.rqu.abandon ∧
    (sensorClears s).rqu.mask = s.rqu.mask ∧
    (sensorClears s).cnu.escrow = s.cnu.escrow ∧
    (sensorClears s).cnu.clearance = s.cnu.clearance ∧
    (sensorClears s).cnu.openCall = s.cnu.openCall ∧
    (sensorClears s).inu.rebuilt = s.inu.rebuilt ∧
    (sensorClears s).adu.cache = s.adu.cache ∧
    (sensorClears s).adu.run = s.adu.run ∧
    (sensorClears s).adu.nextCall = s.adu.nextCall ∧
    (sensorClears s).adu.greatest = s.adu.greatest ∧
    (sensorClears s).adu.remap = s.adu.remap := by
  unfold sensorClears
  (repeat' split) <;> simp

@[simp] theorem matchPassage_frame (s : State) :
    (matchPassage s).powered = s.powered ∧
    (matchPassage s).mem = s.mem ∧
    (matchPassage s).bpu = s.bpu ∧
    (matchPassage s).cfl = s.cfl ∧
    (matchPassage s).tru = s.tru ∧
    (matchPassage s).acu = s.acu ∧
    (matchPassage s).pfu = s.pfu ∧
    (matchPassage s).free = s.free ∧
    (matchPassage s).pending = s.pending ∧
    (matchPassage s).rqu.service = s.rqu.service ∧
    (matchPassage s).rqu.queue = s.rqu.queue ∧
    (matchPassage s).rqu.abandon = s.rqu.abandon ∧
    (matchPassage s).rqu.mask = s.rqu.mask ∧
    (matchPassage s).cnu.clearance = s.cnu.clearance ∧
    (matchPassage s).cnu.openCall = s.cnu.openCall ∧
    (matchPassage s).rtu.carry = s.rtu.carry ∧
    (matchPassage s).lnu.offHook = s.lnu.offHook ∧
    (matchPassage s).inu.rebuilt = s.inu.rebuilt ∧
    (matchPassage s).adu.run = s.adu.run ∧
    (matchPassage s).adu.nextCall = s.adu.nextCall ∧
    (matchPassage s).adu.greatest = s.adu.greatest ∧
    (matchPassage s).adu.remap = s.adu.remap := by
  unfold matchPassage
  (repeat' split) <;> simp

@[simp] theorem takeEntryPassage_frame (s : State) :
    (takeEntryPassage s).powered = s.powered ∧
    (takeEntryPassage s).mem = s.mem ∧
    (takeEntryPassage s).bpu = s.bpu ∧
    (takeEntryPassage s).cfl = s.cfl ∧
    (takeEntryPassage s).tru = s.tru ∧
    (takeEntryPassage s).acu = s.acu ∧
    (takeEntryPassage s).pfu = s.pfu ∧
    (takeEntryPassage s).free = s.free ∧
    (takeEntryPassage s).pending = s.pending ∧
    (takeEntryPassage s).rqu.service = s.rqu.service ∧
    (takeEntryPassage s).rqu.queue = s.rqu.queue ∧
    (takeEntryPassage s).rqu.abandon = s.rqu.abandon ∧
    (takeEntryPassage s).rqu.mask = s.rqu.mask ∧
    (takeEntryPassage s).cnu.clearance = s.cnu.clearance ∧
    (takeEntryPassage s).cnu.openCall = s.cnu.openCall ∧
    (takeEntryPassage s).rtu.carry = s.rtu.carry ∧
    (takeEntryPassage s).lnu.offHook = s.lnu.offHook ∧
    (takeEntryPassage s).inu.rebuilt = s.inu.rebuilt ∧
    (takeEntryPassage s).adu.run = s.adu.run ∧
    (takeEntryPassage s).adu.nextCall = s.adu.nextCall ∧
    (takeEntryPassage s).adu.greatest = s.adu.greatest ∧
    (takeEntryPassage s).adu.remap = s.adu.remap := by
  unfold takeEntryPassage
  simp

@[simp] theorem takeEntryBlocked_frame (s : State) :
    (takeEntryBlocked s).powered = s.powered ∧
    (takeEntryBlocked s).mem = s.mem ∧
    (takeEntryBlocked s).bpu = s.bpu ∧
    (takeEntryBlocked s).cfl = s.cfl ∧
    (takeEntryBlocked s).tru = s.tru ∧
    (takeEntryBlocked s).rtu = s.rtu ∧
    (takeEntryBlocked s).acu = s.acu ∧
    (takeEntryBlocked s).pfu = s.pfu ∧
    (takeEntryBlocked s).free = s.free ∧
    (takeEntryBlocked s).pending = s.pending ∧
    (takeEntryBlocked s).rqu.service = s.rqu.service ∧
    (takeEntryBlocked s).rqu.queue = s.rqu.queue ∧
    (takeEntryBlocked s).rqu.abandon = s.rqu.abandon ∧
    (takeEntryBlocked s).rqu.mask = s.rqu.mask ∧
    (takeEntryBlocked s).cnu.escrow = s.cnu.escrow ∧
    (takeEntryBlocked s).cnu.chute = s.cnu.chute ∧
    (takeEntryBlocked s).cnu.clearance = s.cnu.clearance ∧
    (takeEntryBlocked s).cnu.openCall = s.cnu.openCall ∧
    (takeEntryBlocked s).lnu.offHook = s.lnu.offHook ∧
    (takeEntryBlocked s).inu.rebuilt = s.inu.rebuilt ∧
    (takeEntryBlocked s).adu.cache = s.adu.cache ∧
    (takeEntryBlocked s).adu.run = s.adu.run ∧
    (takeEntryBlocked s).adu.nextCall = s.adu.nextCall ∧
    (takeEntryBlocked s).adu.greatest = s.adu.greatest ∧
    (takeEntryBlocked s).adu.remap = s.adu.remap := by
  unfold takeEntryBlocked
  simp

@[simp] theorem lostAccounting_frame (s : State) :
    (lostAccounting s).powered = s.powered ∧
    (lostAccounting s).mem = s.mem ∧
    (lostAccounting s).bpu = s.bpu ∧
    (lostAccounting s).cfl = s.cfl ∧
    (lostAccounting s).cnu = s.cnu ∧
    (lostAccounting s).tru = s.tru ∧
    (lostAccounting s).rtu = s.rtu ∧
    (lostAccounting s).acu = s.acu ∧
    (lostAccounting s).free = s.free ∧
    (lostAccounting s).pending = s.pending ∧
    (lostAccounting s).rqu.service = s.rqu.service ∧
    (lostAccounting s).rqu.queue = s.rqu.queue ∧
    (lostAccounting s).rqu.abandon = s.rqu.abandon ∧
    (lostAccounting s).rqu.mask = s.rqu.mask ∧
    (lostAccounting s).lnu.offHook = s.lnu.offHook ∧
    (lostAccounting s).inu.rebuilt = s.inu.rebuilt ∧
    (lostAccounting s).adu.run = s.adu.run ∧
    (lostAccounting s).adu.nextCall = s.adu.nextCall ∧
    (lostAccounting s).adu.greatest = s.adu.greatest ∧
    (lostAccounting s).adu.remap = s.adu.remap ∧
    (lostAccounting s).pfu.power = s.pfu.power ∧
    (lostAccounting s).pfu.save = s.pfu.save := by
  unfold lostAccounting
  simp

@[simp] theorem endClearance_frame (c : Clearance) (fault : Bool) (s : State) :
    (endClearance c fault s).powered = s.powered ∧
    (endClearance c fault s).mem = s.mem ∧
    (endClearance c fault s).bpu = s.bpu ∧
    (endClearance c fault s).cfl = s.cfl ∧
    (endClearance c fault s).tru = s.tru ∧
    (endClearance c fault s).rtu = s.rtu ∧
    (endClearance c fault s).acu = s.acu ∧
    (endClearance c fault s).free = s.free ∧
    (endClearance c fault s).pending = s.pending ∧
    (endClearance c fault s).rqu.service = s.rqu.service ∧
    (endClearance c fault s).rqu.queue = s.rqu.queue ∧
    (endClearance c fault s).rqu.abandon = s.rqu.abandon ∧
    (endClearance c fault s).rqu.mask = s.rqu.mask ∧
    (endClearance c fault s).cnu.chute = s.cnu.chute ∧
    (endClearance c fault s).cnu.openCall = s.cnu.openCall ∧
    (endClearance c fault s).lnu.offHook = s.lnu.offHook ∧
    (endClearance c fault s).inu.rebuilt = s.inu.rebuilt ∧
    (endClearance c fault s).adu.run = s.adu.run ∧
    (endClearance c fault s).adu.nextCall = s.adu.nextCall ∧
    (endClearance c fault s).adu.greatest = s.adu.greatest ∧
    (endClearance c fault s).adu.remap = s.adu.remap ∧
    (endClearance c fault s).pfu.power = s.pfu.power ∧
    (endClearance c fault s).pfu.save = s.pfu.save := by
  unfold endClearance
  (repeat' split) <;> simp

@[simp] theorem nextClearance_frame (c : Clearance) (s : State) :
    (nextClearance c s).powered = s.powered ∧
    (nextClearance c s).mem = s.mem ∧
    (nextClearance c s).bpu = s.bpu ∧
    (nextClearance c s).cfl = s.cfl ∧
    (nextClearance c s).tru = s.tru ∧
    (nextClearance c s).rtu = s.rtu ∧
    (nextClearance c s).acu = s.acu ∧
    (nextClearance c s).free = s.free ∧
    (nextClearance c s).pending = s.pending ∧
    (nextClearance c s).rqu.service = s.rqu.service ∧
    (nextClearance c s).rqu.queue = s.rqu.queue ∧
    (nextClearance c s).rqu.abandon = s.rqu.abandon ∧
    (nextClearance c s).rqu.mask = s.rqu.mask ∧
    (nextClearance c s).cnu.chute = s.cnu.chute ∧
    (nextClearance c s).cnu.openCall = s.cnu.openCall ∧
    (nextClearance c s).lnu.offHook = s.lnu.offHook ∧
    (nextClearance c s).inu.rebuilt = s.inu.rebuilt ∧
    (nextClearance c s).adu.run = s.adu.run ∧
    (nextClearance c s).adu.nextCall = s.adu.nextCall ∧
    (nextClearance c s).adu.greatest = s.adu.greatest ∧
    (nextClearance c s).adu.remap = s.adu.remap ∧
    (nextClearance c s).pfu.power = s.pfu.power ∧
    (nextClearance c s).pfu.save = s.pfu.save := by
  unfold nextClearance
  (repeat' split) <;> simp

@[simp] theorem orderClearance_frame (s : State) :
    (orderClearance s).powered = s.powered ∧
    (orderClearance s).mem = s.mem ∧
    (orderClearance s).bpu = s.bpu ∧
    (orderClearance s).cfl = s.cfl ∧
    (orderClearance s).tru = s.tru ∧
    (orderClearance s).rtu = s.rtu ∧
    (orderClearance s).acu = s.acu ∧
    (orderClearance s).free = s.free ∧
    (orderClearance s).pending = s.pending ∧
    (orderClearance s).rqu.service = s.rqu.service ∧
    (orderClearance s).rqu.queue = s.rqu.queue ∧
    (orderClearance s).rqu.abandon = s.rqu.abandon ∧
    (orderClearance s).rqu.mask = s.rqu.mask ∧
    (orderClearance s).cnu.chute = s.cnu.chute ∧
    (orderClearance s).cnu.openCall = s.cnu.openCall ∧
    (orderClearance s).lnu.offHook = s.lnu.offHook ∧
    (orderClearance s).inu.rebuilt = s.inu.rebuilt ∧
    (orderClearance s).adu.run = s.adu.run ∧
    (orderClearance s).adu.nextCall = s.adu.nextCall ∧
    (orderClearance s).adu.greatest = s.adu.greatest ∧
    (orderClearance s).adu.remap = s.adu.remap ∧
    (orderClearance s).pfu.power = s.pfu.power ∧
    (orderClearance s).pfu.save = s.pfu.save := by
  unfold orderClearance
  simp

@[simp] theorem takeExitPassage_frame (s : State) :
    (takeExitPassage s).powered = s.powered ∧
    (takeExitPassage s).mem = s.mem ∧
    (takeExitPassage s).bpu = s.bpu ∧
    (takeExitPassage s).cfl = s.cfl ∧
    (takeExitPassage s).tru = s.tru ∧
    (takeExitPassage s).rtu = s.rtu ∧
    (takeExitPassage s).acu = s.acu ∧
    (takeExitPassage s).free = s.free ∧
    (takeExitPassage s).pending = s.pending ∧
    (takeExitPassage s).rqu.service = s.rqu.service ∧
    (takeExitPassage s).rqu.queue = s.rqu.queue ∧
    (takeExitPassage s).rqu.abandon = s.rqu.abandon ∧
    (takeExitPassage s).rqu.mask = s.rqu.mask ∧
    (takeExitPassage s).cnu.chute = s.cnu.chute ∧
    (takeExitPassage s).cnu.openCall = s.cnu.openCall ∧
    (takeExitPassage s).lnu.offHook = s.lnu.offHook ∧
    (takeExitPassage s).inu.rebuilt = s.inu.rebuilt ∧
    (takeExitPassage s).adu.run = s.adu.run ∧
    (takeExitPassage s).adu.nextCall = s.adu.nextCall ∧
    (takeExitPassage s).adu.greatest = s.adu.greatest ∧
    (takeExitPassage s).adu.remap = s.adu.remap ∧
    (takeExitPassage s).pfu.power = s.pfu.power ∧
    (takeExitPassage s).pfu.save = s.pfu.save := by
  unfold takeExitPassage
  (repeat' split) <;> simp

@[simp] theorem dropStuck_frame (m : Motion) (s : State) :
    (dropStuck m s).powered = s.powered ∧
    (dropStuck m s).mem = s.mem ∧
    (dropStuck m s).bpu = s.bpu ∧
    (dropStuck m s).cfl = s.cfl ∧
    (dropStuck m s).tru = s.tru ∧
    (dropStuck m s).rtu = s.rtu ∧
    (dropStuck m s).acu = s.acu ∧
    (dropStuck m s).pfu = s.pfu ∧
    (dropStuck m s).free = s.free ∧
    (dropStuck m s).pending = s.pending ∧
    (dropStuck m s).rqu.service = s.rqu.service ∧
    (dropStuck m s).rqu.queue = s.rqu.queue ∧
    (dropStuck m s).rqu.abandon = s.rqu.abandon ∧
    (dropStuck m s).rqu.mask = s.rqu.mask ∧
    (dropStuck m s).cnu.escrow = s.cnu.escrow ∧
    (dropStuck m s).cnu.chute = s.cnu.chute ∧
    (dropStuck m s).cnu.clearance = s.cnu.clearance ∧
    (dropStuck m s).cnu.openCall = s.cnu.openCall ∧
    (dropStuck m s).lnu.offHook = s.lnu.offHook ∧
    (dropStuck m s).inu.rebuilt = s.inu.rebuilt ∧
    (dropStuck m s).adu.cache = s.adu.cache ∧
    (dropStuck m s).adu.run = s.adu.run ∧
    (dropStuck m s).adu.nextCall = s.adu.nextCall ∧
    (dropStuck m s).adu.greatest = s.adu.greatest ∧
    (dropStuck m s).adu.remap = s.adu.remap := by
  unfold dropStuck
  dsimp only
  (repeat' split) <;> simp

@[simp] theorem outsideService_frame (k : IncKind) (s : State) :
    (outsideService k s).powered = s.powered ∧
    (outsideService k s).mem = s.mem ∧
    (outsideService k s).bpu = s.bpu ∧
    (outsideService k s).cfl = s.cfl ∧
    (outsideService k s).cnu = s.cnu ∧
    (outsideService k s).tru = s.tru ∧
    (outsideService k s).rtu = s.rtu ∧
    (outsideService k s).acu = s.acu ∧
    (outsideService k s).pfu = s.pfu ∧
    (outsideService k s).free = s.free ∧
    (outsideService k s).pending = s.pending ∧
    (outsideService k s).rqu.service = s.rqu.service ∧
    (outsideService k s).rqu.queue = s.rqu.queue ∧
    (outsideService k s).rqu.abandon = s.rqu.abandon ∧
    (outsideService k s).rqu.mask = s.rqu.mask ∧
    (outsideService k s).lnu.offHook = s.lnu.offHook ∧
    (outsideService k s).inu.rebuilt = s.inu.rebuilt ∧
    (outsideService k s).adu.cache = s.adu.cache ∧
    (outsideService k s).adu.run = s.adu.run ∧
    (outsideService k s).adu.nextCall = s.adu.nextCall ∧
    (outsideService k s).adu.greatest = s.adu.greatest ∧
    (outsideService k s).adu.remap = s.adu.remap := by
  unfold outsideService
  (repeat' split) <;> simp

@[simp] theorem judgeSwitches_frame (s : State) :
    (judgeSwitches s).powered = s.powered ∧
    (judgeSwitches s).mem = s.mem ∧
    (judgeSwitches s).bpu = s.bpu ∧
    (judgeSwitches s).cfl = s.cfl ∧
    (judgeSwitches s).cnu = s.cnu ∧
    (judgeSwitches s).tru = s.tru ∧
    (judgeSwitches s).rtu = s.rtu ∧
    (judgeSwitches s).acu = s.acu ∧
    (judgeSwitches s).pfu = s.pfu ∧
    (judgeSwitches s).free = s.free ∧
    (judgeSwitches s).pending = s.pending ∧
    (judgeSwitches s).rqu.service = s.rqu.service ∧
    (judgeSwitches s).rqu.queue = s.rqu.queue ∧
    (judgeSwitches s).rqu.abandon = s.rqu.abandon ∧
    (judgeSwitches s).rqu.mask = s.rqu.mask ∧
    (judgeSwitches s).lnu.offHook = s.lnu.offHook ∧
    (judgeSwitches s).inu.rebuilt = s.inu.rebuilt ∧
    (judgeSwitches s).adu.cache = s.adu.cache ∧
    (judgeSwitches s).adu.run = s.adu.run ∧
    (judgeSwitches s).adu.nextCall = s.adu.nextCall ∧
    (judgeSwitches s).adu.greatest = s.adu.greatest ∧
    (judgeSwitches s).adu.remap = s.adu.remap := by
  unfold judgeSwitches
  dsimp only
  (repeat' split) <;> simp

@[simp] theorem emptyCashboxRequest_frame (x : List Word) (s : State) :
    (emptyCashboxRequest x s).powered = s.powered ∧
    (emptyCashboxRequest x s).mem = s.mem ∧
    (emptyCashboxRequest x s).bpu = s.bpu ∧
    (emptyCashboxRequest x s).cfl = s.cfl ∧
    (emptyCashboxRequest x s).cnu = s.cnu ∧
    (emptyCashboxRequest x s).tru = s.tru ∧
    (emptyCashboxRequest x s).rtu = s.rtu ∧
    (emptyCashboxRequest x s).lnu = s.lnu ∧
    (emptyCashboxRequest x s).rpu = s.rpu ∧
    (emptyCashboxRequest x s).acu = s.acu ∧
    (emptyCashboxRequest x s).pfu = s.pfu ∧
    (emptyCashboxRequest x s).free = s.free ∧
    (emptyCashboxRequest x s).pending = s.pending ∧
    (emptyCashboxRequest x s).rqu.queue = s.rqu.queue ∧
    (emptyCashboxRequest x s).rqu.abandon = s.rqu.abandon ∧
    (emptyCashboxRequest x s).rqu.mask = s.rqu.mask ∧
    (emptyCashboxRequest x s).inu.rebuilt = s.inu.rebuilt ∧
    (emptyCashboxRequest x s).adu.run = s.adu.run ∧
    (emptyCashboxRequest x s).adu.nextCall = s.adu.nextCall ∧
    (emptyCashboxRequest x s).adu.greatest = s.adu.greatest ∧
    (emptyCashboxRequest x s).adu.remap = s.adu.remap := by
  unfold emptyCashboxRequest
  (repeat' split) <;> simp

/-! ### Machine/Access -/

@[simp] theorem setMode_frame (m : AccessMode) (s : State) :
    (setMode m s).powered = s.powered ∧
    (setMode m s).mem = s.mem ∧
    (setMode m s).bpu = s.bpu ∧
    (setMode m s).cfl = s.cfl ∧
    (setMode m s).cnu = s.cnu ∧
    (setMode m s).tru = s.tru ∧
    (setMode m s).rtu = s.rtu ∧
    (setMode m s).lnu = s.lnu ∧
    (setMode m s).inu = s.inu ∧
    (setMode m s).rpu = s.rpu ∧
    (setMode m s).adu = s.adu ∧
    (setMode m s).pfu = s.pfu ∧
    (setMode m s).held = s.held ∧
    (setMode m s).free = s.free ∧
    (setMode m s).pending = s.pending ∧
    (setMode m s).rqu.service = s.rqu.service ∧
    (setMode m s).rqu.queue = s.rqu.queue ∧
    (setMode m s).rqu.abandon = s.rqu.abandon ∧
    (setMode m s).rqu.mask = s.rqu.mask ∧
    (setMode m s).acu.attempts = s.acu.attempts := by
  unfold setMode
  simp

@[simp] theorem startLapse_frame (s : State) :
    (startLapse s).powered = s.powered ∧
    (startLapse s).mem = s.mem ∧
    (startLapse s).bpu = s.bpu ∧
    (startLapse s).cfl = s.cfl ∧
    (startLapse s).rqu = s.rqu ∧
    (startLapse s).cnu = s.cnu ∧
    (startLapse s).tru = s.tru ∧
    (startLapse s).rtu = s.rtu ∧
    (startLapse s).lnu = s.lnu ∧
    (startLapse s).inu = s.inu ∧
    (startLapse s).rpu = s.rpu ∧
    (startLapse s).adu = s.adu ∧
    (startLapse s).pfu = s.pfu ∧
    (startLapse s).held = s.held ∧
    (startLapse s).free = s.free ∧
    (startLapse s).pending = s.pending ∧
    (startLapse s).acu.mode = s.acu.mode ∧
    (startLapse s).acu.attempts = s.acu.attempts := by
  unfold startLapse
  simp

@[simp] theorem endSession_frame (s : State) :
    (endSession s).powered = s.powered ∧
    (endSession s).mem = s.mem ∧
    (endSession s).bpu = s.bpu ∧
    (endSession s).cfl = s.cfl ∧
    (endSession s).cnu = s.cnu ∧
    (endSession s).rtu = s.rtu ∧
    (endSession s).pfu = s.pfu ∧
    (endSession s).free = s.free ∧
    (endSession s).pending = s.pending ∧
    (endSession s).rqu.service = s.rqu.service ∧
    (endSession s).rqu.queue = s.rqu.queue ∧
    (endSession s).rqu.abandon = s.rqu.abandon ∧
    (endSession s).rqu.mask = s.rqu.mask ∧
    (endSession s).tru.clock = s.tru.clock ∧
    (endSession s).tru.valid = s.tru.valid ∧
    (endSession s).tru.unsettled = s.tru.unsettled ∧
    (endSession s).lnu.offHook = s.lnu.offHook ∧
    (endSession s).inu.rebuilt = s.inu.rebuilt ∧
    (endSession s).adu.cache = s.adu.cache ∧
    (endSession s).adu.run = s.adu.run ∧
    (endSession s).adu.nextCall = s.adu.nextCall ∧
    (endSession s).adu.greatest = s.adu.greatest ∧
    (endSession s).adu.remap = s.adu.remap ∧
    (endSession s).acu.attempts = s.acu.attempts := by
  unfold endSession
  simp

@[simp] theorem openSession_frame (s : State) :
    (openSession s).powered = s.powered ∧
    (openSession s).mem = s.mem ∧
    (openSession s).bpu = s.bpu ∧
    (openSession s).cfl = s.cfl ∧
    (openSession s).cnu = s.cnu ∧
    (openSession s).tru = s.tru ∧
    (openSession s).rtu = s.rtu ∧
    (openSession s).lnu = s.lnu ∧
    (openSession s).inu = s.inu ∧
    (openSession s).rpu = s.rpu ∧
    (openSession s).adu = s.adu ∧
    (openSession s).pfu = s.pfu ∧
    (openSession s).held = s.held ∧
    (openSession s).free = s.free ∧
    (openSession s).pending = s.pending ∧
    (openSession s).rqu.service = s.rqu.service ∧
    (openSession s).rqu.queue = s.rqu.queue ∧
    (openSession s).rqu.abandon = s.rqu.abandon ∧
    (openSession s).rqu.mask = s.rqu.mask := by
  unfold openSession
  simp

@[simp] theorem wrongCode_frame (s : State) :
    (wrongCode s).powered = s.powered ∧
    (wrongCode s).mem = s.mem ∧
    (wrongCode s).bpu = s.bpu ∧
    (wrongCode s).cfl = s.cfl ∧
    (wrongCode s).cnu = s.cnu ∧
    (wrongCode s).tru = s.tru ∧
    (wrongCode s).rtu = s.rtu ∧
    (wrongCode s).pfu = s.pfu ∧
    (wrongCode s).free = s.free ∧
    (wrongCode s).pending = s.pending ∧
    (wrongCode s).rqu.queue = s.rqu.queue ∧
    (wrongCode s).rqu.abandon = s.rqu.abandon ∧
    (wrongCode s).rqu.mask = s.rqu.mask ∧
    (wrongCode s).lnu.offHook = s.lnu.offHook ∧
    (wrongCode s).inu.rebuilt = s.inu.rebuilt ∧
    (wrongCode s).adu.cache = s.adu.cache ∧
    (wrongCode s).adu.run = s.adu.run ∧
    (wrongCode s).adu.nextCall = s.adu.nextCall ∧
    (wrongCode s).adu.greatest = s.adu.greatest ∧
    (wrongCode s).adu.remap = s.adu.remap := by
  unfold wrongCode
  dsimp only
  (repeat' split) <;> simp

@[simp] theorem serviceUnlockRequest_frame (ps : List Word) (s : State) :
    (serviceUnlockRequest ps s).powered = s.powered ∧
    (serviceUnlockRequest ps s).mem = s.mem ∧
    (serviceUnlockRequest ps s).bpu = s.bpu ∧
    (serviceUnlockRequest ps s).cfl = s.cfl ∧
    (serviceUnlockRequest ps s).cnu = s.cnu ∧
    (serviceUnlockRequest ps s).tru = s.tru ∧
    (serviceUnlockRequest ps s).rtu = s.rtu ∧
    (serviceUnlockRequest ps s).pfu = s.pfu ∧
    (serviceUnlockRequest ps s).free = s.free ∧
    (serviceUnlockRequest ps s).pending = s.pending ∧
    (serviceUnlockRequest ps s).rqu.queue = s.rqu.queue ∧
    (serviceUnlockRequest ps s).rqu.abandon = s.rqu.abandon ∧
    (serviceUnlockRequest ps s).rqu.mask = s.rqu.mask ∧
    (serviceUnlockRequest ps s).lnu.offHook = s.lnu.offHook ∧
    (serviceUnlockRequest ps s).inu.rebuilt = s.inu.rebuilt ∧
    (serviceUnlockRequest ps s).adu.cache = s.adu.cache ∧
    (serviceUnlockRequest ps s).adu.run = s.adu.run ∧
    (serviceUnlockRequest ps s).adu.nextCall = s.adu.nextCall ∧
    (serviceUnlockRequest ps s).adu.greatest = s.adu.greatest ∧
    (serviceUnlockRequest ps s).adu.remap = s.adu.remap := by
  unfold serviceUnlockRequest
  (repeat' split) <;> simp

@[simp] theorem freezeRequest_frame (x : List Word) (s : State) :
    (freezeRequest x s).powered = s.powered ∧
    (freezeRequest x s).mem = s.mem ∧
    (freezeRequest x s).bpu = s.bpu ∧
    (freezeRequest x s).cfl = s.cfl ∧
    (freezeRequest x s).cnu = s.cnu ∧
    (freezeRequest x s).tru = s.tru ∧
    (freezeRequest x s).rtu = s.rtu ∧
    (freezeRequest x s).lnu = s.lnu ∧
    (freezeRequest x s).inu = s.inu ∧
    (freezeRequest x s).rpu = s.rpu ∧
    (freezeRequest x s).adu = s.adu ∧
    (freezeRequest x s).pfu = s.pfu ∧
    (freezeRequest x s).held = s.held ∧
    (freezeRequest x s).free = s.free ∧
    (freezeRequest x s).pending = s.pending ∧
    (freezeRequest x s).rqu.queue = s.rqu.queue ∧
    (freezeRequest x s).rqu.abandon = s.rqu.abandon ∧
    (freezeRequest x s).rqu.mask = s.rqu.mask ∧
    (freezeRequest x s).acu.attempts = s.acu.attempts := by
  unfold freezeRequest
  (repeat' split) <;> simp

@[simp] theorem serviceEndRequest_frame (x : List Word) (s : State) :
    (serviceEndRequest x s).powered = s.powered ∧
    (serviceEndRequest x s).mem = s.mem ∧
    (serviceEndRequest x s).bpu = s.bpu ∧
    (serviceEndRequest x s).cfl = s.cfl ∧
    (serviceEndRequest x s).cnu = s.cnu ∧
    (serviceEndRequest x s).rtu = s.rtu ∧
    (serviceEndRequest x s).pfu = s.pfu ∧
    (serviceEndRequest x s).free = s.free ∧
    (serviceEndRequest x s).pending = s.pending ∧
    (serviceEndRequest x s).rqu.queue = s.rqu.queue ∧
    (serviceEndRequest x s).rqu.abandon = s.rqu.abandon ∧
    (serviceEndRequest x s).rqu.mask = s.rqu.mask ∧
    (serviceEndRequest x s).tru.clock = s.tru.clock ∧
    (serviceEndRequest x s).tru.valid = s.tru.valid ∧
    (serviceEndRequest x s).tru.unsettled = s.tru.unsettled ∧
    (serviceEndRequest x s).lnu.offHook = s.lnu.offHook ∧
    (serviceEndRequest x s).inu.rebuilt = s.inu.rebuilt ∧
    (serviceEndRequest x s).adu.cache = s.adu.cache ∧
    (serviceEndRequest x s).adu.run = s.adu.run ∧
    (serviceEndRequest x s).adu.nextCall = s.adu.nextCall ∧
    (serviceEndRequest x s).adu.greatest = s.adu.greatest ∧
    (serviceEndRequest x s).adu.remap = s.adu.remap ∧
    (serviceEndRequest x s).acu.attempts = s.acu.attempts := by
  unfold serviceEndRequest
  (repeat' split) <;> simp

@[simp] theorem takeKey_frame (on : Bool) (s : State) :
    (takeKey on s).powered = s.powered ∧
    (takeKey on s).mem = s.mem ∧
    (takeKey on s).bpu = s.bpu ∧
    (takeKey on s).cfl = s.cfl ∧
    (takeKey on s).cnu = s.cnu ∧
    (takeKey on s).rtu = s.rtu ∧
    (takeKey on s).pfu = s.pfu ∧
    (takeKey on s).free = s.free ∧
    (takeKey on s).pending = s.pending ∧
    (takeKey on s).rqu.service = s.rqu.service ∧
    (takeKey on s).rqu.queue = s.rqu.queue ∧
    (takeKey on s).rqu.abandon = s.rqu.abandon ∧
    (takeKey on s).rqu.mask = s.rqu.mask ∧
    (takeKey on s).tru.clock = s.tru.clock ∧
    (takeKey on s).tru.valid = s.tru.valid ∧
    (takeKey on s).tru.unsettled = s.tru.unsettled ∧
    (takeKey on s).lnu.offHook = s.lnu.offHook ∧
    (takeKey on s).inu.rebuilt = s.inu.rebuilt ∧
    (takeKey on s).adu.cache = s.adu.cache ∧
    (takeKey on s).adu.run = s.adu.run ∧
    (takeKey on s).adu.nextCall = s.adu.nextCall ∧
    (takeKey on s).adu.greatest = s.adu.greatest ∧
    (takeKey on s).adu.remap = s.adu.remap ∧
    (takeKey on s).acu.attempts = s.acu.attempts := by
  unfold takeKey
  dsimp only
  (repeat' split) <;> simp

@[simp] theorem takeLapse_frame (s : State) :
    (takeLapse s).powered = s.powered ∧
    (takeLapse s).mem = s.mem ∧
    (takeLapse s).bpu = s.bpu ∧
    (takeLapse s).cfl = s.cfl ∧
    (takeLapse s).cnu = s.cnu ∧
    (takeLapse s).rtu = s.rtu ∧
    (takeLapse s).pfu = s.pfu ∧
    (takeLapse s).free = s.free ∧
    (takeLapse s).pending = s.pending ∧
    (takeLapse s).rqu.service = s.rqu.service ∧
    (takeLapse s).rqu.queue = s.rqu.queue ∧
    (takeLapse s).rqu.abandon = s.rqu.abandon ∧
    (takeLapse s).rqu.mask = s.rqu.mask ∧
    (takeLapse s).tru.clock = s.tru.clock ∧
    (takeLapse s).tru.valid = s.tru.valid ∧
    (takeLapse s).tru.unsettled = s.tru.unsettled ∧
    (takeLapse s).lnu.offHook = s.lnu.offHook ∧
    (takeLapse s).inu.rebuilt = s.inu.rebuilt ∧
    (takeLapse s).adu.cache = s.adu.cache ∧
    (takeLapse s).adu.run = s.adu.run ∧
    (takeLapse s).adu.nextCall = s.adu.nextCall ∧
    (takeLapse s).adu.greatest = s.adu.greatest ∧
    (takeLapse s).adu.remap = s.adu.remap ∧
    (takeLapse s).acu.attempts = s.acu.attempts := by
  unfold takeLapse
  (repeat' split) <;> simp

@[simp] theorem takeNotice_frame (tariff : Bool) (s : State) :
    (takeNotice tariff s).powered = s.powered ∧
    (takeNotice tariff s).mem = s.mem ∧
    (takeNotice tariff s).bpu = s.bpu ∧
    (takeNotice tariff s).cfl = s.cfl ∧
    (takeNotice tariff s).rqu = s.rqu ∧
    (takeNotice tariff s).cnu = s.cnu ∧
    (takeNotice tariff s).rtu = s.rtu ∧
    (takeNotice tariff s).lnu = s.lnu ∧
    (takeNotice tariff s).inu = s.inu ∧
    (takeNotice tariff s).rpu = s.rpu ∧
    (takeNotice tariff s).adu = s.adu ∧
    (takeNotice tariff s).pfu = s.pfu ∧
    (takeNotice tariff s).held = s.held ∧
    (takeNotice tariff s).free = s.free ∧
    (takeNotice tariff s).pending = s.pending ∧
    (takeNotice tariff s).tru.clock = s.tru.clock ∧
    (takeNotice tariff s).tru.valid = s.tru.valid ∧
    (takeNotice tariff s).tru.unsettled = s.tru.unsettled ∧
    (takeNotice tariff s).acu.mode = s.acu.mode ∧
    (takeNotice tariff s).acu.attempts = s.acu.attempts := by
  unfold takeNotice
  (repeat' split) <;> simp

@[simp] theorem acuNotice_frame (tariff : Bool) (s : State) :
    (acuNotice tariff s).powered = s.powered ∧
    (acuNotice tariff s).mem = s.mem ∧
    (acuNotice tariff s).bpu = s.bpu ∧
    (acuNotice tariff s).cfl = s.cfl ∧
    (acuNotice tariff s).rqu = s.rqu ∧
    (acuNotice tariff s).cnu = s.cnu ∧
    (acuNotice tariff s).rtu = s.rtu ∧
    (acuNotice tariff s).lnu = s.lnu ∧
    (acuNotice tariff s).inu = s.inu ∧
    (acuNotice tariff s).rpu = s.rpu ∧
    (acuNotice tariff s).adu = s.adu ∧
    (acuNotice tariff s).pfu = s.pfu ∧
    (acuNotice tariff s).free = s.free ∧
    (acuNotice tariff s).pending = s.pending ∧
    (acuNotice tariff s).tru.clock = s.tru.clock ∧
    (acuNotice tariff s).tru.valid = s.tru.valid ∧
    (acuNotice tariff s).tru.unsettled = s.tru.unsettled ∧
    (acuNotice tariff s).acu.mode = s.acu.mode ∧
    (acuNotice tariff s).acu.attempts = s.acu.attempts := by
  unfold acuNotice
  (repeat' split) <;> simp

@[simp] theorem writeNotices_frame (k : WindowKind) (s : State) :
    (writeNotices k s).powered = s.powered ∧
    (writeNotices k s).mem = s.mem ∧
    (writeNotices k s).bpu = s.bpu ∧
    (writeNotices k s).cfl = s.cfl ∧
    (writeNotices k s).rqu = s.rqu ∧
    (writeNotices k s).cnu = s.cnu ∧
    (writeNotices k s).rtu = s.rtu ∧
    (writeNotices k s).lnu = s.lnu ∧
    (writeNotices k s).inu = s.inu ∧
    (writeNotices k s).rpu = s.rpu ∧
    (writeNotices k s).adu = s.adu ∧
    (writeNotices k s).pfu = s.pfu ∧
    (writeNotices k s).free = s.free ∧
    (writeNotices k s).pending = s.pending ∧
    (writeNotices k s).tru.clock = s.tru.clock ∧
    (writeNotices k s).tru.valid = s.tru.valid ∧
    (writeNotices k s).acu.mode = s.acu.mode ∧
    (writeNotices k s).acu.attempts = s.acu.attempts := by
  unfold writeNotices
  (repeat' split) <;> simp

@[simp] theorem resetAccess_frame (s : State) :
    (resetAccess s).powered = s.powered ∧
    (resetAccess s).mem = s.mem ∧
    (resetAccess s).bpu = s.bpu ∧
    (resetAccess s).cfl = s.cfl ∧
    (resetAccess s).cnu = s.cnu ∧
    (resetAccess s).rtu = s.rtu ∧
    (resetAccess s).pfu = s.pfu ∧
    (resetAccess s).free = s.free ∧
    (resetAccess s).pending = s.pending ∧
    (resetAccess s).rqu.service = s.rqu.service ∧
    (resetAccess s).rqu.queue = s.rqu.queue ∧
    (resetAccess s).rqu.abandon = s.rqu.abandon ∧
    (resetAccess s).rqu.mask = s.rqu.mask ∧
    (resetAccess s).tru.clock = s.tru.clock ∧
    (resetAccess s).tru.valid = s.tru.valid ∧
    (resetAccess s).tru.unsettled = s.tru.unsettled ∧
    (resetAccess s).lnu.offHook = s.lnu.offHook ∧
    (resetAccess s).inu.rebuilt = s.inu.rebuilt ∧
    (resetAccess s).adu.cache = s.adu.cache ∧
    (resetAccess s).adu.run = s.adu.run ∧
    (resetAccess s).adu.nextCall = s.adu.nextCall ∧
    (resetAccess s).adu.greatest = s.adu.greatest ∧
    (resetAccess s).adu.remap = s.adu.remap ∧
    (resetAccess s).acu.attempts = s.acu.attempts := by
  unfold resetAccess
  (repeat' split) <;> simp

/-! ### Machine/Audit -/

@[simp] theorem beginWords_frame (phase : RunPhase) (todo : List (Nat × Word)) (r : Run) (s : State) :
    (beginWords phase todo r s).powered = s.powered ∧
    (beginWords phase todo r s).mem = s.mem ∧
    (beginWords phase todo r s).bpu = s.bpu ∧
    (beginWords phase todo r s).cfl = s.cfl ∧
    (beginWords phase todo r s).rqu = s.rqu ∧
    (beginWords phase todo r s).cnu = s.cnu ∧
    (beginWords phase todo r s).tru = s.tru ∧
    (beginWords phase todo r s).rtu = s.rtu ∧
    (beginWords phase todo r s).lnu = s.lnu ∧
    (beginWords phase todo r s).inu = s.inu ∧
    (beginWords phase todo r s).rpu = s.rpu ∧
    (beginWords phase todo r s).acu = s.acu ∧
    (beginWords phase todo r s).pfu = s.pfu ∧
    (beginWords phase todo r s).held = s.held ∧
    (beginWords phase todo r s).free = s.free ∧
    (beginWords phase todo r s).pending = s.pending ∧
    (beginWords phase todo r s).adu.cache = s.adu.cache ∧
    (beginWords phase todo r s).adu.nextCall = s.adu.nextCall ∧
    (beginWords phase todo r s).adu.greatest = s.adu.greatest ∧
    (beginWords phase todo r s).adu.remap = s.adu.remap := by
  unfold beginWords
  simp

@[simp] theorem beginWriteBack_frame (flush : Bool) (deferred : Bool) (s : State) :
    (beginWriteBack flush deferred s).powered = s.powered ∧
    (beginWriteBack flush deferred s).mem = s.mem ∧
    (beginWriteBack flush deferred s).bpu = s.bpu ∧
    (beginWriteBack flush deferred s).cfl = s.cfl ∧
    (beginWriteBack flush deferred s).rqu = s.rqu ∧
    (beginWriteBack flush deferred s).cnu = s.cnu ∧
    (beginWriteBack flush deferred s).tru = s.tru ∧
    (beginWriteBack flush deferred s).rtu = s.rtu ∧
    (beginWriteBack flush deferred s).lnu = s.lnu ∧
    (beginWriteBack flush deferred s).inu = s.inu ∧
    (beginWriteBack flush deferred s).rpu = s.rpu ∧
    (beginWriteBack flush deferred s).acu = s.acu ∧
    (beginWriteBack flush deferred s).pfu = s.pfu ∧
    (beginWriteBack flush deferred s).held = s.held ∧
    (beginWriteBack flush deferred s).free = s.free ∧
    (beginWriteBack flush deferred s).pending = s.pending ∧
    (beginWriteBack flush deferred s).adu.cache = s.adu.cache ∧
    (beginWriteBack flush deferred s).adu.nextCall = s.adu.nextCall ∧
    (beginWriteBack flush deferred s).adu.greatest = s.adu.greatest ∧
    (beginWriteBack flush deferred s).adu.remap = s.adu.remap := by
  unfold beginWriteBack
  simp

@[simp] theorem beginJob_frame (j : Job) (s : State) :
    (beginJob j s).powered = s.powered ∧
    (beginJob j s).mem = s.mem ∧
    (beginJob j s).bpu = s.bpu ∧
    (beginJob j s).cfl = s.cfl ∧
    (beginJob j s).rqu = s.rqu ∧
    (beginJob j s).cnu = s.cnu ∧
    (beginJob j s).tru = s.tru ∧
    (beginJob j s).rtu = s.rtu ∧
    (beginJob j s).lnu = s.lnu ∧
    (beginJob j s).inu = s.inu ∧
    (beginJob j s).rpu = s.rpu ∧
    (beginJob j s).acu = s.acu ∧
    (beginJob j s).pfu = s.pfu ∧
    (beginJob j s).held = s.held ∧
    (beginJob j s).free = s.free ∧
    (beginJob j s).pending = s.pending ∧
    (beginJob j s).adu.cache = s.adu.cache ∧
    (beginJob j s).adu.nextCall = s.adu.nextCall ∧
    (beginJob j s).adu.greatest = s.adu.greatest ∧
    (beginJob j s).adu.remap = s.adu.remap := by
  unfold beginJob
  (repeat' split) <;> simp

@[simp] theorem endRecordJob_frame (log : LogId) (ws : List Word) (s : State) :
    (endRecordJob log ws s).powered = s.powered ∧
    (endRecordJob log ws s).mem = s.mem ∧
    (endRecordJob log ws s).bpu = s.bpu ∧
    (endRecordJob log ws s).cfl = s.cfl ∧
    (endRecordJob log ws s).rqu = s.rqu ∧
    (endRecordJob log ws s).cnu = s.cnu ∧
    (endRecordJob log ws s).tru = s.tru ∧
    (endRecordJob log ws s).rtu = s.rtu ∧
    (endRecordJob log ws s).lnu = s.lnu ∧
    (endRecordJob log ws s).inu = s.inu ∧
    (endRecordJob log ws s).rpu = s.rpu ∧
    (endRecordJob log ws s).acu = s.acu ∧
    (endRecordJob log ws s).pfu = s.pfu ∧
    (endRecordJob log ws s).held = s.held ∧
    (endRecordJob log ws s).free = s.free ∧
    (endRecordJob log ws s).pending = s.pending ∧
    (endRecordJob log ws s).adu.cache = s.adu.cache ∧
    (endRecordJob log ws s).adu.nextCall = s.adu.nextCall ∧
    (endRecordJob log ws s).adu.remap = s.adu.remap := by
  unfold endRecordJob
  simp

@[simp] theorem beginFinal_frame (log : LogId) (slot : Nat) (ws : List Word) (r : Run) (s : State) :
    (beginFinal log slot ws r s).powered = s.powered ∧
    (beginFinal log slot ws r s).mem = s.mem ∧
    (beginFinal log slot ws r s).bpu = s.bpu ∧
    (beginFinal log slot ws r s).cfl = s.cfl ∧
    (beginFinal log slot ws r s).rqu = s.rqu ∧
    (beginFinal log slot ws r s).cnu = s.cnu ∧
    (beginFinal log slot ws r s).tru = s.tru ∧
    (beginFinal log slot ws r s).rtu = s.rtu ∧
    (beginFinal log slot ws r s).lnu = s.lnu ∧
    (beginFinal log slot ws r s).inu = s.inu ∧
    (beginFinal log slot ws r s).rpu = s.rpu ∧
    (beginFinal log slot ws r s).acu = s.acu ∧
    (beginFinal log slot ws r s).pfu = s.pfu ∧
    (beginFinal log slot ws r s).held = s.held ∧
    (beginFinal log slot ws r s).free = s.free ∧
    (beginFinal log slot ws r s).pending = s.pending ∧
    (beginFinal log slot ws r s).adu.cache = s.adu.cache ∧
    (beginFinal log slot ws r s).adu.nextCall = s.adu.nextCall ∧
    (beginFinal log slot ws r s).adu.greatest = s.adu.greatest ∧
    (beginFinal log slot ws r s).adu.remap = s.adu.remap := by
  unfold beginFinal
  simp

@[simp] theorem moveRecord_frame (log : LogId) (slot : Nat) (ws : List Word) (r : Run) (s : State) :
    (moveRecord log slot ws r s).powered = s.powered ∧
    (moveRecord log slot ws r s).mem = s.mem ∧
    (moveRecord log slot ws r s).bpu = s.bpu ∧
    (moveRecord log slot ws r s).cfl = s.cfl ∧
    (moveRecord log slot ws r s).rqu = s.rqu ∧
    (moveRecord log slot ws r s).cnu = s.cnu ∧
    (moveRecord log slot ws r s).tru = s.tru ∧
    (moveRecord log slot ws r s).rtu = s.rtu ∧
    (moveRecord log slot ws r s).lnu = s.lnu ∧
    (moveRecord log slot ws r s).inu = s.inu ∧
    (moveRecord log slot ws r s).rpu = s.rpu ∧
    (moveRecord log slot ws r s).acu = s.acu ∧
    (moveRecord log slot ws r s).pfu = s.pfu ∧
    (moveRecord log slot ws r s).held = s.held ∧
    (moveRecord log slot ws r s).free = s.free ∧
    (moveRecord log slot ws r s).pending = s.pending ∧
    (moveRecord log slot ws r s).adu.cache = s.adu.cache ∧
    (moveRecord log slot ws r s).adu.nextCall = s.adu.nextCall ∧
    (moveRecord log slot ws r s).adu.greatest = s.adu.greatest ∧
    (moveRecord log slot ws r s).adu.remap = s.adu.remap := by
  unfold moveRecord
  (repeat' split) <;> simp

@[simp] theorem setEntry_frame (j : Nat) (e : RemapEntry) (s : State) :
    (setEntry j e s).powered = s.powered ∧
    (setEntry j e s).mem = s.mem ∧
    (setEntry j e s).bpu = s.bpu ∧
    (setEntry j e s).cfl = s.cfl ∧
    (setEntry j e s).rqu = s.rqu ∧
    (setEntry j e s).cnu = s.cnu ∧
    (setEntry j e s).tru = s.tru ∧
    (setEntry j e s).rtu = s.rtu ∧
    (setEntry j e s).lnu = s.lnu ∧
    (setEntry j e s).inu = s.inu ∧
    (setEntry j e s).rpu = s.rpu ∧
    (setEntry j e s).acu = s.acu ∧
    (setEntry j e s).pfu = s.pfu ∧
    (setEntry j e s).held = s.held ∧
    (setEntry j e s).free = s.free ∧
    (setEntry j e s).pending = s.pending ∧
    (setEntry j e s).adu.cache = s.adu.cache ∧
    (setEntry j e s).adu.run = s.adu.run ∧
    (setEntry j e s).adu.nextCall = s.adu.nextCall ∧
    (setEntry j e s).adu.greatest = s.adu.greatest := by
  unfold setEntry
  simp

@[simp] theorem recordPhaseDone_frame (log : LogId) (slot : Nat) (ws : List Word) (r : Run) (s : State) :
    (recordPhaseDone log slot ws r s).powered = s.powered ∧
    (recordPhaseDone log slot ws r s).mem = s.mem ∧
    (recordPhaseDone log slot ws r s).bpu = s.bpu ∧
    (recordPhaseDone log slot ws r s).cfl = s.cfl ∧
    (recordPhaseDone log slot ws r s).cnu = s.cnu ∧
    (recordPhaseDone log slot ws r s).tru = s.tru ∧
    (recordPhaseDone log slot ws r s).rtu = s.rtu ∧
    (recordPhaseDone log slot ws r s).acu = s.acu ∧
    (recordPhaseDone log slot ws r s).pfu = s.pfu ∧
    (recordPhaseDone log slot ws r s).free = s.free ∧
    (recordPhaseDone log slot ws r s).pending = s.pending ∧
    (recordPhaseDone log slot ws r s).rqu.service = s.rqu.service ∧
    (recordPhaseDone log slot ws r s).rqu.queue = s.rqu.queue ∧
    (recordPhaseDone log slot ws r s).rqu.abandon = s.rqu.abandon ∧
    (recordPhaseDone log slot ws r s).rqu.mask = s.rqu.mask ∧
    (recordPhaseDone log slot ws r s).lnu.offHook = s.lnu.offHook ∧
    (recordPhaseDone log slot ws r s).inu.rebuilt = s.inu.rebuilt ∧
    (recordPhaseDone log slot ws r s).adu.cache = s.adu.cache ∧
    (recordPhaseDone log slot ws r s).adu.nextCall = s.adu.nextCall := by
  unfold recordPhaseDone
  (repeat' split) <;> simp

@[simp] theorem nextWord_frame (r : Run) (s : State) :
    (nextWord r s).powered = s.powered ∧
    (nextWord r s).mem = s.mem ∧
    (nextWord r s).bpu = s.bpu ∧
    (nextWord r s).cfl = s.cfl ∧
    (nextWord r s).cnu = s.cnu ∧
    (nextWord r s).tru = s.tru ∧
    (nextWord r s).rtu = s.rtu ∧
    (nextWord r s).acu = s.acu ∧
    (nextWord r s).pfu = s.pfu ∧
    (nextWord r s).free = s.free ∧
    (nextWord r s).pending = s.pending ∧
    (nextWord r s).rqu.service = s.rqu.service ∧
    (nextWord r s).rqu.queue = s.rqu.queue ∧
    (nextWord r s).rqu.abandon = s.rqu.abandon ∧
    (nextWord r s).rqu.mask = s.rqu.mask ∧
    (nextWord r s).lnu.offHook = s.lnu.offHook ∧
    (nextWord r s).inu.rebuilt = s.inu.rebuilt ∧
    (nextWord r s).adu.cache = s.adu.cache ∧
    (nextWord r s).adu.nextCall = s.adu.nextCall := by
  unfold nextWord
  dsimp only
  (repeat' split) <;> simp

@[simp] theorem recordWordFailed_frame (log : LogId) (slot : Nat) (ws : List Word) (r : Run) (s : State) :
    (recordWordFailed log slot ws r s).powered = s.powered ∧
    (recordWordFailed log slot ws r s).mem = s.mem ∧
    (recordWordFailed log slot ws r s).bpu = s.bpu ∧
    (recordWordFailed log slot ws r s).cfl = s.cfl ∧
    (recordWordFailed log slot ws r s).cnu = s.cnu ∧
    (recordWordFailed log slot ws r s).tru = s.tru ∧
    (recordWordFailed log slot ws r s).rtu = s.rtu ∧
    (recordWordFailed log slot ws r s).acu = s.acu ∧
    (recordWordFailed log slot ws r s).pfu = s.pfu ∧
    (recordWordFailed log slot ws r s).free = s.free ∧
    (recordWordFailed log slot ws r s).pending = s.pending ∧
    (recordWordFailed log slot ws r s).rqu.service = s.rqu.service ∧
    (recordWordFailed log slot ws r s).rqu.queue = s.rqu.queue ∧
    (recordWordFailed log slot ws r s).rqu.abandon = s.rqu.abandon ∧
    (recordWordFailed log slot ws r s).rqu.mask = s.rqu.mask ∧
    (recordWordFailed log slot ws r s).lnu.offHook = s.lnu.offHook ∧
    (recordWordFailed log slot ws r s).inu.rebuilt = s.inu.rebuilt ∧
    (recordWordFailed log slot ws r s).adu.cache = s.adu.cache ∧
    (recordWordFailed log slot ws r s).adu.nextCall = s.adu.nextCall := by
  unfold recordWordFailed
  (repeat' split) <;> simp

@[simp] theorem wordFailed_frame (r : Run) (s : State) :
    (wordFailed r s).powered = s.powered ∧
    (wordFailed r s).mem = s.mem ∧
    (wordFailed r s).bpu = s.bpu ∧
    (wordFailed r s).cfl = s.cfl ∧
    (wordFailed r s).cnu = s.cnu ∧
    (wordFailed r s).tru = s.tru ∧
    (wordFailed r s).rtu = s.rtu ∧
    (wordFailed r s).acu = s.acu ∧
    (wordFailed r s).pfu = s.pfu ∧
    (wordFailed r s).free = s.free ∧
    (wordFailed r s).pending = s.pending ∧
    (wordFailed r s).rqu.service = s.rqu.service ∧
    (wordFailed r s).rqu.queue = s.rqu.queue ∧
    (wordFailed r s).rqu.abandon = s.rqu.abandon ∧
    (wordFailed r s).rqu.mask = s.rqu.mask ∧
    (wordFailed r s).lnu.offHook = s.lnu.offHook ∧
    (wordFailed r s).inu.rebuilt = s.inu.rebuilt ∧
    (wordFailed r s).adu.cache = s.adu.cache ∧
    (wordFailed r s).adu.nextCall = s.adu.nextCall := by
  unfold wordFailed
  dsimp only
  (repeat' split) <;> simp

@[simp] theorem compareWord_frame (readBack : Word) (r : Run) (s : State) :
    (compareWord readBack r s).powered = s.powered ∧
    (compareWord readBack r s).mem = s.mem ∧
    (compareWord readBack r s).bpu = s.bpu ∧
    (compareWord readBack r s).cfl = s.cfl ∧
    (compareWord readBack r s).cnu = s.cnu ∧
    (compareWord readBack r s).tru = s.tru ∧
    (compareWord readBack r s).rtu = s.rtu ∧
    (compareWord readBack r s).acu = s.acu ∧
    (compareWord readBack r s).pfu = s.pfu ∧
    (compareWord readBack r s).free = s.free ∧
    (compareWord readBack r s).pending = s.pending ∧
    (compareWord readBack r s).rqu.service = s.rqu.service ∧
    (compareWord readBack r s).rqu.queue = s.rqu.queue ∧
    (compareWord readBack r s).rqu.abandon = s.rqu.abandon ∧
    (compareWord readBack r s).rqu.mask = s.rqu.mask ∧
    (compareWord readBack r s).lnu.offHook = s.lnu.offHook ∧
    (compareWord readBack r s).inu.rebuilt = s.inu.rebuilt ∧
    (compareWord readBack r s).adu.nextCall = s.adu.nextCall := by
  unfold compareWord
  (repeat' split) <;> simp

@[simp] theorem flushRequest_frame (x : List Word) (s : State) :
    (flushRequest x s).powered = s.powered ∧
    (flushRequest x s).mem = s.mem ∧
    (flushRequest x s).bpu = s.bpu ∧
    (flushRequest x s).cfl = s.cfl ∧
    (flushRequest x s).cnu = s.cnu ∧
    (flushRequest x s).tru = s.tru ∧
    (flushRequest x s).rtu = s.rtu ∧
    (flushRequest x s).lnu = s.lnu ∧
    (flushRequest x s).inu = s.inu ∧
    (flushRequest x s).rpu = s.rpu ∧
    (flushRequest x s).acu = s.acu ∧
    (flushRequest x s).pfu = s.pfu ∧
    (flushRequest x s).held = s.held ∧
    (flushRequest x s).free = s.free ∧
    (flushRequest x s).pending = s.pending ∧
    (flushRequest x s).rqu.queue = s.rqu.queue ∧
    (flushRequest x s).rqu.abandon = s.rqu.abandon ∧
    (flushRequest x s).rqu.mask = s.rqu.mask ∧
    (flushRequest x s).adu.cache = s.adu.cache ∧
    (flushRequest x s).adu.run = s.adu.run ∧
    (flushRequest x s).adu.nextCall = s.adu.nextCall ∧
    (flushRequest x s).adu.greatest = s.adu.greatest ∧
    (flushRequest x s).adu.remap = s.adu.remap := by
  unfold flushRequest
  (repeat' split) <;> simp

@[simp] theorem collectLogRequest_frame (ps : List Word) (s : State) :
    (collectLogRequest ps s).powered = s.powered ∧
    (collectLogRequest ps s).mem = s.mem ∧
    (collectLogRequest ps s).bpu = s.bpu ∧
    (collectLogRequest ps s).cfl = s.cfl ∧
    (collectLogRequest ps s).cnu = s.cnu ∧
    (collectLogRequest ps s).tru = s.tru ∧
    (collectLogRequest ps s).rtu = s.rtu ∧
    (collectLogRequest ps s).acu = s.acu ∧
    (collectLogRequest ps s).pfu = s.pfu ∧
    (collectLogRequest ps s).free = s.free ∧
    (collectLogRequest ps s).pending = s.pending ∧
    (collectLogRequest ps s).rqu.queue = s.rqu.queue ∧
    (collectLogRequest ps s).rqu.abandon = s.rqu.abandon ∧
    (collectLogRequest ps s).rqu.mask = s.rqu.mask ∧
    (collectLogRequest ps s).lnu.offHook = s.lnu.offHook ∧
    (collectLogRequest ps s).inu.rebuilt = s.inu.rebuilt ∧
    (collectLogRequest ps s).adu.run = s.adu.run ∧
    (collectLogRequest ps s).adu.nextCall = s.adu.nextCall ∧
    (collectLogRequest ps s).adu.greatest = s.adu.greatest ∧
    (collectLogRequest ps s).adu.remap = s.adu.remap := by
  unfold collectLogRequest
  dsimp only
  (repeat' split) <;> simp

/-! ### Machine/Bus -/

@[simp] theorem offerIntercept_frame (r : Intercept) (s : State) :
    (offerIntercept r s).powered = s.powered ∧
    (offerIntercept r s).mem = s.mem ∧
    (offerIntercept r s).cfl = s.cfl ∧
    (offerIntercept r s).cnu = s.cnu ∧
    (offerIntercept r s).tru = s.tru ∧
    (offerIntercept r s).rtu = s.rtu ∧
    (offerIntercept r s).lnu = s.lnu ∧
    (offerIntercept r s).inu = s.inu ∧
    (offerIntercept r s).rpu = s.rpu ∧
    (offerIntercept r s).adu = s.adu ∧
    (offerIntercept r s).acu = s.acu ∧
    (offerIntercept r s).pfu = s.pfu ∧
    (offerIntercept r s).held = s.held ∧
    (offerIntercept r s).free = s.free ∧
    (offerIntercept r s).pending = s.pending ∧
    (offerIntercept r s).bpu.table = s.bpu.table ∧
    (offerIntercept r s).bpu.busy = s.bpu.busy ∧
    (offerIntercept r s).bpu.cycle = s.bpu.cycle ∧
    (offerIntercept r s).rqu.service = s.rqu.service ∧
    (offerIntercept r s).rqu.queue = s.rqu.queue ∧
    (offerIntercept r s).rqu.abandon = s.rqu.abandon ∧
    (offerIntercept r s).rqu.mask = s.rqu.mask := by
  unfold offerIntercept
  (repeat' split) <;> simp

@[simp] theorem blockWrite_frame (cause : Cause) (c : Cycle) (s : State) :
    (blockWrite cause c s).powered = s.powered ∧
    (blockWrite cause c s).mem = s.mem ∧
    (blockWrite cause c s).cfl = s.cfl ∧
    (blockWrite cause c s).cnu = s.cnu ∧
    (blockWrite cause c s).tru = s.tru ∧
    (blockWrite cause c s).rtu = s.rtu ∧
    (blockWrite cause c s).acu = s.acu ∧
    (blockWrite cause c s).pfu = s.pfu ∧
    (blockWrite cause c s).free = s.free ∧
    (blockWrite cause c s).pending = s.pending ∧
    (blockWrite cause c s).bpu.table = s.bpu.table ∧
    (blockWrite cause c s).bpu.busy = s.bpu.busy ∧
    (blockWrite cause c s).bpu.cycle = s.bpu.cycle ∧
    (blockWrite cause c s).rqu.service = s.rqu.service ∧
    (blockWrite cause c s).rqu.queue = s.rqu.queue ∧
    (blockWrite cause c s).rqu.abandon = s.rqu.abandon ∧
    (blockWrite cause c s).rqu.mask = s.rqu.mask ∧
    (blockWrite cause c s).lnu.offHook = s.lnu.offHook ∧
    (blockWrite cause c s).inu.rebuilt = s.inu.rebuilt ∧
    (blockWrite cause c s).adu.run = s.adu.run ∧
    (blockWrite cause c s).adu.nextCall = s.adu.nextCall ∧
    (blockWrite cause c s).adu.greatest = s.adu.greatest ∧
    (blockWrite cause c s).adu.remap = s.adu.remap := by
  unfold blockWrite
  simp

@[simp] theorem popIntercept_frame (s : State) :
    (popIntercept s).powered = s.powered ∧
    (popIntercept s).mem = s.mem ∧
    (popIntercept s).cfl = s.cfl ∧
    (popIntercept s).rqu = s.rqu ∧
    (popIntercept s).cnu = s.cnu ∧
    (popIntercept s).tru = s.tru ∧
    (popIntercept s).rtu = s.rtu ∧
    (popIntercept s).lnu = s.lnu ∧
    (popIntercept s).inu = s.inu ∧
    (popIntercept s).rpu = s.rpu ∧
    (popIntercept s).adu = s.adu ∧
    (popIntercept s).acu = s.acu ∧
    (popIntercept s).pfu = s.pfu ∧
    (popIntercept s).held = s.held ∧
    (popIntercept s).free = s.free ∧
    (popIntercept s).pending = s.pending ∧
    (popIntercept s).bpu.table = s.bpu.table ∧
    (popIntercept s).bpu.busy = s.bpu.busy ∧
    (popIntercept s).bpu.cycle = s.bpu.cycle := by
  unfold popIntercept
  (repeat' split) <;> simp

@[simp] theorem readService_frame (s : State) :
    (readService s).powered = s.powered ∧
    (readService s).mem = s.mem ∧
    (readService s).bpu = s.bpu ∧
    (readService s).cfl = s.cfl ∧
    (readService s).cnu = s.cnu ∧
    (readService s).tru = s.tru ∧
    (readService s).rtu = s.rtu ∧
    (readService s).lnu = s.lnu ∧
    (readService s).inu = s.inu ∧
    (readService s).rpu = s.rpu ∧
    (readService s).adu = s.adu ∧
    (readService s).acu = s.acu ∧
    (readService s).pfu = s.pfu ∧
    (readService s).held = s.held ∧
    (readService s).free = s.free ∧
    (readService s).pending = s.pending ∧
    (readService s).rqu.abandon = s.rqu.abandon ∧
    (readService s).rqu.mask = s.rqu.mask := by
  unfold readService
  simp

@[simp] theorem readRest_frame (s : State) :
    (readRest s).powered = s.powered ∧
    (readRest s).mem = s.mem ∧
    (readRest s).bpu = s.bpu ∧
    (readRest s).cfl = s.cfl ∧
    (readRest s).cnu = s.cnu ∧
    (readRest s).tru = s.tru ∧
    (readRest s).rtu = s.rtu ∧
    (readRest s).lnu = s.lnu ∧
    (readRest s).inu = s.inu ∧
    (readRest s).rpu = s.rpu ∧
    (readRest s).adu = s.adu ∧
    (readRest s).acu = s.acu ∧
    (readRest s).pfu = s.pfu ∧
    (readRest s).held = s.held ∧
    (readRest s).free = s.free ∧
    (readRest s).pending = s.pending ∧
    (readRest s).rqu.abandon = s.rqu.abandon ∧
    (readRest s).rqu.mask = s.rqu.mask := by
  unfold readRest
  simp

@[simp] theorem takeIndex_frame (i : Nat) (rest : List Nat) (refused : Bool) (s : State) :
    (takeIndex i rest refused s).powered = s.powered ∧
    (takeIndex i rest refused s).mem = s.mem ∧
    (takeIndex i rest refused s).bpu = s.bpu ∧
    (takeIndex i rest refused s).cfl = s.cfl ∧
    (takeIndex i rest refused s).cnu = s.cnu ∧
    (takeIndex i rest refused s).tru = s.tru ∧
    (takeIndex i rest refused s).rtu = s.rtu ∧
    (takeIndex i rest refused s).lnu = s.lnu ∧
    (takeIndex i rest refused s).inu = s.inu ∧
    (takeIndex i rest refused s).rpu = s.rpu ∧
    (takeIndex i rest refused s).adu = s.adu ∧
    (takeIndex i rest refused s).acu = s.acu ∧
    (takeIndex i rest refused s).pfu = s.pfu ∧
    (takeIndex i rest refused s).held = s.held ∧
    (takeIndex i rest refused s).free = s.free ∧
    (takeIndex i rest refused s).pending = s.pending ∧
    (takeIndex i rest refused s).rqu.abandon = s.rqu.abandon ∧
    (takeIndex i rest refused s).rqu.mask = s.rqu.mask := by
  unfold takeIndex
  simp

@[simp] theorem readHead_frame (s : State) :
    (readHead s).powered = s.powered ∧
    (readHead s).mem = s.mem ∧
    (readHead s).bpu = s.bpu ∧
    (readHead s).cfl = s.cfl ∧
    (readHead s).cnu = s.cnu ∧
    (readHead s).tru = s.tru ∧
    (readHead s).rtu = s.rtu ∧
    (readHead s).lnu = s.lnu ∧
    (readHead s).inu = s.inu ∧
    (readHead s).rpu = s.rpu ∧
    (readHead s).adu = s.adu ∧
    (readHead s).acu = s.acu ∧
    (readHead s).pfu = s.pfu ∧
    (readHead s).held = s.held ∧
    (readHead s).free = s.free ∧
    (readHead s).pending = s.pending ∧
    (readHead s).rqu.abandon = s.rqu.abandon ∧
    (readHead s).rqu.mask = s.rqu.mask := by
  unfold readHead
  dsimp only
  (repeat' split) <;> simp

@[simp] theorem headComes_frame (s : State) :
    (headComes s).powered = s.powered ∧
    (headComes s).mem = s.mem ∧
    (headComes s).bpu = s.bpu ∧
    (headComes s).cfl = s.cfl ∧
    (headComes s).cnu = s.cnu ∧
    (headComes s).tru = s.tru ∧
    (headComes s).rtu = s.rtu ∧
    (headComes s).lnu = s.lnu ∧
    (headComes s).inu = s.inu ∧
    (headComes s).rpu = s.rpu ∧
    (headComes s).adu = s.adu ∧
    (headComes s).acu = s.acu ∧
    (headComes s).pfu = s.pfu ∧
    (headComes s).held = s.held ∧
    (headComes s).free = s.free ∧
    (headComes s).pending = s.pending ∧
    (headComes s).rqu.abandon = s.rqu.abandon ∧
    (headComes s).rqu.mask = s.rqu.mask := by
  unfold headComes
  dsimp only
  (repeat' split) <;> simp

@[simp] theorem judgeHead_frame (s : State) :
    (judgeHead s).powered = s.powered ∧
    (judgeHead s).mem = s.mem ∧
    (judgeHead s).bpu = s.bpu ∧
    (judgeHead s).cfl = s.cfl ∧
    (judgeHead s).cnu = s.cnu ∧
    (judgeHead s).tru = s.tru ∧
    (judgeHead s).rtu = s.rtu ∧
    (judgeHead s).lnu = s.lnu ∧
    (judgeHead s).inu = s.inu ∧
    (judgeHead s).rpu = s.rpu ∧
    (judgeHead s).adu = s.adu ∧
    (judgeHead s).acu = s.acu ∧
    (judgeHead s).pfu = s.pfu ∧
    (judgeHead s).held = s.held ∧
    (judgeHead s).free = s.free ∧
    (judgeHead s).pending = s.pending ∧
    (judgeHead s).rqu.abandon = s.rqu.abandon ∧
    (judgeHead s).rqu.mask = s.rqu.mask := by
  unfold judgeHead
  dsimp only
  (repeat' split) <;> simp

@[simp] theorem postSlot_frame (i : Nat) (s : State) :
    (postSlot i s).powered = s.powered ∧
    (postSlot i s).mem = s.mem ∧
    (postSlot i s).cfl = s.cfl ∧
    (postSlot i s).cnu = s.cnu ∧
    (postSlot i s).tru = s.tru ∧
    (postSlot i s).rtu = s.rtu ∧
    (postSlot i s).lnu = s.lnu ∧
    (postSlot i s).inu = s.inu ∧
    (postSlot i s).rpu = s.rpu ∧
    (postSlot i s).adu = s.adu ∧
    (postSlot i s).acu = s.acu ∧
    (postSlot i s).pfu = s.pfu ∧
    (postSlot i s).held = s.held ∧
    (postSlot i s).free = s.free ∧
    (postSlot i s).pending = s.pending ∧
    (postSlot i s).bpu.table = s.bpu.table ∧
    (postSlot i s).bpu.cycle = s.bpu.cycle ∧
    (postSlot i s).bpu.intercepts = s.bpu.intercepts ∧
    (postSlot i s).rqu.abandon = s.rqu.abandon ∧
    (postSlot i s).rqu.mask = s.rqu.mask := by
  unfold postSlot
  (repeat' split) <;> simp

@[simp] theorem afterWrite_frame (c : Cycle) (s : State) :
    (afterWrite c s).powered = s.powered ∧
    (afterWrite c s).mem = s.mem ∧
    (afterWrite c s).cfl = s.cfl ∧
    (afterWrite c s).cnu = s.cnu ∧
    (afterWrite c s).rtu = s.rtu ∧
    (afterWrite c s).lnu = s.lnu ∧
    (afterWrite c s).inu = s.inu ∧
    (afterWrite c s).rpu = s.rpu ∧
    (afterWrite c s).adu = s.adu ∧
    (afterWrite c s).pfu = s.pfu ∧
    (afterWrite c s).free = s.free ∧
    (afterWrite c s).pending = s.pending ∧
    (afterWrite c s).bpu.table = s.bpu.table ∧
    (afterWrite c s).bpu.cycle = s.bpu.cycle ∧
    (afterWrite c s).bpu.intercepts = s.bpu.intercepts ∧
    (afterWrite c s).rqu.abandon = s.rqu.abandon ∧
    (afterWrite c s).rqu.mask = s.rqu.mask ∧
    (afterWrite c s).tru.clock = s.tru.clock ∧
    (afterWrite c s).tru.valid = s.tru.valid ∧
    (afterWrite c s).acu.mode = s.acu.mode ∧
    (afterWrite c s).acu.attempts = s.acu.attempts := by
  unfold afterWrite
  dsimp only
  (repeat' split) <;> simp

@[simp] theorem answerRead_frame (w : Word) (lanes : Lanes) (s : State) :
    (answerRead w lanes s).powered = s.powered ∧
    (answerRead w lanes s).mem = s.mem ∧
    (answerRead w lanes s).cfl = s.cfl ∧
    (answerRead w lanes s).cnu = s.cnu ∧
    (answerRead w lanes s).tru = s.tru ∧
    (answerRead w lanes s).rtu = s.rtu ∧
    (answerRead w lanes s).lnu = s.lnu ∧
    (answerRead w lanes s).inu = s.inu ∧
    (answerRead w lanes s).rpu = s.rpu ∧
    (answerRead w lanes s).adu = s.adu ∧
    (answerRead w lanes s).acu = s.acu ∧
    (answerRead w lanes s).pfu = s.pfu ∧
    (answerRead w lanes s).held = s.held ∧
    (answerRead w lanes s).free = s.free ∧
    (answerRead w lanes s).pending = s.pending ∧
    (answerRead w lanes s).bpu.table = s.bpu.table ∧
    (answerRead w lanes s).bpu.busy = s.bpu.busy ∧
    (answerRead w lanes s).bpu.cycle = s.bpu.cycle ∧
    (answerRead w lanes s).bpu.intercepts = s.bpu.intercepts ∧
    (answerRead w lanes s).rqu.queue = s.rqu.queue ∧
    (answerRead w lanes s).rqu.abandon = s.rqu.abandon ∧
    (answerRead w lanes s).rqu.mask = s.rqu.mask := by
  unfold answerRead
  simp

@[simp] theorem controllerAccess_frame (c : Cycle) (s : State) :
    (controllerAccess c s).powered = s.powered ∧
    (controllerAccess c s).cfl = s.cfl ∧
    (controllerAccess c s).cnu = s.cnu ∧
    (controllerAccess c s).rtu = s.rtu ∧
    (controllerAccess c s).lnu = s.lnu ∧
    (controllerAccess c s).inu = s.inu ∧
    (controllerAccess c s).rpu = s.rpu ∧
    (controllerAccess c s).adu = s.adu ∧
    (controllerAccess c s).pfu = s.pfu ∧
    (controllerAccess c s).pending = s.pending ∧
    (controllerAccess c s).bpu.table = s.bpu.table ∧
    (controllerAccess c s).bpu.cycle = s.bpu.cycle ∧
    (controllerAccess c s).bpu.intercepts = s.bpu.intercepts ∧
    (controllerAccess c s).rqu.abandon = s.rqu.abandon ∧
    (controllerAccess c s).rqu.mask = s.rqu.mask ∧
    (controllerAccess c s).tru.clock = s.tru.clock ∧
    (controllerAccess c s).tru.valid = s.tru.valid ∧
    (controllerAccess c s).acu.mode = s.acu.mode ∧
    (controllerAccess c s).acu.attempts = s.acu.attempts := by
  unfold controllerAccess
  dsimp only
  (repeat' split) <;> simp

@[simp] theorem portWord_frame (act : Action) (c : Cycle) (s : State) :
    (portWord act c s).powered = s.powered ∧
    (portWord act c s).cfl = s.cfl ∧
    (portWord act c s).cnu = s.cnu ∧
    (portWord act c s).rtu = s.rtu ∧
    (portWord act c s).lnu = s.lnu ∧
    (portWord act c s).inu = s.inu ∧
    (portWord act c s).rpu = s.rpu ∧
    (portWord act c s).adu = s.adu ∧
    (portWord act c s).pfu = s.pfu ∧
    (portWord act c s).pending = s.pending ∧
    (portWord act c s).bpu.table = s.bpu.table ∧
    (portWord act c s).bpu.intercepts = s.bpu.intercepts ∧
    (portWord act c s).rqu.abandon = s.rqu.abandon ∧
    (portWord act c s).rqu.mask = s.rqu.mask ∧
    (portWord act c s).tru.clock = s.tru.clock ∧
    (portWord act c s).tru.valid = s.tru.valid ∧
    (portWord act c s).acu.mode = s.acu.mode ∧
    (portWord act c s).acu.attempts = s.acu.attempts := by
  unfold portWord
  (repeat' split) <;> simp

@[simp] theorem substituteRead_frame (c : Cycle) (s : State) :
    (substituteRead c s).powered = s.powered ∧
    (substituteRead c s).mem = s.mem ∧
    (substituteRead c s).cfl = s.cfl ∧
    (substituteRead c s).cnu = s.cnu ∧
    (substituteRead c s).tru = s.tru ∧
    (substituteRead c s).rtu = s.rtu ∧
    (substituteRead c s).lnu = s.lnu ∧
    (substituteRead c s).inu = s.inu ∧
    (substituteRead c s).rpu = s.rpu ∧
    (substituteRead c s).adu = s.adu ∧
    (substituteRead c s).acu = s.acu ∧
    (substituteRead c s).pfu = s.pfu ∧
    (substituteRead c s).held = s.held ∧
    (substituteRead c s).free = s.free ∧
    (substituteRead c s).pending = s.pending ∧
    (substituteRead c s).bpu.table = s.bpu.table ∧
    (substituteRead c s).bpu.busy = s.bpu.busy ∧
    (substituteRead c s).bpu.cycle = s.bpu.cycle ∧
    (substituteRead c s).bpu.intercepts = s.bpu.intercepts ∧
    (substituteRead c s).rqu.queue = s.rqu.queue ∧
    (substituteRead c s).rqu.abandon = s.rqu.abandon ∧
    (substituteRead c s).rqu.mask = s.rqu.mask := by
  unfold substituteRead
  (repeat' split) <;> simp

@[simp] theorem commandWord_frame (c : Cycle) (s : State) :
    (commandWord c s).powered = s.powered ∧
    (commandWord c s).mem = s.mem ∧
    (commandWord c s).cfl = s.cfl ∧
    (commandWord c s).cnu = s.cnu ∧
    (commandWord c s).tru = s.tru ∧
    (commandWord c s).rtu = s.rtu ∧
    (commandWord c s).lnu = s.lnu ∧
    (commandWord c s).inu = s.inu ∧
    (commandWord c s).rpu = s.rpu ∧
    (commandWord c s).adu = s.adu ∧
    (commandWord c s).acu = s.acu ∧
    (commandWord c s).pfu = s.pfu ∧
    (commandWord c s).held = s.held ∧
    (commandWord c s).free = s.free ∧
    (commandWord c s).pending = s.pending ∧
    (commandWord c s).bpu.table = s.bpu.table ∧
    (commandWord c s).bpu.busy = s.bpu.busy ∧
    (commandWord c s).bpu.cycle = s.bpu.cycle ∧
    (commandWord c s).rqu.service = s.rqu.service ∧
    (commandWord c s).rqu.queue = s.rqu.queue ∧
    (commandWord c s).rqu.abandon = s.rqu.abandon := by
  unfold commandWord
  (repeat' split) <;> simp

@[simp] theorem classWord_frame (c : Cycle) (s : State) :
    (classWord c s).powered = s.powered ∧
    (classWord c s).cfl = s.cfl ∧
    (classWord c s).cnu = s.cnu ∧
    (classWord c s).rtu = s.rtu ∧
    (classWord c s).pfu = s.pfu ∧
    (classWord c s).pending = s.pending ∧
    (classWord c s).bpu.table = s.bpu.table ∧
    (classWord c s).rqu.abandon = s.rqu.abandon ∧
    (classWord c s).tru.clock = s.tru.clock ∧
    (classWord c s).tru.valid = s.tru.valid ∧
    (classWord c s).lnu.offHook = s.lnu.offHook ∧
    (classWord c s).inu.rebuilt = s.inu.rebuilt ∧
    (classWord c s).adu.run = s.adu.run ∧
    (classWord c s).adu.nextCall = s.adu.nextCall ∧
    (classWord c s).adu.greatest = s.adu.greatest ∧
    (classWord c s).adu.remap = s.adu.remap ∧
    (classWord c s).acu.mode = s.acu.mode ∧
    (classWord c s).acu.attempts = s.acu.attempts := by
  unfold classWord
  (repeat' split) <;> simp

@[simp] theorem busWord_frame (c : Cycle) (s : State) :
    (busWord c s).powered = s.powered ∧
    (busWord c s).cfl = s.cfl ∧
    (busWord c s).cnu = s.cnu ∧
    (busWord c s).rtu = s.rtu ∧
    (busWord c s).pfu = s.pfu ∧
    (busWord c s).pending = s.pending ∧
    (busWord c s).bpu.table = s.bpu.table ∧
    (busWord c s).rqu.abandon = s.rqu.abandon ∧
    (busWord c s).tru.clock = s.tru.clock ∧
    (busWord c s).tru.valid = s.tru.valid ∧
    (busWord c s).lnu.offHook = s.lnu.offHook ∧
    (busWord c s).inu.rebuilt = s.inu.rebuilt ∧
    (busWord c s).adu.run = s.adu.run ∧
    (busWord c s).adu.nextCall = s.adu.nextCall ∧
    (busWord c s).adu.greatest = s.adu.greatest ∧
    (busWord c s).adu.remap = s.adu.remap ∧
    (busWord c s).acu.mode = s.acu.mode ∧
    (busWord c s).acu.attempts = s.acu.attempts := by
  unfold busWord
  (repeat' split) <;> simp

@[simp] theorem reclassCycle_frame (s : State) :
    (reclassCycle s).powered = s.powered ∧
    (reclassCycle s).cfl = s.cfl ∧
    (reclassCycle s).cnu = s.cnu ∧
    (reclassCycle s).rtu = s.rtu ∧
    (reclassCycle s).pfu = s.pfu ∧
    (reclassCycle s).pending = s.pending ∧
    (reclassCycle s).bpu.table = s.bpu.table ∧
    (reclassCycle s).rqu.abandon = s.rqu.abandon ∧
    (reclassCycle s).tru.clock = s.tru.clock ∧
    (reclassCycle s).tru.valid = s.tru.valid ∧
    (reclassCycle s).lnu.offHook = s.lnu.offHook ∧
    (reclassCycle s).inu.rebuilt = s.inu.rebuilt ∧
    (reclassCycle s).adu.run = s.adu.run ∧
    (reclassCycle s).adu.nextCall = s.adu.nextCall ∧
    (reclassCycle s).adu.greatest = s.adu.greatest ∧
    (reclassCycle s).adu.remap = s.adu.remap ∧
    (reclassCycle s).acu.mode = s.acu.mode ∧
    (reclassCycle s).acu.attempts = s.acu.attempts := by
  unfold reclassCycle
  (repeat' split) <;> simp

@[simp] theorem statusWrite_frame (offset : Nat) (data : Word) (lanes : Lanes) (s : State) :
    (statusWrite offset data lanes s).powered = s.powered ∧
    (statusWrite offset data lanes s).cfl = s.cfl ∧
    (statusWrite offset data lanes s).cnu = s.cnu ∧
    (statusWrite offset data lanes s).rtu = s.rtu ∧
    (statusWrite offset data lanes s).pfu = s.pfu ∧
    (statusWrite offset data lanes s).pending = s.pending ∧
    (statusWrite offset data lanes s).bpu.table = s.bpu.table ∧
    (statusWrite offset data lanes s).rqu.abandon = s.rqu.abandon ∧
    (statusWrite offset data lanes s).tru.clock = s.tru.clock ∧
    (statusWrite offset data lanes s).tru.valid = s.tru.valid ∧
    (statusWrite offset data lanes s).lnu.offHook = s.lnu.offHook ∧
    (statusWrite offset data lanes s).inu.rebuilt = s.inu.rebuilt ∧
    (statusWrite offset data lanes s).adu.run = s.adu.run ∧
    (statusWrite offset data lanes s).adu.nextCall = s.adu.nextCall ∧
    (statusWrite offset data lanes s).adu.greatest = s.adu.greatest ∧
    (statusWrite offset data lanes s).adu.remap = s.adu.remap ∧
    (statusWrite offset data lanes s).acu.mode = s.acu.mode ∧
    (statusWrite offset data lanes s).acu.attempts = s.acu.attempts := by
  unfold statusWrite
  (repeat' split) <;> simp

@[simp] theorem probeRequest_frame (ps : List Word) (s : State) :
    (probeRequest ps s).powered = s.powered ∧
    (probeRequest ps s).mem = s.mem ∧
    (probeRequest ps s).bpu = s.bpu ∧
    (probeRequest ps s).cfl = s.cfl ∧
    (probeRequest ps s).cnu = s.cnu ∧
    (probeRequest ps s).tru = s.tru ∧
    (probeRequest ps s).rtu = s.rtu ∧
    (probeRequest ps s).lnu = s.lnu ∧
    (probeRequest ps s).inu = s.inu ∧
    (probeRequest ps s).rpu = s.rpu ∧
    (probeRequest ps s).adu = s.adu ∧
    (probeRequest ps s).acu = s.acu ∧
    (probeRequest ps s).pfu = s.pfu ∧
    (probeRequest ps s).held = s.held ∧
    (probeRequest ps s).free = s.free ∧
    (probeRequest ps s).pending = s.pending ∧
    (probeRequest ps s).rqu.queue = s.rqu.queue ∧
    (probeRequest ps s).rqu.abandon = s.rqu.abandon ∧
    (probeRequest ps s).rqu.mask = s.rqu.mask := by
  unfold probeRequest
  dsimp only
  (repeat' split) <;> simp

/-! ### Machine/Loader -/

@[simp] theorem preloadTuple_frame (t : Nat × Word) (s : State) :
    (preloadTuple t s).powered = s.powered ∧
    (preloadTuple t s).bpu = s.bpu ∧
    (preloadTuple t s).rqu = s.rqu ∧
    (preloadTuple t s).cnu = s.cnu ∧
    (preloadTuple t s).tru = s.tru ∧
    (preloadTuple t s).rtu = s.rtu ∧
    (preloadTuple t s).lnu = s.lnu ∧
    (preloadTuple t s).inu = s.inu ∧
    (preloadTuple t s).rpu = s.rpu ∧
    (preloadTuple t s).adu = s.adu ∧
    (preloadTuple t s).acu = s.acu ∧
    (preloadTuple t s).pfu = s.pfu ∧
    (preloadTuple t s).held = s.held ∧
    (preloadTuple t s).free = s.free ∧
    (preloadTuple t s).pending = s.pending ∧
    (preloadTuple t s).cfl.step = s.cfl.step ∧
    (preloadTuple t s).cfl.params = s.cfl.params ∧
    (preloadTuple t s).cfl.fault = s.cfl.fault := by
  unfold preloadTuple
  (repeat' split) <;> simp

@[simp] theorem finishPreload_frame (s : State) :
    (finishPreload s).powered = s.powered ∧
    (finishPreload s).bpu = s.bpu ∧
    (finishPreload s).rqu = s.rqu ∧
    (finishPreload s).cnu = s.cnu ∧
    (finishPreload s).tru = s.tru ∧
    (finishPreload s).rtu = s.rtu ∧
    (finishPreload s).lnu = s.lnu ∧
    (finishPreload s).inu = s.inu ∧
    (finishPreload s).rpu = s.rpu ∧
    (finishPreload s).adu = s.adu ∧
    (finishPreload s).acu = s.acu ∧
    (finishPreload s).pfu = s.pfu ∧
    (finishPreload s).held = s.held ∧
    (finishPreload s).free = s.free ∧
    (finishPreload s).pending = s.pending ∧
    (finishPreload s).cfl.step = s.cfl.step ∧
    (finishPreload s).cfl.params = s.cfl.params ∧
    (finishPreload s).cfl.fault = s.cfl.fault := by
  unfold finishPreload
  simp

@[simp] theorem installConfig_frame (table : List Window) (p : Params) (tuples : List (Nat × Word)) (s : State) :
    (installConfig table p tuples s).powered = s.powered ∧
    (installConfig table p tuples s).cnu = s.cnu ∧
    (installConfig table p tuples s).rtu = s.rtu ∧
    (installConfig table p tuples s).pfu = s.pfu ∧
    (installConfig table p tuples s).pending = s.pending ∧
    (installConfig table p tuples s).cfl.fault = s.cfl.fault ∧
    (installConfig table p tuples s).rqu.abandon = s.rqu.abandon ∧
    (installConfig table p tuples s).tru.clock = s.tru.clock ∧
    (installConfig table p tuples s).tru.valid = s.tru.valid ∧
    (installConfig table p tuples s).lnu.offHook = s.lnu.offHook ∧
    (installConfig table p tuples s).inu.rebuilt = s.inu.rebuilt ∧
    (installConfig table p tuples s).adu.run = s.adu.run ∧
    (installConfig table p tuples s).adu.nextCall = s.adu.nextCall ∧
    (installConfig table p tuples s).adu.greatest = s.adu.greatest ∧
    (installConfig table p tuples s).adu.remap = s.adu.remap ∧
    (installConfig table p tuples s).acu.mode = s.acu.mode ∧
    (installConfig table p tuples s).acu.attempts = s.acu.attempts := by
  unfold installConfig
  simp

@[simp] theorem reloadConfigRequest_frame (x : List Word) (s : State) :
    (reloadConfigRequest x s).powered = s.powered ∧
    (reloadConfigRequest x s).mem = s.mem ∧
    (reloadConfigRequest x s).bpu = s.bpu ∧
    (reloadConfigRequest x s).cnu = s.cnu ∧
    (reloadConfigRequest x s).tru = s.tru ∧
    (reloadConfigRequest x s).rtu = s.rtu ∧
    (reloadConfigRequest x s).lnu = s.lnu ∧
    (reloadConfigRequest x s).inu = s.inu ∧
    (reloadConfigRequest x s).rpu = s.rpu ∧
    (reloadConfigRequest x s).adu = s.adu ∧
    (reloadConfigRequest x s).acu = s.acu ∧
    (reloadConfigRequest x s).pfu = s.pfu ∧
    (reloadConfigRequest x s).held = s.held ∧
    (reloadConfigRequest x s).free = s.free ∧
    (reloadConfigRequest x s).pending = s.pending ∧
    (reloadConfigRequest x s).cfl.step = s.cfl.step ∧
    (reloadConfigRequest x s).cfl.params = s.cfl.params ∧
    (reloadConfigRequest x s).cfl.fault = s.cfl.fault ∧
    (reloadConfigRequest x s).rqu.queue = s.rqu.queue ∧
    (reloadConfigRequest x s).rqu.abandon = s.rqu.abandon ∧
    (reloadConfigRequest x s).rqu.mask = s.rqu.mask := by
  unfold reloadConfigRequest
  (repeat' split) <;> simp

@[simp] theorem startStoppedDecays_frame (s : State) :
    (startStoppedDecays s).powered = s.powered ∧
    (startStoppedDecays s).mem = s.mem ∧
    (startStoppedDecays s).bpu = s.bpu ∧
    (startStoppedDecays s).cfl = s.cfl ∧
    (startStoppedDecays s).rqu = s.rqu ∧
    (startStoppedDecays s).cnu = s.cnu ∧
    (startStoppedDecays s).tru = s.tru ∧
    (startStoppedDecays s).rtu = s.rtu ∧
    (startStoppedDecays s).lnu = s.lnu ∧
    (startStoppedDecays s).rpu = s.rpu ∧
    (startStoppedDecays s).adu = s.adu ∧
    (startStoppedDecays s).acu = s.acu ∧
    (startStoppedDecays s).pfu = s.pfu ∧
    (startStoppedDecays s).held = s.held ∧
    (startStoppedDecays s).free = s.free ∧
    (startStoppedDecays s).pending = s.pending ∧
    (startStoppedDecays s).inu.rebuilt = s.inu.rebuilt ∧
    (startStoppedDecays s).inu.latches = s.inu.latches ∧
    (startStoppedDecays s).inu.records = s.inu.records := by
  unfold startStoppedDecays
  simp

@[simp] theorem giveParams_frame (p : Params) (s : State) :
    (giveParams p s).powered = s.powered ∧
    (giveParams p s).mem = s.mem ∧
    (giveParams p s).bpu = s.bpu ∧
    (giveParams p s).cnu = s.cnu ∧
    (giveParams p s).tru = s.tru ∧
    (giveParams p s).rtu = s.rtu ∧
    (giveParams p s).acu = s.acu ∧
    (giveParams p s).pfu = s.pfu ∧
    (giveParams p s).free = s.free ∧
    (giveParams p s).pending = s.pending ∧
    (giveParams p s).cfl.step = s.cfl.step ∧
    (giveParams p s).cfl.fault = s.cfl.fault ∧
    (giveParams p s).rqu.service = s.rqu.service ∧
    (giveParams p s).rqu.queue = s.rqu.queue ∧
    (giveParams p s).rqu.abandon = s.rqu.abandon ∧
    (giveParams p s).rqu.mask = s.rqu.mask ∧
    (giveParams p s).lnu.offHook = s.lnu.offHook ∧
    (giveParams p s).inu.rebuilt = s.inu.rebuilt ∧
    (giveParams p s).adu.cache = s.adu.cache ∧
    (giveParams p s).adu.run = s.adu.run ∧
    (giveParams p s).adu.nextCall = s.adu.nextCall ∧
    (giveParams p s).adu.greatest = s.adu.greatest ∧
    (giveParams p s).adu.remap = s.adu.remap := by
  unfold giveParams
  simp

/-! ### Machine/Incident -/

@[simp] theorem reportFaultRequest_frame (ps : List Word) (s : State) :
    (reportFaultRequest ps s).powered = s.powered ∧
    (reportFaultRequest ps s).mem = s.mem ∧
    (reportFaultRequest ps s).bpu = s.bpu ∧
    (reportFaultRequest ps s).cfl = s.cfl ∧
    (reportFaultRequest ps s).cnu = s.cnu ∧
    (reportFaultRequest ps s).tru = s.tru ∧
    (reportFaultRequest ps s).rtu = s.rtu ∧
    (reportFaultRequest ps s).acu = s.acu ∧
    (reportFaultRequest ps s).pfu = s.pfu ∧
    (reportFaultRequest ps s).free = s.free ∧
    (reportFaultRequest ps s).pending = s.pending ∧
    (reportFaultRequest ps s).rqu.queue = s.rqu.queue ∧
    (reportFaultRequest ps s).rqu.abandon = s.rqu.abandon ∧
    (reportFaultRequest ps s).rqu.mask = s.rqu.mask ∧
    (reportFaultRequest ps s).lnu.offHook = s.lnu.offHook ∧
    (reportFaultRequest ps s).inu.rebuilt = s.inu.rebuilt ∧
    (reportFaultRequest ps s).adu.cache = s.adu.cache ∧
    (reportFaultRequest ps s).adu.run = s.adu.run ∧
    (reportFaultRequest ps s).adu.nextCall = s.adu.nextCall ∧
    (reportFaultRequest ps s).adu.greatest = s.adu.greatest ∧
    (reportFaultRequest ps s).adu.remap = s.adu.remap := by
  unfold reportFaultRequest
  (repeat' split) <;> simp

@[simp] theorem afterClear_frame (k : IncKind) (s : State) :
    (afterClear k s).powered = s.powered ∧
    (afterClear k s).mem = s.mem ∧
    (afterClear k s).bpu = s.bpu ∧
    (afterClear k s).cfl = s.cfl ∧
    (afterClear k s).tru = s.tru ∧
    (afterClear k s).rtu = s.rtu ∧
    (afterClear k s).acu = s.acu ∧
    (afterClear k s).pfu = s.pfu ∧
    (afterClear k s).free = s.free ∧
    (afterClear k s).pending = s.pending ∧
    (afterClear k s).rqu.service = s.rqu.service ∧
    (afterClear k s).rqu.queue = s.rqu.queue ∧
    (afterClear k s).rqu.abandon = s.rqu.abandon ∧
    (afterClear k s).rqu.mask = s.rqu.mask ∧
    (afterClear k s).cnu.chute = s.cnu.chute ∧
    (afterClear k s).cnu.clearance = s.cnu.clearance ∧
    (afterClear k s).cnu.openCall = s.cnu.openCall ∧
    (afterClear k s).lnu.offHook = s.lnu.offHook ∧
    (afterClear k s).inu.rebuilt = s.inu.rebuilt ∧
    (afterClear k s).adu.cache = s.adu.cache ∧
    (afterClear k s).adu.run = s.adu.run ∧
    (afterClear k s).adu.nextCall = s.adu.nextCall ∧
    (afterClear k s).adu.greatest = s.adu.greatest ∧
    (afterClear k s).adu.remap = s.adu.remap := by
  unfold afterClear
  (repeat' split) <;> simp

@[simp] theorem clearNamed_frame (k : IncKind) (s : State) :
    (clearNamed k s).powered = s.powered ∧
    (clearNamed k s).mem = s.mem ∧
    (clearNamed k s).bpu = s.bpu ∧
    (clearNamed k s).cfl = s.cfl ∧
    (clearNamed k s).tru = s.tru ∧
    (clearNamed k s).rtu = s.rtu ∧
    (clearNamed k s).acu = s.acu ∧
    (clearNamed k s).pfu = s.pfu ∧
    (clearNamed k s).free = s.free ∧
    (clearNamed k s).pending = s.pending ∧
    (clearNamed k s).rqu.service = s.rqu.service ∧
    (clearNamed k s).rqu.queue = s.rqu.queue ∧
    (clearNamed k s).rqu.abandon = s.rqu.abandon ∧
    (clearNamed k s).rqu.mask = s.rqu.mask ∧
    (clearNamed k s).cnu.chute = s.cnu.chute ∧
    (clearNamed k s).cnu.clearance = s.cnu.clearance ∧
    (clearNamed k s).cnu.openCall = s.cnu.openCall ∧
    (clearNamed k s).lnu.offHook = s.lnu.offHook ∧
    (clearNamed k s).inu.rebuilt = s.inu.rebuilt ∧
    (clearNamed k s).adu.cache = s.adu.cache ∧
    (clearNamed k s).adu.run = s.adu.run ∧
    (clearNamed k s).adu.nextCall = s.adu.nextCall ∧
    (clearNamed k s).adu.greatest = s.adu.greatest ∧
    (clearNamed k s).adu.remap = s.adu.remap := by
  unfold clearNamed
  (repeat' split) <;> simp

@[simp] theorem clearIncidentRequest_frame (ps : List Word) (s : State) :
    (clearIncidentRequest ps s).powered = s.powered ∧
    (clearIncidentRequest ps s).mem = s.mem ∧
    (clearIncidentRequest ps s).bpu = s.bpu ∧
    (clearIncidentRequest ps s).cfl = s.cfl ∧
    (clearIncidentRequest ps s).tru = s.tru ∧
    (clearIncidentRequest ps s).rtu = s.rtu ∧
    (clearIncidentRequest ps s).acu = s.acu ∧
    (clearIncidentRequest ps s).pfu = s.pfu ∧
    (clearIncidentRequest ps s).free = s.free ∧
    (clearIncidentRequest ps s).pending = s.pending ∧
    (clearIncidentRequest ps s).rqu.queue = s.rqu.queue ∧
    (clearIncidentRequest ps s).rqu.abandon = s.rqu.abandon ∧
    (clearIncidentRequest ps s).rqu.mask = s.rqu.mask ∧
    (clearIncidentRequest ps s).cnu.chute = s.cnu.chute ∧
    (clearIncidentRequest ps s).cnu.clearance = s.cnu.clearance ∧
    (clearIncidentRequest ps s).cnu.openCall = s.cnu.openCall ∧
    (clearIncidentRequest ps s).lnu.offHook = s.lnu.offHook ∧
    (clearIncidentRequest ps s).inu.rebuilt = s.inu.rebuilt ∧
    (clearIncidentRequest ps s).adu.cache = s.adu.cache ∧
    (clearIncidentRequest ps s).adu.run = s.adu.run ∧
    (clearIncidentRequest ps s).adu.nextCall = s.adu.nextCall ∧
    (clearIncidentRequest ps s).adu.greatest = s.adu.greatest ∧
    (clearIncidentRequest ps s).adu.remap = s.adu.remap := by
  unfold clearIncidentRequest
  (repeat' split) <;> simp

@[simp] theorem clearAttributesRequest_frame (x : List Word) (s : State) :
    (clearAttributesRequest x s).powered = s.powered ∧
    (clearAttributesRequest x s).mem = s.mem ∧
    (clearAttributesRequest x s).bpu = s.bpu ∧
    (clearAttributesRequest x s).cfl = s.cfl ∧
    (clearAttributesRequest x s).cnu = s.cnu ∧
    (clearAttributesRequest x s).tru = s.tru ∧
    (clearAttributesRequest x s).rtu = s.rtu ∧
    (clearAttributesRequest x s).lnu = s.lnu ∧
    (clearAttributesRequest x s).rpu = s.rpu ∧
    (clearAttributesRequest x s).acu = s.acu ∧
    (clearAttributesRequest x s).pfu = s.pfu ∧
    (clearAttributesRequest x s).held = s.held ∧
    (clearAttributesRequest x s).free = s.free ∧
    (clearAttributesRequest x s).pending = s.pending ∧
    (clearAttributesRequest x s).rqu.queue = s.rqu.queue ∧
    (clearAttributesRequest x s).rqu.abandon = s.rqu.abandon ∧
    (clearAttributesRequest x s).rqu.mask = s.rqu.mask ∧
    (clearAttributesRequest x s).inu.rebuilt = s.inu.rebuilt ∧
    (clearAttributesRequest x s).inu.latches = s.inu.latches ∧
    (clearAttributesRequest x s).inu.records = s.inu.records ∧
    (clearAttributesRequest x s).adu.run = s.adu.run ∧
    (clearAttributesRequest x s).adu.nextCall = s.adu.nextCall ∧
    (clearAttributesRequest x s).adu.greatest = s.adu.greatest ∧
    (clearAttributesRequest x s).adu.remap = s.adu.remap := by
  unfold clearAttributesRequest
  (repeat' split) <;> simp

/-! ### Machine/Startup -/

@[simp] theorem loadTallies_frame (s : State) :
    (loadTallies s).powered = s.powered ∧
    (loadTallies s).mem = s.mem ∧
    (loadTallies s).bpu = s.bpu ∧
    (loadTallies s).cfl = s.cfl ∧
    (loadTallies s).cnu = s.cnu ∧
    (loadTallies s).tru = s.tru ∧
    (loadTallies s).rtu = s.rtu ∧
    (loadTallies s).acu = s.acu ∧
    (loadTallies s).pfu = s.pfu ∧
    (loadTallies s).free = s.free ∧
    (loadTallies s).pending = s.pending ∧
    (loadTallies s).rqu.service = s.rqu.service ∧
    (loadTallies s).rqu.queue = s.rqu.queue ∧
    (loadTallies s).rqu.abandon = s.rqu.abandon ∧
    (loadTallies s).rqu.mask = s.rqu.mask ∧
    (loadTallies s).lnu.offHook = s.lnu.offHook ∧
    (loadTallies s).inu.rebuilt = s.inu.rebuilt ∧
    (loadTallies s).adu.run = s.adu.run ∧
    (loadTallies s).adu.nextCall = s.adu.nextCall ∧
    (loadTallies s).adu.greatest = s.adu.greatest ∧
    (loadTallies s).adu.remap = s.adu.remap := by
  unfold loadTallies
  dsimp only
  (repeat' split) <;> simp

@[simp] theorem loadRemap_frame (s : State) :
    (loadRemap s).powered = s.powered ∧
    (loadRemap s).mem = s.mem ∧
    (loadRemap s).bpu = s.bpu ∧
    (loadRemap s).cfl = s.cfl ∧
    (loadRemap s).rqu = s.rqu ∧
    (loadRemap s).cnu = s.cnu ∧
    (loadRemap s).tru = s.tru ∧
    (loadRemap s).rtu = s.rtu ∧
    (loadRemap s).lnu = s.lnu ∧
    (loadRemap s).inu = s.inu ∧
    (loadRemap s).rpu = s.rpu ∧
    (loadRemap s).acu = s.acu ∧
    (loadRemap s).pfu = s.pfu ∧
    (loadRemap s).held = s.held ∧
    (loadRemap s).free = s.free ∧
    (loadRemap s).pending = s.pending ∧
    (loadRemap s).adu.cache = s.adu.cache ∧
    (loadRemap s).adu.run = s.adu.run ∧
    (loadRemap s).adu.nextCall = s.adu.nextCall ∧
    (loadRemap s).adu.greatest = s.adu.greatest := by
  unfold loadRemap
  simp

@[simp] theorem scanCalls_frame (misread : List Nat) (s : State) :
    (scanCalls misread s).powered = s.powered ∧
    (scanCalls misread s).mem = s.mem ∧
    (scanCalls misread s).bpu = s.bpu ∧
    (scanCalls misread s).cfl = s.cfl ∧
    (scanCalls misread s).cnu = s.cnu ∧
    (scanCalls misread s).tru = s.tru ∧
    (scanCalls misread s).rtu = s.rtu ∧
    (scanCalls misread s).acu = s.acu ∧
    (scanCalls misread s).pfu = s.pfu ∧
    (scanCalls misread s).free = s.free ∧
    (scanCalls misread s).pending = s.pending ∧
    (scanCalls misread s).rqu.service = s.rqu.service ∧
    (scanCalls misread s).rqu.queue = s.rqu.queue ∧
    (scanCalls misread s).rqu.abandon = s.rqu.abandon ∧
    (scanCalls misread s).rqu.mask = s.rqu.mask ∧
    (scanCalls misread s).lnu.offHook = s.lnu.offHook ∧
    (scanCalls misread s).inu.rebuilt = s.inu.rebuilt ∧
    (scanCalls misread s).adu.run = s.adu.run ∧
    (scanCalls misread s).adu.remap = s.adu.remap := by
  unfold scanCalls
  simp

@[simp] theorem faultLoads_frame (s : State) :
    (faultLoads s).powered = s.powered ∧
    (faultLoads s).mem = s.mem ∧
    (faultLoads s).bpu = s.bpu ∧
    (faultLoads s).cfl = s.cfl ∧
    (faultLoads s).rqu = s.rqu ∧
    (faultLoads s).cnu = s.cnu ∧
    (faultLoads s).tru = s.tru ∧
    (faultLoads s).rtu = s.rtu ∧
    (faultLoads s).lnu = s.lnu ∧
    (faultLoads s).inu = s.inu ∧
    (faultLoads s).rpu = s.rpu ∧
    (faultLoads s).acu = s.acu ∧
    (faultLoads s).pfu = s.pfu ∧
    (faultLoads s).held = s.held ∧
    (faultLoads s).free = s.free ∧
    (faultLoads s).pending = s.pending ∧
    (faultLoads s).adu.run = s.adu.run ∧
    (faultLoads s).adu.greatest = s.adu.greatest := by
  unfold faultLoads
  simp

@[simp] theorem rebuildAttr_frame (a : AttrId) (s : State) :
    (rebuildAttr a s).powered = s.powered ∧
    (rebuildAttr a s).mem = s.mem ∧
    (rebuildAttr a s).bpu = s.bpu ∧
    (rebuildAttr a s).cfl = s.cfl ∧
    (rebuildAttr a s).rqu = s.rqu ∧
    (rebuildAttr a s).cnu = s.cnu ∧
    (rebuildAttr a s).tru = s.tru ∧
    (rebuildAttr a s).rtu = s.rtu ∧
    (rebuildAttr a s).lnu = s.lnu ∧
    (rebuildAttr a s).rpu = s.rpu ∧
    (rebuildAttr a s).acu = s.acu ∧
    (rebuildAttr a s).pfu = s.pfu ∧
    (rebuildAttr a s).held = s.held ∧
    (rebuildAttr a s).free = s.free ∧
    (rebuildAttr a s).pending = s.pending ∧
    (rebuildAttr a s).inu.rebuilt = s.inu.rebuilt ∧
    (rebuildAttr a s).inu.latches = s.inu.latches ∧
    (rebuildAttr a s).inu.records = s.inu.records ∧
    (rebuildAttr a s).adu.run = s.adu.run ∧
    (rebuildAttr a s).adu.nextCall = s.adu.nextCall ∧
    (rebuildAttr a s).adu.greatest = s.adu.greatest ∧
    (rebuildAttr a s).adu.remap = s.adu.remap := by
  unfold rebuildAttr
  simp

@[simp] theorem rebuildIndex_frame (s : State) :
    (rebuildIndex s).powered = s.powered ∧
    (rebuildIndex s).mem = s.mem ∧
    (rebuildIndex s).bpu = s.bpu ∧
    (rebuildIndex s).cfl = s.cfl ∧
    (rebuildIndex s).rqu = s.rqu ∧
    (rebuildIndex s).cnu = s.cnu ∧
    (rebuildIndex s).tru = s.tru ∧
    (rebuildIndex s).rtu = s.rtu ∧
    (rebuildIndex s).lnu = s.lnu ∧
    (rebuildIndex s).rpu = s.rpu ∧
    (rebuildIndex s).adu = s.adu ∧
    (rebuildIndex s).acu = s.acu ∧
    (rebuildIndex s).pfu = s.pfu ∧
    (rebuildIndex s).held = s.held ∧
    (rebuildIndex s).free = s.free ∧
    (rebuildIndex s).pending = s.pending ∧
    (rebuildIndex s).inu.rebuilt = s.inu.rebuilt ∧
    (rebuildIndex s).inu.latches = s.inu.latches := by
  unfold rebuildIndex
  simp

@[simp] theorem rebuildQueue_frame (s : State) :
    (rebuildQueue s).powered = s.powered ∧
    (rebuildQueue s).mem = s.mem ∧
    (rebuildQueue s).bpu = s.bpu ∧
    (rebuildQueue s).cfl = s.cfl ∧
    (rebuildQueue s).rqu = s.rqu ∧
    (rebuildQueue s).cnu = s.cnu ∧
    (rebuildQueue s).tru = s.tru ∧
    (rebuildQueue s).rtu = s.rtu ∧
    (rebuildQueue s).lnu = s.lnu ∧
    (rebuildQueue s).rpu = s.rpu ∧
    (rebuildQueue s).acu = s.acu ∧
    (rebuildQueue s).pfu = s.pfu ∧
    (rebuildQueue s).held = s.held ∧
    (rebuildQueue s).free = s.free ∧
    (rebuildQueue s).pending = s.pending ∧
    (rebuildQueue s).inu.rebuilt = s.inu.rebuilt ∧
    (rebuildQueue s).inu.latches = s.inu.latches ∧
    (rebuildQueue s).adu.cache = s.adu.cache ∧
    (rebuildQueue s).adu.run = s.adu.run ∧
    (rebuildQueue s).adu.nextCall = s.adu.nextCall ∧
    (rebuildQueue s).adu.greatest = s.adu.greatest ∧
    (rebuildQueue s).adu.remap = s.adu.remap := by
  unfold rebuildQueue
  simp

@[simp] theorem rebuildLatch_frame (k : IncKind) (s : State) :
    (rebuildLatch k s).powered = s.powered ∧
    (rebuildLatch k s).mem = s.mem ∧
    (rebuildLatch k s).bpu = s.bpu ∧
    (rebuildLatch k s).cfl = s.cfl ∧
    (rebuildLatch k s).cnu = s.cnu ∧
    (rebuildLatch k s).tru = s.tru ∧
    (rebuildLatch k s).rtu = s.rtu ∧
    (rebuildLatch k s).lnu = s.lnu ∧
    (rebuildLatch k s).rpu = s.rpu ∧
    (rebuildLatch k s).adu = s.adu ∧
    (rebuildLatch k s).acu = s.acu ∧
    (rebuildLatch k s).pfu = s.pfu ∧
    (rebuildLatch k s).held = s.held ∧
    (rebuildLatch k s).free = s.free ∧
    (rebuildLatch k s).pending = s.pending ∧
    (rebuildLatch k s).rqu.service = s.rqu.service ∧
    (rebuildLatch k s).rqu.queue = s.rqu.queue ∧
    (rebuildLatch k s).rqu.abandon = s.rqu.abandon ∧
    (rebuildLatch k s).rqu.mask = s.rqu.mask ∧
    (rebuildLatch k s).inu.rebuilt = s.inu.rebuilt ∧
    (rebuildLatch k s).inu.records = s.inu.records := by
  unfold rebuildLatch
  (repeat' split) <;> simp

@[simp] theorem countLatch_frame (c : Bool) (k : IncKind) (s : State) :
    (countLatch c k s).powered = s.powered ∧
    (countLatch c k s).mem = s.mem ∧
    (countLatch c k s).bpu = s.bpu ∧
    (countLatch c k s).cfl = s.cfl ∧
    (countLatch c k s).cnu = s.cnu ∧
    (countLatch c k s).tru = s.tru ∧
    (countLatch c k s).rtu = s.rtu ∧
    (countLatch c k s).lnu = s.lnu ∧
    (countLatch c k s).rpu = s.rpu ∧
    (countLatch c k s).adu = s.adu ∧
    (countLatch c k s).acu = s.acu ∧
    (countLatch c k s).pfu = s.pfu ∧
    (countLatch c k s).held = s.held ∧
    (countLatch c k s).free = s.free ∧
    (countLatch c k s).pending = s.pending ∧
    (countLatch c k s).rqu.service = s.rqu.service ∧
    (countLatch c k s).rqu.queue = s.rqu.queue ∧
    (countLatch c k s).rqu.abandon = s.rqu.abandon ∧
    (countLatch c k s).rqu.mask = s.rqu.mask ∧
    (countLatch c k s).inu.rebuilt = s.inu.rebuilt ∧
    (countLatch c k s).inu.records = s.inu.records := by
  unfold countLatch
  (repeat' split) <;> simp

@[simp] theorem rebuildSensors_frame (s : State) :
    (rebuildSensors s).powered = s.powered ∧
    (rebuildSensors s).mem = s.mem ∧
    (rebuildSensors s).bpu = s.bpu ∧
    (rebuildSensors s).cfl = s.cfl ∧
    (rebuildSensors s).cnu = s.cnu ∧
    (rebuildSensors s).tru = s.tru ∧
    (rebuildSensors s).rtu = s.rtu ∧
    (rebuildSensors s).acu = s.acu ∧
    (rebuildSensors s).pfu = s.pfu ∧
    (rebuildSensors s).held = s.held ∧
    (rebuildSensors s).free = s.free ∧
    (rebuildSensors s).pending = s.pending ∧
    (rebuildSensors s).rqu.service = s.rqu.service ∧
    (rebuildSensors s).rqu.queue = s.rqu.queue ∧
    (rebuildSensors s).rqu.abandon = s.rqu.abandon ∧
    (rebuildSensors s).rqu.mask = s.rqu.mask ∧
    (rebuildSensors s).lnu.offHook = s.lnu.offHook ∧
    (rebuildSensors s).inu.rebuilt = s.inu.rebuilt ∧
    (rebuildSensors s).adu.cache = s.adu.cache ∧
    (rebuildSensors s).adu.run = s.adu.run ∧
    (rebuildSensors s).adu.nextCall = s.adu.nextCall ∧
    (rebuildSensors s).adu.greatest = s.adu.greatest ∧
    (rebuildSensors s).adu.remap = s.adu.remap := by
  unfold rebuildSensors
  dsimp only
  (repeat' split) <;> simp

@[simp] theorem takeIncidentItem_frame (h : Held) (s : State) :
    (takeIncidentItem h s).powered = s.powered ∧
    (takeIncidentItem h s).mem = s.mem ∧
    (takeIncidentItem h s).bpu = s.bpu ∧
    (takeIncidentItem h s).cfl = s.cfl ∧
    (takeIncidentItem h s).cnu = s.cnu ∧
    (takeIncidentItem h s).tru = s.tru ∧
    (takeIncidentItem h s).rtu = s.rtu ∧
    (takeIncidentItem h s).acu = s.acu ∧
    (takeIncidentItem h s).pfu = s.pfu ∧
    (takeIncidentItem h s).free = s.free ∧
    (takeIncidentItem h s).pending = s.pending ∧
    (takeIncidentItem h s).rqu.service = s.rqu.service ∧
    (takeIncidentItem h s).rqu.queue = s.rqu.queue ∧
    (takeIncidentItem h s).rqu.abandon = s.rqu.abandon ∧
    (takeIncidentItem h s).rqu.mask = s.rqu.mask ∧
    (takeIncidentItem h s).lnu.offHook = s.lnu.offHook ∧
    (takeIncidentItem h s).inu.rebuilt = s.inu.rebuilt ∧
    (takeIncidentItem h s).adu.run = s.adu.run ∧
    (takeIncidentItem h s).adu.nextCall = s.adu.nextCall ∧
    (takeIncidentItem h s).adu.greatest = s.adu.greatest ∧
    (takeIncidentItem h s).adu.remap = s.adu.remap := by
  unfold takeIncidentItem
  (repeat' split) <;> simp

@[simp] theorem replayIncidents_frame (s : State) :
    (replayIncidents s).powered = s.powered ∧
    (replayIncidents s).mem = s.mem ∧
    (replayIncidents s).bpu = s.bpu ∧
    (replayIncidents s).cfl = s.cfl ∧
    (replayIncidents s).cnu = s.cnu ∧
    (replayIncidents s).tru = s.tru ∧
    (replayIncidents s).rtu = s.rtu ∧
    (replayIncidents s).acu = s.acu ∧
    (replayIncidents s).pfu = s.pfu ∧
    (replayIncidents s).free = s.free ∧
    (replayIncidents s).pending = s.pending ∧
    (replayIncidents s).rqu.service = s.rqu.service ∧
    (replayIncidents s).rqu.queue = s.rqu.queue ∧
    (replayIncidents s).rqu.abandon = s.rqu.abandon ∧
    (replayIncidents s).rqu.mask = s.rqu.mask ∧
    (replayIncidents s).lnu.offHook = s.lnu.offHook ∧
    (replayIncidents s).inu.rebuilt = s.inu.rebuilt ∧
    (replayIncidents s).adu.run = s.adu.run ∧
    (replayIncidents s).adu.nextCall = s.adu.nextCall ∧
    (replayIncidents s).adu.greatest = s.adu.greatest ∧
    (replayIncidents s).adu.remap = s.adu.remap := by
  unfold replayIncidents
  simp

/-! ### Machine/Line -/

@[simp] theorem openCall_snd (s : State) :
    (openCall s).2 =
      if uncollected s < 256 then
        judgeCount (uncollected s) { s with adu.nextCall := (s.adu.nextCall + 1) % 0x100000000 }
      else s := by
  unfold openCall
  exact apply_ite Prod.snd _ _ _

@[simp] theorem goDown_frame (s : State) :
    (goDown s).powered = s.powered ∧
    (goDown s).mem = s.mem ∧
    (goDown s).bpu = s.bpu ∧
    (goDown s).cfl = s.cfl ∧
    (goDown s).cnu = s.cnu ∧
    (goDown s).tru = s.tru ∧
    (goDown s).rtu = s.rtu ∧
    (goDown s).inu = s.inu ∧
    (goDown s).rpu = s.rpu ∧
    (goDown s).adu = s.adu ∧
    (goDown s).acu = s.acu ∧
    (goDown s).pfu = s.pfu ∧
    (goDown s).held = s.held ∧
    (goDown s).free = s.free ∧
    (goDown s).pending = s.pending ∧
    (goDown s).rqu.service = s.rqu.service ∧
    (goDown s).rqu.queue = s.rqu.queue ∧
    (goDown s).rqu.abandon = s.rqu.abandon ∧
    (goDown s).rqu.mask = s.rqu.mask ∧
    (goDown s).lnu.offHook = s.lnu.offHook ∧
    (goDown s).lnu.buffer = s.lnu.buffer := by
  unfold goDown
  simp

@[simp] theorem enterClearing_frame (s : State) :
    (enterClearing s).powered = s.powered ∧
    (enterClearing s).mem = s.mem ∧
    (enterClearing s).bpu = s.bpu ∧
    (enterClearing s).cfl = s.cfl ∧
    (enterClearing s).cnu = s.cnu ∧
    (enterClearing s).tru = s.tru ∧
    (enterClearing s).rtu = s.rtu ∧
    (enterClearing s).inu = s.inu ∧
    (enterClearing s).rpu = s.rpu ∧
    (enterClearing s).adu = s.adu ∧
    (enterClearing s).acu = s.acu ∧
    (enterClearing s).pfu = s.pfu ∧
    (enterClearing s).held = s.held ∧
    (enterClearing s).free = s.free ∧
    (enterClearing s).pending = s.pending ∧
    (enterClearing s).rqu.service = s.rqu.service ∧
    (enterClearing s).rqu.queue = s.rqu.queue ∧
    (enterClearing s).rqu.abandon = s.rqu.abandon ∧
    (enterClearing s).rqu.mask = s.rqu.mask ∧
    (enterClearing s).lnu.offHook = s.lnu.offHook ∧
    (enterClearing s).lnu.buffer = s.lnu.buffer := by
  unfold enterClearing
  simp

@[simp] theorem endCall_frame (cause : EndCause) (s : State) :
    (endCall cause s).powered = s.powered ∧
    (endCall cause s).mem = s.mem ∧
    (endCall cause s).bpu = s.bpu ∧
    (endCall cause s).cfl = s.cfl ∧
    (endCall cause s).tru = s.tru ∧
    (endCall cause s).inu = s.inu ∧
    (endCall cause s).rpu = s.rpu ∧
    (endCall cause s).acu = s.acu ∧
    (endCall cause s).pfu = s.pfu ∧
    (endCall cause s).held = s.held ∧
    (endCall cause s).free = s.free ∧
    (endCall cause s).pending = s.pending ∧
    (endCall cause s).rqu.queue = s.rqu.queue ∧
    (endCall cause s).rqu.abandon = s.rqu.abandon ∧
    (endCall cause s).rqu.mask = s.rqu.mask ∧
    (endCall cause s).cnu.chute = s.cnu.chute ∧
    (endCall cause s).cnu.clearance = s.cnu.clearance ∧
    (endCall cause s).lnu.offHook = s.lnu.offHook ∧
    (endCall cause s).adu.run = s.adu.run ∧
    (endCall cause s).adu.nextCall = s.adu.nextCall ∧
    (endCall cause s).adu.greatest = s.adu.greatest ∧
    (endCall cause s).adu.remap = s.adu.remap := by
  unfold endCall
  (repeat' split) <;> simp

@[simp] theorem offHookInReport_frame (s : State) :
    (offHookInReport s).powered = s.powered ∧
    (offHookInReport s).mem = s.mem ∧
    (offHookInReport s).bpu = s.bpu ∧
    (offHookInReport s).cfl = s.cfl ∧
    (offHookInReport s).cnu = s.cnu ∧
    (offHookInReport s).rtu = s.rtu ∧
    (offHookInReport s).acu = s.acu ∧
    (offHookInReport s).pfu = s.pfu ∧
    (offHookInReport s).held = s.held ∧
    (offHookInReport s).free = s.free ∧
    (offHookInReport s).pending = s.pending ∧
    (offHookInReport s).rqu.queue = s.rqu.queue ∧
    (offHookInReport s).rqu.abandon = s.rqu.abandon ∧
    (offHookInReport s).rqu.mask = s.rqu.mask ∧
    (offHookInReport s).tru.valid = s.tru.valid ∧
    (offHookInReport s).tru.unsettled = s.tru.unsettled ∧
    (offHookInReport s).lnu.offHook = s.lnu.offHook ∧
    (offHookInReport s).inu.rebuilt = s.inu.rebuilt ∧
    (offHookInReport s).inu.latches = s.inu.latches ∧
    (offHookInReport s).adu.cache = s.adu.cache ∧
    (offHookInReport s).adu.run = s.adu.run ∧
    (offHookInReport s).adu.nextCall = s.adu.nextCall ∧
    (offHookInReport s).adu.greatest = s.adu.greatest ∧
    (offHookInReport s).adu.remap = s.adu.remap := by
  unfold offHookInReport
  dsimp only
  (repeat' split) <;> simp

@[simp] theorem takeOffHook_frame (s : State) :
    (takeOffHook s).powered = s.powered ∧
    (takeOffHook s).mem = s.mem ∧
    (takeOffHook s).bpu = s.bpu ∧
    (takeOffHook s).cfl = s.cfl ∧
    (takeOffHook s).cnu = s.cnu ∧
    (takeOffHook s).rtu = s.rtu ∧
    (takeOffHook s).acu = s.acu ∧
    (takeOffHook s).pfu = s.pfu ∧
    (takeOffHook s).held = s.held ∧
    (takeOffHook s).free = s.free ∧
    (takeOffHook s).pending = s.pending ∧
    (takeOffHook s).rqu.queue = s.rqu.queue ∧
    (takeOffHook s).rqu.abandon = s.rqu.abandon ∧
    (takeOffHook s).rqu.mask = s.rqu.mask ∧
    (takeOffHook s).tru.valid = s.tru.valid ∧
    (takeOffHook s).tru.unsettled = s.tru.unsettled ∧
    (takeOffHook s).inu.rebuilt = s.inu.rebuilt ∧
    (takeOffHook s).inu.latches = s.inu.latches ∧
    (takeOffHook s).adu.cache = s.adu.cache ∧
    (takeOffHook s).adu.run = s.adu.run ∧
    (takeOffHook s).adu.nextCall = s.adu.nextCall ∧
    (takeOffHook s).adu.greatest = s.adu.greatest ∧
    (takeOffHook s).adu.remap = s.adu.remap := by
  unfold takeOffHook
  dsimp only
  (repeat' split) <;> simp

@[simp] theorem takeOnHook_frame (s : State) :
    (takeOnHook s).powered = s.powered ∧
    (takeOnHook s).mem = s.mem ∧
    (takeOnHook s).bpu = s.bpu ∧
    (takeOnHook s).cfl = s.cfl ∧
    (takeOnHook s).tru = s.tru ∧
    (takeOnHook s).inu = s.inu ∧
    (takeOnHook s).rpu = s.rpu ∧
    (takeOnHook s).acu = s.acu ∧
    (takeOnHook s).pfu = s.pfu ∧
    (takeOnHook s).held = s.held ∧
    (takeOnHook s).free = s.free ∧
    (takeOnHook s).pending = s.pending ∧
    (takeOnHook s).rqu.queue = s.rqu.queue ∧
    (takeOnHook s).rqu.abandon = s.rqu.abandon ∧
    (takeOnHook s).rqu.mask = s.rqu.mask ∧
    (takeOnHook s).cnu.chute = s.cnu.chute ∧
    (takeOnHook s).cnu.clearance = s.cnu.clearance ∧
    (takeOnHook s).adu.run = s.adu.run ∧
    (takeOnHook s).adu.nextCall = s.adu.nextCall ∧
    (takeOnHook s).adu.greatest = s.adu.greatest ∧
    (takeOnHook s).adu.remap = s.adu.remap := by
  unfold takeOnHook
  dsimp only
  (repeat' split) <;> simp

@[simp] theorem takeLoopAppears_frame (s : State) :
    (takeLoopAppears s).powered = s.powered ∧
    (takeLoopAppears s).mem = s.mem ∧
    (takeLoopAppears s).bpu = s.bpu ∧
    (takeLoopAppears s).cfl = s.cfl ∧
    (takeLoopAppears s).rqu = s.rqu ∧
    (takeLoopAppears s).cnu = s.cnu ∧
    (takeLoopAppears s).tru = s.tru ∧
    (takeLoopAppears s).rtu = s.rtu ∧
    (takeLoopAppears s).inu = s.inu ∧
    (takeLoopAppears s).rpu = s.rpu ∧
    (takeLoopAppears s).adu = s.adu ∧
    (takeLoopAppears s).acu = s.acu ∧
    (takeLoopAppears s).pfu = s.pfu ∧
    (takeLoopAppears s).held = s.held ∧
    (takeLoopAppears s).free = s.free ∧
    (takeLoopAppears s).pending = s.pending ∧
    (takeLoopAppears s).lnu.state = s.lnu.state ∧
    (takeLoopAppears s).lnu.offHook = s.lnu.offHook ∧
    (takeLoopAppears s).lnu.buffer = s.lnu.buffer := by
  unfold takeLoopAppears
  dsimp only
  (repeat' split) <;> simp

@[simp] theorem endReportByLine_frame (s : State) :
    (endReportByLine s).powered = s.powered ∧
    (endReportByLine s).mem = s.mem ∧
    (endReportByLine s).bpu = s.bpu ∧
    (endReportByLine s).cfl = s.cfl ∧
    (endReportByLine s).cnu = s.cnu ∧
    (endReportByLine s).rtu = s.rtu ∧
    (endReportByLine s).acu = s.acu ∧
    (endReportByLine s).pfu = s.pfu ∧
    (endReportByLine s).held = s.held ∧
    (endReportByLine s).free = s.free ∧
    (endReportByLine s).pending = s.pending ∧
    (endReportByLine s).rqu.queue = s.rqu.queue ∧
    (endReportByLine s).rqu.abandon = s.rqu.abandon ∧
    (endReportByLine s).rqu.mask = s.rqu.mask ∧
    (endReportByLine s).tru.valid = s.tru.valid ∧
    (endReportByLine s).tru.unsettled = s.tru.unsettled ∧
    (endReportByLine s).lnu.offHook = s.lnu.offHook ∧
    (endReportByLine s).inu.rebuilt = s.inu.rebuilt ∧
    (endReportByLine s).inu.latches = s.inu.latches ∧
    (endReportByLine s).adu.cache = s.adu.cache ∧
    (endReportByLine s).adu.run = s.adu.run ∧
    (endReportByLine s).adu.nextCall = s.adu.nextCall ∧
    (endReportByLine s).adu.greatest = s.adu.greatest ∧
    (endReportByLine s).adu.remap = s.adu.remap := by
  unfold endReportByLine
  simp

@[simp] theorem answerCall_frame (s : State) :
    (answerCall s).powered = s.powered ∧
    (answerCall s).mem = s.mem ∧
    (answerCall s).bpu = s.bpu ∧
    (answerCall s).cfl = s.cfl ∧
    (answerCall s).tru = s.tru ∧
    (answerCall s).inu = s.inu ∧
    (answerCall s).rpu = s.rpu ∧
    (answerCall s).acu = s.acu ∧
    (answerCall s).pfu = s.pfu ∧
    (answerCall s).held = s.held ∧
    (answerCall s).free = s.free ∧
    (answerCall s).pending = s.pending ∧
    (answerCall s).rqu.queue = s.rqu.queue ∧
    (answerCall s).rqu.abandon = s.rqu.abandon ∧
    (answerCall s).rqu.mask = s.rqu.mask ∧
    (answerCall s).cnu.chute = s.cnu.chute ∧
    (answerCall s).cnu.clearance = s.cnu.clearance ∧
    (answerCall s).cnu.openCall = s.cnu.openCall ∧
    (answerCall s).rtu.waiting = s.rtu.waiting ∧
    (answerCall s).rtu.carry = s.rtu.carry ∧
    (answerCall s).lnu.offHook = s.lnu.offHook ∧
    (answerCall s).lnu.buffer = s.lnu.buffer ∧
    (answerCall s).adu.run = s.adu.run ∧
    (answerCall s).adu.nextCall = s.adu.nextCall ∧
    (answerCall s).adu.greatest = s.adu.greatest ∧
    (answerCall s).adu.remap = s.adu.remap := by
  unfold answerCall
  simp

@[simp] theorem answerReport_frame (s : State) :
    (answerReport s).powered = s.powered ∧
    (answerReport s).mem = s.mem ∧
    (answerReport s).bpu = s.bpu ∧
    (answerReport s).cfl = s.cfl ∧
    (answerReport s).rqu = s.rqu ∧
    (answerReport s).cnu = s.cnu ∧
    (answerReport s).tru = s.tru ∧
    (answerReport s).rtu = s.rtu ∧
    (answerReport s).inu = s.inu ∧
    (answerReport s).rpu = s.rpu ∧
    (answerReport s).adu = s.adu ∧
    (answerReport s).acu = s.acu ∧
    (answerReport s).pfu = s.pfu ∧
    (answerReport s).held = s.held ∧
    (answerReport s).free = s.free ∧
    (answerReport s).pending = s.pending ∧
    (answerReport s).lnu.state = s.lnu.state ∧
    (answerReport s).lnu.offHook = s.lnu.offHook ∧
    (answerReport s).lnu.buffer = s.lnu.buffer := by
  unfold answerReport
  simp

@[simp] theorem awaitAnswer_frame (report : Bool) (s : State) :
    (awaitAnswer report s).powered = s.powered ∧
    (awaitAnswer report s).mem = s.mem ∧
    (awaitAnswer report s).bpu = s.bpu ∧
    (awaitAnswer report s).cfl = s.cfl ∧
    (awaitAnswer report s).tru = s.tru ∧
    (awaitAnswer report s).inu = s.inu ∧
    (awaitAnswer report s).rpu = s.rpu ∧
    (awaitAnswer report s).acu = s.acu ∧
    (awaitAnswer report s).pfu = s.pfu ∧
    (awaitAnswer report s).held = s.held ∧
    (awaitAnswer report s).free = s.free ∧
    (awaitAnswer report s).pending = s.pending ∧
    (awaitAnswer report s).rqu.queue = s.rqu.queue ∧
    (awaitAnswer report s).rqu.abandon = s.rqu.abandon ∧
    (awaitAnswer report s).rqu.mask = s.rqu.mask ∧
    (awaitAnswer report s).cnu.chute = s.cnu.chute ∧
    (awaitAnswer report s).cnu.clearance = s.cnu.clearance ∧
    (awaitAnswer report s).cnu.openCall = s.cnu.openCall ∧
    (awaitAnswer report s).rtu.waiting = s.rtu.waiting ∧
    (awaitAnswer report s).rtu.carry = s.rtu.carry ∧
    (awaitAnswer report s).lnu.offHook = s.lnu.offHook ∧
    (awaitAnswer report s).lnu.buffer = s.lnu.buffer ∧
    (awaitAnswer report s).adu.run = s.adu.run ∧
    (awaitAnswer report s).adu.nextCall = s.adu.nextCall ∧
    (awaitAnswer report s).adu.greatest = s.adu.greatest ∧
    (awaitAnswer report s).adu.remap = s.adu.remap := by
  unfold awaitAnswer
  dsimp only
  (repeat' split) <;> simp

@[simp] theorem sendingEnds_frame (s : State) :
    (sendingEnds s).powered = s.powered ∧
    (sendingEnds s).mem = s.mem ∧
    (sendingEnds s).bpu = s.bpu ∧
    (sendingEnds s).cfl = s.cfl ∧
    (sendingEnds s).tru = s.tru ∧
    (sendingEnds s).inu = s.inu ∧
    (sendingEnds s).acu = s.acu ∧
    (sendingEnds s).pfu = s.pfu ∧
    (sendingEnds s).held = s.held ∧
    (sendingEnds s).free = s.free ∧
    (sendingEnds s).pending = s.pending ∧
    (sendingEnds s).rqu.queue = s.rqu.queue ∧
    (sendingEnds s).rqu.abandon = s.rqu.abandon ∧
    (sendingEnds s).rqu.mask = s.rqu.mask ∧
    (sendingEnds s).cnu.chute = s.cnu.chute ∧
    (sendingEnds s).cnu.clearance = s.cnu.clearance ∧
    (sendingEnds s).cnu.openCall = s.cnu.openCall ∧
    (sendingEnds s).rtu.waiting = s.rtu.waiting ∧
    (sendingEnds s).rtu.carry = s.rtu.carry ∧
    (sendingEnds s).lnu.offHook = s.lnu.offHook ∧
    (sendingEnds s).lnu.buffer = s.lnu.buffer ∧
    (sendingEnds s).rpu.call = s.rpu.call ∧
    (sendingEnds s).rpu.timeRequest = s.rpu.timeRequest ∧
    (sendingEnds s).adu.run = s.adu.run ∧
    (sendingEnds s).adu.nextCall = s.adu.nextCall ∧
    (sendingEnds s).adu.greatest = s.adu.greatest ∧
    (sendingEnds s).adu.remap = s.adu.remap := by
  unfold sendingEnds
  (repeat' split) <;> simp

@[simp] theorem takeReversal_frame (s : State) :
    (takeReversal s).powered = s.powered ∧
    (takeReversal s).mem = s.mem ∧
    (takeReversal s).bpu = s.bpu ∧
    (takeReversal s).cfl = s.cfl ∧
    (takeReversal s).tru = s.tru ∧
    (takeReversal s).inu = s.inu ∧
    (takeReversal s).rpu = s.rpu ∧
    (takeReversal s).acu = s.acu ∧
    (takeReversal s).pfu = s.pfu ∧
    (takeReversal s).held = s.held ∧
    (takeReversal s).free = s.free ∧
    (takeReversal s).pending = s.pending ∧
    (takeReversal s).rqu.queue = s.rqu.queue ∧
    (takeReversal s).rqu.abandon = s.rqu.abandon ∧
    (takeReversal s).rqu.mask = s.rqu.mask ∧
    (takeReversal s).cnu.chute = s.cnu.chute ∧
    (takeReversal s).cnu.clearance = s.cnu.clearance ∧
    (takeReversal s).cnu.openCall = s.cnu.openCall ∧
    (takeReversal s).rtu.waiting = s.rtu.waiting ∧
    (takeReversal s).rtu.carry = s.rtu.carry ∧
    (takeReversal s).lnu.offHook = s.lnu.offHook ∧
    (takeReversal s).lnu.buffer = s.lnu.buffer ∧
    (takeReversal s).adu.run = s.adu.run ∧
    (takeReversal s).adu.nextCall = s.adu.nextCall ∧
    (takeReversal s).adu.greatest = s.adu.greatest ∧
    (takeReversal s).adu.remap = s.adu.remap := by
  unfold takeReversal
  dsimp only
  (repeat' split) <;> simp

@[simp] theorem takeReversion_frame (s : State) :
    (takeReversion s).powered = s.powered ∧
    (takeReversion s).mem = s.mem ∧
    (takeReversion s).bpu = s.bpu ∧
    (takeReversion s).cfl = s.cfl ∧
    (takeReversion s).acu = s.acu ∧
    (takeReversion s).pfu = s.pfu ∧
    (takeReversion s).held = s.held ∧
    (takeReversion s).free = s.free ∧
    (takeReversion s).pending = s.pending ∧
    (takeReversion s).rqu.queue = s.rqu.queue ∧
    (takeReversion s).rqu.abandon = s.rqu.abandon ∧
    (takeReversion s).rqu.mask = s.rqu.mask ∧
    (takeReversion s).cnu.chute = s.cnu.chute ∧
    (takeReversion s).cnu.clearance = s.cnu.clearance ∧
    (takeReversion s).tru.valid = s.tru.valid ∧
    (takeReversion s).tru.unsettled = s.tru.unsettled ∧
    (takeReversion s).lnu.offHook = s.lnu.offHook ∧
    (takeReversion s).inu.rebuilt = s.inu.rebuilt ∧
    (takeReversion s).inu.latches = s.inu.latches ∧
    (takeReversion s).adu.run = s.adu.run ∧
    (takeReversion s).adu.nextCall = s.adu.nextCall ∧
    (takeReversion s).adu.greatest = s.adu.greatest ∧
    (takeReversion s).adu.remap = s.adu.remap := by
  unfold takeReversion
  dsimp only
  (repeat' split) <;> simp

@[simp] theorem yieldToDial_frame (s : State) :
    (yieldToDial s).powered = s.powered ∧
    (yieldToDial s).mem = s.mem ∧
    (yieldToDial s).bpu = s.bpu ∧
    (yieldToDial s).cfl = s.cfl ∧
    (yieldToDial s).cnu = s.cnu ∧
    (yieldToDial s).rtu = s.rtu ∧
    (yieldToDial s).acu = s.acu ∧
    (yieldToDial s).pfu = s.pfu ∧
    (yieldToDial s).held = s.held ∧
    (yieldToDial s).free = s.free ∧
    (yieldToDial s).pending = s.pending ∧
    (yieldToDial s).rqu.queue = s.rqu.queue ∧
    (yieldToDial s).rqu.abandon = s.rqu.abandon ∧
    (yieldToDial s).rqu.mask = s.rqu.mask ∧
    (yieldToDial s).tru.valid = s.tru.valid ∧
    (yieldToDial s).tru.unsettled = s.tru.unsettled ∧
    (yieldToDial s).lnu.offHook = s.lnu.offHook ∧
    (yieldToDial s).inu.rebuilt = s.inu.rebuilt ∧
    (yieldToDial s).inu.latches = s.inu.latches ∧
    (yieldToDial s).adu.cache = s.adu.cache ∧
    (yieldToDial s).adu.run = s.adu.run ∧
    (yieldToDial s).adu.nextCall = s.adu.nextCall ∧
    (yieldToDial s).adu.greatest = s.adu.greatest ∧
    (yieldToDial s).adu.remap = s.adu.remap := by
  unfold yieldToDial
  dsimp only
  (repeat' split) <;> simp

@[simp] theorem sendDigitsRequest_frame (ps : List Word) (s : State) :
    (sendDigitsRequest ps s).powered = s.powered ∧
    (sendDigitsRequest ps s).mem = s.mem ∧
    (sendDigitsRequest ps s).bpu = s.bpu ∧
    (sendDigitsRequest ps s).cfl = s.cfl ∧
    (sendDigitsRequest ps s).cnu = s.cnu ∧
    (sendDigitsRequest ps s).tru = s.tru ∧
    (sendDigitsRequest ps s).rtu = s.rtu ∧
    (sendDigitsRequest ps s).inu = s.inu ∧
    (sendDigitsRequest ps s).rpu = s.rpu ∧
    (sendDigitsRequest ps s).adu = s.adu ∧
    (sendDigitsRequest ps s).acu = s.acu ∧
    (sendDigitsRequest ps s).pfu = s.pfu ∧
    (sendDigitsRequest ps s).held = s.held ∧
    (sendDigitsRequest ps s).free = s.free ∧
    (sendDigitsRequest ps s).pending = s.pending ∧
    (sendDigitsRequest ps s).rqu.queue = s.rqu.queue ∧
    (sendDigitsRequest ps s).rqu.abandon = s.rqu.abandon ∧
    (sendDigitsRequest ps s).rqu.mask = s.rqu.mask ∧
    (sendDigitsRequest ps s).lnu.state = s.lnu.state ∧
    (sendDigitsRequest ps s).lnu.offHook = s.lnu.offHook ∧
    (sendDigitsRequest ps s).lnu.timers = s.lnu.timers := by
  unfold sendDigitsRequest
  dsimp only
  (repeat' split) <;> simp

@[simp] theorem followOnRequest_frame (x : List Word) (s : State) :
    (followOnRequest x s).powered = s.powered ∧
    (followOnRequest x s).mem = s.mem ∧
    (followOnRequest x s).bpu = s.bpu ∧
    (followOnRequest x s).cfl = s.cfl ∧
    (followOnRequest x s).tru = s.tru ∧
    (followOnRequest x s).inu = s.inu ∧
    (followOnRequest x s).rpu = s.rpu ∧
    (followOnRequest x s).acu = s.acu ∧
    (followOnRequest x s).pfu = s.pfu ∧
    (followOnRequest x s).held = s.held ∧
    (followOnRequest x s).free = s.free ∧
    (followOnRequest x s).pending = s.pending ∧
    (followOnRequest x s).rqu.queue = s.rqu.queue ∧
    (followOnRequest x s).rqu.abandon = s.rqu.abandon ∧
    (followOnRequest x s).rqu.mask = s.rqu.mask ∧
    (followOnRequest x s).cnu.chute = s.cnu.chute ∧
    (followOnRequest x s).cnu.clearance = s.cnu.clearance ∧
    (followOnRequest x s).cnu.openCall = s.cnu.openCall ∧
    (followOnRequest x s).rtu.waiting = s.rtu.waiting ∧
    (followOnRequest x s).rtu.carry = s.rtu.carry ∧
    (followOnRequest x s).lnu.offHook = s.lnu.offHook ∧
    (followOnRequest x s).lnu.buffer = s.lnu.buffer ∧
    (followOnRequest x s).adu.run = s.adu.run ∧
    (followOnRequest x s).adu.nextCall = s.adu.nextCall ∧
    (followOnRequest x s).adu.greatest = s.adu.greatest ∧
    (followOnRequest x s).adu.remap = s.adu.remap := by
  unfold followOnRequest
  dsimp only
  (repeat' split) <;> simp

@[simp] theorem releaseRequest_frame (ps : List Word) (s : State) :
    (releaseRequest ps s).powered = s.powered ∧
    (releaseRequest ps s).mem = s.mem ∧
    (releaseRequest ps s).bpu = s.bpu ∧
    (releaseRequest ps s).cfl = s.cfl ∧
    (releaseRequest ps s).tru = s.tru ∧
    (releaseRequest ps s).inu = s.inu ∧
    (releaseRequest ps s).rpu = s.rpu ∧
    (releaseRequest ps s).acu = s.acu ∧
    (releaseRequest ps s).pfu = s.pfu ∧
    (releaseRequest ps s).held = s.held ∧
    (releaseRequest ps s).free = s.free ∧
    (releaseRequest ps s).pending = s.pending ∧
    (releaseRequest ps s).rqu.queue = s.rqu.queue ∧
    (releaseRequest ps s).rqu.abandon = s.rqu.abandon ∧
    (releaseRequest ps s).rqu.mask = s.rqu.mask ∧
    (releaseRequest ps s).cnu.chute = s.cnu.chute ∧
    (releaseRequest ps s).cnu.clearance = s.cnu.clearance ∧
    (releaseRequest ps s).lnu.offHook = s.lnu.offHook ∧
    (releaseRequest ps s).adu.run = s.adu.run ∧
    (releaseRequest ps s).adu.nextCall = s.adu.nextCall ∧
    (releaseRequest ps s).adu.greatest = s.adu.greatest ∧
    (releaseRequest ps s).adu.remap = s.adu.remap := by
  unfold releaseRequest
  (repeat' split) <;> simp

@[simp] theorem takeLoopLost_frame (s : State) :
    (takeLoopLost s).powered = s.powered ∧
    (takeLoopLost s).mem = s.mem ∧
    (takeLoopLost s).bpu = s.bpu ∧
    (takeLoopLost s).cfl = s.cfl ∧
    (takeLoopLost s).rqu = s.rqu ∧
    (takeLoopLost s).cnu = s.cnu ∧
    (takeLoopLost s).tru = s.tru ∧
    (takeLoopLost s).rtu = s.rtu ∧
    (takeLoopLost s).inu = s.inu ∧
    (takeLoopLost s).rpu = s.rpu ∧
    (takeLoopLost s).adu = s.adu ∧
    (takeLoopLost s).acu = s.acu ∧
    (takeLoopLost s).pfu = s.pfu ∧
    (takeLoopLost s).held = s.held ∧
    (takeLoopLost s).free = s.free ∧
    (takeLoopLost s).pending = s.pending ∧
    (takeLoopLost s).lnu.state = s.lnu.state ∧
    (takeLoopLost s).lnu.offHook = s.lnu.offHook ∧
    (takeLoopLost s).lnu.buffer = s.lnu.buffer := by
  unfold takeLoopLost
  dsimp only
  (repeat' split) <;> simp

@[simp] theorem takeVoltage_frame (present : Bool) (s : State) :
    (takeVoltage present s).powered = s.powered ∧
    (takeVoltage present s).mem = s.mem ∧
    (takeVoltage present s).bpu = s.bpu ∧
    (takeVoltage present s).cfl = s.cfl ∧
    (takeVoltage present s).rqu = s.rqu ∧
    (takeVoltage present s).cnu = s.cnu ∧
    (takeVoltage present s).tru = s.tru ∧
    (takeVoltage present s).rtu = s.rtu ∧
    (takeVoltage present s).inu = s.inu ∧
    (takeVoltage present s).rpu = s.rpu ∧
    (takeVoltage present s).adu = s.adu ∧
    (takeVoltage present s).acu = s.acu ∧
    (takeVoltage present s).pfu = s.pfu ∧
    (takeVoltage present s).held = s.held ∧
    (takeVoltage present s).free = s.free ∧
    (takeVoltage present s).pending = s.pending ∧
    (takeVoltage present s).lnu.state = s.lnu.state ∧
    (takeVoltage present s).lnu.offHook = s.lnu.offHook ∧
    (takeVoltage present s).lnu.buffer = s.lnu.buffer := by
  unfold takeVoltage
  (repeat' split) <;> simp

@[simp] theorem voltageFault_frame (s : State) :
    (voltageFault s).powered = s.powered ∧
    (voltageFault s).mem = s.mem ∧
    (voltageFault s).bpu = s.bpu ∧
    (voltageFault s).cfl = s.cfl ∧
    (voltageFault s).tru = s.tru ∧
    (voltageFault s).acu = s.acu ∧
    (voltageFault s).pfu = s.pfu ∧
    (voltageFault s).free = s.free ∧
    (voltageFault s).pending = s.pending ∧
    (voltageFault s).rqu.service = s.rqu.service ∧
    (voltageFault s).rqu.queue = s.rqu.queue ∧
    (voltageFault s).rqu.abandon = s.rqu.abandon ∧
    (voltageFault s).rqu.mask = s.rqu.mask ∧
    (voltageFault s).cnu.chute = s.cnu.chute ∧
    (voltageFault s).cnu.clearance = s.cnu.clearance ∧
    (voltageFault s).cnu.openCall = s.cnu.openCall ∧
    (voltageFault s).rtu.ctx = s.rtu.ctx ∧
    (voltageFault s).lnu.offHook = s.lnu.offHook ∧
    (voltageFault s).inu.rebuilt = s.inu.rebuilt ∧
    (voltageFault s).adu.run = s.adu.run ∧
    (voltageFault s).adu.nextCall = s.adu.nextCall ∧
    (voltageFault s).adu.greatest = s.adu.greatest ∧
    (voltageFault s).adu.remap = s.adu.remap := by
  unfold voltageFault
  dsimp only
  (repeat' split) <;> simp

/-! ### Machine/Rating -/

@[simp] theorem takeIntervalEnd_frame (s : State) :
    (takeIntervalEnd s).powered = s.powered ∧
    (takeIntervalEnd s).mem = s.mem ∧
    (takeIntervalEnd s).bpu = s.bpu ∧
    (takeIntervalEnd s).cfl = s.cfl ∧
    (takeIntervalEnd s).tru = s.tru ∧
    (takeIntervalEnd s).inu = s.inu ∧
    (takeIntervalEnd s).rpu = s.rpu ∧
    (takeIntervalEnd s).acu = s.acu ∧
    (takeIntervalEnd s).pfu = s.pfu ∧
    (takeIntervalEnd s).held = s.held ∧
    (takeIntervalEnd s).free = s.free ∧
    (takeIntervalEnd s).pending = s.pending ∧
    (takeIntervalEnd s).rqu.service = s.rqu.service ∧
    (takeIntervalEnd s).rqu.queue = s.rqu.queue ∧
    (takeIntervalEnd s).rqu.abandon = s.rqu.abandon ∧
    (takeIntervalEnd s).rqu.mask = s.rqu.mask ∧
    (takeIntervalEnd s).cnu.chute = s.cnu.chute ∧
    (takeIntervalEnd s).cnu.clearance = s.cnu.clearance ∧
    (takeIntervalEnd s).cnu.openCall = s.cnu.openCall ∧
    (takeIntervalEnd s).rtu.waiting = s.rtu.waiting ∧
    (takeIntervalEnd s).rtu.carry = s.rtu.carry ∧
    (takeIntervalEnd s).lnu.offHook = s.lnu.offHook ∧
    (takeIntervalEnd s).lnu.buffer = s.lnu.buffer ∧
    (takeIntervalEnd s).adu.run = s.adu.run ∧
    (takeIntervalEnd s).adu.nextCall = s.adu.nextCall ∧
    (takeIntervalEnd s).adu.greatest = s.adu.greatest ∧
    (takeIntervalEnd s).adu.remap = s.adu.remap := by
  unfold takeIntervalEnd
  (repeat' split) <;> simp

@[simp] theorem cutOff_frame (cause : EndCause) (c : Ctx) (s : State) :
    (cutOff cause c s).powered = s.powered ∧
    (cutOff cause c s).mem = s.mem ∧
    (cutOff cause c s).bpu = s.bpu ∧
    (cutOff cause c s).cfl = s.cfl ∧
    (cutOff cause c s).tru = s.tru ∧
    (cutOff cause c s).inu = s.inu ∧
    (cutOff cause c s).rpu = s.rpu ∧
    (cutOff cause c s).acu = s.acu ∧
    (cutOff cause c s).pfu = s.pfu ∧
    (cutOff cause c s).held = s.held ∧
    (cutOff cause c s).free = s.free ∧
    (cutOff cause c s).pending = s.pending ∧
    (cutOff cause c s).rqu.queue = s.rqu.queue ∧
    (cutOff cause c s).rqu.abandon = s.rqu.abandon ∧
    (cutOff cause c s).rqu.mask = s.rqu.mask ∧
    (cutOff cause c s).cnu.chute = s.cnu.chute ∧
    (cutOff cause c s).cnu.clearance = s.cnu.clearance ∧
    (cutOff cause c s).lnu.offHook = s.lnu.offHook ∧
    (cutOff cause c s).adu.run = s.adu.run ∧
    (cutOff cause c s).adu.nextCall = s.adu.nextCall ∧
    (cutOff cause c s).adu.greatest = s.adu.greatest ∧
    (cutOff cause c s).adu.remap = s.adu.remap := by
  unfold cutOff
  simp

@[simp] theorem takeGraceDeadline_frame (s : State) :
    (takeGraceDeadline s).powered = s.powered ∧
    (takeGraceDeadline s).mem = s.mem ∧
    (takeGraceDeadline s).bpu = s.bpu ∧
    (takeGraceDeadline s).cfl = s.cfl ∧
    (takeGraceDeadline s).tru = s.tru ∧
    (takeGraceDeadline s).inu = s.inu ∧
    (takeGraceDeadline s).rpu = s.rpu ∧
    (takeGraceDeadline s).acu = s.acu ∧
    (takeGraceDeadline s).pfu = s.pfu ∧
    (takeGraceDeadline s).held = s.held ∧
    (takeGraceDeadline s).free = s.free ∧
    (takeGraceDeadline s).pending = s.pending ∧
    (takeGraceDeadline s).rqu.queue = s.rqu.queue ∧
    (takeGraceDeadline s).rqu.abandon = s.rqu.abandon ∧
    (takeGraceDeadline s).rqu.mask = s.rqu.mask ∧
    (takeGraceDeadline s).cnu.chute = s.cnu.chute ∧
    (takeGraceDeadline s).cnu.clearance = s.cnu.clearance ∧
    (takeGraceDeadline s).lnu.offHook = s.lnu.offHook ∧
    (takeGraceDeadline s).adu.run = s.adu.run ∧
    (takeGraceDeadline s).adu.nextCall = s.adu.nextCall ∧
    (takeGraceDeadline s).adu.greatest = s.adu.greatest ∧
    (takeGraceDeadline s).adu.remap = s.adu.remap := by
  unfold takeGraceDeadline
  (repeat' split) <;> simp

@[simp] theorem takeMaxDurationEnd_frame (s : State) :
    (takeMaxDurationEnd s).powered = s.powered ∧
    (takeMaxDurationEnd s).mem = s.mem ∧
    (takeMaxDurationEnd s).bpu = s.bpu ∧
    (takeMaxDurationEnd s).cfl = s.cfl ∧
    (takeMaxDurationEnd s).tru = s.tru ∧
    (takeMaxDurationEnd s).inu = s.inu ∧
    (takeMaxDurationEnd s).rpu = s.rpu ∧
    (takeMaxDurationEnd s).acu = s.acu ∧
    (takeMaxDurationEnd s).pfu = s.pfu ∧
    (takeMaxDurationEnd s).held = s.held ∧
    (takeMaxDurationEnd s).free = s.free ∧
    (takeMaxDurationEnd s).pending = s.pending ∧
    (takeMaxDurationEnd s).rqu.queue = s.rqu.queue ∧
    (takeMaxDurationEnd s).rqu.abandon = s.rqu.abandon ∧
    (takeMaxDurationEnd s).rqu.mask = s.rqu.mask ∧
    (takeMaxDurationEnd s).cnu.chute = s.cnu.chute ∧
    (takeMaxDurationEnd s).cnu.clearance = s.cnu.clearance ∧
    (takeMaxDurationEnd s).lnu.offHook = s.lnu.offHook ∧
    (takeMaxDurationEnd s).adu.run = s.adu.run ∧
    (takeMaxDurationEnd s).adu.nextCall = s.adu.nextCall ∧
    (takeMaxDurationEnd s).adu.greatest = s.adu.greatest ∧
    (takeMaxDurationEnd s).adu.remap = s.adu.remap := by
  unfold takeMaxDurationEnd
  (repeat' split) <;> simp

/-! ### Machine/Report -/

@[simp] theorem failAck_frame (s : State) :
    (failAck s).powered = s.powered ∧
    (failAck s).mem = s.mem ∧
    (failAck s).bpu = s.bpu ∧
    (failAck s).cfl = s.cfl ∧
    (failAck s).cnu = s.cnu ∧
    (failAck s).tru = s.tru ∧
    (failAck s).rtu = s.rtu ∧
    (failAck s).acu = s.acu ∧
    (failAck s).pfu = s.pfu ∧
    (failAck s).held = s.held ∧
    (failAck s).free = s.free ∧
    (failAck s).pending = s.pending ∧
    (failAck s).rqu.queue = s.rqu.queue ∧
    (failAck s).rqu.abandon = s.rqu.abandon ∧
    (failAck s).rqu.mask = s.rqu.mask ∧
    (failAck s).lnu.offHook = s.lnu.offHook ∧
    (failAck s).inu.rebuilt = s.inu.rebuilt ∧
    (failAck s).inu.latches = s.inu.latches ∧
    (failAck s).adu.cache = s.adu.cache ∧
    (failAck s).adu.run = s.adu.run ∧
    (failAck s).adu.nextCall = s.adu.nextCall ∧
    (failAck s).adu.greatest = s.adu.greatest ∧
    (failAck s).adu.remap = s.adu.remap := by
  unfold failAck
  simp

@[simp] theorem toneAtNone_frame (c : ReportCall) (t : Tone) (s : State) :
    (toneAtNone c t s).powered = s.powered ∧
    (toneAtNone c t s).mem = s.mem ∧
    (toneAtNone c t s).bpu = s.bpu ∧
    (toneAtNone c t s).cfl = s.cfl ∧
    (toneAtNone c t s).cnu = s.cnu ∧
    (toneAtNone c t s).tru = s.tru ∧
    (toneAtNone c t s).rtu = s.rtu ∧
    (toneAtNone c t s).acu = s.acu ∧
    (toneAtNone c t s).pfu = s.pfu ∧
    (toneAtNone c t s).held = s.held ∧
    (toneAtNone c t s).free = s.free ∧
    (toneAtNone c t s).pending = s.pending ∧
    (toneAtNone c t s).rqu.queue = s.rqu.queue ∧
    (toneAtNone c t s).rqu.abandon = s.rqu.abandon ∧
    (toneAtNone c t s).rqu.mask = s.rqu.mask ∧
    (toneAtNone c t s).lnu.offHook = s.lnu.offHook ∧
    (toneAtNone c t s).inu.rebuilt = s.inu.rebuilt ∧
    (toneAtNone c t s).inu.latches = s.inu.latches ∧
    (toneAtNone c t s).adu.cache = s.adu.cache ∧
    (toneAtNone c t s).adu.run = s.adu.run ∧
    (toneAtNone c t s).adu.nextCall = s.adu.nextCall ∧
    (toneAtNone c t s).adu.greatest = s.adu.greatest ∧
    (toneAtNone c t s).adu.remap = s.adu.remap := by
  unfold toneAtNone
  (repeat' split) <;> simp

@[simp] theorem toneAfterA_frame (c : ReportCall) (t : Tone) (s : State) :
    (toneAfterA c t s).powered = s.powered ∧
    (toneAfterA c t s).mem = s.mem ∧
    (toneAfterA c t s).bpu = s.bpu ∧
    (toneAfterA c t s).cfl = s.cfl ∧
    (toneAfterA c t s).cnu = s.cnu ∧
    (toneAfterA c t s).rtu = s.rtu ∧
    (toneAfterA c t s).acu = s.acu ∧
    (toneAfterA c t s).pfu = s.pfu ∧
    (toneAfterA c t s).held = s.held ∧
    (toneAfterA c t s).free = s.free ∧
    (toneAfterA c t s).pending = s.pending ∧
    (toneAfterA c t s).rqu.queue = s.rqu.queue ∧
    (toneAfterA c t s).rqu.abandon = s.rqu.abandon ∧
    (toneAfterA c t s).rqu.mask = s.rqu.mask ∧
    (toneAfterA c t s).tru.valid = s.tru.valid ∧
    (toneAfterA c t s).tru.unsettled = s.tru.unsettled ∧
    (toneAfterA c t s).lnu.offHook = s.lnu.offHook ∧
    (toneAfterA c t s).inu.rebuilt = s.inu.rebuilt ∧
    (toneAfterA c t s).inu.latches = s.inu.latches ∧
    (toneAfterA c t s).adu.cache = s.adu.cache ∧
    (toneAfterA c t s).adu.run = s.adu.run ∧
    (toneAfterA c t s).adu.nextCall = s.adu.nextCall ∧
    (toneAfterA c t s).adu.greatest = s.adu.greatest ∧
    (toneAfterA c t s).adu.remap = s.adu.remap := by
  unfold toneAfterA
  (repeat' split) <;> simp

@[simp] theorem takeTone_frame (t : Tone) (s : State) :
    (takeTone t s).powered = s.powered ∧
    (takeTone t s).mem = s.mem ∧
    (takeTone t s).bpu = s.bpu ∧
    (takeTone t s).cfl = s.cfl ∧
    (takeTone t s).cnu = s.cnu ∧
    (takeTone t s).rtu = s.rtu ∧
    (takeTone t s).acu = s.acu ∧
    (takeTone t s).pfu = s.pfu ∧
    (takeTone t s).held = s.held ∧
    (takeTone t s).free = s.free ∧
    (takeTone t s).pending = s.pending ∧
    (takeTone t s).rqu.queue = s.rqu.queue ∧
    (takeTone t s).rqu.abandon = s.rqu.abandon ∧
    (takeTone t s).rqu.mask = s.rqu.mask ∧
    (takeTone t s).tru.valid = s.tru.valid ∧
    (takeTone t s).tru.unsettled = s.tru.unsettled ∧
    (takeTone t s).lnu.offHook = s.lnu.offHook ∧
    (takeTone t s).inu.rebuilt = s.inu.rebuilt ∧
    (takeTone t s).inu.latches = s.inu.latches ∧
    (takeTone t s).adu.cache = s.adu.cache ∧
    (takeTone t s).adu.run = s.adu.run ∧
    (takeTone t s).adu.nextCall = s.adu.nextCall ∧
    (takeTone t s).adu.greatest = s.adu.greatest ∧
    (takeTone t s).adu.remap = s.adu.remap := by
  unfold takeTone
  (repeat' split) <;> simp

@[simp] theorem testReportRequest_frame (x : List Word) (s : State) :
    (testReportRequest x s).powered = s.powered ∧
    (testReportRequest x s).mem = s.mem ∧
    (testReportRequest x s).bpu = s.bpu ∧
    (testReportRequest x s).cfl = s.cfl ∧
    (testReportRequest x s).cnu = s.cnu ∧
    (testReportRequest x s).tru = s.tru ∧
    (testReportRequest x s).rtu = s.rtu ∧
    (testReportRequest x s).acu = s.acu ∧
    (testReportRequest x s).pfu = s.pfu ∧
    (testReportRequest x s).held = s.held ∧
    (testReportRequest x s).free = s.free ∧
    (testReportRequest x s).pending = s.pending ∧
    (testReportRequest x s).rqu.queue = s.rqu.queue ∧
    (testReportRequest x s).rqu.abandon = s.rqu.abandon ∧
    (testReportRequest x s).rqu.mask = s.rqu.mask ∧
    (testReportRequest x s).lnu.offHook = s.lnu.offHook ∧
    (testReportRequest x s).inu.rebuilt = s.inu.rebuilt ∧
    (testReportRequest x s).inu.latches = s.inu.latches ∧
    (testReportRequest x s).adu.cache = s.adu.cache ∧
    (testReportRequest x s).adu.run = s.adu.run ∧
    (testReportRequest x s).adu.nextCall = s.adu.nextCall ∧
    (testReportRequest x s).adu.greatest = s.adu.greatest ∧
    (testReportRequest x s).adu.remap = s.adu.remap := by
  unfold testReportRequest
  (repeat' split) <;> simp

/-! ### Machine/Power -/

@[simp] theorem putCheck_frame (s : State) :
    (putCheck s).powered = s.powered ∧
    (putCheck s).mem = s.mem ∧
    (putCheck s).bpu = s.bpu ∧
    (putCheck s).cfl = s.cfl ∧
    (putCheck s).rqu = s.rqu ∧
    (putCheck s).cnu = s.cnu ∧
    (putCheck s).tru = s.tru ∧
    (putCheck s).rtu = s.rtu ∧
    (putCheck s).lnu = s.lnu ∧
    (putCheck s).inu = s.inu ∧
    (putCheck s).rpu = s.rpu ∧
    (putCheck s).acu = s.acu ∧
    (putCheck s).pfu = s.pfu ∧
    (putCheck s).held = s.held ∧
    (putCheck s).free = s.free ∧
    (putCheck s).pending = s.pending ∧
    (putCheck s).adu.cache = s.adu.cache ∧
    (putCheck s).adu.run = s.adu.run ∧
    (putCheck s).adu.nextCall = s.adu.nextCall ∧
    (putCheck s).adu.greatest = s.adu.greatest ∧
    (putCheck s).adu.remap = s.adu.remap := by
  unfold putCheck
  simp

@[simp] theorem beginSave_frame (s : State) :
    (beginSave s).powered = s.powered ∧
    (beginSave s).mem = s.mem ∧
    (beginSave s).bpu = s.bpu ∧
    (beginSave s).cfl = s.cfl ∧
    (beginSave s).rqu = s.rqu ∧
    (beginSave s).cnu = s.cnu ∧
    (beginSave s).tru = s.tru ∧
    (beginSave s).rtu = s.rtu ∧
    (beginSave s).lnu = s.lnu ∧
    (beginSave s).inu = s.inu ∧
    (beginSave s).rpu = s.rpu ∧
    (beginSave s).acu = s.acu ∧
    (beginSave s).held = s.held ∧
    (beginSave s).free = s.free ∧
    (beginSave s).pending = s.pending ∧
    (beginSave s).adu.cache = s.adu.cache ∧
    (beginSave s).adu.run = s.adu.run ∧
    (beginSave s).adu.nextCall = s.adu.nextCall ∧
    (beginSave s).adu.greatest = s.adu.greatest ∧
    (beginSave s).adu.remap = s.adu.remap ∧
    (beginSave s).pfu.power = s.pfu.power ∧
    (beginSave s).pfu.step5 = s.pfu.step5 := by
  unfold beginSave
  (repeat' split) <;> simp

@[simp] theorem takeHeld_frame (h : Held) (s : State) :
    (takeHeld h s).powered = s.powered ∧
    (takeHeld h s).mem = s.mem ∧
    (takeHeld h s).bpu = s.bpu ∧
    (takeHeld h s).cfl = s.cfl ∧
    (takeHeld h s).free = s.free ∧
    (takeHeld h s).pending = s.pending ∧
    (takeHeld h s).rqu.queue = s.rqu.queue ∧
    (takeHeld h s).rqu.abandon = s.rqu.abandon ∧
    (takeHeld h s).rqu.mask = s.rqu.mask ∧
    (takeHeld h s).tru.valid = s.tru.valid ∧
    (takeHeld h s).tru.unsettled = s.tru.unsettled ∧
    (takeHeld h s).inu.rebuilt = s.inu.rebuilt ∧
    (takeHeld h s).adu.run = s.adu.run ∧
    (takeHeld h s).adu.nextCall = s.adu.nextCall ∧
    (takeHeld h s).adu.greatest = s.adu.greatest ∧
    (takeHeld h s).adu.remap = s.adu.remap ∧
    (takeHeld h s).acu.attempts = s.acu.attempts ∧
    (takeHeld h s).pfu.power = s.pfu.power ∧
    (takeHeld h s).pfu.save = s.pfu.save := by
  unfold takeHeld
  (repeat' split) <;> simp

@[simp] theorem replayHeld_frame (s : State) :
    (replayHeld s).powered = s.powered ∧
    (replayHeld s).mem = s.mem ∧
    (replayHeld s).bpu = s.bpu ∧
    (replayHeld s).cfl = s.cfl ∧
    (replayHeld s).free = s.free ∧
    (replayHeld s).pending = s.pending ∧
    (replayHeld s).rqu.queue = s.rqu.queue ∧
    (replayHeld s).rqu.abandon = s.rqu.abandon ∧
    (replayHeld s).rqu.mask = s.rqu.mask ∧
    (replayHeld s).tru.valid = s.tru.valid ∧
    (replayHeld s).tru.unsettled = s.tru.unsettled ∧
    (replayHeld s).inu.rebuilt = s.inu.rebuilt ∧
    (replayHeld s).adu.run = s.adu.run ∧
    (replayHeld s).adu.nextCall = s.adu.nextCall ∧
    (replayHeld s).adu.greatest = s.adu.greatest ∧
    (replayHeld s).adu.remap = s.adu.remap ∧
    (replayHeld s).acu.attempts = s.acu.attempts ∧
    (replayHeld s).pfu.power = s.pfu.power ∧
    (replayHeld s).pfu.save = s.pfu.save := by
  unfold replayHeld
  simp

@[simp] theorem restartWriteBack_frame (s : State) :
    (restartWriteBack s).powered = s.powered ∧
    (restartWriteBack s).mem = s.mem ∧
    (restartWriteBack s).bpu = s.bpu ∧
    (restartWriteBack s).cfl = s.cfl ∧
    (restartWriteBack s).rqu = s.rqu ∧
    (restartWriteBack s).cnu = s.cnu ∧
    (restartWriteBack s).tru = s.tru ∧
    (restartWriteBack s).rtu = s.rtu ∧
    (restartWriteBack s).lnu = s.lnu ∧
    (restartWriteBack s).inu = s.inu ∧
    (restartWriteBack s).rpu = s.rpu ∧
    (restartWriteBack s).acu = s.acu ∧
    (restartWriteBack s).pfu = s.pfu ∧
    (restartWriteBack s).held = s.held ∧
    (restartWriteBack s).free = s.free ∧
    (restartWriteBack s).pending = s.pending ∧
    (restartWriteBack s).adu.cache = s.adu.cache ∧
    (restartWriteBack s).adu.nextCall = s.adu.nextCall ∧
    (restartWriteBack s).adu.greatest = s.adu.greatest ∧
    (restartWriteBack s).adu.remap = s.adu.remap := by
  unfold restartWriteBack
  (repeat' split) <;> simp

@[simp] theorem restartTone_frame (s : State) :
    (restartTone s).powered = s.powered ∧
    (restartTone s).mem = s.mem ∧
    (restartTone s).bpu = s.bpu ∧
    (restartTone s).cfl = s.cfl ∧
    (restartTone s).rqu = s.rqu ∧
    (restartTone s).cnu = s.cnu ∧
    (restartTone s).tru = s.tru ∧
    (restartTone s).rtu = s.rtu ∧
    (restartTone s).inu = s.inu ∧
    (restartTone s).rpu = s.rpu ∧
    (restartTone s).adu = s.adu ∧
    (restartTone s).acu = s.acu ∧
    (restartTone s).pfu = s.pfu ∧
    (restartTone s).held = s.held ∧
    (restartTone s).free = s.free ∧
    (restartTone s).pending = s.pending ∧
    (restartTone s).lnu.state = s.lnu.state ∧
    (restartTone s).lnu.offHook = s.lnu.offHook ∧
    (restartTone s).lnu.buffer = s.lnu.buffer ∧
    (restartTone s).lnu.timers = s.lnu.timers := by
  unfold restartTone
  (repeat' split) <;> simp

@[simp] theorem resume_frame (s : State) :
    (resume s).powered = s.powered ∧
    (resume s).mem = s.mem ∧
    (resume s).bpu = s.bpu ∧
    (resume s).cfl = s.cfl ∧
    (resume s).free = s.free ∧
    (resume s).pending = s.pending ∧
    (resume s).rqu.queue = s.rqu.queue ∧
    (resume s).rqu.abandon = s.rqu.abandon ∧
    (resume s).rqu.mask = s.rqu.mask ∧
    (resume s).tru.valid = s.tru.valid ∧
    (resume s).tru.unsettled = s.tru.unsettled ∧
    (resume s).inu.rebuilt = s.inu.rebuilt ∧
    (resume s).adu.nextCall = s.adu.nextCall ∧
    (resume s).adu.greatest = s.adu.greatest ∧
    (resume s).adu.remap = s.adu.remap ∧
    (resume s).acu.attempts = s.acu.attempts := by
  unfold resume
  simp

@[simp] theorem leaveSaved_frame (s : State) :
    (leaveSaved s).powered = s.powered ∧
    (leaveSaved s).mem = s.mem ∧
    (leaveSaved s).bpu = s.bpu ∧
    (leaveSaved s).cfl = s.cfl ∧
    (leaveSaved s).free = s.free ∧
    (leaveSaved s).pending = s.pending ∧
    (leaveSaved s).rqu.queue = s.rqu.queue ∧
    (leaveSaved s).rqu.abandon = s.rqu.abandon ∧
    (leaveSaved s).rqu.mask = s.rqu.mask ∧
    (leaveSaved s).tru.valid = s.tru.valid ∧
    (leaveSaved s).tru.unsettled = s.tru.unsettled ∧
    (leaveSaved s).inu.rebuilt = s.inu.rebuilt ∧
    (leaveSaved s).adu.nextCall = s.adu.nextCall ∧
    (leaveSaved s).adu.greatest = s.adu.greatest ∧
    (leaveSaved s).adu.remap = s.adu.remap ∧
    (leaveSaved s).acu.attempts = s.acu.attempts := by
  unfold leaveSaved
  (repeat' split) <;> simp

@[simp] theorem enterSaved_frame (s : State) :
    (enterSaved s).powered = s.powered ∧
    (enterSaved s).mem = s.mem ∧
    (enterSaved s).bpu = s.bpu ∧
    (enterSaved s).cfl = s.cfl ∧
    (enterSaved s).free = s.free ∧
    (enterSaved s).pending = s.pending ∧
    (enterSaved s).rqu.queue = s.rqu.queue ∧
    (enterSaved s).rqu.abandon = s.rqu.abandon ∧
    (enterSaved s).rqu.mask = s.rqu.mask ∧
    (enterSaved s).tru.valid = s.tru.valid ∧
    (enterSaved s).tru.unsettled = s.tru.unsettled ∧
    (enterSaved s).inu.rebuilt = s.inu.rebuilt ∧
    (enterSaved s).adu.nextCall = s.adu.nextCall ∧
    (enterSaved s).adu.greatest = s.adu.greatest ∧
    (enterSaved s).adu.remap = s.adu.remap ∧
    (enterSaved s).acu.attempts = s.acu.attempts := by
  unfold enterSaved
  dsimp only
  (repeat' split) <;> simp

@[simp] theorem enterSaving_frame (s : State) :
    (enterSaving s).powered = s.powered ∧
    (enterSaving s).cfl = s.cfl ∧
    (enterSaving s).pending = s.pending ∧
    (enterSaving s).bpu.table = s.bpu.table ∧
    (enterSaving s).rqu.abandon = s.rqu.abandon ∧
    (enterSaving s).tru.valid = s.tru.valid ∧
    (enterSaving s).inu.rebuilt = s.inu.rebuilt ∧
    (enterSaving s).adu.nextCall = s.adu.nextCall ∧
    (enterSaving s).adu.greatest = s.adu.greatest ∧
    (enterSaving s).adu.remap = s.adu.remap ∧
    (enterSaving s).acu.attempts = s.acu.attempts := by
  unfold enterSaving
  dsimp only
  (repeat' split) <;> simp

@[simp] theorem startLine_frame (s : State) :
    (startLine s).powered = s.powered ∧
    (startLine s).mem = s.mem ∧
    (startLine s).bpu = s.bpu ∧
    (startLine s).cfl = s.cfl ∧
    (startLine s).cnu = s.cnu ∧
    (startLine s).tru = s.tru ∧
    (startLine s).rtu = s.rtu ∧
    (startLine s).acu = s.acu ∧
    (startLine s).pfu = s.pfu ∧
    (startLine s).free = s.free ∧
    (startLine s).pending = s.pending ∧
    (startLine s).rqu.service = s.rqu.service ∧
    (startLine s).rqu.queue = s.rqu.queue ∧
    (startLine s).rqu.abandon = s.rqu.abandon ∧
    (startLine s).rqu.mask = s.rqu.mask ∧
    (startLine s).lnu.offHook = s.lnu.offHook ∧
    (startLine s).inu.rebuilt = s.inu.rebuilt ∧
    (startLine s).adu.cache = s.adu.cache ∧
    (startLine s).adu.run = s.adu.run ∧
    (startLine s).adu.nextCall = s.adu.nextCall ∧
    (startLine s).adu.greatest = s.adu.greatest ∧
    (startLine s).adu.remap = s.adu.remap := by
  unfold startLine
  (repeat' split) <;> simp

@[simp] theorem endStarting_frame (s : State) :
    (endStarting s).powered = s.powered ∧
    (endStarting s).mem = s.mem ∧
    (endStarting s).bpu = s.bpu ∧
    (endStarting s).free = s.free ∧
    (endStarting s).pending = s.pending ∧
    (endStarting s).cfl.params = s.cfl.params ∧
    (endStarting s).cfl.fault = s.cfl.fault ∧
    (endStarting s).rqu.queue = s.rqu.queue ∧
    (endStarting s).rqu.abandon = s.rqu.abandon ∧
    (endStarting s).rqu.mask = s.rqu.mask ∧
    (endStarting s).tru.valid = s.tru.valid ∧
    (endStarting s).tru.unsettled = s.tru.unsettled ∧
    (endStarting s).inu.rebuilt = s.inu.rebuilt ∧
    (endStarting s).adu.run = s.adu.run ∧
    (endStarting s).adu.nextCall = s.adu.nextCall ∧
    (endStarting s).adu.greatest = s.adu.greatest ∧
    (endStarting s).adu.remap = s.adu.remap ∧
    (endStarting s).acu.attempts = s.acu.attempts ∧
    (endStarting s).pfu.power = s.pfu.power ∧
    (endStarting s).pfu.save = s.pfu.save := by
  unfold endStarting
  simp

@[simp] theorem writeInvalid_frame (readBacks : List Word) (s : State) :
    (writeInvalid readBacks s).powered = s.powered ∧
    (writeInvalid readBacks s).bpu = s.bpu ∧
    (writeInvalid readBacks s).cfl = s.cfl ∧
    (writeInvalid readBacks s).cnu = s.cnu ∧
    (writeInvalid readBacks s).tru = s.tru ∧
    (writeInvalid readBacks s).rtu = s.rtu ∧
    (writeInvalid readBacks s).acu = s.acu ∧
    (writeInvalid readBacks s).pfu = s.pfu ∧
    (writeInvalid readBacks s).free = s.free ∧
    (writeInvalid readBacks s).pending = s.pending ∧
    (writeInvalid readBacks s).rqu.service = s.rqu.service ∧
    (writeInvalid readBacks s).rqu.queue = s.rqu.queue ∧
    (writeInvalid readBacks s).rqu.abandon = s.rqu.abandon ∧
    (writeInvalid readBacks s).rqu.mask = s.rqu.mask ∧
    (writeInvalid readBacks s).lnu.offHook = s.lnu.offHook ∧
    (writeInvalid readBacks s).inu.rebuilt = s.inu.rebuilt ∧
    (writeInvalid readBacks s).adu.run = s.adu.run ∧
    (writeInvalid readBacks s).adu.nextCall = s.adu.nextCall ∧
    (writeInvalid readBacks s).adu.greatest = s.adu.greatest ∧
    (writeInvalid readBacks s).adu.remap = s.adu.remap := by
  unfold writeInvalid
  dsimp only
  (repeat' split) <;> simp

@[simp] theorem afterInvalid_frame (u : Unsave) (s : State) :
    (afterInvalid u s).powered = s.powered ∧
    (afterInvalid u s).mem = s.mem ∧
    (afterInvalid u s).bpu = s.bpu ∧
    (afterInvalid u s).cfl = s.cfl ∧
    (afterInvalid u s).free = s.free ∧
    (afterInvalid u s).pending = s.pending ∧
    (afterInvalid u s).rqu.queue = s.rqu.queue ∧
    (afterInvalid u s).rqu.abandon = s.rqu.abandon ∧
    (afterInvalid u s).rqu.mask = s.rqu.mask ∧
    (afterInvalid u s).tru.valid = s.tru.valid ∧
    (afterInvalid u s).tru.unsettled = s.tru.unsettled ∧
    (afterInvalid u s).inu.rebuilt = s.inu.rebuilt ∧
    (afterInvalid u s).adu.nextCall = s.adu.nextCall ∧
    (afterInvalid u s).adu.greatest = s.adu.greatest ∧
    (afterInvalid u s).adu.remap = s.adu.remap ∧
    (afterInvalid u s).acu.attempts = s.acu.attempts := by
  unfold afterInvalid
  (repeat' split) <;> simp

@[simp] theorem writeAgain_frame (s : State) :
    (writeAgain s).powered = s.powered ∧
    (writeAgain s).bpu = s.bpu ∧
    (writeAgain s).cfl = s.cfl ∧
    (writeAgain s).free = s.free ∧
    (writeAgain s).pending = s.pending ∧
    (writeAgain s).rqu.queue = s.rqu.queue ∧
    (writeAgain s).rqu.abandon = s.rqu.abandon ∧
    (writeAgain s).rqu.mask = s.rqu.mask ∧
    (writeAgain s).tru.valid = s.tru.valid ∧
    (writeAgain s).tru.unsettled = s.tru.unsettled ∧
    (writeAgain s).inu.rebuilt = s.inu.rebuilt ∧
    (writeAgain s).adu.nextCall = s.adu.nextCall ∧
    (writeAgain s).adu.greatest = s.adu.greatest ∧
    (writeAgain s).adu.remap = s.adu.remap ∧
    (writeAgain s).acu.attempts = s.acu.attempts := by
  unfold writeAgain
  dsimp only
  (repeat' split) <;> simp

@[simp] theorem compareTariff_frame (s : State) :
    (compareTariff s).powered = s.powered ∧
    (compareTariff s).mem = s.mem ∧
    (compareTariff s).bpu = s.bpu ∧
    (compareTariff s).cfl = s.cfl ∧
    (compareTariff s).cnu = s.cnu ∧
    (compareTariff s).rtu = s.rtu ∧
    (compareTariff s).acu = s.acu ∧
    (compareTariff s).pfu = s.pfu ∧
    (compareTariff s).free = s.free ∧
    (compareTariff s).pending = s.pending ∧
    (compareTariff s).rqu.service = s.rqu.service ∧
    (compareTariff s).rqu.queue = s.rqu.queue ∧
    (compareTariff s).rqu.abandon = s.rqu.abandon ∧
    (compareTariff s).rqu.mask = s.rqu.mask ∧
    (compareTariff s).tru.clock = s.tru.clock ∧
    (compareTariff s).tru.unsettled = s.tru.unsettled ∧
    (compareTariff s).lnu.offHook = s.lnu.offHook ∧
    (compareTariff s).inu.rebuilt = s.inu.rebuilt ∧
    (compareTariff s).adu.cache = s.adu.cache ∧
    (compareTariff s).adu.run = s.adu.run ∧
    (compareTariff s).adu.nextCall = s.adu.nextCall ∧
    (compareTariff s).adu.greatest = s.adu.greatest ∧
    (compareTariff s).adu.remap = s.adu.remap := by
  unfold compareTariff
  dsimp only
  (repeat' split) <;> simp

@[simp] theorem settleDropping_frame (ws : List Word) (s : State) :
    (settleDropping ws s).powered = s.powered ∧
    (settleDropping ws s).mem = s.mem ∧
    (settleDropping ws s).bpu = s.bpu ∧
    (settleDropping ws s).cfl = s.cfl ∧
    (settleDropping ws s).rqu = s.rqu ∧
    (settleDropping ws s).cnu = s.cnu ∧
    (settleDropping ws s).tru = s.tru ∧
    (settleDropping ws s).rtu = s.rtu ∧
    (settleDropping ws s).lnu = s.lnu ∧
    (settleDropping ws s).inu = s.inu ∧
    (settleDropping ws s).rpu = s.rpu ∧
    (settleDropping ws s).acu = s.acu ∧
    (settleDropping ws s).pfu = s.pfu ∧
    (settleDropping ws s).held = s.held ∧
    (settleDropping ws s).free = s.free ∧
    (settleDropping ws s).pending = s.pending ∧
    (settleDropping ws s).adu.run = s.adu.run ∧
    (settleDropping ws s).adu.nextCall = s.adu.nextCall ∧
    (settleDropping ws s).adu.greatest = s.adu.greatest ∧
    (settleDropping ws s).adu.remap = s.adu.remap := by
  unfold settleDropping
  simp

@[simp] theorem restoreEscrow_frame (ws : List Word) (s : State) :
    (restoreEscrow ws s).powered = s.powered ∧
    (restoreEscrow ws s).mem = s.mem ∧
    (restoreEscrow ws s).bpu = s.bpu ∧
    (restoreEscrow ws s).cfl = s.cfl ∧
    (restoreEscrow ws s).rqu = s.rqu ∧
    (restoreEscrow ws s).tru = s.tru ∧
    (restoreEscrow ws s).rtu = s.rtu ∧
    (restoreEscrow ws s).lnu = s.lnu ∧
    (restoreEscrow ws s).inu = s.inu ∧
    (restoreEscrow ws s).rpu = s.rpu ∧
    (restoreEscrow ws s).adu = s.adu ∧
    (restoreEscrow ws s).acu = s.acu ∧
    (restoreEscrow ws s).pfu = s.pfu ∧
    (restoreEscrow ws s).held = s.held ∧
    (restoreEscrow ws s).free = s.free ∧
    (restoreEscrow ws s).pending = s.pending ∧
    (restoreEscrow ws s).cnu.chute = s.cnu.chute ∧
    (restoreEscrow ws s).cnu.clearance = s.cnu.clearance ∧
    (restoreEscrow ws s).cnu.openCall = s.cnu.openCall := by
  unfold restoreEscrow
  simp

@[simp] theorem advanceSaved_frame (o : Owner) (s : State) :
    (advanceSaved o s).powered = s.powered ∧
    (advanceSaved o s).mem = s.mem ∧
    (advanceSaved o s).bpu = s.bpu ∧
    (advanceSaved o s).cfl = s.cfl ∧
    (advanceSaved o s).cnu = s.cnu ∧
    (advanceSaved o s).tru = s.tru ∧
    (advanceSaved o s).rtu = s.rtu ∧
    (advanceSaved o s).acu = s.acu ∧
    (advanceSaved o s).pfu = s.pfu ∧
    (advanceSaved o s).free = s.free ∧
    (advanceSaved o s).pending = s.pending ∧
    (advanceSaved o s).rqu.service = s.rqu.service ∧
    (advanceSaved o s).rqu.queue = s.rqu.queue ∧
    (advanceSaved o s).rqu.abandon = s.rqu.abandon ∧
    (advanceSaved o s).rqu.mask = s.rqu.mask ∧
    (advanceSaved o s).lnu.offHook = s.lnu.offHook ∧
    (advanceSaved o s).inu.rebuilt = s.inu.rebuilt ∧
    (advanceSaved o s).adu.cache = s.adu.cache ∧
    (advanceSaved o s).adu.run = s.adu.run ∧
    (advanceSaved o s).adu.greatest = s.adu.greatest ∧
    (advanceSaved o s).adu.remap = s.adu.remap := by
  unfold advanceSaved
  (repeat' split) <;> simp

@[simp] theorem settleCall_frame (ws : List Word) (s : State) :
    (settleCall ws s).powered = s.powered ∧
    (settleCall ws s).mem = s.mem ∧
    (settleCall ws s).bpu = s.bpu ∧
    (settleCall ws s).cfl = s.cfl ∧
    (settleCall ws s).cnu = s.cnu ∧
    (settleCall ws s).tru = s.tru ∧
    (settleCall ws s).rtu = s.rtu ∧
    (settleCall ws s).acu = s.acu ∧
    (settleCall ws s).pfu = s.pfu ∧
    (settleCall ws s).free = s.free ∧
    (settleCall ws s).pending = s.pending ∧
    (settleCall ws s).rqu.service = s.rqu.service ∧
    (settleCall ws s).rqu.queue = s.rqu.queue ∧
    (settleCall ws s).rqu.abandon = s.rqu.abandon ∧
    (settleCall ws s).rqu.mask = s.rqu.mask ∧
    (settleCall ws s).lnu.offHook = s.lnu.offHook ∧
    (settleCall ws s).inu.rebuilt = s.inu.rebuilt ∧
    (settleCall ws s).adu.run = s.adu.run ∧
    (settleCall ws s).adu.greatest = s.adu.greatest ∧
    (settleCall ws s).adu.remap = s.adu.remap := by
  unfold settleCall
  (repeat' split) <;> simp

@[simp] theorem finishCall_frame (ws : List Word) (s : State) :
    (finishCall ws s).powered = s.powered ∧
    (finishCall ws s).mem = s.mem ∧
    (finishCall ws s).bpu = s.bpu ∧
    (finishCall ws s).cfl = s.cfl ∧
    (finishCall ws s).cnu = s.cnu ∧
    (finishCall ws s).tru = s.tru ∧
    (finishCall ws s).rtu = s.rtu ∧
    (finishCall ws s).acu = s.acu ∧
    (finishCall ws s).pfu = s.pfu ∧
    (finishCall ws s).free = s.free ∧
    (finishCall ws s).pending = s.pending ∧
    (finishCall ws s).rqu.service = s.rqu.service ∧
    (finishCall ws s).rqu.queue = s.rqu.queue ∧
    (finishCall ws s).rqu.abandon = s.rqu.abandon ∧
    (finishCall ws s).rqu.mask = s.rqu.mask ∧
    (finishCall ws s).lnu.offHook = s.lnu.offHook ∧
    (finishCall ws s).inu.rebuilt = s.inu.rebuilt ∧
    (finishCall ws s).adu.cache = s.adu.cache ∧
    (finishCall ws s).adu.run = s.adu.run ∧
    (finishCall ws s).adu.greatest = s.adu.greatest ∧
    (finishCall ws s).adu.remap = s.adu.remap := by
  unfold finishCall
  dsimp only
  (repeat' split) <;> simp

@[simp] theorem settlePath_frame (ws : List Word) (s : State) :
    (settlePath ws s).powered = s.powered ∧
    (settlePath ws s).mem = s.mem ∧
    (settlePath ws s).bpu = s.bpu ∧
    (settlePath ws s).cfl = s.cfl ∧
    (settlePath ws s).tru = s.tru ∧
    (settlePath ws s).rtu = s.rtu ∧
    (settlePath ws s).acu = s.acu ∧
    (settlePath ws s).free = s.free ∧
    (settlePath ws s).pending = s.pending ∧
    (settlePath ws s).rqu.service = s.rqu.service ∧
    (settlePath ws s).rqu.queue = s.rqu.queue ∧
    (settlePath ws s).rqu.abandon = s.rqu.abandon ∧
    (settlePath ws s).rqu.mask = s.rqu.mask ∧
    (settlePath ws s).cnu.chute = s.cnu.chute ∧
    (settlePath ws s).cnu.clearance = s.cnu.clearance ∧
    (settlePath ws s).cnu.openCall = s.cnu.openCall ∧
    (settlePath ws s).lnu.offHook = s.lnu.offHook ∧
    (settlePath ws s).inu.rebuilt = s.inu.rebuilt ∧
    (settlePath ws s).adu.run = s.adu.run ∧
    (settlePath ws s).adu.greatest = s.adu.greatest ∧
    (settlePath ws s).adu.remap = s.adu.remap ∧
    (settlePath ws s).pfu.power = s.pfu.power ∧
    (settlePath ws s).pfu.save = s.pfu.save := by
  unfold settlePath
  simp

@[simp] theorem finishPath_frame (ws : List Word) (s : State) :
    (finishPath ws s).powered = s.powered ∧
    (finishPath ws s).mem = s.mem ∧
    (finishPath ws s).bpu = s.bpu ∧
    (finishPath ws s).cfl = s.cfl ∧
    (finishPath ws s).tru = s.tru ∧
    (finishPath ws s).rtu = s.rtu ∧
    (finishPath ws s).acu = s.acu ∧
    (finishPath ws s).free = s.free ∧
    (finishPath ws s).pending = s.pending ∧
    (finishPath ws s).rqu.service = s.rqu.service ∧
    (finishPath ws s).rqu.queue = s.rqu.queue ∧
    (finishPath ws s).rqu.abandon = s.rqu.abandon ∧
    (finishPath ws s).rqu.mask = s.rqu.mask ∧
    (finishPath ws s).cnu.chute = s.cnu.chute ∧
    (finishPath ws s).cnu.clearance = s.cnu.clearance ∧
    (finishPath ws s).cnu.openCall = s.cnu.openCall ∧
    (finishPath ws s).lnu.offHook = s.lnu.offHook ∧
    (finishPath ws s).inu.rebuilt = s.inu.rebuilt ∧
    (finishPath ws s).adu.cache = s.adu.cache ∧
    (finishPath ws s).adu.run = s.adu.run ∧
    (finishPath ws s).adu.greatest = s.adu.greatest ∧
    (finishPath ws s).adu.remap = s.adu.remap ∧
    (finishPath ws s).pfu.power = s.pfu.power ∧
    (finishPath ws s).pfu.save = s.pfu.save := by
  unfold finishPath
  simp

@[simp] theorem judgeContext_frame (s : State) :
    (judgeContext s).powered = s.powered ∧
    (judgeContext s).mem = s.mem ∧
    (judgeContext s).bpu = s.bpu ∧
    (judgeContext s).free = s.free ∧
    (judgeContext s).pending = s.pending ∧
    (judgeContext s).cfl.params = s.cfl.params ∧
    (judgeContext s).cfl.fault = s.cfl.fault ∧
    (judgeContext s).rqu.queue = s.rqu.queue ∧
    (judgeContext s).rqu.abandon = s.rqu.abandon ∧
    (judgeContext s).rqu.mask = s.rqu.mask ∧
    (judgeContext s).tru.valid = s.tru.valid ∧
    (judgeContext s).tru.unsettled = s.tru.unsettled ∧
    (judgeContext s).inu.rebuilt = s.inu.rebuilt ∧
    (judgeContext s).adu.run = s.adu.run ∧
    (judgeContext s).adu.greatest = s.adu.greatest ∧
    (judgeContext s).adu.remap = s.adu.remap ∧
    (judgeContext s).acu.attempts = s.acu.attempts ∧
    (judgeContext s).pfu.power = s.pfu.power ∧
    (judgeContext s).pfu.save = s.pfu.save := by
  unfold judgeContext
  dsimp only
  (repeat' split) <;> simp

@[simp] theorem step5WriteBack_frame (s : State) :
    (step5WriteBack s).powered = s.powered ∧
    (step5WriteBack s).mem = s.mem ∧
    (step5WriteBack s).bpu = s.bpu ∧
    (step5WriteBack s).free = s.free ∧
    (step5WriteBack s).pending = s.pending ∧
    (step5WriteBack s).cfl.params = s.cfl.params ∧
    (step5WriteBack s).cfl.fault = s.cfl.fault ∧
    (step5WriteBack s).rqu.queue = s.rqu.queue ∧
    (step5WriteBack s).rqu.abandon = s.rqu.abandon ∧
    (step5WriteBack s).rqu.mask = s.rqu.mask ∧
    (step5WriteBack s).tru.valid = s.tru.valid ∧
    (step5WriteBack s).tru.unsettled = s.tru.unsettled ∧
    (step5WriteBack s).inu.rebuilt = s.inu.rebuilt ∧
    (step5WriteBack s).adu.run = s.adu.run ∧
    (step5WriteBack s).adu.nextCall = s.adu.nextCall ∧
    (step5WriteBack s).adu.greatest = s.adu.greatest ∧
    (step5WriteBack s).adu.remap = s.adu.remap ∧
    (step5WriteBack s).acu.attempts = s.acu.attempts ∧
    (step5WriteBack s).pfu.power = s.pfu.power ∧
    (step5WriteBack s).pfu.save = s.pfu.save := by
  unfold step5WriteBack
  (repeat' split) <;> simp

/-! ### Machine/Request -/

@[simp] theorem slotCleared_frame (i : Nat) (s : State) :
    (slotCleared i s).powered = s.powered ∧
    (slotCleared i s).mem = s.mem ∧
    (slotCleared i s).cfl = s.cfl ∧
    (slotCleared i s).cnu = s.cnu ∧
    (slotCleared i s).tru = s.tru ∧
    (slotCleared i s).rtu = s.rtu ∧
    (slotCleared i s).lnu = s.lnu ∧
    (slotCleared i s).inu = s.inu ∧
    (slotCleared i s).rpu = s.rpu ∧
    (slotCleared i s).adu = s.adu ∧
    (slotCleared i s).acu = s.acu ∧
    (slotCleared i s).pfu = s.pfu ∧
    (slotCleared i s).held = s.held ∧
    (slotCleared i s).free = s.free ∧
    (slotCleared i s).pending = s.pending ∧
    (slotCleared i s).bpu.table = s.bpu.table ∧
    (slotCleared i s).bpu.cycle = s.bpu.cycle ∧
    (slotCleared i s).bpu.intercepts = s.bpu.intercepts ∧
    (slotCleared i s).rqu.abandon = s.rqu.abandon ∧
    (slotCleared i s).rqu.mask = s.rqu.mask := by
  unfold slotCleared
  simp

@[simp] theorem endService_frame (s : State) :
    (endService s).powered = s.powered ∧
    (endService s).mem = s.mem ∧
    (endService s).cfl = s.cfl ∧
    (endService s).cnu = s.cnu ∧
    (endService s).tru = s.tru ∧
    (endService s).rtu = s.rtu ∧
    (endService s).lnu = s.lnu ∧
    (endService s).inu = s.inu ∧
    (endService s).rpu = s.rpu ∧
    (endService s).adu = s.adu ∧
    (endService s).acu = s.acu ∧
    (endService s).pfu = s.pfu ∧
    (endService s).held = s.held ∧
    (endService s).free = s.free ∧
    (endService s).pending = s.pending ∧
    (endService s).bpu.table = s.bpu.table ∧
    (endService s).bpu.cycle = s.bpu.cycle ∧
    (endService s).bpu.intercepts = s.bpu.intercepts ∧
    (endService s).rqu.abandon = s.rqu.abandon ∧
    (endService s).rqu.mask = s.rqu.mask := by
  unfold endService
  (repeat' split) <;> simp

@[simp] theorem endAbandon_frame (s : State) :
    (endAbandon s).powered = s.powered ∧
    (endAbandon s).mem = s.mem ∧
    (endAbandon s).cfl = s.cfl ∧
    (endAbandon s).cnu = s.cnu ∧
    (endAbandon s).tru = s.tru ∧
    (endAbandon s).rtu = s.rtu ∧
    (endAbandon s).lnu = s.lnu ∧
    (endAbandon s).inu = s.inu ∧
    (endAbandon s).rpu = s.rpu ∧
    (endAbandon s).adu = s.adu ∧
    (endAbandon s).acu = s.acu ∧
    (endAbandon s).pfu = s.pfu ∧
    (endAbandon s).held = s.held ∧
    (endAbandon s).free = s.free ∧
    (endAbandon s).pending = s.pending ∧
    (endAbandon s).bpu.table = s.bpu.table ∧
    (endAbandon s).bpu.cycle = s.bpu.cycle ∧
    (endAbandon s).bpu.intercepts = s.bpu.intercepts ∧
    (endAbandon s).rqu.mask = s.rqu.mask := by
  unfold endAbandon
  (repeat' split) <;> simp

@[simp] theorem countService_frame (n : Nat) (s : State) :
    (countService n s).powered = s.powered ∧
    (countService n s).mem = s.mem ∧
    (countService n s).bpu = s.bpu ∧
    (countService n s).cfl = s.cfl ∧
    (countService n s).cnu = s.cnu ∧
    (countService n s).tru = s.tru ∧
    (countService n s).rtu = s.rtu ∧
    (countService n s).lnu = s.lnu ∧
    (countService n s).inu = s.inu ∧
    (countService n s).rpu = s.rpu ∧
    (countService n s).adu = s.adu ∧
    (countService n s).acu = s.acu ∧
    (countService n s).pfu = s.pfu ∧
    (countService n s).held = s.held ∧
    (countService n s).free = s.free ∧
    (countService n s).pending = s.pending ∧
    (countService n s).rqu.queue = s.rqu.queue ∧
    (countService n s).rqu.abandon = s.rqu.abandon ∧
    (countService n s).rqu.mask = s.rqu.mask := by
  unfold countService
  simp

@[simp] theorem writeCompletion_frame (s : State) :
    (writeCompletion s).powered = s.powered ∧
    (writeCompletion s).cfl = s.cfl ∧
    (writeCompletion s).cnu = s.cnu ∧
    (writeCompletion s).tru = s.tru ∧
    (writeCompletion s).rtu = s.rtu ∧
    (writeCompletion s).lnu = s.lnu ∧
    (writeCompletion s).inu = s.inu ∧
    (writeCompletion s).rpu = s.rpu ∧
    (writeCompletion s).adu = s.adu ∧
    (writeCompletion s).acu = s.acu ∧
    (writeCompletion s).pfu = s.pfu ∧
    (writeCompletion s).held = s.held ∧
    (writeCompletion s).free = s.free ∧
    (writeCompletion s).pending = s.pending ∧
    (writeCompletion s).bpu.table = s.bpu.table ∧
    (writeCompletion s).bpu.cycle = s.bpu.cycle ∧
    (writeCompletion s).bpu.intercepts = s.bpu.intercepts ∧
    (writeCompletion s).rqu.abandon = s.rqu.abandon ∧
    (writeCompletion s).rqu.mask = s.rqu.mask := by
  unfold writeCompletion
  (repeat' split) <;> simp

@[simp] theorem writeAbandon_frame (s : State) :
    (writeAbandon s).powered = s.powered ∧
    (writeAbandon s).cfl = s.cfl ∧
    (writeAbandon s).cnu = s.cnu ∧
    (writeAbandon s).tru = s.tru ∧
    (writeAbandon s).rtu = s.rtu ∧
    (writeAbandon s).lnu = s.lnu ∧
    (writeAbandon s).inu = s.inu ∧
    (writeAbandon s).rpu = s.rpu ∧
    (writeAbandon s).adu = s.adu ∧
    (writeAbandon s).acu = s.acu ∧
    (writeAbandon s).pfu = s.pfu ∧
    (writeAbandon s).held = s.held ∧
    (writeAbandon s).free = s.free ∧
    (writeAbandon s).pending = s.pending ∧
    (writeAbandon s).bpu.table = s.bpu.table ∧
    (writeAbandon s).bpu.cycle = s.bpu.cycle ∧
    (writeAbandon s).bpu.intercepts = s.bpu.intercepts ∧
    (writeAbandon s).rqu.mask = s.rqu.mask := by
  unfold writeAbandon
  (repeat' split) <;> simp

/-! ### Machine/Port -/

@[simp] theorem freshAnalysis_frame (s : State) :
    (freshAnalysis s).powered = s.powered ∧
    (freshAnalysis s).mem = s.mem ∧
    (freshAnalysis s).bpu = s.bpu ∧
    (freshAnalysis s).cfl = s.cfl ∧
    (freshAnalysis s).cnu = s.cnu ∧
    (freshAnalysis s).rtu = s.rtu ∧
    (freshAnalysis s).lnu = s.lnu ∧
    (freshAnalysis s).inu = s.inu ∧
    (freshAnalysis s).rpu = s.rpu ∧
    (freshAnalysis s).adu = s.adu ∧
    (freshAnalysis s).acu = s.acu ∧
    (freshAnalysis s).pfu = s.pfu ∧
    (freshAnalysis s).held = s.held ∧
    (freshAnalysis s).free = s.free ∧
    (freshAnalysis s).pending = s.pending ∧
    (freshAnalysis s).rqu = s.rqu ∧
    (freshAnalysis s).tru.clock = s.tru.clock ∧
    (freshAnalysis s).tru.valid = s.tru.valid ∧
    (freshAnalysis s).tru.unsettled = s.tru.unsettled := by
  unfold freshAnalysis
  simp

@[simp] theorem readSlotWord_frame (s : State) :
    (readSlotWord s).powered = s.powered ∧
    (readSlotWord s).mem = s.mem ∧
    (readSlotWord s).bpu = s.bpu ∧
    (readSlotWord s).cfl = s.cfl ∧
    (readSlotWord s).cnu = s.cnu ∧
    (readSlotWord s).rtu = s.rtu ∧
    (readSlotWord s).lnu = s.lnu ∧
    (readSlotWord s).inu = s.inu ∧
    (readSlotWord s).rpu = s.rpu ∧
    (readSlotWord s).adu = s.adu ∧
    (readSlotWord s).acu = s.acu ∧
    (readSlotWord s).pfu = s.pfu ∧
    (readSlotWord s).held = s.held ∧
    (readSlotWord s).free = s.free ∧
    (readSlotWord s).pending = s.pending ∧
    (readSlotWord s).rqu.abandon = s.rqu.abandon ∧
    (readSlotWord s).rqu.mask = s.rqu.mask ∧
    (readSlotWord s).tru.clock = s.tru.clock ∧
    (readSlotWord s).tru.valid = s.tru.valid ∧
    (readSlotWord s).tru.unsettled = s.tru.unsettled := by
  unfold readSlotWord
  (repeat' split) <;> simp

@[simp] theorem readAnalysisWord_frame (s : State) :
    (readAnalysisWord s).powered = s.powered ∧
    (readAnalysisWord s).mem = s.mem ∧
    (readAnalysisWord s).bpu = s.bpu ∧
    (readAnalysisWord s).cfl = s.cfl ∧
    (readAnalysisWord s).cnu = s.cnu ∧
    (readAnalysisWord s).rtu = s.rtu ∧
    (readAnalysisWord s).lnu = s.lnu ∧
    (readAnalysisWord s).inu = s.inu ∧
    (readAnalysisWord s).rpu = s.rpu ∧
    (readAnalysisWord s).adu = s.adu ∧
    (readAnalysisWord s).acu = s.acu ∧
    (readAnalysisWord s).pfu = s.pfu ∧
    (readAnalysisWord s).held = s.held ∧
    (readAnalysisWord s).free = s.free ∧
    (readAnalysisWord s).pending = s.pending ∧
    (readAnalysisWord s).rqu = s.rqu ∧
    (readAnalysisWord s).tru.clock = s.tru.clock ∧
    (readAnalysisWord s).tru.valid = s.tru.valid ∧
    (readAnalysisWord s).tru.unsettled = s.tru.unsettled := by
  unfold readAnalysisWord
  dsimp only
  simp

@[simp] theorem grantController_frame (s : State) :
    (grantController s).powered = s.powered ∧
    (grantController s).cfl = s.cfl ∧
    (grantController s).cnu = s.cnu ∧
    (grantController s).rtu = s.rtu ∧
    (grantController s).lnu = s.lnu ∧
    (grantController s).inu = s.inu ∧
    (grantController s).rpu = s.rpu ∧
    (grantController s).adu = s.adu ∧
    (grantController s).pfu = s.pfu ∧
    (grantController s).pending = s.pending ∧
    (grantController s).bpu.table = s.bpu.table ∧
    (grantController s).bpu.intercepts = s.bpu.intercepts ∧
    (grantController s).rqu.abandon = s.rqu.abandon ∧
    (grantController s).rqu.mask = s.rqu.mask ∧
    (grantController s).tru.clock = s.tru.clock ∧
    (grantController s).tru.valid = s.tru.valid ∧
    (grantController s).acu.mode = s.acu.mode ∧
    (grantController s).acu.attempts = s.acu.attempts := by
  unfold grantController
  (repeat' split) <;> simp

@[simp] theorem setInvalidStage_frame (stage : WordStage) (s : State) :
    (setInvalidStage stage s).powered = s.powered ∧
    (setInvalidStage stage s).mem = s.mem ∧
    (setInvalidStage stage s).bpu = s.bpu ∧
    (setInvalidStage stage s).cfl = s.cfl ∧
    (setInvalidStage stage s).rqu = s.rqu ∧
    (setInvalidStage stage s).cnu = s.cnu ∧
    (setInvalidStage stage s).tru = s.tru ∧
    (setInvalidStage stage s).rtu = s.rtu ∧
    (setInvalidStage stage s).lnu = s.lnu ∧
    (setInvalidStage stage s).inu = s.inu ∧
    (setInvalidStage stage s).rpu = s.rpu ∧
    (setInvalidStage stage s).adu = s.adu ∧
    (setInvalidStage stage s).acu = s.acu ∧
    (setInvalidStage stage s).held = s.held ∧
    (setInvalidStage stage s).free = s.free ∧
    (setInvalidStage stage s).pending = s.pending ∧
    (setInvalidStage stage s).pfu.power = s.pfu.power ∧
    (setInvalidStage stage s).pfu.save = s.pfu.save := by
  unfold setInvalidStage
  split <;> simp

@[simp] theorem grantPfu_frame (s : State) :
    (grantPfu s).powered = s.powered ∧
    (grantPfu s).bpu = s.bpu ∧
    (grantPfu s).cfl = s.cfl ∧
    (grantPfu s).free = s.free ∧
    (grantPfu s).pending = s.pending ∧
    (grantPfu s).rqu.queue = s.rqu.queue ∧
    (grantPfu s).rqu.abandon = s.rqu.abandon ∧
    (grantPfu s).rqu.mask = s.rqu.mask ∧
    (grantPfu s).tru.valid = s.tru.valid ∧
    (grantPfu s).tru.unsettled = s.tru.unsettled ∧
    (grantPfu s).inu.rebuilt = s.inu.rebuilt ∧
    (grantPfu s).adu.nextCall = s.adu.nextCall ∧
    (grantPfu s).adu.greatest = s.adu.greatest ∧
    (grantPfu s).adu.remap = s.adu.remap ∧
    (grantPfu s).acu.attempts = s.acu.attempts := by
  unfold grantPfu
  (repeat' split) <;> simp

@[simp] theorem writerWord_frame (s : State) :
    (writerWord s).powered = s.powered ∧
    (writerWord s).bpu = s.bpu ∧
    (writerWord s).cfl = s.cfl ∧
    (writerWord s).rqu = s.rqu ∧
    (writerWord s).cnu = s.cnu ∧
    (writerWord s).tru = s.tru ∧
    (writerWord s).rtu = s.rtu ∧
    (writerWord s).lnu = s.lnu ∧
    (writerWord s).inu = s.inu ∧
    (writerWord s).rpu = s.rpu ∧
    (writerWord s).acu = s.acu ∧
    (writerWord s).pfu = s.pfu ∧
    (writerWord s).held = s.held ∧
    (writerWord s).free = s.free ∧
    (writerWord s).pending = s.pending ∧
    (writerWord s).adu.cache = s.adu.cache ∧
    (writerWord s).adu.nextCall = s.adu.nextCall ∧
    (writerWord s).adu.greatest = s.adu.greatest ∧
    (writerWord s).adu.remap = s.adu.remap := by
  unfold writerWord
  (repeat' split) <;> simp

@[simp] theorem loadWord_frame (s : State) :
    (loadWord s).powered = s.powered ∧
    (loadWord s).bpu = s.bpu ∧
    (loadWord s).cfl = s.cfl ∧
    (loadWord s).rqu = s.rqu ∧
    (loadWord s).cnu = s.cnu ∧
    (loadWord s).tru = s.tru ∧
    (loadWord s).rtu = s.rtu ∧
    (loadWord s).lnu = s.lnu ∧
    (loadWord s).inu = s.inu ∧
    (loadWord s).rpu = s.rpu ∧
    (loadWord s).acu = s.acu ∧
    (loadWord s).pfu = s.pfu ∧
    (loadWord s).held = s.held ∧
    (loadWord s).free = s.free ∧
    (loadWord s).pending = s.pending ∧
    (loadWord s).mem = s.mem ∧
    (loadWord s).adu.run = s.adu.run ∧
    (loadWord s).adu.jobs = s.adu.jobs ∧
    (loadWord s).adu.cache = s.adu.cache ∧
    (loadWord s).adu.nextCall = s.adu.nextCall ∧
    (loadWord s).adu.greatest = s.adu.greatest ∧
    (loadWord s).adu.remap = s.adu.remap := by
  unfold loadWord
  dsimp only
  (repeat' split) <;> simp

@[simp] theorem grantAdu_frame (s : State) :
    (grantAdu s).powered = s.powered ∧
    (grantAdu s).bpu = s.bpu ∧
    (grantAdu s).cfl = s.cfl ∧
    (grantAdu s).rqu = s.rqu ∧
    (grantAdu s).cnu = s.cnu ∧
    (grantAdu s).tru = s.tru ∧
    (grantAdu s).rtu = s.rtu ∧
    (grantAdu s).lnu = s.lnu ∧
    (grantAdu s).inu = s.inu ∧
    (grantAdu s).rpu = s.rpu ∧
    (grantAdu s).acu = s.acu ∧
    (grantAdu s).pfu = s.pfu ∧
    (grantAdu s).held = s.held ∧
    (grantAdu s).free = s.free ∧
    (grantAdu s).pending = s.pending ∧
    (grantAdu s).adu.cache = s.adu.cache ∧
    (grantAdu s).adu.nextCall = s.adu.nextCall ∧
    (grantAdu s).adu.greatest = s.adu.greatest ∧
    (grantAdu s).adu.remap = s.adu.remap := by
  unfold grantAdu
  (repeat' split) <;> simp

@[simp] theorem grantTru_frame (s : State) :
    (grantTru s).powered = s.powered ∧
    (grantTru s).mem = s.mem ∧
    (grantTru s).bpu = s.bpu ∧
    (grantTru s).cfl = s.cfl ∧
    (grantTru s).rqu = s.rqu ∧
    (grantTru s).cnu = s.cnu ∧
    (grantTru s).rtu = s.rtu ∧
    (grantTru s).lnu = s.lnu ∧
    (grantTru s).inu = s.inu ∧
    (grantTru s).rpu = s.rpu ∧
    (grantTru s).adu = s.adu ∧
    (grantTru s).acu = s.acu ∧
    (grantTru s).pfu = s.pfu ∧
    (grantTru s).held = s.held ∧
    (grantTru s).free = s.free ∧
    (grantTru s).pending = s.pending ∧
    (grantTru s).tru.clock = s.tru.clock ∧
    (grantTru s).tru.valid = s.tru.valid ∧
    (grantTru s).tru.unsettled = s.tru.unsettled := by
  unfold grantTru
  dsimp only
  (repeat' split) <;> simp

@[simp] theorem serveWord_frame (s : State) :
    (serveWord s).powered = s.powered ∧
    (serveWord s).cfl = s.cfl ∧
    (serveWord s).cnu = s.cnu ∧
    (serveWord s).tru.clock = s.tru.clock ∧
    (serveWord s).tru.valid = s.tru.valid ∧
    (serveWord s).tru.unsettled = s.tru.unsettled ∧
    (serveWord s).rtu = s.rtu ∧
    (serveWord s).lnu = s.lnu ∧
    (serveWord s).inu = s.inu ∧
    (serveWord s).rpu = s.rpu ∧
    (serveWord s).adu = s.adu ∧
    (serveWord s).acu = s.acu ∧
    (serveWord s).pfu = s.pfu ∧
    (serveWord s).held = s.held ∧
    (serveWord s).free = s.free ∧
    (serveWord s).pending = s.pending ∧
    (serveWord s).bpu.table = s.bpu.table ∧
    (serveWord s).bpu.cycle = s.bpu.cycle ∧
    (serveWord s).bpu.intercepts = s.bpu.intercepts ∧
    (serveWord s).rqu.abandon = s.rqu.abandon ∧
    (serveWord s).rqu.mask = s.rqu.mask := by
  unfold serveWord
  (repeat' split) <;> simp

@[simp] theorem grantRqu_frame (s : State) :
    (grantRqu s).powered = s.powered ∧
    (grantRqu s).cfl = s.cfl ∧
    (grantRqu s).cnu = s.cnu ∧
    (grantRqu s).tru.clock = s.tru.clock ∧
    (grantRqu s).tru.valid = s.tru.valid ∧
    (grantRqu s).tru.unsettled = s.tru.unsettled ∧
    (grantRqu s).rtu = s.rtu ∧
    (grantRqu s).lnu = s.lnu ∧
    (grantRqu s).inu = s.inu ∧
    (grantRqu s).rpu = s.rpu ∧
    (grantRqu s).adu = s.adu ∧
    (grantRqu s).acu = s.acu ∧
    (grantRqu s).pfu = s.pfu ∧
    (grantRqu s).held = s.held ∧
    (grantRqu s).pending = s.pending ∧
    (grantRqu s).bpu.table = s.bpu.table ∧
    (grantRqu s).bpu.cycle = s.bpu.cycle ∧
    (grantRqu s).bpu.intercepts = s.bpu.intercepts ∧
    (grantRqu s).rqu.mask = s.rqu.mask := by
  unfold grantRqu
  (repeat' split) <;> simp

@[simp] theorem grantCfl_frame (s : State) :
    (grantCfl s).powered = s.powered ∧
    (grantCfl s).bpu = s.bpu ∧
    (grantCfl s).rqu = s.rqu ∧
    (grantCfl s).cnu = s.cnu ∧
    (grantCfl s).tru = s.tru ∧
    (grantCfl s).rtu = s.rtu ∧
    (grantCfl s).lnu = s.lnu ∧
    (grantCfl s).inu = s.inu ∧
    (grantCfl s).rpu = s.rpu ∧
    (grantCfl s).adu = s.adu ∧
    (grantCfl s).acu = s.acu ∧
    (grantCfl s).pfu = s.pfu ∧
    (grantCfl s).held = s.held ∧
    (grantCfl s).free = s.free ∧
    (grantCfl s).pending = s.pending ∧
    (grantCfl s).cfl.step = s.cfl.step ∧
    (grantCfl s).cfl.params = s.cfl.params ∧
    (grantCfl s).cfl.fault = s.cfl.fault := by
  unfold grantCfl
  dsimp only
  (repeat' split) <;> simp

@[simp] theorem grant_frame (p : Party) (s : State) :
    (grant p s).powered = s.powered ∧
    (grant p s).pending = s.pending ∧
    (grant p s).bpu.table = s.bpu.table ∧
    (grant p s).bpu.intercepts = s.bpu.intercepts ∧
    (grant p s).cfl.step = s.cfl.step ∧
    (grant p s).cfl.params = s.cfl.params ∧
    (grant p s).cfl.fault = s.cfl.fault ∧
    (grant p s).rqu.mask = s.rqu.mask ∧
    (grant p s).tru.valid = s.tru.valid ∧
    (grant p s).inu.rebuilt = s.inu.rebuilt ∧
    (grant p s).adu.nextCall = s.adu.nextCall ∧
    (grant p s).adu.greatest = s.adu.greatest ∧
    (grant p s).adu.remap = s.adu.remap ∧
    (grant p s).acu.attempts = s.acu.attempts := by
  unfold grant
  (repeat' split) <;> simp

/-! ### Machine/Step -/

@[simp] theorem idle_frame (s : State) :
    (idle s).powered = s.powered ∧
    (idle s).mem = s.mem ∧
    (idle s).bpu = s.bpu ∧
    (idle s).cfl = s.cfl ∧
    (idle s).rqu = s.rqu ∧
    (idle s).adu = s.adu ∧
    (idle s).pfu = s.pfu ∧
    (idle s).held = s.held ∧
    (idle s).free = s.free ∧
    (idle s).pending = s.pending ∧
    (idle s).cnu.escrow = s.cnu.escrow ∧
    (idle s).cnu.chute = s.cnu.chute ∧
    (idle s).cnu.clearance = s.cnu.clearance ∧
    (idle s).cnu.openCall = s.cnu.openCall ∧
    (idle s).tru.clock = s.tru.clock ∧
    (idle s).tru.valid = s.tru.valid ∧
    (idle s).tru.unsettled = s.tru.unsettled ∧
    (idle s).rtu.ctx = s.rtu.ctx ∧
    (idle s).rtu.waiting = s.rtu.waiting ∧
    (idle s).rtu.carry = s.rtu.carry ∧
    (idle s).lnu.state = s.lnu.state ∧
    (idle s).lnu.offHook = s.lnu.offHook ∧
    (idle s).lnu.buffer = s.lnu.buffer ∧
    (idle s).lnu.timers = s.lnu.timers ∧
    (idle s).inu.rebuilt = s.inu.rebuilt ∧
    (idle s).inu.latches = s.inu.latches ∧
    (idle s).inu.records = s.inu.records ∧
    (idle s).rpu.call = s.rpu.call ∧
    (idle s).rpu.timeRequest = s.rpu.timeRequest ∧
    (idle s).acu.mode = s.acu.mode ∧
    (idle s).acu.attempts = s.acu.attempts := by
  unfold idle
  (repeat' split) <;> simp

end Sys2Proof.Machine
end

