-- ==== Sys2Proof/Laws/Memory.lean ====
section
/-! SUPPORT. Laws of memory: every memory operation keeps the canonical form, and what reads after
writes give. -/

namespace Sys2Proof.Machine

theorem Memory.wf_cons (k : Nat) (v : Byte) (m : Memory) :
    Memory.wf ((k, v) :: m) = true ↔
      (memKind k).isSome = true ∧ v ≠ Memory.blank k ∧ (∀ c ∈ m.head?, k < c.1) ∧
        Memory.wf m = true := by
  cases m <;> simp [Memory.wf, and_assoc]

theorem Memory.wf_tail {c : Host.Cell} {m : Memory} (h : Memory.wf (c :: m) = true) :
    Memory.wf m = true := ((Memory.wf_cons c.1 c.2 m).1 h).2.2.2

/-- Below the first listed address every byte is unlisted. -/
theorem Memory.get_of_lt_head {m : Memory} {a : Nat} (h : ∀ c ∈ m.head?, a < c.1) :
    m.get a = Memory.blank a := by
  cases m with
  | nil => rfl
  | cons c m => simp [Memory.get, h c (by simp)]

/-- The first address after a write is the written one or the old first one. -/
theorem Memory.head_set (m : Memory) (a : Nat) (v : Byte) (k : Nat) (hk : k < a)
    (h : Memory.wf m = true) (hm : ∀ c ∈ m.head?, k < c.1) :
    ∀ c ∈ (m.set a v).head?, k < c.1 := by
  cases m with
  | nil => unfold Memory.set; split <;> simp [hk]
  | cons c m =>
    obtain ⟨b, w⟩ := c
    have hb : k < b := by simpa using hm
    unfold Memory.set
    split
    · split <;> simp [hk, hb]
    · split
      · split
        · intro c hc
          have := ((Memory.wf_cons b w m).1 h).2.2.1 c hc
          omega
        · simp [hk]
      · simp [hb]

theorem Memory.set_wf {m : Memory} {a : Nat} {v : Byte} (h : m.wf = true)
    (ha : (memKind a).isSome = true) : (m.set a v).wf = true := by
  induction m with
  | nil => unfold Memory.set; split <;> simp_all [Memory.wf]
  | cons c m ih =>
    obtain ⟨b, w⟩ := c
    have hc := (Memory.wf_cons b w m).1 h
    unfold Memory.set
    split
    · split
      · exact h
      · exact (Memory.wf_cons _ _ _).2 ⟨ha, by assumption, by simpa, h⟩
    · split
      · split
        · exact hc.2.2.2
        · rename_i e _
          subst e
          exact (Memory.wf_cons _ _ _).2 ⟨ha, by assumption, hc.2.2.1, hc.2.2.2⟩
      · exact (Memory.wf_cons _ _ _).2
          ⟨hc.1, hc.2.1, Memory.head_set m a v b (by omega) hc.2.2.2 hc.2.2.1, ih hc.2.2.2⟩

/-- What each byte reads after a write of one. -/
theorem Memory.get_set {m : Memory} (h : m.wf = true) (a : Nat) (v : Byte) (b : Nat) :
    (m.set a v).get b = if b = a then v else m.get b := by
  induction m with
  | nil =>
    unfold Memory.set
    by_cases hv : v = Memory.blank a <;> by_cases hb : b = a <;> simp_all [Memory.get]
  | cons c m ih =>
    obtain ⟨k, w⟩ := c
    have hc := (Memory.wf_cons k w m).1 h
    have ih := ih hc.2.2.2
    have hlt : ∀ x, x ≤ k → Memory.get m x = Memory.blank x := fun x hx =>
      Memory.get_of_lt_head fun c hm => by have := hc.2.2.1 c hm; omega
    unfold Memory.set
    by_cases hk : a < k
    · by_cases hv : v = Memory.blank a
      · by_cases hb : b = a
        · subst hb; simp [hk, hv, Memory.get]
        · simp [hk, hv, hb]
      · by_cases hb : b = a
        · subst hb; simp [hk, hv, Memory.get]
        · by_cases hba : b < a
          · have : b < k := by omega
            simp [hk, hv, hb, hba, this, Memory.get]
          · simp [hk, hv, hb, hba, Memory.get]
    · by_cases he : a = k
      · subst he
        by_cases hv : v = Memory.blank a
        · by_cases hb : b = a
          · subst hb; simp [hv, hlt b (Nat.le_refl b)]
          · by_cases hba : b < a
            · simp [hv, hb, hba, Memory.get, hlt b (by omega)]
            · simp [hv, hb, hba, Memory.get]
        · by_cases hb : b = a
          · subst hb; simp [hv, Memory.get]
          · by_cases hba : b < a <;> simp [hv, hb, hba, Memory.get]
      · by_cases hbk : b < k
        · have : b ≠ a := by omega
          simp [hk, he, hbk, this, Memory.get]
        · by_cases hb : b = k
          · subst hb
            have : b ≠ a := by omega
            simp [hk, he, this, Memory.get]
          · simp [hk, he, hbk, hb, Memory.get, ih]

/-- A write outside both memories keeps nothing. -/
theorem Memory.store_wf {m : Memory} (a : Nat) (w : Word) (lanes : Lanes) (h : m.wf = true) :
    (m.store a w lanes).wf = true := by
  unfold Memory.store
  split
  · rename_i hk
    cases lanes
    · exact Memory.set_wf h hk.2
    · exact Memory.set_wf h hk.1
    · exact Memory.set_wf (Memory.set_wf h hk.1) hk.2
  · exact h

theorem Memory.storeAll_wf {m : Memory} (ws : List (Nat × Word)) (h : m.wf = true) :
    (m.storeAll ws).wf = true := by
  induction ws generalizing m with
  | nil => exact h
  | cons p ws ih => exact ih (Memory.store_wf p.1 p.2 .both h)

theorem Memory.nonvolatile_cons (c : Host.Cell) (m : Memory) :
    Memory.nonvolatile (c :: m) =
      if 0x80000 ≤ c.1 then c :: Memory.nonvolatile m else Memory.nonvolatile m := by
  simp [Memory.nonvolatile, List.filter_cons]

/-- The lower bound of a memory's addresses stands when RAM is dropped. -/
theorem Memory.nonvolatile_head {m : Memory} {k : Nat} (h : m.wf = true)
    (hk : ∀ c ∈ m.head?, k < c.1) : ∀ c ∈ m.nonvolatile.head?, k < c.1 := by
  induction m with
  | nil => simp [Memory.nonvolatile]
  | cons c m ih =>
    have hc := (Memory.wf_cons c.1 c.2 m).1 h
    have hkc : k < c.1 := hk c (by simp)
    rw [Memory.nonvolatile_cons]
    split
    · simpa using hkc
    · exact ih hc.2.2.2 fun d hd => by have := hc.2.2.1 d hd; omega

theorem Memory.nonvolatile_wf {m : Memory} (h : m.wf = true) : m.nonvolatile.wf = true := by
  induction m with
  | nil => rfl
  | cons c m ih =>
    have hc := (Memory.wf_cons c.1 c.2 m).1 h
    rw [Memory.nonvolatile_cons]
    split
    · exact (Memory.wf_cons c.1 c.2 _).2
        ⟨hc.1, hc.2.1, Memory.nonvolatile_head hc.2.2.2 hc.2.2.1, ih hc.2.2.2⟩
    · exact ih hc.2.2.2

/-- With the supply down NV keeps every byte and RAM reads as unlisted. -/
theorem Memory.get_nonvolatile {m : Memory} (h : m.wf = true) (a : Nat) :
    m.nonvolatile.get a = if a < 0x80000 then Memory.blank a else m.get a := by
  induction m with
  | nil => simp [Memory.nonvolatile, Memory.get]
  | cons c m ih =>
    obtain ⟨k, v⟩ := c
    have hc := (Memory.wf_cons k v m).1 h
    have ih := ih hc.2.2.2
    have hlow : ∀ x, x ≤ k → Memory.get m x = Memory.blank x := fun x hx =>
      Memory.get_of_lt_head fun c hm => by have := hc.2.2.1 c hm; omega
    rw [Memory.nonvolatile_cons]
    by_cases hk : 0x80000 ≤ k
    · by_cases hak : a < k
      · by_cases ha : a < 0x80000 <;> simp [hk, hak, ha, Memory.get]
      · have : ¬a < 0x80000 := by omega
        by_cases he : a = k
        · simp [hk, he, Memory.get]
        · simp only [hk, if_true, Memory.get, hak, he, if_false, ih, this]
    · by_cases ha : a < 0x80000
      · simp [hk, ha, ih]
      · have h1 : ¬a < k := by omega
        have h2 : a ≠ k := by omega
        simp only [hk, if_false, ih, ha, Memory.get, h1, h2]

theorem State.reset_mem_wf : State.reset.mem.wf = true := rfl

/-- A word is its two bytes put together again. -/
theorem ofBytes_hi_lo (w : Word) : Word.ofBytes w.hi w.lo = w := by
  apply BitVec.eq_of_toNat_eq
  have := w.isLt
  simp [Word.ofBytes, Word.hi, Word.lo]
  omega

/-- What each byte reads after a word of both lanes is written at a decoded address. -/
theorem Memory.get_store_both {m : Memory} (h : m.wf = true) (a : Nat) (w : Word) (b : Nat)
    (ha : (memKind a).isSome = true) (ha' : (memKind (a + 1)).isSome = true) :
    (m.store a w .both).get b = if b = a + 1 then w.lo else if b = a then w.hi else m.get b := by
  simp [Memory.store, ha, ha', Memory.get_set (Memory.set_wf h ha), Memory.get_set h]

/-- A word written at a decoded address reads back. -/
theorem Memory.word_store {m : Memory} (h : m.wf = true) (a : Nat) (w : Word)
    (ha : (memKind a).isSome = true) (ha' : (memKind (a + 1)).isSome = true) :
    (m.store a w .both).word a = w := by
  simp [Memory.word, Memory.get_store_both h a w _ ha ha', ofBytes_hi_lo]

/-- A write at an address the part does not decode keeps nothing (R2). -/
theorem Memory.store_undecoded {m : Memory} {a : Nat} (w : Word) (lanes : Lanes)
    (h : (memKind a).isSome = false) : m.store a w lanes = m := by simp [Memory.store, h]

@[simp] theorem Memory.storeAll_nil (m : Memory) : m.storeAll [] = m := rfl

@[simp] theorem Memory.storeAll_cons (m : Memory) (p : Nat × Word) (ws : List (Nat × Word)) :
    m.storeAll (p :: ws) = (m.store p.1 p.2 .both).storeAll ws := rfl

theorem Memory.storeAll_append (m : Memory) (xs ys : List (Nat × Word)) :
    m.storeAll (xs ++ ys) = (m.storeAll xs).storeAll ys := by
  induction xs generalizing m with
  | nil => rfl
  | cons p xs ih => exact ih _

/-- Words written upward from `a` leave every byte outside their places as it was. -/
theorem Memory.get_storeAll_placed {m : Memory} (h : m.wf = true) (a : Nat) (ws : List Word) (b : Nat)
    (hb : b < a ∨ a + 2 * ws.length ≤ b) : (m.storeAll (placed a ws)).get b = m.get b := by
  induction ws generalizing m a with
  | nil => rfl
  | cons w ws ih =>
    rw [List.length_cons] at hb
    rw [placed, Memory.storeAll_cons, ih (Memory.store_wf a w .both h) (a + 2) (by omega)]
    unfold Memory.store
    split
    · rename_i hk
      rw [Memory.get_set (Memory.set_wf h hk.1), Memory.get_set h, if_neg (by omega), if_neg (by omega)]
    · rfl

/-- Words written upward from `a` are read back as written. -/
theorem Memory.words_placed {m : Memory} (h : m.wf = true) (a : Nat) (ws : List Word)
    (hk : ∀ i, i < 2 * ws.length → (memKind (a + i)).isSome = true) :
    (m.storeAll (placed a ws)).words a ws.length = ws := by
  induction ws generalizing m a with
  | nil => rfl
  | cons w ws ih =>
    rw [List.length_cons] at hk
    have h0 := hk 0 (by omega)
    have h1 := hk 1 (by omega)
    have hs := Memory.store_wf a w .both h
    have head : ((m.store a w .both).storeAll (placed (a + 2) ws)).word a = w := by
      rw [Memory.word, Memory.get_storeAll_placed hs _ _ _ (by omega),
        Memory.get_storeAll_placed hs _ _ _ (by omega)]
      exact Memory.word_store h a w h0 h1
    rw [List.length_cons, placed, Memory.storeAll_cons, Memory.words, head, ih hs]
    intro i hi
    rw [show a + 2 + i = a + (2 + i) by omega]
    exact hk _ (by omega)

/-- An even decoded address lies in one memory with the next one (R2). -/
theorem memKind_succ {a : Nat} (h : a % 2 = 0) : memKind (a + 1) = memKind a := by
  unfold memKind
  repeat' split
  all_goals first
    | rfl
    | omega

end Sys2Proof.Machine
end

