-- ==== Sys2Proof/Laws/Ops.lean ====
section
/-! SUPPORT. One lemma for each shared operation, saying all it can do. -/

namespace Sys2Proof.Machine

/-! ### Supply, time, requests -/

theorem onPower_up {s : State} (h : s.powered = true) (f : State → State) :
    onPower s f = .next (f s) := by simp [onPower, h]

theorem onPower_down {s : State} (h : s.powered = false) (f : State → State) :
    onPower s f = .next s := by simp [onPower, h]

/-- What holds of a state and of what a meaning makes of it holds after its command. -/
theorem onPower_induction {P : State → Prop} {s t : State} {f : State → State}
    (h : onPower s f = .next t) (hs : P s) (hf : s.powered = true → P (f s)) : P t := by
  unfold onPower at h
  cases h
  split
  · exact hf (by assumption)
  · exact hs

/-- Out of RUNNING only a valid clock's phase, the 2 s of a blocked entry sensor and the spacing of shock
edges move (R81, R47, R126). -/
theorem elapse_stopped {s : State} (h : s.pfu.power ≠ .running) (d : Nat) :
    elapse d s =
      { s with
        tru.phase := if s.tru.clock.isSome then s.tru.phase + d else s.tru.phase
        cnu.edgeMs := s.cnu.edgeMs + d
        inu.edgeMs := s.inu.edgeMs + d } := by
  simp [elapse, h]

theorem elapse_running {s : State} (h : s.pfu.power = .running) (d : Nat) :
    elapse d s =
      { s with
        tru.phase := if s.tru.clock.isSome then s.tru.phase + d else s.tru.phase
        cnu.ms := s.cnu.ms + d
        cnu.edgeMs := s.cnu.edgeMs + d
        rtu.ms := s.rtu.ms + d
        lnu.ms := s.lnu.ms + d
        inu.edgeMs := s.inu.edgeMs + d
        inu.ms := s.inu.ms + d
        rpu.ms := s.rpu.ms + d
        acu.ms := s.acu.ms + d } := by
  simp [elapse, h]

theorem serving_eq_some {k : Nat} {s : State} {ps : List Word} :
    serving k s = some ps ↔
      ∃ v, s.rqu.service = some v ∧ v.phase = .handed ∧ v.kind.toNat = k ∧ v.params = ps := by
  unfold serving
  split
  · rename_i v hv
    split <;> simp_all
  · simp_all

theorem onRequest_serving {k : Nat} {s : State} {v : Service} (f : List Word → State → State)
    (h : s.rqu.service = some v) (hp : v.phase = .handed) (hk : v.kind.toNat = k) :
    onRequest k f s = f v.params s := by
  simp [onRequest, serving, h, hp, hk]

theorem onRequest_cases (k : Nat) (f : List Word → State → State) (s : State) :
    (serving k s = none ∧ onRequest k f s = s) ∨
      ∃ ps, serving k s = some ps ∧ onRequest k f s = f ps s := by
  unfold onRequest
  cases h : serving k s <;> simp

theorem answer_service {s : State} {v : Service} (h : s.rqu.service = some v) (c : ResultCode)
    (r1 r2 r3 : Word) :
    answer c r1 r2 r3 s =
      { s with rqu.service := some { v with phase := .answered ⟨wordOf c.code, r1, r2, r3⟩ 0 } } := by
  simp [answer, h]

theorem answer_none {s : State} (h : s.rqu.service = none) (c : ResultCode) (r1 r2 r3 : Word) :
    answer c r1 r2 r3 s = s := by simp [answer, h]

theorem answerHeld_cases (k : Nat) (c : ResultCode) (r1 r2 r3 : Word) (s : State) :
    answerHeld k c r1 r2 r3 s = s ∨
      ∃ v, s.rqu.service = some v ∧ v.phase = .held ∧ v.kind.toNat = k ∧
        answerHeld k c r1 r2 r3 s =
          { s with
            rqu.service := some { v with phase := .answered ⟨wordOf c.code, r1, r2, r3⟩ 0 } } := by
  unfold answerHeld
  split
  · rename_i v hv
    split
    · exact .inr ⟨v, hv, by simp_all, by simp_all, by simp [answer, hv]⟩
    · exact .inl rfl
  · exact .inl rfl

/-! ### The CRC-16 -/

/-- Words that end in their own CRC are good (R71). -/
theorem crcGood_withCrc (ws : List Word) : crcGood (withCrc ws) = true := by simp [crcGood, withCrc]

/-! ### Flags and latches -/

/-- An event sets its own flag and no other (R41). -/
theorem flagOf_setFlag (f : BitVec 12) (e e' : Event) :
    flagOf (setFlag f e) e' = (flagOf f e' || decide (e'.bit = e.bit)) := by
  cases e <;> cases e' <;> simp [flagOf, setFlag, Event.bit]

@[simp] theorem flagOf_raise (e e' : Event) (s : State) :
    flagOf (raise e s).rqu.flags e' = (flagOf s.rqu.flags e' || decide (e'.bit = e.bit)) :=
  flagOf_setFlag _ _ _

theorem latched_setLatchBit (l : BitVec 17) (k k' : IncKind) :
    latched (setLatchBit l k) k' = (latched l k' || decide (k'.code = k.code)) := by
  cases k <;> cases k' <;> simp [latched, setLatchBit, IncKind.code]

theorem latched_clearLatchBit (l : BitVec 17) (k k' : IncKind) :
    latched (clearLatchBit l k) k' = (latched l k' && decide (k'.code ≠ k.code)) := by
  cases k <;> cases k' <;> simp [latched, clearLatchBit, IncKind.code]

/-- A latch is set once, and the change raises CONDITION (R125). -/
theorem setLatch_cases (k : IncKind) (s : State) :
    (k.latches = false ∨ latched s.inu.latches k = true) ∧ setLatch k s = s ∨
      k.latches = true ∧ latched s.inu.latches k = false ∧
        setLatch k s =
          raise .condition { s with inu.latches := setLatchBit s.inu.latches k } := by
  unfold setLatch
  cases k.latches <;> cases latched s.inu.latches k <;> simp

@[simp] theorem latched_setLatch (k : IncKind) (s : State) :
    latched (setLatch k s).inu.latches k = (k.latches || latched s.inu.latches k) := by
  rcases setLatch_cases k s with ⟨h, e⟩ | ⟨h, h', e⟩
  · rcases h with h | h <;> simp [e, h]
  · simp [e, h, raise, latched_setLatchBit]

/-! ### What blocks hand each other -/

/-- A block's occurrence is taken by the INU or held by it (R130, R136, R137). -/
theorem occur_cases (k : IncKind) (detail : Nat) (s : State) :
    inuActive s = true ∧ occur k detail s = takeOccurrence k detail s ∨
      inuActive s = false ∧ occur k detail s = { s with held := s.held ++ [.occurrence k detail] } := by
  cases h : inuActive s <;> simp [occur, h, hold]

theorem clearLatch_cases (k : IncKind) (s : State) :
    inuActive s = true ∧ clearLatch k s = takeClearLatch k s ∨
      inuActive s = false ∧ clearLatch k s = { s with held := s.held ++ [.clearLatch k] } := by
  cases h : inuActive s <;> simp [clearLatch, h, hold]

/-- An attribute event is counted, with its occurrence if the armed attribute crosses, or held (R127,
R136, R137). -/
theorem attrEvent_cases (a : AttrId) (s : State) :
    let v := (s.inu.attrs.get a).counted
    let crosses := v.crosses (s.cfl.params.attrs.get a).threshold
    inuActive s = true ∧ crosses = false ∧ attrEvent a s = putAttr a v s ∨
      inuActive s = true ∧ crosses = true ∧
        attrEvent a s =
          takeOccurrence (attrKind a) (attrDetail a) (putAttr a { v with armed := false } s) ∨
      inuActive s = false ∧ attrEvent a s = { s with held := s.held ++ [.attrEvent a] } := by
  intro v crosses
  cases h : inuActive s
  · exact .inr (.inr ⟨rfl, by simp [attrEvent, h, hold]⟩)
  · cases hc : crosses
    · simp only [crosses, v] at hc
      exact .inl ⟨rfl, rfl, by simp [attrEvent, h, takeAttrEvent, hc, v]⟩
    · simp only [crosses, v] at hc
      exact .inr (.inl ⟨rfl, rfl, by simp [attrEvent, h, takeAttrEvent, hc, v]⟩)

theorem PerAttr.get_set {α : Type} (p : PerAttr α) (a b : AttrId) (x : α) :
    (p.set a x).get b = if b = a then x else p.get b := by
  cases a <;> cases b <;> simp [PerAttr.set, PerAttr.get]

/-! ### The escrow tube -/

/-- A drop starts or nothing changes (R58). -/
theorem startDrop_cases (s : State) :
    startDrop s = s ∨
      ∃ c cs d ds, s.cnu.escrow = c :: cs ∧ s.cnu.drops = d :: ds ∧ dropReady s c d = true ∧
        startDrop s =
          { s with
            cnu.escrow := { c with status := .dropping } :: cs
            cnu.drops := ds
            cnu.motion := some ⟨d.dir, s.cnu.ms + 500⟩
            cnu.diverter := d.dir } := by
  unfold startDrop
  split
  · rename_i c cs d ds hc hd
    split
    · exact .inr ⟨c, cs, d, ds, hc, hd, by assumption, rfl⟩
    · exact .inl rfl
  · exact .inl rfl

/-- Starting a drop changes no coin but in its status. -/
theorem startDrop_values (s : State) :
    (startDrop s).cnu.escrow.map (·.value) = s.cnu.escrow.map (·.value) := by
  rcases startDrop_cases s with h | ⟨c, cs, d, ds, hc, _, _, h⟩ <;> rw [h]
  simp [hc]

theorem startDrop_length (s : State) :
    (startDrop s).cnu.escrow.length = s.cnu.escrow.length := by
  simpa using congrArg List.length (startDrop_values s)

/-- Queueing a drop changes the drop queue alone (R57). -/
theorem queueDrop_eq (seq : Nat) (dir : Dir) (s : State) :
    queueDrop seq dir s = { s with cnu.drops := (queueDrop seq dir s).cnu.drops } := by
  unfold queueDrop
  split <;> rfl

/-- Starting a drop touches the CNU alone, and of the rest reads the power state and the start-up's step. -/
theorem startDrop_congr {s u : State} (hc : u.cnu = s.cnu) (hp : u.pfu = s.pfu) (hs : u.cfl = s.cfl) :
    startDrop u = { u with cnu := (startDrop s).cnu } := by
  have hr : ∀ c d, dropReady u c d = dropReady s c d := by
    intro c d
    unfold dropReady running starting
    rw [hc, hp, hs]
  unfold startDrop
  rw [hc]
  split
  · rw [hr]
    split
    · rfl
    · rw [← hc]
  · rw [← hc]

/-- So does a commit order (R56). -/
theorem commitOrder_congr (seq : Nat) {s u : State} (hc : u.cnu = s.cnu) (hp : u.pfu = s.pfu)
    (hs : u.cfl = s.cfl) : commitOrder seq u = { u with cnu := (commitOrder seq s).cnu } := by
  have queued : ∀ v w : State, v.cnu = w.cnu → v.pfu = w.pfu → v.cfl = w.cfl →
      startDrop (queueDrop seq .collect v) =
        { v with cnu := (startDrop (queueDrop seq .collect w)).cnu } := by
    intro v w h1 h2 h3
    have e : queueDrop seq .collect v = { v with cnu := (queueDrop seq .collect w).cnu } := by
      unfold queueDrop
      rw [h1]
      split
      · rw [← h1]
      · rfl
    have f : (queueDrop seq .collect w).pfu = w.pfu ∧ (queueDrop seq .collect w).cfl = w.cfl := by
      rw [queueDrop_eq]
      exact ⟨rfl, rfl⟩
    rw [startDrop_congr (s := queueDrop seq .collect w) (by rw [e]) (by rw [e, f.1]; exact h2)
      (by rw [e, f.2]; exact h3), e]
  unfold commitOrder
  rw [hc]
  split
  · rw [← hc]
  · rename_i c _
    rw [show hasDrop u c = hasDrop s c by unfold hasDrop; rw [hc]]
    split
    · exact queued _ _ rfl hp hs
    · rw [← hc]

/-! ### The commit rule (R95) -/

/-- The coins that K newly commits, by their places in the roll. -/
theorem newlyCommitted_eq (k cin : Nat) (before roll : List RollCoin) :
    newlyCommitted k cin (rollValue before) roll =
      ((roll.zipIdx before.length).filter fun p =>
        !p.1.committed && decide (cin + rollValue ((before ++ roll).take p.2) < k)).map (·.1) := by
  induction roll generalizing before with
  | nil => rfl
  | cons c roll ih =>
    have h := ih (before ++ [c])
    rw [show rollValue (before ++ [c]) = rollValue before + c.value by simp [rollValue],
      show (before ++ [c]).length = before.length + 1 by simp, List.append_assoc,
      List.singleton_append] at h
    rw [newlyCommitted, List.zipIdx_cons, List.filter_cons, h]
    simp only [List.take_left']
    split <;> simp

/-- The marks after a charge, by their places in the roll. -/
theorem markCommitted_eq (k cin : Nat) (before roll : List RollCoin) :
    markCommitted k cin (rollValue before) roll =
      (roll.zipIdx before.length).map fun p =>
        { p.1 with
          committed :=
            p.1.committed || decide (cin + rollValue ((before ++ roll).take p.2) < k) } := by
  induction roll generalizing before with
  | nil => rfl
  | cons c roll ih =>
    have h := ih (before ++ [c])
    rw [show rollValue (before ++ [c]) = rollValue before + c.value by simp [rollValue],
      show (before ++ [c]).length = before.length + 1 by simp, List.append_assoc,
      List.singleton_append] at h
    rw [markCommitted, List.zipIdx_cons, List.map_cons, h]
    simp only [List.take_left']

/-! ### The audit unit's queue -/

/-- A queued write-back waits (R155, R156). -/
theorem queueWriteBack_waiting (f d : Bool) (s : State) :
    writeBackWaiting (queueWriteBack f d s) = true := by
  have mark : ∀ js : List Job, (markWriteBack f d js).any Job.isWriteBack = js.any Job.isWriteBack := by
    intro js
    induction js with
    | nil => rfl
    | cons j js ih => cases j <;> simp [markWriteBack, Job.isWriteBack, ih]
  unfold queueWriteBack
  cases h : writeBackWaiting s
  · simp [writeBackWaiting, Job.isWriteBack]
  · simpa [writeBackWaiting, mark] using h

/-- A trigger queues a write-back or finds one waiting, running, or nothing to write (R154, R155). -/
theorem triggerWriteBack_cases (s : State) :
    (writeBackWaiting s = true ∨ writeBackRunning s = true ∨ s.adu.dirty = false) ∧
        triggerWriteBack s = s ∨
      s.adu.dirty = true ∧
        triggerWriteBack s = { s with adu.jobs := s.adu.jobs ++ [.writeBack false false] } := by
  unfold triggerWriteBack
  cases writeBackWaiting s <;> cases writeBackRunning s <;> cases s.adu.dirty <;> simp

/-- After a trigger over a dirty cache a write-back waits or is running (R154, R155). -/
theorem triggerWriteBack_dirty {s : State} (h : s.adu.dirty = true) :
    writeBackWaiting (triggerWriteBack s) = true ∨ writeBackRunning (triggerWriteBack s) = true := by
  rcases triggerWriteBack_cases s with ⟨h', e⟩ | ⟨_, e⟩ <;> rw [e]
  · rcases h' with h' | h' | h'
    · exact .inl h'
    · exact .inr h'
    · simp [h] at h'
  · exact .inl (by simp [writeBackWaiting, Job.isWriteBack])

/-! ### The line -/

@[simp] theorem setLine_state (st : LineState) (s : State) : (setLine st s).lnu.state = st := by
  unfold setLine
  split
  · assumption
  · rfl

/-- A change of line state raises LINE and starts or stops its timers; a state already taken changes
nothing (R108, R119). -/
theorem setLine_same {st : LineState} {s : State} (h : s.lnu.state = st) : setLine st s = s := by
  simp [setLine, h]

@[simp] theorem openRelay_relay (s : State) : (openRelay s).lnu.relay = false := by
  unfold openRelay
  cases h : s.lnu.relay <;> simp [h]

/-- Saturation keeps a tally within 32 bits (R152). -/
theorem satAdd_le (a b : Nat) : satAdd a b ≤ 0xFFFFFFFF := by simp only [satAdd]; omega

theorem le_satAdd {a : Nat} (b : Nat) (h : a ≤ 0xFFFFFFFF) : a ≤ satAdd a b := by
  simp only [satAdd]; omega

theorem satAdd_of_lt {a b : Nat} (h : satAdd a b < 0xFFFFFFFF) : satAdd a b = a + b := by
  simp only [satAdd] at *; omega

/-! ### Bus and port -/

/-- A full queue takes no record but remembers the loss (R15). -/
theorem offerIntercept_bounds (r : Intercept) (s : State) (h : s.bpu.intercepts.length ≤ 8) :
    (offerIntercept r s).bpu.intercepts.length ≤ 8 := by
  unfold offerIntercept
  simp only [raise]
  split <;> simp_all

theorem mem_grantOrder (p : Party) (w : PowerState) : p ∈ grantOrder w := by
  cases w <;> cases p <;> simp [grantOrder]

/-- The party granted is the one that waits and that the port reaches (R16). -/
theorem winner_eq_some_iff (p : Party) (s : State) :
    winner s = some p ↔ waits p s = true ∧ portReaches p s = true := by
  have key : ∀ l : List Party, p ∈ l →
      (l.find? (fun q => waits q s) = some p ↔
        waits p s = true ∧ (l.takeWhile (· ≠ p)).all (fun q => !waits q s) = true) := by
    intro l
    induction l with
    | nil => simp
    | cons q l ih =>
      intro hp
      by_cases hq : q = p
      · subst hq
        by_cases hw : waits q s = true
        · simp [hw]
        · simpa [hw] using mt (List.find?_some (p := fun r => waits r s)) hw
      · have hp' : p ∈ l := by simpa [Ne.symm hq] using hp
        by_cases hw : waits q s = true <;> simp [hq, hw, ih hp']
  exact key _ (mem_grantOrder p _)

/-- What a slot leaves of its service: of what is read already nothing changes (R36). -/
theorem Service.readWord_of_read {v : Service} (m : Memory) (a : Nat) (h : v.reads = false) :
    v.readWord m a = v := by
  unfold Service.reads at h
  unfold Service.readWord Service.feed
  split at h <;> simp_all

theorem Service.readAll_of_read {v : Service} (m : Memory) (a : Nat) (h : v.reads = false) :
    v.readAll m a = v := by
  unfold Service.readAll
  generalize 27 = n
  induction n with
  | zero => rfl
  | succ n ih => rw [Nat.repeat, ih, Service.readWord_of_read m a h]

theorem repeat_succ_comm {α : Type} (f : α → α) (n : Nat) (x : α) :
    Nat.repeat f (n + 1) x = Nat.repeat f n (f x) := by
  induction n with
  | zero => rfl
  | succ n ih => rw [Nat.repeat, ih]; rfl

/-- With its parameters being read a slot's reading goes on to the 26th, and the request is handed to its
owner (R36). -/
theorem Service.repeat_paramWords (m : Memory) (a n k : Nat) (v : Service)
    (hp : v.phase = .paramWords) (hl : v.params.length + (n + 1) = 26) :
    Nat.repeat (Service.readWord m a) (n + 1 + k) v =
      { v with
        params := v.params ++ m.words (a + 12 + 2 * v.params.length) (n + 1)
        phase := .handed } := by
  induction n generalizing v with
  | zero =>
    rw [show 0 + 1 + k = k + 1 by omega, repeat_succ_comm]
    have e : v.readWord m a =
        { v with
          params := v.params ++ m.words (a + 12 + 2 * v.params.length) 1, phase := .handed } := by
      have : ¬v.params.length < 25 := by omega
      simp [Service.readWord, Service.feed, Service.nextPlace, hp, this, Memory.words, Nat.add_assoc]
    rw [e]
    generalize hw : ({ v with
      params := v.params ++ m.words (a + 12 + 2 * v.params.length) 1, phase := .handed } : Service) = w
    have hr : w.reads = false := by subst hw; rfl
    clear hw e
    induction k with
    | zero => rfl
    | succ k ih => rw [Nat.repeat, ih, Service.readWord_of_read m a hr]
  | succ n ih =>
    rw [show n + 1 + 1 + k = n + 1 + k + 1 by omega, repeat_succ_comm]
    have e : v.readWord m a =
        { v with params := v.params ++ [m.word (a + 12 + 2 * v.params.length)] } := by
      have : v.params.length < 25 := by omega
      simp [Service.readWord, Service.feed, Service.nextPlace, hp, this, Nat.add_assoc]
    rw [e, ih { v with params := v.params ++ [m.word (a + 12 + 2 * v.params.length)] } hp
      (by simp only [List.length_append, List.length_singleton]; omega)]
    simp [Memory.words, Nat.add_assoc, Nat.mul_add]

/-- The parameters left of a slot are read, and the request is handed to its owner (R36). -/
theorem Service.readAll_paramWords {v : Service} (m : Memory) (a : Nat) (hp : v.phase = .paramWords)
    (hl : v.params.length < 26) :
    v.readAll m a =
      { v with
        params := v.params ++ m.words (a + 12 + 2 * v.params.length) (26 - v.params.length)
        phase := .handed } := by
  have h := Service.repeat_paramWords m a (25 - v.params.length) (v.params.length + 1) v hp (by omega)
  rw [show 25 - v.params.length + 1 + (v.params.length + 1) = 27 by omega,
    show 25 - v.params.length + 1 = 26 - v.params.length by omega] at h
  exact h

/-- The sequence word and what follows it are read: a DIAL that STARTING refuses is answered so, a kind code
is handed to its owner with 26 parameters, and any other kind word is answered UNKNOWN_KIND (R36, R29,
R39). -/
theorem Service.readAll_seqWord {v : Service} {refused : Bool} (m : Memory) (a : Nat)
    (hp : v.phase = .seqWord refused) (hv : v.params = []) :
    v.readAll m a =
      if refused = true then
        { v with
          seq := m.word (a + 2), phase := .answered ⟨wordOf ResultCode.starting.code, 0, 0, 0⟩ 0 }
      else if isKindCode v.kind.toNat = true then
        { v with seq := m.word (a + 2), params := m.words (a + 12) 26, phase := .handed }
      else
        { v with
          seq := m.word (a + 2)
          phase := .answered ⟨wordOf ResultCode.unknownKind.code, v.kind, 0, 0⟩ 0 } := by
  have e : v.readAll m a = Nat.repeat (Service.readWord m a) 26 (v.readWord m a) :=
    repeat_succ_comm _ 26 v
  have stays : ∀ w : Service, w.reads = false → Nat.repeat (Service.readWord m a) 26 w = w := by
    intro w hw
    generalize 26 = n
    induction n with
    | zero => rfl
    | succ n ih => rw [Nat.repeat, ih, Service.readWord_of_read m a hw]
  rw [e]
  cases refused
  · by_cases hk : isKindCode v.kind.toNat = true
    · have hw : v.readWord m a = { v with seq := m.word (a + 2), phase := .paramWords } := by
        simp [Service.readWord, Service.feed, Service.nextPlace, hp, hk]
      have h := Service.repeat_paramWords m a 25 0 { v with seq := m.word (a + 2), phase := .paramWords }
        rfl (by simp [hv])
      rw [hw]
      simp only [Nat.add_zero] at h
      rw [show (25 + 1 : Nat) = 26 from rfl] at h
      rw [h]
      simp [hk, hv]
    · have hw : v.readWord m a =
          { v with
            seq := m.word (a + 2)
            phase := .answered ⟨wordOf ResultCode.unknownKind.code, v.kind, 0, 0⟩ 0 } := by
        simp [Service.readWord, Service.feed, Service.nextPlace, hp, hk]
      rw [hw, stays _ rfl]
      simp [hk]
  · have hw : v.readWord m a =
        { v with
          seq := m.word (a + 2), phase := .answered ⟨wordOf ResultCode.starting.code, 0, 0, 0⟩ 0 } := by
      simp [Service.readWord, Service.feed, Service.nextPlace, hp]
    rw [hw, stays _ rfl]
    simp

/-- With no slot in service there is none to read. -/
theorem readRest_of_none {s : State} (h : s.rqu.service = none) : readRest s = s := by
  have e : { s.rqu with service := none } = s.rqu := by rw [← h]
  unfold readRest
  rw [h, Option.map_none, e]

/-- The reading of a head leaves all as it was, lets another kind wait, or takes a DIAL that is to be
completed with STARTING (R29). -/
theorem readHead_cases (s : State) :
    ((s.rqu.queue = [] ∨ s.rqu.service.isSome = true) ∧ readHead s = s) ∨
      ∃ i rest, s.rqu.queue = i :: rest ∧ s.rqu.service = none ∧
        ((s.mem.word (slotAddr s i)).toNat ≠ kindDial ∧
            readHead s = { s with rqu.unread := false } ∨
          (s.mem.word (slotAddr s i)).toNat = kindDial ∧
            readHead s =
              { s with
                rqu.queue := rest
                rqu.unread := false
                rqu.service := some ⟨i, s.mem.word (slotAddr s i), 0, [], .seqWord true⟩ }) := by
  unfold readHead
  split
  · rename_i i rest hq hs
    by_cases hk : (s.mem.word (slotAddr s i)).toNat = kindDial
    · exact .inr ⟨i, rest, hq, hs, .inr ⟨hk, by simp only [hk, if_true, takeIndex]; rfl⟩⟩
    · exact .inr ⟨i, rest, hq, hs, .inl ⟨hk, by simp [hk]⟩⟩
  · rename_i h
    refine .inl ⟨?_, rfl⟩
    cases hq : s.rqu.queue
    · exact .inl rfl
    · cases hs : s.rqu.service
      · exact (h _ _ hq hs).elim
      · exact .inr rfl

/-- A new head is of no matter out of STARTING or behind a request in service; else it is to be read, at
once if the port comes to the RQU (R16, R29). -/
theorem judgeHead_cases (s : State) :
    let t := { s with rqu.unread := true }
    headUnread t = false ∧ judgeHead s = s ∨
      headUnread t = true ∧ portReaches .rqu t = false ∧ judgeHead s = t ∨
      headUnread t = true ∧ portReaches .rqu t = true ∧ judgeHead s = readRest (readHead t) := by
  intro t
  have e : judgeHead s =
      (if headUnread (if headUnread t then t else s) &&
          portReaches .rqu (if headUnread t then t else s) then
        readRest (readHead (if headUnread t then t else s))
      else if headUnread t then t else s) := rfl
  cases h : headUnread t
  · have hs : headUnread s = false := by
      have h' : (starting s && true && s.rqu.service.isNone && s.rqu.queue ≠ []) = false := h
      revert h'
      unfold headUnread
      cases starting s <;> cases s.rqu.service.isNone <;> cases s.rqu.unread <;> simp
    exact .inl ⟨rfl, by simp [e, h, hs]⟩
  · cases hp : portReaches .rqu t
    · exact .inr (.inl ⟨rfl, rfl, by simp [e, h, hp]⟩)
    · exact .inr (.inr ⟨rfl, rfl, by simp [e, h, hp]⟩)

/-- The word read of a slot takes the head, or is the next of the slot in service (R36). -/
theorem readSlotWord_cases (s : State) :
    readSlotWord s = readService s ∨
      ∃ i rest, s.rqu.service = none ∧ s.rqu.queue = i :: rest ∧
        readSlotWord s =
          { s with
            rqu.queue := rest
            rqu.service := some ⟨i, s.mem.word (slotAddr s i), 0, [], .seqWord false⟩
            tru.edited := false
            tru.analysed := 0
            tru.outcome := none } := by
  unfold readSlotWord
  split
  · rename_i i rest hs hq
    exact .inr ⟨i, rest, hs, hq, rfl⟩
  · exact .inl rfl

theorem foldl_induction {α : Type} {P : State → Prop} (g : State → α → State) (l : List α)
    (s : State) (hs : P s) (h : ∀ u a, P u → P (g u a)) : P (l.foldl g s) := by
  induction l generalizing s with
  | nil => exact hs
  | cons a l ih => exact ih (g s a) (h s a hs)

end Sys2Proof.Machine
end

