-- ==== Sys2Proof/WellFormed.lean ====
section
/-! DEFINITION. Which commands the outside can form. -/

namespace Sys2Proof

/-- A command the outside can form: word addresses are even (00, Words and addresses), a request is
posted by a non-zero kind word (R8), a log slot read twice lies inside its log (R12), and a verified
word is written at most three times (R161). Every other operand is well formed by its type. -/
def Instr.wellFormed : Instr → Bool
  | .controllerRead addr _ _ => addr.toNat % 2 = 0
  | .controllerWrite addr _ _ => addr.toNat % 2 = 0
  | .postRequest _ kind => kind ≠ 0
  | .startupAuditLoadDone calls incidents =>
      calls.all (· < 256) && calls.Nodup && incidents.all (· < 64) && incidents.Nodup
  | .validityWordVerified readBacks => readBacks.length ≤ 3
  | _ => true

end Sys2Proof
end

