-- ==== Sys2Proof/Tests/Slice0.lean ====
section
/-! SUPPORT. Tests: ill-formed commands are refused, each command once or twice on a small state, with
what the spec says it leaves, and for each statement a state that meets its hypotheses. -/

namespace Sys2Proof.Tests

-- Kernel evaluations one after another: each would otherwise wait in a thread of its own.
set_option Elab.async false

open Sys2Proof Sys2Proof.Machine

/-! ### Ill-formed commands -/

theorem test_wf_odd_read : (Instr.controllerRead 0x3E001 .both true).wellFormed = false := by decide

theorem test_wf_odd_write : (Instr.controllerWrite 0x3E001 0 .both).wellFormed = false := by decide

theorem test_wf_empty_post : (Instr.postRequest 0 0).wellFormed = false := by decide

theorem test_wf_call_slot_range : (Instr.startupAuditLoadDone [256] []).wellFormed = false := by
  decide

theorem test_wf_call_slot_twice : (Instr.startupAuditLoadDone [3, 3] []).wellFormed = false := by
  decide

theorem test_wf_incident_slot_range : (Instr.startupAuditLoadDone [] [64]).wellFormed = false := by
  decide

theorem test_wf_incident_slot_twice : (Instr.startupAuditLoadDone [] [9, 9]).wellFormed = false := by
  decide

theorem test_wf_fourth_write : (Instr.validityWordVerified [1, 1, 1, 1]).wellFormed = false := by
  decide

theorem test_wf_last_slots :
    (Instr.startupAuditLoadDone [0, 255] [63]).wellFormed = true ∧
      (Instr.controllerRead 0xFFFFE .high false).wellFormed = true := by decide

theorem test_no_word_spells_a_command : decodeTableWord 16 0x4B44 = none := rfl

/-! ### Small states -/

/-- The ten windows of an image. -/
def windows : List Window :=
  [⟨.plain, 0x3E200, 0x100, 0⟩, ⟨.request, 0x3E000, 0x140, 1⟩, ⟨.status, 0x3E180, 0x80, 2⟩,
    ⟨.tariff, 0x80800, 0x2000, 3⟩, ⟨.config, 0x80000, 0x800, 4⟩, ⟨.tally, 0x82800, 0x100, 5⟩,
    ⟨.callLog, 0x84000, 0x4000, 6⟩, ⟨.incidentLog, 0x88000, 0x800, 7⟩, ⟨.context, 0x88800, 0x100, 8⟩,
    ⟨.spare, 0x88900, 0x240, 9⟩]

/-- Parameters with coins, an emergency number, a centre and a code. -/
def given : Params :=
  { Params.absent with
    denoms := [⟨10, true⟩, ⟨20, true⟩, ⟨50, false⟩]
    emergency := [[1, 1, 2]]
    report := some ⟨[0, 2, 1], [3, 5, 7], [2, 5, 15, 30, 60, 60]⟩
    code := some [5, 0, 3, 8] }

/-- The part in service after its start-up, at rest. -/
def up : State :=
  { State.reset with
    bpu.table := some windows
    cfl.step := .done
    cfl.params := given
    cfl.walk := none
    inu.rebuilt := true
    tru.valid := true }

/-- The supply is down. -/
def off : State := { State.reset with powered := false }

/-- A request of a kind handed to its owner. -/
def asked (k : Nat) (ps : List Word) : Service := ⟨0, wordOf k, 7, ps, .handed⟩

def req (k : Nat) (ps : List Word) (s : State) : State := { s with rqu.service := some (asked k ps) }

/-- The state after a command. -/
def nx (c : Instr) (s : State) : State :=
  match exec c s with
  | .next t => t
  | _ => s

/-- The state after a step. -/
def stepped (s : State) : State :=
  match step s with
  | .next t => t
  | _ => s

/-- The result code of the request in service, once answered. -/
def code (s : State) : Option Nat :=
  match s.rqu.service with
  | some v =>
    match v.phase with
    | .answered a _ => some a.code.toNat
    | _ => none
  | none => none

/-- The result words. -/
def results (s : State) : List Nat :=
  match s.rqu.service with
  | some v =>
    match v.phase with
    | .answered a _ => [a.r1.toNat, a.r2.toNat, a.r3.toNat]
    | _ => []
  | none => []

/-- The word a controller read is answered with, and its lanes. -/
def read (a : BitVec 20) (lanes : Lanes) (s : State) : Option BusAnswer :=
  (nx (.controllerRead a lanes true) s).bpu.answer

/-- A row at 15, 12, 15 and 9 an interval, setup 10, surcharge 100 per mille. -/
def row : Row := ⟨10, ⟨60, 15⟩, ⟨60, 12⟩, ⟨30, 15⟩, ⟨60, 9⟩, 100⟩

/-- A call of class 5 with two coins of 20 in the roll. -/
def call : Ctx where
  owner := ⟨1, false⟩
  cls := 5
  emergency := false
  row := some row
  phase := .dialled
  band := none
  roll := [⟨0, 20, false⟩, ⟨1, 20, false⟩]
  cin := 0
  consumed := 0
  committed := 0
  intervals := 0
  start := none
  finish := none
  due := 0
  graceDeadline := none
  graceTime := 10
  maxDuration := 3600
  maxEnd := none
  graceUsed := false
  seizeStamp := ⟨0, 0, 0⟩
  seizePoint := 0
  answerPoint := none

/-- Two coins of 20 of that call. -/
def coin (seq : Nat) : Coin := ⟨seq, 2, 20, false, some ⟨1, false⟩, .held⟩

/-- The call on the line in a state, its coins in the tube. -/
def calling (st : LineState) : State :=
  { up with
    lnu.state := st
    lnu.offHook := true
    lnu.relay := true
    lnu.loop := true
    lnu.loopSeen := true
    rtu.ctx := some call
    cnu.openCall := some ⟨1, false⟩
    cnu.escrow := [coin 0, coin 1]
    cnu.tubeEmpty := false
    adu.nextCall := 2
    adu.cache.credited := 40
    adu.cache.escrow := 40 }

/-- The call while charging at its first interval. -/
def charging : State :=
  { calling .connected with
    rtu.ctx :=
      some
        { call with
          phase := .charging, band := some 0, start := some 0, finish := some 60, consumed := 28,
          committed := 40, intervals := 1, answerPoint := some 0, maxEnd := some 3600,
          roll := [⟨0, 20, true⟩, ⟨1, 20, true⟩] } }

/-- The context of the call of a state. -/
def ctxOf (s : State) : Ctx := s.rtu.ctx.getD call

/-- An incident record. -/
def record (k : IncKind) (st : RecState) : IncRec :=
  ⟨0, 3, k, 0, 1, st, 0, false, ⟨0, 0, 0⟩, ⟨0, 0, 0⟩, ⟨0, 0, 0⟩, none, 0⟩

/-- A report call that carries one record. -/
def reporting : ReportCall := ⟨[⟨3, 2⟩], false, some 4, [10, 1, 11], [], false, .none, []⟩

/-- A report call on the line. -/
def report (st : LineState) (c : ReportCall) : State :=
  { up with
    lnu.state := st
    lnu.relay := true
    rpu.call := some c
    inu.records := [record .cordCut .reporting] }

/-- A run of the writer over two words of a job. -/
def writing (j : Job) (ph : RunPhase) (todo : List (Nat × Word)) : State :=
  { up with adu.run := some ⟨j, ph, todo, .read, 0, 0, true⟩ }

/-! ### The queue and the supply -/

theorem test_step_takes_the_front :
    let t := stepped { up with pending := [.offHook, .onHook] }
    t.lnu.state = .ready ∧ t.pending = [.onHook] := by decide +kernel

theorem test_powerOn_ram_blank :
    let t := nx (.powerOn Levels.rest) { off with mem := [(0x80000, 0x4B)] }
    t.powered = true ∧ t.mem.get 0x80000 = 0x4B ∧ t.mem.get 0x3E000 = 0 ∧
      t.acu.mode = .normal ∧ t.rqu.flags = 0x200 := by decide +kernel

theorem test_powerLost_keeps_nv :
    let t := nx .powerLost { up with mem := [(0x3E000, 1), (0x80000, 0x4B)] }
    t.powered = false ∧ t.mem = [(0x80000, 0x4B)] := by decide +kernel

theorem witness_StepRunsFrontCommand :
    ({ up with pending := [.probe, .reject] } : State).pending = .probe :: [.reject] := rfl

theorem witness_EmptyQueueMillisecond : up.pending = [] := rfl

theorem witness_SupplyDownChangesNothing :
    off.powered = false ∧ (∀ lv, Instr.probe ≠ .powerOn lv) ∧ up.powered = true :=
  ⟨rfl, (fun _ h => nomatch h), rfl⟩

theorem witness_SupplyRisesAndFalls :
    (off.mem.wf = true ∧ off.powered = false) ∧ up.mem.wf = true ∧ up.powered = true := by
  decide +kernel

/-! ### The laws -/

/-- A step that writes memory. -/
def storing : State := { up with pending := [.controllerWrite 0x3E200 0x1234 .both] }

theorem witness_MemoryStaysCanonical :
    storing.mem.wf = true ∧ step storing = .next (stepped storing) ∧
      (stepped storing).mem = [(0x3E200, 0x12), (0x3E201, 0x34)] :=
  ⟨rfl, rfl, by decide +kernel⟩

/-- The same step in LOCKOUT. -/
def lockedOut : State := { storing with acu.mode := .lockout, acu.attempts := 5 }

theorem witness_AccessLawKept :
    AccessLaw storing ∧ step storing = .next (stepped storing) ∧ AccessLaw lockedOut ∧
      step lockedOut = .next (stepped lockedOut) ∧ lockedOut.acu.mode = .lockout ∧
      (stepped lockedOut).powered = true ∧ lockedOut.powered = true :=
  ⟨by decide +kernel, rfl, by decide +kernel, rfl, rfl, by decide +kernel, rfl⟩

theorem witness_InterceptLawKept :
    InterceptLaw storing ∧ step storing = .next (stepped storing) := ⟨by decide +kernel, rfl⟩

/-- A coin in the tube and one in the chute, the first one's passage waiting. -/
def moneyed : State :=
  { calling .connected with
    cnu.chute := [⟨1, 10, 0, 1200⟩]
    pending := [.entryPassage false] }

theorem witness_EscrowLawKept :
    EscrowLaw moneyed ∧ step moneyed = .next (stepped moneyed) ∧
      (stepped moneyed).cnu.escrow.length = 3 := ⟨by decide +kernel, rfl, by decide +kernel⟩

/-- The same step over an index whose last slot is taken. -/
theorem witness_IndexLawKept :
    let s := { moneyed with inu.records := [{ record .shock .pending with slot := 63 }] }
    IndexLaw s ∧ step s = .next (stepped s) := ⟨by decide +kernel, rfl⟩

/-- A waiting slot, one in service and one marked for abandoning. -/
def slotted : State :=
  { up with
    bpu.busy := ⟨true, true, true, false⟩
    rqu.queue := [2]
    rqu.service := some (asked 18 [])
    rqu.abandon := [⟨1, 0⟩]
    pending := [.controllerReset] }

theorem witness_SlotLawKept : SlotLaw slotted ∧ step slotted = .next (stepped slotted) :=
  ⟨by decide +kernel, rfl⟩

theorem witness_CreditLawKept : CreditLaw charging ∧ step charging = .next (stepped charging) := by
  refine ⟨⟨?_, by decide +kernel⟩, rfl⟩
  intro c h
  cases h
  decide +kernel

theorem witness_FirstCashLawKept :
    starting moneyed = false ∧ step moneyed = .next (stepped moneyed) ∧
      starting (stepped moneyed) = false ∧ (stepped moneyed).adu.cache.credited = 50 ∧
      CashLaw moneyed := by
  refine ⟨rfl, rfl, by decide +kernel, by decide +kernel, by decide +kernel, by decide +kernel, ?_⟩
  intro c h
  cases h

/-- The call's third coin is put in: the tube, the roll and the credit that the second law speaks of. -/
theorem witness_SecondCashLawKept :
    let s := { moneyed with cnu.nextSeq := 2 }
    starting s = false ∧ AccountLaw s ∧ step s = .next (stepped s) ∧
      starting (stepped s) = false ∧ (stepped s).adu.cache.collected < 0xFFFFFFFF ∧
      (stepped s).adu.cache.consumed < 0xFFFFFFFF ∧ (stepped s).adu.cache.excess < 0xFFFFFFFF := by
  refine ⟨rfl, ⟨by decide +kernel, by decide +kernel, ⟨?_, fun h => nomatch h⟩,
    ⟨?_, by decide +kernel⟩, by decide +kernel⟩, rfl, by decide +kernel, by decide +kernel,
    by decide +kernel, by decide +kernel⟩
  · intro c h
    cases h
    unfold RollInTube
    decide +kernel
  · intro c h
    cases h
    decide +kernel

theorem witness_TalliesNeverDecrease :
    starting moneyed = false ∧ TallyBound moneyed ∧ step moneyed = .next (stepped moneyed) ∧
      starting (stepped moneyed) = false :=
  ⟨rfl, by decide +kernel, rfl, by decide +kernel⟩

theorem witness_LawsHoldAtPowerOn : Memory.wf [(5, 1), (0x80000, 0x4B)] = true := by decide +kernel

/-! ### The bus -/

theorem test_read_ram :
    read 0x3E200 .high { up with mem := [(0x3E200, 0x12), (0x3E201, 0x34)] } =
      some ⟨0x1200, .high⟩ := by decide +kernel

theorem test_read_hidden : read 0x80000 .low up = some ⟨0x5AC3, .both⟩ := by decide +kernel

theorem test_write_low_lane :
    (nx (.controllerWrite 0x3E200 0x1234 .low) up).mem = [(0x3E201, 0x34)] := by decide +kernel

theorem test_write_blocked :
    let t := nx (.controllerWrite 0x80000 0x1234 .both) up
    t.mem = [] ∧ t.bpu.intercepts = [⟨.writeBlocked, 0x80000, 0x1234, .both, 4, .normal, none⟩] ∧
      flagOf t.rqu.flags .intercept = true ∧ t.inu.attrs.blockedWrites.level = 1 := by
  decide +kernel

theorem test_post_request :
    let t := nx (.postRequest 3 0x12) up
    t.rqu.queue = [3] ∧ t.bpu.busy = ⟨false, false, false, true⟩ ∧ t.mem.word 0x3E0C0 = 0x12 := by
  decide +kernel

theorem test_post_to_busy_slot :
    let t := nx (.postRequest 0 5) { up with bpu.busy := ⟨true, false, false, false⟩ }
    t.rqu.queue = [] ∧ t.bpu.intercepts.map (·.cause) = [.slotBusy] := by decide +kernel

theorem test_acknowledge_low_lane :
    (nx (.eventAcknowledge 0xFFFF .low) { up with rqu.flags := 0x303 }).rqu.flags = 0x300 := by
  decide +kernel

theorem test_mask_high_lane :
    (nx (.eventMaskWrite 0 .high) up).rqu.mask = 0x0FF := by decide +kernel

theorem test_pop_last :
    let r : Intercept := ⟨.slotBusy, 0x3E000, 1, .both, 1, .normal, none⟩
    let t := nx (.interceptPop 0 .low) { up with bpu.intercepts := [r], bpu.overflow := true }
    t.bpu.intercepts = [] ∧ t.bpu.overflow = false := by decide +kernel

theorem test_grant_order :
    let s := { writing (.checkWord 9) .home [(0x827FE, 9)] with
      bpu.cycle := some ⟨true, 0x3E200, 5, .both, some 0x3E200⟩ }
    (nx .portGrant s).mem.word 0x3E200 = 5 ∧ (nx .portGrant s).adu.run = s.adu.run := by
  decide +kernel

theorem test_controllerReset_frozen :
    let t := nx .controllerReset
      { up with acu.mode := .frozen, rqu.queue := [2], rqu.flags := 0xFFF, rqu.mask := 0 }
    t.acu.mode = .normal ∧ t.rqu.flags = 0x800 ∧ t.rqu.mask = 0xFFF ∧ t.rqu.abandon = [⟨2, 0⟩] := by
  decide +kernel

theorem test_controllerReset_saved :
    let t := nx .controllerReset { up with acu.mode := .frozen, pfu.power := .saved }
    t.acu.mode = .frozen ∧ t.held = [.accessReset] := by decide +kernel

theorem test_abandonWriteDone :
    let t := nx .abandonWriteDone { up with
      rqu.abandon := [⟨1, 0⟩]
      bpu.busy := ⟨false, true, false, false⟩ }
    t.rqu.abandon = [] ∧ t.bpu.busy.get 1 = false ∧ t.mem.word 0x3E044 = 21 := by decide +kernel

theorem test_requestTake :
    let t := nx .requestTake
      { up with rqu.queue := [1], mem := [(0x3E041, 0x13), (0x3E043, 9), (0x3E04D, 4)] }
    t.rqu.queue = [] ∧ t.rqu.service.map (fun v => (v.kind, v.seq, v.params.length)) = some (0x13, 9, 0) ∧
      code t = some 22 := by decide +kernel

/-- R16, R29: in STARTING the kind word of a new head is read when the port comes to the RQU. -/
theorem test_requestTake_judges_the_head :
    let s := { up with
      cfl.step := .settle
      rqu.unread := true
      rqu.queue := [1]
      mem := [(0x3E041, 1)]
      bpu.cycle := some ⟨true, 0x3E200, 0, .both, some 0x3E200⟩ }
    let granted := nx .portGrant (nx .portGrant s)
    nx .requestTake s = s ∧ code (nx .requestTake { s with bpu.cycle := none }) = some 4 ∧
      granted.rqu.service.map (·.phase) = some (.seqWord true) ∧
      code (nx .portGrant granted) = some 4 := by decide +kernel

/-- R16, R36: a slot that the port takes is handed with its 28th word, and REQUEST_TAKE reads what is left
of it. -/
theorem test_portGrant_takes_a_slot :
    let s := { up with rqu.queue := [1], mem := [(0x3E041, 0x12), (0x3E043, 9), (0x3E07F, 4)] }
    let after (n : Nat) : State := Nat.repeat (nx .portGrant) n s
    let parts (t : State) := t.rqu.service.map fun v => (v.kind, v.seq, v.params.length, v.phase)
    parts (after 1) = some (0x12, 0, 0, .seqWord false) ∧
      parts (after 27) = some (0x12, 9, 25, .paramWords) ∧
      after 28 = nx .requestTake s ∧ nx .requestTake (after 20) = nx .requestTake s ∧
      ((after 28).rqu.service.map fun v => (v.params.getLast?, v.phase)) =
        some (some 4, .handed) := by decide +kernel

theorem test_requestComplete :
    let t := nx .requestComplete
      { up with
        rqu.service := some ⟨2, 18, 7, [], .answered ⟨1, 4, 5, 6⟩ 0⟩
        bpu.busy := ⟨false, false, true, false⟩ }
    t.mem.words 0x3E080 6 = [0, 7, 1, 4, 5, 6] ∧ t.bpu.busy.get 2 = false ∧ t.rqu.service = none := by
  decide +kernel

theorem test_requestComplete_waits :
    let s :=
      { up with
        pfu.power := .saving
        pfu.save := [(0x82800, 0)]
        rqu.service := some ⟨2, 18, 7, [], .answered ⟨1, 4, 5, 6⟩ 0⟩ }
    (nx .requestComplete s).mem = [] ∧ (nx .requestComplete s).rqu = s.rqu := by decide +kernel

theorem test_probe_config :
    let t := nx .probe (req kindProbe [8, 0x0001, 1] up)
    code t = some 1 ∧ results t = [0x404, 0x101, 0xFFFF] ∧ t.bpu = up.bpu := by decide +kernel

/-- Addresses at both ends of a window, and one outside every window; in SERVICE a CONFIG word; a log
slot in its place and the remapped slot 255. -/
theorem witness_ReadReachesMemory :
    let s := up
    let serving := { up with acu.mode := .service }
    let remapped := { up with adu.remap := .mapped .call 255 :: List.replicate 7 .free }
    (BusReady s ∧ arrivesGranted s = true ∧ 0x3E2FE % 2 = 0 ∧ JudgedByWindow s 0x3E2FE ∧
      windowAt s 0x3E2FE = some ⟨.plain, 0x3E200, 0x100, 0⟩ ∧
      JudgedByWindow s 0x3FFFE ∧ windowAt s 0x3FFFE = none) ∧
    (BusReady serving ∧ arrivesGranted serving = true ∧ JudgedByWindow serving 0x80000 ∧
      windowAt serving 0x80000 = some ⟨.config, 0x80000, 0x800, 4⟩ ∧ serving.acu.mode = .service) ∧
    (BusReady remapped ∧ arrivesGranted remapped = true ∧ JudgedByWindow remapped 0x87FC0 ∧
      windowAt remapped 0x87FC0 = some ⟨.callLog, 0x84000, 0x4000, 6⟩ ∧
      (0x87FC0 - 0x84000) / slotSize .call = 255 ∧ 255 < slotCount .call ∧
      spareOf remapped.adu.remap .call 255 = some 0 ∧
      spareOf remapped.adu.remap .call 254 = none ∧
      (memKind (baseOf .spare remapped + 0x40)).isSome = true) := by decide +kernel

theorem witness_HiddenReadPattern :
    let saved := { up with pfu.power := .saved }
    (BusReady saved ∧ memKind 0x80000 = some .nv ∧ saved.pfu.power ≠ .running) ∧
    (BusReady up ∧ JudgedByWindow up 0x88B3E ∧ up.acu.mode ≠ .service ∧
      windowAt up 0x88B3E = some ⟨.spare, 0x88900, 0x240, 9⟩) := by decide +kernel

theorem witness_LiveRead :
    (BusReady up ∧ 0x3E180 % 2 = 0 ∧ JudgedByWindow up 0x3E180 ∧
      windowAt up 0x3E180 = some ⟨.status, 0x3E180, 0x80, 2⟩) ∧
    (JudgedByWindow up 0x828FE ∧ windowAt up 0x828FE = some ⟨.tally, 0x82800, 0x100, 5⟩) := by
  decide +kernel

/-- No fault, no clock and an empty queue, and each of them at the end of its range. -/
theorem witness_StatusBlockLayout :
    let s :=
      { up with
        tru.clock := some ⟨99, 12, 31, 23, 59, 59⟩
        cfl.fault := some (.missing, 255)
        cfl.skip := 65535
        adu.nextCall := 0xFFFFFFFF
        bpu.intercepts := List.replicate 8 ⟨.slotBusy, 0x3E000, 1, .both, 1, .normal, none⟩ }
    (up.bpu.intercepts.length ≤ 8 ∧ escrowValue up < 0x100000000 ∧
      up.cnu.escrow.length + up.cnu.chute.length ≤ 8 ∧ up.adu.nextCall < 0x100000000 ∧
      up.inu.records.length < 65536 ∧ up.tru.clock = none ∧ up.cfl.fault = none) ∧
    (s.bpu.intercepts.length ≤ 8 ∧ s.tru.clock = some ⟨99, 12, 31, 23, 59, 59⟩ ∧ s.cfl.skip < 65536 ∧
      s.cfl.fault = some (.missing, 255) ∧ s.adu.nextCall < 0x100000000) := by decide +kernel

/-- No call, one before its first interval, one whose interval ends at the last second the word holds,
and one in grace. -/
theorem witness_RatingFieldsShown :
    let far := { call with phase := .charging, band := some 3, finish := some 65535 }
    let grace := { call with phase := .grace, graceDeadline := some 70 }
    (up.rtu.ctx = none ∧ up.rtu.carry < 0x100000000) ∧
    ((calling .dialling).rtu.ctx = some call ∧ call.cls < 256 ∧ call.band = none ∧ call.finish = none ∧
      call.phase ≠ .grace ∧ call.cin + (call.roll.map (·.value)).sum - call.consumed < 0x100000000) ∧
    (({ charging with rtu.ctx := some far } : State).rtu.ctx = some far ∧ far.band = some 3 ∧
      far.finish = some 65535 ∧ 65535 * 1000 ≤ charging.rtu.ms + 65535000) ∧
    (({ charging with rtu.ctx := some grace } : State).rtu.ctx = some grace ∧ grace.phase = .grace ∧
      grace.graceDeadline = some 70) := by decide +kernel

/-- A record of 23:59:59 outside every window, one with no clock, and none. -/
theorem witness_OldestInterceptShown :
    let r : Intercept := ⟨.saveRefused, 0x9FFFE, 1, .low, 255, .lockout, some 86399⟩
    let s := { up with bpu.intercepts := [r, { r with seconds := none }] }
    up.bpu.intercepts = [] ∧
    (s.bpu.intercepts = r :: [{ r with seconds := none }] ∧ r.addr < 0x100000000 ∧ r.index < 256 ∧
      r.seconds = some 86399) ∧
    (({ s with bpu.intercepts := [{ r with seconds := none }] } : State).bpu.intercepts =
      { r with seconds := none } :: [] ∧ ({ r with seconds := none } : Intercept).seconds = none) := by
  decide +kernel

/-- A tally and an attribute at their greatest values. -/
theorem witness_TallyAreaLayout :
    let s := { up with adu.cache.credited := 0xFFFFFFFF, adu.cache.attrs.nvRetries := ⟨65535, 255, true⟩ }
    s.adu.cache.credited < 0x100000000 ∧ s.adu.cache.attrs.nvRetries.total < 65536 ∧
      s.adu.cache.attrs.nvRetries.level < 256 := by decide +kernel

theorem witness_UndecodedPasses :
    (BusReady up ∧ arrivesGranted up = true ∧ memKind 0x40000 = none ∧ windowAt up 0x40000 = none) ∧
    (memKind 0xFFFFE = none ∧ windowAt up 0xFFFFE = none) := by decide +kernel

/-- A word held already, one before a table is installed, and in a save words to an undecoded address,
in no window, in PLAIN, beyond the slots of REQUEST and in a free slot. -/
theorem witness_WordsHeldOnTheWaitLine :
    let held := { up with bpu.cycle := some ⟨true, 0x3E200, 0, .both, some 0x3E200⟩ }
    let early := { State.reset with powered := true }
    let saving := { up with pfu.power := .saving, pfu.save := [(0x82800, 0)] }
    let w : Window := ⟨.request, 0x3E000, 0x140, 1⟩
    (held.powered = true ∧ held.bpu.cycle.isSome = true) ∧
    (early.powered = true ∧ early.bpu.cycle = none ∧ early.bpu.table = none) ∧
    BusReady saving ∧ saving.pfu.power = .saving ∧ saving.pfu.save ≠ [] ∧ memKind 0x40000 = none ∧
      (memKind 0x3FFFE = some .ram ∧ windowAt saving 0x3FFFE = none) ∧
      (memKind 0x3E2FE = some .ram ∧
        (windowAt saving 0x3E2FE).map (·.kind) = some .plain) ∧
      (memKind 0x3E100 = some .ram ∧ windowAt saving 0x3E100 = some w ∧ 0x100 ≤ 0x3E100 - w.base) ∧
      (memKind 0x3E0FE = some .ram ∧ windowAt saving 0x3E0FE = some w ∧
        saving.bpu.busy.get ((0x3E0FE - w.base) / 0x40) = false) := by decide +kernel

/-- Each cause, with fewer than 8 records and with 8. -/
theorem witness_BlockedWriteRecorded :
    let full :=
      { up with
        bpu.intercepts := List.replicate 8 ⟨.slotBusy, 0x3E000, 1, .both, 1, .normal, none⟩
        bpu.busy := ⟨true, false, false, false⟩ }
    let saved := { up with pfu.power := .saved }
    (BusReady up ∧ WriteBlocked up 0x82800 .writeBlocked ∧ WriteBlocked up 0x827FE .writeBlocked ∧
      WriteBlocked up 0x3E186 .statusWrite ∧ up.bpu.intercepts.length < 8) ∧
    (BusReady full ∧ WriteBlocked full 0x3E03E .slotBusy ∧ 8 ≤ full.bpu.intercepts.length) ∧
    (BusReady saved ∧ WriteBlocked saved 0x80000 .saveRefused) := by
  refine ⟨⟨by decide +kernel, .inr ⟨by decide +kernel, ⟨.tally, 0x82800, 0x100, 5⟩, by decide +kernel⟩,
    .inr ⟨by decide +kernel, ⟨.tariff, 0x80800, 0x2000, 3⟩, by decide +kernel⟩,
    .inr ⟨by decide +kernel, ⟨.status, 0x3E180, 0x80, 2⟩, by decide +kernel⟩, by decide +kernel⟩,
    ⟨by decide +kernel, .inr ⟨by decide +kernel, ⟨.request, 0x3E000, 0x140, 1⟩, by decide +kernel⟩,
      by decide +kernel⟩, by decide +kernel, .inl (by decide +kernel)⟩

/-- A word granted before the save ends in it: the ACU holds its notice, and takes it when the power state
returns to RUNNING (R18, R172). -/
theorem test_notice_held_through_a_save :
    let s :=
      { up with
        acu.mode := .service
        acu.ms := 9
        pfu.power := .saved
        pfu.warning := true
        bpu.cycle := some ⟨true, 0x80002, 5, .both, some 0x80002⟩ }
    let t := nx .portGrant s
    t.held = [.passingWrite false] ∧ t.acu = s.acu ∧ t.mem.word 0x80002 = 5 ∧
      (nx .warningCleared t).acu.lapse = some (9 + 30 * 60000) := by decide +kernel

/-- The last table puts a TARIFF window into RAM, where alone a write that passes is judged by its window
out of RUNNING. -/
theorem witness_WriteReachesMemory :
    let serving := { up with acu.mode := .service }
    let odd : Window := ⟨.tariff, 0x3E000, 0x100, 0⟩
    let saved := { serving with pfu.power := .saved, bpu.table := some [odd] }
    (BusReady up ∧ arrivesGranted up = true ∧ up.mem.wf = true ∧ JudgedByWindow up 0x3E100 ∧
      windowAt up 0x3E100 = some ⟨.request, 0x3E000, 0x140, 1⟩ ∧ 0x100 ≤ 0x3E100 - 0x3E000 ∧
      JudgedByWindow up 0x3E0FE ∧ windowAt up 0x3E0FE = some ⟨.request, 0x3E000, 0x140, 1⟩ ∧
      up.bpu.busy.get ((0x3E0FE - 0x3E000) / 0x40) = false ∧ (0x3E0FE - 0x3E000) % 0x40 ≠ 0) ∧
    (BusReady serving ∧ arrivesGranted serving = true ∧ serving.acu.mode = .service ∧
      JudgedByWindow serving 0x827FC ∧
      windowAt serving 0x827FC = some ⟨.tariff, 0x80800, 0x2000, 3⟩ ∧ 0x827FC ≠ 0x80800 + 0x2000 - 2) ∧
    (JudgedByWindow serving 0x807FE ∧
      windowAt serving 0x807FE = some ⟨.config, 0x80000, 0x800, 4⟩ ∧
      serving.pfu.power = .running) ∧
    (BusReady saved ∧ arrivesGranted saved = true ∧ JudgedByWindow saved 0x3E000 ∧
      windowAt saved 0x3E000 = some odd ∧ saved.acu.mode = .service ∧ 0x3E000 ≠ 0x3E0FE ∧
      saved.pfu.power ≠ .running) := by decide +kernel

/-- In service; in STARTING with the port the RQU's and with a word before it on the port, the queue
empty and not; and a busy slot. -/
theorem witness_RequestPosted :
    let w : Window := ⟨.request, 0x3E000, 0x140, 1⟩
    let starting' := { up with cfl.step := .settle }
    let behind := writing (.checkWord 9) .home [(0x827FE, 9)]
    let behind := { behind with cfl.step := .settle }
    (BusReady up ∧ arrivesGranted up = true ∧ up.mem.wf = true ∧ (1 : Word) ≠ 0 ∧
      windowOf .request up = some w ∧ windowAt up (w.base + 0x40 * 3) = some w ∧
      memKind 0x3E0C0 = some .ram ∧ memKind 0x3E0C1 = some .ram ∧ up.bpu.busy.get 3 = false ∧
      starting up = false) ∧
    (BusReady starting' ∧ arrivesGranted starting' = true ∧ starting starting' = true ∧
      starting'.rqu.queue = [] ∧ starting'.rqu.service = none ∧ portReaches .rqu starting' = true ∧
      starting'.bpu.busy.get 0 = false ∧ (1 : Word).toNat = 1 ∧ (2 : Word).toNat ≠ 1) ∧
    (BusReady behind ∧ arrivesGranted behind = true ∧ starting behind = true ∧
      behind.rqu.queue = [] ∧ behind.rqu.service = none ∧ portReaches .rqu behind = false) ∧
    ({ starting' with rqu.queue := [1] } : State).rqu.queue ≠ [] ∧
    ({ up with bpu.busy := ⟨true, false, false, false⟩ } : State).bpu.busy.get 0 = true := by
  decide +kernel

theorem witness_StatusWordsTaken :
    let w : Window := ⟨.status, 0x3E180, 0x80, 2⟩
    let s := { up with bpu.intercepts := [⟨.slotBusy, 0x3E000, 1, .both, 1, .normal, none⟩] }
    BusReady s ∧ windowOf .status s = some w ∧ w.kind = .status ∧
      windowAt s (w.base + 0) = some w ∧ memKind (w.base + 0) = some .ram ∧
      windowAt s (w.base + 2) = some w ∧ memKind (w.base + 2) = some .ram ∧
      windowAt s (w.base + 4) = some w ∧ memKind (w.base + 4) = some .ram ∧
      s.bpu.intercepts = [⟨.slotBusy, 0x3E000, 1, .both, 1, .normal, none⟩] ∧
      up.bpu.intercepts = [] := by decide +kernel

theorem witness_ControllerResetActs :
    (up.powered = true ∧ up.pfu.power = .running ∧ up.acu.mode = .normal) ∧
      ({ up with acu.mode := .frozen } : State).acu.mode = .frozen ∧
      ({ up with acu.mode := .service } : State).acu.mode = .service ∧
      ({ up with acu.mode := .frozen, pfu.power := .saving } : State).pfu.power ≠ .running := by
  decide +kernel

theorem witness_ProbeAnswers :
    let v := asked kindProbe [0xF, 0xFFFF, 1]
    let x := asked kindProbe [0x10, 0, 0]
    (InService kindProbe v (req kindProbe [0xF, 0xFFFF, 1] up) ∧
      param v.params 1 * 65536 + param v.params 2 ≤ 0xFFFFF ∧ param v.params 3 ≤ 1) ∧
    InService kindProbe x (req kindProbe [0x10, 0, 0] up) ∧
      0xFFFFF < param x.params 1 * 65536 + param x.params 2 := by decide +kernel

/-- Kinds 18 and 19 in service; a request in service, a word before the RQU's; a slot whose sequence word
waits, to be refused and not, and one whose last parameter waits; and in STARTING a DIAL and another kind
that come to the head unread. -/
theorem witness_RequestTaken :
    let s := { up with rqu.queue := [3], mem := [(0x3E0C1, 18)] }
    let odd := { up with rqu.queue := [3], mem := [(0x3E0C1, 19)] }
    let busy := { s with rqu.service := some (asked 18 []) }
    let behind := { s with bpu.cycle := some ⟨true, 0x3E200, 0, .both, some 0x3E200⟩ }
    let dial := { s with cfl.step := .settle, rqu.unread := true, mem := [(0x3E0C1, 1)] }
    let other := { dial with mem := [(0x3E0C1, 18)] }
    let part (k n : Nat) (p : ServicePhase) : Service := ⟨3, wordOf k, 0, List.replicate n 0, p⟩
    let reading (v : Service) : State := { up with rqu.service := some v }
    let a := 0x3E000 + 0x40 * 3
    (s.powered = true ∧ s.rqu.queue = [3] ∧ baseOf .request s + 0x40 * 3 = a ∧
      s.rqu.service = none ∧ starting s = false ∧ portReaches .rqu s = true ∧
      1 ≤ (s.mem.word a).toNat ∧ (s.mem.word a).toNat ≤ 18) ∧
    ¬(odd.mem.word a).toNat ≤ 18 ∧
    (busy.powered = true ∧ busy.rqu.service = some (asked 18 []) ∧ (asked 18 []).phase = .handed) ∧
    (reading (part 18 0 (.seqWord false))).rqu.service = some (part 18 0 (.seqWord false)) ∧
    portReaches .rqu (reading (part 18 0 (.seqWord false))) = true ∧
    portReaches .rqu (reading (part 19 0 (.seqWord false))) = true ∧
    portReaches .rqu (reading (part 1 0 (.seqWord true))) = true ∧
    (portReaches .rqu (reading (part 18 25 .paramWords)) = true ∧
      (part 18 25 .paramWords).params.length < 26) ∧
    (behind.rqu.queue = [3] ∧ portReaches .rqu behind = false) ∧
    (dial.powered = true ∧ dial.rqu.queue = [3] ∧ dial.rqu.service = none ∧
      starting dial = true ∧ dial.rqu.unread = true ∧ portReaches .rqu dial = true ∧
      (dial.mem.word a).toNat = 1) ∧
    (starting other = true ∧ portReaches .rqu other = true ∧ (other.mem.word a).toNat ≠ 1) ∧
    ({ other with rqu.unread := false } : State).rqu.unread = false := by
  decide +kernel

/-- A completion and an abandoning at their last words; in STARTING with a DIAL and with another kind
behind; and while a save has the port. -/
theorem witness_SlotsCompleted :
    let v : Service := ⟨2, 18, 7, [], .answered ⟨1, 4, 5, 6⟩ 5⟩
    let s := { up with rqu.service := some v, rqu.abandon := [⟨1, 4⟩] }
    let dial := { s with cfl.step := .settle, rqu.queue := [3], mem := [(0x3E0C1, 1)] }
    let done (t : State) : Memory := t.mem.storeAll [(0x3E080, 0)]
    (s.powered = true ∧ portReaches .rqu s = true ∧ starting s = false ∧ s.rqu.service = some v ∧
      v.phase = .answered ⟨1, 4, 5, 6⟩ 5 ∧ 5 < 6 ∧ s.rqu.abandon = [⟨1, 4⟩] ∧ 4 < 5) ∧
    (portReaches .rqu dial = true ∧ starting dial = true ∧ dial.rqu.queue = [3] ∧
      ((done dial).word 0x3E0C0).toNat = 1) ∧
    ((done { dial with mem := [] }).word 0x3E0C0).toNat ≠ 1 ∧
    portReaches .rqu { s with pfu.power := .saving, pfu.save := [(0x82800, 0)] } = false := by
  decide +kernel

theorem witness_MemoryReadAfterWrite :
    Memory.wf [] = true ∧ 0x9FFFE % 2 = 0 ∧ (memKind 0x9FFFE).isSome = true := by decide +kernel

theorem witness_PortReached :
    let saving := { up with pfu.power := .saving, pfu.save := [(0x82800, 0)] }
    (up.powered = true ∧ (∀ p : Party, waits p up = false)) ∧
      waits .pfu saving = true ∧ portReaches .controller saving = false := by
  refine ⟨⟨rfl, fun p => ?_⟩, by decide +kernel, by decide +kernel⟩
  cases p <;> decide +kernel

/-- A read, an undecoded one, a write beyond the slots of REQUEST, and a post: in service, and in
STARTING with the RQU's word reached and not. -/
theorem witness_ControllerWordGranted :
    let w : Window := ⟨.request, 0x3E000, 0x140, 1⟩
    let reading : Cycle := ⟨false, 0x3E200, 0, .high, some 0x3E200⟩
    let off : Cycle := ⟨false, 0x40000, 0, .both, some 0x40000⟩
    let beyond : Cycle := ⟨true, 0x3E100, 5, .low, some 0x3E100⟩
    let post : Cycle := ⟨true, 0x3E0C0, 1, .both, some 0x3E0C0⟩
    let holding (c : Cycle) : State := { up with bpu.cycle := some c }
    let dial := { holding post with cfl.step := .settle }
    let behind := { dial with tru.check := some ⟨[], 1, false, false, false⟩ }
    let mem := dial.mem.store 0x3E0C0 1 .both
    ((holding reading).powered = true ∧ (holding reading).pfu.power ≠ .saving ∧
      (memKind 0x3E200).isSome = true) ∧
    ((holding off).pfu.power ≠ .saving ∧ memKind 0x40000 = none) ∧
    (windowAt (holding beyond) beyond.addr = some w ∧ w.kind = .request ∧
      ¬beyond.addr - w.base < 0x100) ∧
    (windowAt (holding post) post.addr = some w ∧ post.addr - w.base < 0x100 ∧
      (post.addr - w.base) % 0x40 = 0 ∧ post.data ≠ 0 ∧
      (holding post).bpu.busy.get ((post.addr - w.base) / 0x40) = false ∧
      starting (holding post) = false) ∧
    (starting dial = true ∧ dial.rqu.queue = [] ∧ dial.rqu.service = none ∧
      portReaches .rqu { dial with bpu.cycle := none } = true ∧
      (mem.word (baseOf .request dial + 0x40 * 3)).toNat = 1) ∧
    (((mem.store 0x3E0C0 2 .both).word (baseOf .request dial + 0x40 * 3)).toNat ≠ 1) ∧
    (starting behind = true ∧ behind.rqu.queue = [] ∧ behind.rqu.service = none ∧
      portReaches .rqu { behind with bpu.cycle := none } = false) := by decide +kernel

/-- Two words of a save and its last; the word over the validity word, in SAVED and at step 5; and the
word written once more, with the warning still asserted and without. -/
theorem witness_PowerWordsGranted :
    let saving := { up with pfu.power := .saving, pfu.save := [(0x82800, 0), (0x82802, 1)] }
    let last := { up with pfu.power := .saving, pfu.save := [(0x82802, 1)], pfu.warning := true }
    let saved := { up with pfu.power := .saved, pfu.wroteValidity := true }
    let back := { saved with pfu.unsave := some ⟨.write, true⟩ }
    let step5 := { up with cfl.step := .settle, pfu.step5 := .invalidate .write }
    let again := { saved with pfu.again := true }
    let context (n : Nat) : State := { up with cfl.step := .tariff, pfu.contextRead := n }
    (saving.powered = true ∧ saving.pfu.power = .saving ∧
      saving.pfu.save = [(0x82800, 0), (0x82802, 1)]) ∧
    (last.pfu.power = .saving ∧ last.pfu.save = [(0x82802, 1)] ∧ last.pfu.warning = true) ∧
    (back.pfu.save = [] ∧ waits .controller back = false ∧ back.pfu.again = false ∧
      back.pfu.unsave = some ⟨.write, true⟩) ∧
    (step5.pfu.save = [] ∧ waits .controller step5 = false ∧ step5.pfu.again = false ∧
      step5.pfu.unsave = none ∧ step5.pfu.step5 = .invalidate .write ∧ step5.pfu.power = .running) ∧
    (again.pfu.save = [] ∧ waits .controller again = false ∧ again.pfu.again = true ∧
      again.pfu.warning = false ∧ again.pfu.wroteValidity = true) ∧
    ({ again with pfu.warning := true } : State).pfu.warning = true ∧
    ({ back with pfu.unsave := some ⟨.read, false⟩ } : State).pfu.unsave = some ⟨.read, false⟩ ∧
    ({ step5 with pfu.step5 := .invalidate .read } : State).pfu.step5 = .invalidate .read ∧
    ((context 99).pfu.save = [] ∧ waits .controller (context 99) = false ∧
      (context 99).pfu.again = false ∧ (context 99).pfu.unsave = none ∧
      (context 99).pfu.step5 = .idle ∧ (context 99).pfu.power = .running ∧
      (context 99).cfl.step = .tariff ∧ (context 99).cfl.fault = none ∧
      (context 99).tru.compare = none ∧ (context 99).pfu.contextRead < 100) := by decide +kernel

/-- The tally area's last word, which ends no slot; the last words of the first and the last call slot and
of the last incident slot, blank and, the last, good; and a second reading's last word. -/
theorem witness_LoadWordGranted :
    let good := Memory.storeAll [] (placed 0x887E0 (incidentWords (record .cordCut .reporting)))
    let at' (n again : Nat) (m : Memory) : State :=
      { up with cfl.step := .audit, adu.loaded := n, adu.rereading := again, mem := m }
    let slot (log : LogId) (k : Nat) (m : Memory) : Bool :=
      let s := at' 0 0 m
      crcGood (slotWords log k (loadRemap s))
    let s := at' 48 0 []
    (s.powered = true ∧ s.cfl.step = .audit ∧ s.cfl.fault = none ∧ s.pfu.power = .running ∧
      s.adu.run = none ∧ waits .controller s = false ∧ waits .pfu s = false ∧
      s.adu.rereading = 0 ∧ 48 + 1 ≤ 9297) ∧
    (112 + 1 = 49 + 32 + 32 * (0 + 1) ∧ 8272 + 1 = 49 + 32 + 32 * (255 + 1) ∧
      9296 + 1 = 49 + 32 + 8192 + 16 * (63 + 1)) ∧
    (slot .call 0 [] = false ∧ slot .call 255 [] = false ∧ slot .incident 63 [] = false ∧
      slot .incident 63 good = true) ∧
    (at' 113 1 []).adu.rereading ≠ 0 := by decide +kernel

/-- R16, R160: the words of a blank slot are read once more, and those of a good one are not. -/
theorem test_load_rereads_a_bad_slot :
    let good := Memory.storeAll [] (placed 0x887E0 (incidentWords (record .cordCut .reporting)))
    let at' (n again : Nat) (m : Memory) : State :=
      { up with cfl.step := .audit, adu.loaded := n, adu.rereading := again, mem := m }
    let counts (s : State) := ((nx .portGrant s).adu.loaded, (nx .portGrant s).adu.rereading)
    counts (at' 112 0 []) = (113, 32) ∧ counts (at' 113 32 []) = (113, 31) ∧
      counts (at' 9296 0 []) = (9297, 16) ∧ counts (at' 9296 0 good) = (9297, 0) ∧
      waits .adu (at' 9297 0 []) = false ∧ waits .adu (at' 9297 1 []) = true := by decide +kernel

/-- A first write in RUNNING, a retry out of it, and a read-back. -/
theorem witness_WriterWordGranted :
    let r : Run := ⟨.checkWord 9, .home, [(0x827FE, 9)], .write, 0, 0, false⟩
    let at' (r : Run) : State := { up with adu.run := some r }
    let retry := { at' { r with tries := 1, begun := true } with pfu.power := .saved }
    ((at' r).powered = true ∧ r.todo = [(0x827FE, 9)] ∧ waits .controller (at' r) = false ∧
      waits .pfu (at' r) = false ∧ r.stage = .write ∧ (at' r).pfu.power = .running) ∧
    (waits .controller retry = false ∧ waits .pfu retry = false ∧ retry.pfu.power ≠ .running) ∧
    { r with stage := .read, begun := true : Run }.stage = .read := by decide +kernel

/-- A check, the comparison, and the analysis of a DIAL to a number of two digits. -/
theorem witness_TariffWordGranted :
    let check := { up with tru.check := some ⟨[], 1, false, false, false⟩ }
    let compared := { up with tru.compare := some [] }
    let dialling := req kindDial [2, 5, 5] { up with lnu.state := .ready }
    let quiet (s : State) : Prop :=
      waits .controller s = false ∧ waits .pfu s = false ∧ waits .adu s = false
    (check.powered = true ∧ quiet check ∧ check.tru.check = some ⟨[], 1, false, false, false⟩) ∧
    (quiet compared ∧ compared.tru.check = none ∧ compared.tru.compare = some [] ∧
      compared.pfu.power = .running ∧ 0 < checkedWords compared + 1) ∧
    let last := { dialling with tru.analysed := analysisSize [5, 5] dialling - 1 }
    (quiet dialling ∧ dialling.tru.check = none ∧ dialling.tru.compare = none ∧
      numberInHand dialling = some [5, 5] ∧
      dialling.tru.analysed < analysisSize [5, 5] dialling) ∧
    (quiet last ∧ numberInHand last = some [5, 5] ∧
      last.tru.analysed < analysisSize [5, 5] last ∧
      analysisSize [5, 5] last ≤ last.tru.analysed + 1) := by decide +kernel

/-- A completion's word before the last and the last; an abandoning's; a head to be judged in STARTING and
one to be taken; a sequence word and the 26th parameter of a slot; and two of them outstanding together. -/
theorem witness_RequestWordGranted :
    let v (n : Nat) : Service := ⟨2, 18, 7, [], .answered ⟨1, 4, 5, 6⟩ n⟩
    let at' (n : Nat) : State := { up with rqu.service := some (v n) }
    let last := { at' 5 with cfl.step := .settle, rqu.queue := [3] }
    let dropping (n : Nat) : State := { up with rqu.abandon := [⟨1, n⟩] }
    let head :=
      { up with cfl.step := .settle, rqu.unread := true, rqu.queue := [3], mem := [(0x3E0C1, 1)] }
    let taking := { head with cfl.step := .done }
    let part (n : Nat) (p : ServicePhase) : Service := ⟨3, 18, 0, List.replicate n 0, p⟩
    let reading (n : Nat) (p : ServicePhase) : State := { up with rqu.service := some (part n p) }
    let quiet (s : State) : Prop :=
      waits .controller s = false ∧ waits .pfu s = false ∧ waits .adu s = false ∧
        waits .tru s = false
    ((at' 4).powered = true ∧ quiet (at' 4) ∧ (at' 4).rqu.abandon = [] ∧
      (at' 4).rqu.service = some (v 4) ∧ (v 4).phase = .answered ⟨1, 4, 5, 6⟩ 4 ∧ 4 < 6) ∧
    (quiet last ∧ last.rqu.service = some (v 5) ∧ starting last = true ∧ last.rqu.queue ≠ []) ∧
    (quiet (dropping 3) ∧ (dropping 3).rqu.abandon = [⟨1, 3⟩] ∧ (dropping 3).rqu.service = none ∧
      starting (dropping 3) = false ∧ (dropping 4).rqu.abandon = [⟨1, 4⟩]) ∧
    (quiet head ∧ head.rqu.abandon = [] ∧ starting head = true ∧ head.rqu.unread = true ∧
      head.rqu.service = none ∧ head.rqu.queue = [3]) ∧
    (quiet taking ∧ taking.rqu.service = none ∧ starting taking = false ∧
      taking.rqu.queue = [3]) ∧
    (quiet (reading 0 (.seqWord true)) ∧ (part 0 (.seqWord true)).phase = .seqWord true) ∧
    (quiet (reading 25 .paramWords) ∧ (part 25 .paramWords).params.length < 26) ∧
    (quiet { at' 4 with rqu.abandon := [⟨1, 3⟩] } ∧ quiet { head with rqu.abandon := [⟨1, 3⟩] }) := by
  decide +kernel

/-- A walk's word, and a preload tuple behind one that is skipped. -/
theorem witness_ConfigurationWordGranted :
    let walking := { up with cfl.walk := some (Walk.start 0x80000 0x80800 true) }
    let loading := { up with cfl.preload := some ([(0x3E201, 1)] ++ (0x3E2FE, 2) :: []) }
    let quiet (s : State) : Prop :=
      waits .controller s = false ∧ waits .pfu s = false ∧ waits .adu s = false ∧
        waits .tru s = false ∧ waits .rqu s = false
    (walking.powered = true ∧ walking.pfu.power = .running ∧ quiet walking ∧
      walking.cfl.walk = some (Walk.start 0x80000 0x80800 true) ∧
      (Walk.start 0x80000 0x80800 true).stage ≠ .ended) ∧
    (loading.pfu.power = .running ∧ quiet loading ∧ loading.cfl.walk = none ∧ 0x3E201 % 2 = 1 ∧
      0x3E2FE % 2 = 0 ∧ 0x3E2FE < 0x40000 ∧
      (windowAt loading 0x3E2FE).map (·.kind) = some .plain) := by decide +kernel

/-! ### Start-up and configuration -/

/-- A window descriptor of a chain whose next descriptor stands at `link`. -/
def windowDesc (link : Word) (k : WindowKind) (base size : Nat) : List Word :=
  [0, link, 1, 5, wordOf k.code, wordOf (base / 65536), wordOf base, wordOf (size / 65536), wordOf size]

/-- The nine required windows and COINS, as a chain from the anchor (R20 to R23). -/
def image : List Word :=
  [0x4B44, 0, 6] ++ windowDesc 24 .request 0x3E000 0x140 ++ windowDesc 42 .status 0x3E180 0x80 ++
    windowDesc 60 .tariff 0x80800 0x2000 ++ windowDesc 78 .config 0x80000 0x800 ++
    windowDesc 96 .tally 0x82800 0x100 ++ windowDesc 114 .callLog 0x84000 0x4000 ++
    windowDesc 132 .incidentLog 0x88000 0x800 ++ windowDesc 150 .context 0x88800 0x100 ++
    windowDesc 168 .spare 0x88900 0x240 ++
    [0, 0, 2, 13, 10, 1, 20, 1, 5, 0, 50, 1, 100, 1, 200, 1, 0]

/-- Power-on over that image. -/
def imaged : State := { State.reset with mem := Memory.storeAll [] (placed 0x80000 image) }

theorem test_chainWalkDone :
    let t := nx .chainWalkDone imaged
    t.cfl.step = .preload ∧ t.cfl.fault = none ∧ t.bpu.table.map (·.length) = some 9 ∧
      t.cfl.params.readyTimeout = 60 := by decide +kernel

theorem test_chainWalkDone_blank :
    let t := nx .chainWalkDone State.reset
    t.cfl.fault = some (.badAnchor, 0xFF) ∧ windowAt t 0x9FFFE = some ⟨.config, 0x80000, 0x20000, 2⟩ ∧
      t.held = [.occurrence .configFault 0] := by decide +kernel

theorem test_preloadDone :
    let t := nx .preloadDone { up with
      cfl.step := .preload
      cfl.preload := some [(0x3E200, 0x1234), (0x3E201, 1), (0x80000, 1)] }
    t.mem = [(0x3E200, 0x12), (0x3E201, 0x34)] ∧ t.cfl.skip = 2 ∧ t.cfl.step = .audit := by
  decide +kernel

/-- The start-up's step 3 in config fault, where no log is read. -/
def auditing : State :=
  { up with
    cfl.step := .audit
    cfl.fault := some (.length, 3)
    inu.rebuilt := false
    inu.doorOpen := true }

theorem test_startupAuditLoadDone :
    let t := nx (.startupAuditLoadDone [] []) auditing
    t.cfl.step = .tariff ∧ t.adu.nextCall = 1 ∧ t.adu.suspect = true ∧ t.inu.rebuilt = true ∧
      latched t.inu.latches .cashDoorOpen = true := by decide +kernel

/-- The start-up's step 4 over a TARIFF window of two words. -/
def comparing (check : Word) : State :=
  { up with
    tru.compare := some []
    bpu.table := some [⟨.tariff, 0x80800, 4, 0⟩, ⟨.context, 0x88800, 0x100, 1⟩]
    cfl.step := .tariff
    mem := Memory.storeAll [] (placed 0x80800 [100, check]) }

theorem test_tariffCompareDone :
    let t := nx .tariffCompareDone (comparing (crc [100]))
    t.tru.valid = true ∧ starting t = false ∧ t.lnu.state = .idle := by decide +kernel

theorem test_tariffCompareDone_bad :
    let t := nx .tariffCompareDone { comparing 0 with tru.valid := false }
    t.tru.valid = false ∧ latched t.inu.latches .tariffInvalid = true := by decide +kernel

/-- RELOAD_CONFIG in SERVICE. -/
def reloading : State := req kindReloadConfig [] { up with acu.mode := .service }

theorem test_reloadConfig :
    let t := nx .reloadConfig reloading
    t.cfl.reloading = true ∧ t.rqu.service = some (asked kindReloadConfig []).accepted ∧
      code (nx .reloadConfig (req kindReloadConfig [] up)) = some 6 := by decide +kernel

theorem test_reloadWalkDone_bad :
    let t := nx .reloadWalkDone (nx .reloadConfig reloading)
    code t = some 20 ∧ results t = [0xFF, 1, 0] ∧ t.cfl.params = given := by decide +kernel

theorem test_reloadWalkDone_good :
    let t := nx .reloadWalkDone (nx .reloadConfig { reloading with mem := imaged.mem })
    t.cfl.params.code = none ∧ t.bpu.table = some windows ∧ code t = none := by decide +kernel

theorem test_reloadPreloadDone :
    let t := nx .reloadPreloadDone
      (nx .reloadWalkDone (nx .reloadConfig { reloading with mem := imaged.mem }))
    code t = some 2 ∧ t.cfl.reloading = false := by decide +kernel

/-- A good image, one with a word on the wait line, a blank NV, one with a word on the wait line, a walk that
is over, and one that the abandoning of a slot stands before. -/
theorem witness_ConfigurationInstalled :
    let waiting := { imaged with bpu.cycle := some ⟨false, 0x3E000, 0, .both, none⟩ }
    let k := Walk.start 0x80000 0x80800 true
    let read : State := { imaged with cfl.walk := some { k with stage := .ended } }
    let behind : State := { imaged with rqu.abandon := [⟨0, 0⟩] }
    let blank : State := { State.reset with bpu.cycle := waiting.bpu.cycle }
    (imaged.powered = true ∧ imaged.cfl.step = .walk ∧ imaged.cfl.walk = some k ∧
      imaged.pfu.power = .running ∧ portReaches .cfl imaged = true ∧
      (k.finish imaged.mem).outcome = none ∧ imaged.bpu.cycle = none) ∧
    (waiting.cfl.step = .walk ∧ waiting.cfl.walk = some k ∧ portReaches .cfl waiting = true ∧
      (k.finish waiting.mem).outcome = none ∧ waiting.bpu.cycle.isSome = true) ∧
    (State.reset.cfl.walk = some k ∧ portReaches .cfl State.reset = true ∧
      (k.finish State.reset.mem).outcome = some (.badAnchor, 0xFF) ∧
      State.reset.bpu.cycle = none ∧ State.reset.inu.rebuilt = false) ∧
    (blank.powered = true ∧ blank.cfl.step = .walk ∧ blank.cfl.walk = some k ∧
      blank.pfu.power = .running ∧ portReaches .cfl blank = true ∧
      (k.finish blank.mem).outcome = some (.badAnchor, 0xFF) ∧
      blank.bpu.cycle = some ⟨false, 0x3E000, 0, .both, none⟩ ∧ blank.inu.rebuilt = false) ∧
    read.cfl.walk.map (·.stage) = some .ended ∧
    (behind.cfl.walk = some k ∧ k.stage ≠ .ended ∧ portReaches .cfl behind = false) := by
  decide +kernel

/-- A first offset of 0, of 1, of 800h and of 4. -/
theorem witness_AnchorJudged :
    let anchor (off : Word) : Memory := Memory.storeAll [] (placed 0x80000 [0x4B44, 0, off])
    Memory.word [] 0x80000 ≠ 0x4B44 ∧ (anchor 0).word 0x80000 = 0x4B44 ∧
      value32 ((anchor 0).word 0x80002) ((anchor 0).word 0x80004) = 0 ∧
      value32 ((anchor 1).word 0x80002) ((anchor 1).word 0x80004) = 1 ∧
      value32 ((anchor 0x800).word 0x80002) ((anchor 0x800).word 0x80004) = 0x800 ∧
      value32 ((anchor 4).word 0x80002) ((anchor 4).word 0x80004) = 4 := by decide +kernel

/-- A walk at the header of a descriptor 6 bytes behind the anchor. -/
def header (idx : Nat) (found : List Found) : Walk :=
  { Walk.start 0x80000 0x80800 true with
    stage := .header, next := 0x80006, off := 6, idx := idx, found := found }

/-- A descriptor at that place: its link, kind, length and body. -/
def descriptor (link kind len : Word) (body : List Word) : Memory :=
  Memory.storeAll [] (placed 0x80006 ([0, link, kind, len] ++ body))

/-- A COINS descriptor that has been found. -/
def coins : Found := ⟨2, 0, [10, 1, 20, 1, 5, 0, 50, 1, 100, 1, 200, 1, 0]⟩

theorem test_walk_judges_a_descriptor :
    let out (idx : Nat) (found : List Found) (m : Memory) := ((header idx found).finish m).outcome
    out 1 [] (descriptor 0 8 0x3FD [0]) = some (.offsetRange, 1) ∧
      out 1 [] (descriptor 0 8 2 [9, 9]) = some (.length, 1) ∧
      out 1 [⟨8, 0, [9]⟩] (descriptor 0 8 1 [9]) = some (.duplicate, 1) ∧
      out 1 [] (descriptor 0 8 1 [248]) = some (.field, 1) ∧
      out 1 [] (descriptor 0 8 1 [247]) = some (.missing, 0xFF) ∧
      out 31 [coins] (descriptor 24 11 0 []) = some (.tooMany, 32) ∧
      out 30 [coins] (descriptor 25 11 0 []) = some (.offsetRange, 31) ∧
      out 30 [coins] (descriptor 6 11 0 []) = some (.offsetOrder, 31) := by decide +kernel

/-- A length that ends beyond the range and one that ends at it, a wrong length, a second descriptor of a
kind, a field out of range, a last descriptor with and without COINS, and links at each bound. -/
theorem witness_DescriptorsJudged :
    let k := header 1 []
    let link (m : Memory) : Nat := value32 (m.word 0x80006) (m.word 0x80008)
    let len (m : Memory) : Nat := (m.word 0x8000C).toNat
    let good (m : Memory) : Bool := fieldGood 8 (fun j => (m.word (0x8000E + 2 * j)).toNat) 0
    (k.stage = .header ∧ k.unit = [] ∧ k.verdict = none ∧ k.next = 0x80000 + k.off ∧
      (header 31 [coins]).stage = .header ∧ (header 30 [coins]).idx < 31) ∧
    (¬0x8000E + 2 * len (descriptor 0 8 0x3FA []) ≤ k.hi ∧
      0x8000E + 2 * len (descriptor 0 11 0x3F9 []) ≤ k.hi) ∧
    (len (descriptor 0 8 2 [9, 9]) = 2 ∧ (header 1 [⟨8, 0, [9]⟩]).found.any (·.kind = 8) = true) ∧
    (good (descriptor 0 8 1 [248]) = false ∧ good (descriptor 0 8 1 [247]) = true) ∧
    (link (descriptor 0 8 1 [247]) = 0 ∧ (∀ f ∈ k.found, f.kind ≠ 2) ∧ coins.kind = 2) ∧
    (link (descriptor 25 11 0 []) % 2 ≠ 0 ∧ link (descriptor 0x7FE 11 0 []) = 0x7FE ∧
      0x80000 + 0x7FE < k.hi ∧ ¬0x80000 + link (descriptor 0x800 11 0 []) < k.hi ∧
      link (descriptor 6 11 0 []) ≤ k.off ∧ k.off < link (descriptor 8 11 0 [])) := by decide +kernel

/-- Places within and beyond a count. -/
theorem witness_FieldRanges :
    let w (i : Nat) : Nat := if i = 0 then 4 else 10
    fieldGood 4 w 0 = true ∧ ¬w 0 ≤ 3 ∧ fieldGood 4 w 22 = false ∧ fieldGood 5 w 4 = false ∧
      w 0 < 5 ∧ fieldGood 5 w 5 = true ∧ fieldGood 9 w 4 = false ∧ fieldGood 9 w 5 = true := by
  decide +kernel

theorem witness_WindowsCollected :
    let f : Found := ⟨1, 4, [wordOf WindowKind.spare.code, 8, 0x8900, 0, 0x240]⟩
    f.kind = 1 ∧ f.body = [wordOf WindowKind.spare.code, 8, 0x8900, 0, 0x240] ∧ coins.kind ≠ 1 ∧
      windowDescs [f] = [⟨.spare, 0x88900, 0x240, 4⟩] := by decide +kernel

/-- The window descriptors of the image's nine windows. -/
def nine : List Found :=
  (windows.drop 1).map fun w =>
    ⟨1, w.index, [wordOf w.kind.code, wordOf (w.base / 65536), wordOf w.base, wordOf (w.size / 65536),
      wordOf w.size]⟩

/-- A window more of the set. -/
def more (k : WindowKind) (base size : Nat) : Found :=
  ⟨1, 20, [wordOf k.code, wordOf (base / 65536), wordOf base, wordOf (size / 65536), wordOf size]⟩

/-- A set that passes, one of 13 windows, one with a window beyond RAM, one with a window of no size, one
that overlaps by a word, one with a second STATUS window, and one with none. -/
theorem witness_WindowSetJudged :
    let k (found : List Found) : Walk := { Walk.start 0x80000 0x80800 true with found := found }
    let many := nine ++ (List.range 4).map fun i => more .plain (0x3F000 + 2 * i) 2
    (k nine).verdict = none ∧ (k nine).outcome = none ∧ (k many).outcome = some (.windowSet, 20) ∧
      (windowDescs many)[12]?.isSome = true ∧
      (k (nine ++ [more .plain 0x3FF00 0x102])).outcome = some (.windowSet, 20) ∧
      (k (nine ++ [more .plain 0x3FF00 0])).outcome = some (.windowSet, 20) ∧
      (k (nine ++ [more .plain 0x3E1FE 2])).outcome = some (.windowSet, 20) ∧
      (k (nine ++ [more .status 0x3F000 0x80])).outcome = some (.windowSet, 20) ∧
      (k (nine.drop 1)).outcome = some (.windowSet, 0xFF) := by decide +kernel

/-- An image with one descriptor of COINS, and one with none. -/
theorem witness_ParametersTaken :
    ([coins].find? fun f => f.kind = 2) = some coins ∧ ([coins].find? fun f => f.kind = 9) = none ∧
      (paramsOf [coins]).denoms.length = 6 ∧ (paramsOf []).denoms = [] := by decide +kernel

theorem witness_PreloadWritten :
    let s := { up with cfl.step := .preload, cfl.preload := some [] }
    let v := (asked kindReloadConfig []).accepted
    let r := { up with cfl.reloading := true, cfl.preload := some [], rqu.service := some v }
    let behind := { s with cfl.preload := some [(0x3E200, 1)], rqu.abandon := [⟨0, 0⟩] }
    (portReaches .cfl behind = false ∧
      (memKind 0x3E200 = some .ram ∧ windowAt behind 0x3E200 = some ⟨.plain, 0x3E200, 0x100, 0⟩)) ∧
    (s.powered = true ∧ portReaches .cfl s = true ∧ s.cfl.preload = some [] ∧
      s.cfl.step = .preload ∧ s.pfu.power = .running) ∧
    (r.powered = true ∧ r.cfl.preload = some [] ∧ r.cfl.reloading = true ∧ r.rqu.service = some v ∧
      v.phase = .held ∧ v.kind.toNat = 18) := by decide +kernel

theorem witness_ReloadJudged :
    let v := asked kindReloadConfig []
    let k := Walk.start 0x80000 0x80800 true
    let busy := { reloading with lnu.state := .ready }
    let walking :=
      { up with cfl.reloading := true, cfl.walk := some k, rqu.service := some v.accepted }
    let good := { walking with mem := imaged.mem }
    let p := paramsOf (k.finish good.mem).found
    let filled (n : Nat) : State := { good with adu.cache.boxCoins := n }
    let counted := { good with adu.nextCall := p.logNearFull + 1, cfl.params.logNearFull := 255 }
    (InService kindReloadConfig v (req kindReloadConfig [] up) ∧ up.acu.mode ≠ .service) ∧
    (InService kindReloadConfig v busy ∧ busy.acu.mode = .service ∧ busy.lnu.state ≠ .idle) ∧
    (InService kindReloadConfig v reloading ∧ reloading.acu.mode = .service ∧
      reloading.pfu.power = .running ∧ reloading.lnu.state = .idle ∧ reloading.cnu.escrow = [] ∧
      windowOf .config reloading = some ⟨.config, 0x80000, 0x800, 4⟩) ∧
    portReaches .cfl { walking with rqu.abandon := [⟨0, 0⟩] } = false ∧
    (walking.powered = true ∧ walking.cfl.reloading = true ∧ walking.cfl.walk = some k ∧
      portReaches .cfl walking = true ∧
      (k.finish walking.mem).outcome = some (.badAnchor, 0xFF) ∧
      walking.rqu.service = some v.accepted ∧ v.accepted.phase = .held ∧
      v.accepted.kind.toNat = 18) ∧
    (good.cfl.reloading = true ∧ good.cfl.walk = some k ∧ (k.finish good.mem).outcome = none ∧
      good.inu.rebuilt = true ∧ good.pfu.power = .running) ∧
    (p.boxNearFull ≤ (filled p.boxNearFull).adu.cache.boxCoins ∧
      latched good.inu.latches .cashboxNearFull = false ∧
      p.boxFull ≤ (filled p.boxFull).adu.cache.boxCoins ∧
      latched good.inu.latches .cashboxFull = false) ∧
    (good.adu.cache.boxCoins < p.boxNearFull ∧ good.adu.cache.boxCoins < p.boxFull) ∧
    (p.logNearFull ≤ uncollected counted ∧ uncollected counted < counted.cfl.params.logNearFull) ∧
    ((good.inu.attrs.get .shockPulses).timer = none ∧ (p.attrs.get .shockPulses).decay ≠ 0) := by
  decide +kernel

/-- R33, R65, R128: at the end of a good reload the fill counts are compared and a stopped decay timer starts. -/
theorem test_reload_acts_at_once :
    let s :=
      { up with
        mem := imaged.mem
        cfl.reloading := true
        cfl.walk := some (Walk.start 0x80000 0x80800 true)
        adu.cache.boxCoins := 2000 }
    let t := nx .reloadWalkDone s
    latched t.inu.latches .cashboxFull = true ∧ t.inu.attrs.shockPulses.timer = some 600000 := by
  decide +kernel

/-- Config fault with its occurrence held and with a notice that clears it, a good image, and one whose
port is the controller's. -/
theorem witness_LoadsTaken :
    let told := { auditing with held := [.occurrence .configFault 0] }
    let good := { auditing with cfl.fault := none }
    let behind := { good with bpu.cycle := some ⟨true, 0x3E200, 0, .both, some 0x3E200⟩ }
    (told.powered = true ∧ told.cfl.step = .audit ∧ told.pfu.power = .running ∧
      told.lnu.quiet = false ∧ told.cfl.fault.isSome = true ∧
      .occurrence .configFault 0 ∈ told.held ∧ .clearLatch .configFault ∉ told.held ∧
      told.inu.doorOpen = true ∧ .clearLatch .cashDoorOpen ∉ told.held) ∧
    (good.cfl.step = .audit ∧ good.cfl.fault = none ∧ portReaches .adu good = true) ∧
    (behind.cfl.fault = none ∧ portReaches .adu behind = false) := by decide +kernel

/-- R71: the values the spec gives. -/
theorem test_crc : crc [] = 0xFFFF ∧ crc [0] = 0x1D0F ∧ crcGood [0, 0x1D0F] = true := by decide +kernel

/-- Every tally and an attribute at their greatest values. -/
theorem witness_TalliesReadBack :
    let m := 0xFFFFFFFF
    let a : CacheAttr := ⟨65535, 255, true⟩
    let t : Tallies :=
      ⟨m, m, m, m, m, m, m, m, m, m, m, m, m, m, m, m, m, m, m, ⟨a, a, a, a, a⟩⟩
    (∀ n ∈ [t.credited, t.collected, t.returned, t.consumed, t.excess, t.escrow, t.boxValue, t.boxCoins,
        t.coins1, t.coins2, t.coins3, t.coins4, t.coins5, t.coins6, t.paidAnswered, t.free,
        t.unanswered, t.unlogged, t.collectedThrough], n < 0x100000000) ∧
    ∀ k ∈ [AttrId.shockPulses, .coinRejects, .coinPathErrors, .blockedWrites, .nvRetries],
      (t.attrs.get k).total < 65536 ∧ (t.attrs.get k).level < 256 := by decide +kernel

/-- Step 3 with a configuration, over a memory. -/
def loading (m : Memory) : State := { auditing with cfl.fault := none, mem := m }

/-- A remap table: an entry of call slot 255, one more of the same slot, one of incident slot 63, a free one,
an erased one, one whose CRC is bad, one of a call slot 256, and one of an incident slot 64. -/
def remapped : Memory :=
  let entry (j : Nat) (ws : List Word) : List (Nat × Word) := placed (0x88900 + 8 * j) (ws ++ [crc ws])
  Memory.storeAll []
    (entry 0 [1, 1, 255] ++ entry 1 [1, 1, 255] ++ entry 2 [1, 2, 63] ++ entry 3 [0, 9, 9] ++
      entry 4 [0xFFFF, 9, 9] ++ placed 0x88928 [1, 1, 7, 0] ++ entry 6 [1, 1, 256] ++ entry 7 [1, 2, 64])

theorem test_remap_read :
    (loadRemap (loading remapped)).adu.remap =
      [.mapped .call 255, .bad, .mapped .incident 63, .free, .free, .bad, .bad, .bad] := by
  decide +kernel

theorem witness_RemapRead :
    let s := loading remapped
    let entry (j : Nat) : List Word := s.mem.words (baseOf .spare s + 8 * j) 4
    let w (j i : Nat) : Nat := ((entry j).getD i 0).toNat
    (s.powered = true ∧ s.cfl.step = .audit ∧ s.pfu.power = .running ∧ s.cfl.fault = none ∧
      portReaches .adu s = true) ∧
    ((w 3 0 = 0 ∧ w 4 0 = 0xFFFF) ∧
      (w 0 0 = 1 ∧ (entry 0).getD 3 0 = crc ((entry 0).take 3) ∧ w 0 1 = 1 ∧ w 0 2 = 255) ∧
      entry 1 = entry 0 ∧ (w 2 1 = 2 ∧ w 2 2 = 63) ∧
      (w 5 0 = 1 ∧ (entry 5).getD 3 0 ≠ crc ((entry 5).take 3)) ∧ w 6 2 = 256) := by
  decide +kernel

/-- Two records, of the sequences 0 and 65535: one REPORTING, and one REPORTED that is marked cleared. -/
def logged : Memory :=
  Memory.storeAll []
    (placed 0x887E0 (incidentWords { record .cordCut .reporting with seq := 65535, attempts := 255 }) ++
      placed 0x88000
        (incidentWords
          { record .cashboxRemoved .reported with
            seq := 0, detail := 255, count := 255, cleared := true, snapshot := some 0xFFFFFFFE }))

/-- A blank slot, the last slot with a good record, and a first byte of the kind word at both bounds. -/
theorem witness_IncidentSlotRead :
    let s := loading logged
    let r := { record .cordCut .reporting with seq := 65535, attempts := 255 }
    let kind (n : Word) : State := loading (Memory.storeAll [] [(0x88002, n)])
    crcGood (slotWords .incident 1 s) = false ∧
    (((slotWords .incident 0 (kind 0xFF)).getD 1 0).toNat / 256 = 0 ∧
      17 < ((slotWords .incident 0 (kind 0x1200)).getD 1 0).toNat / 256) ∧
    (slotWords .incident 63 s = incidentWords r ∧ r.seq < 65536 ∧ r.detail < 256 ∧ r.count < 256 ∧
      r.attempts < 256 ∧ r.snapshot = none ∧ heldIncident 63 s = some { r with slot := 63 }) := by
  decide +kernel

/-- The largest gap across the end of the sequences, and two equal gaps. -/
theorem witness_CreationOrdered :
    let r (n : Nat) : IncRec := { record .shock .reported with slot := n % 64, seq := n }
    let rs := [r 3, r 65535, r 0, r 40000]
    let even := [r 0, r 32768]
    ((rs.map (·.seq)).Nodup ∧ (∀ x ∈ rs, x.seq < 65536) ∧
      creationOrder rs = [r 40000, r 65535, r 0, r 3] ∧
      (creationOrder rs).head? = some (r 40000) ∧ (creationOrder rs).getLast? = some (r 3) ∧
      r 3 ≠ r 40000) ∧
    ((even.map (·.seq)).Nodup ∧ creationOrder even = [r 0, r 32768]) := by decide +kernel

/-- A log of two records, in which no two that are not REPORTED are of a kind. -/
theorem witness_IndexRebuilt :
    let s := loading logged
    let ordered := creationOrder ((List.range 64).filterMap fun k => heldIncident k s)
    (s.powered = true ∧ s.cfl.step = .audit ∧ s.pfu.power = .running ∧ s.lnu.quiet = false ∧
      s.cfl.fault = none ∧ s.inu.rebuilt = false ∧ portReaches .adu s = true) ∧
    (ordered.map (fun r => (r.seq, r.kind, r.state)) =
        [(65535, .cordCut, .reporting), (0, .cashboxRemoved, .reported)] ∧
      (∀ r ∈ ordered, ∀ x ∈ ordered, r.state ≠ .reported → x.state ≠ .reported →
        x.kind = r.kind ∨ x.seq = r.seq → x = r) ∧
      hasWindow .incidentLog s = true) := by decide +kernel

/-- R178: over a tube that reads empty the accounting follows without a drop. -/
theorem test_lost_context_over_an_empty_tube :
    let t :=
      nx .tariffCompareDone
        { comparing (crc [100]) with adu.cache.escrow := 40, cnu.tubeEmpty := true }
    t.adu.cache.returned = 40 ∧ t.adu.cache.escrow = 0 ∧ t.pfu.step5 = .writeBack true ∧
      t.cnu.clearance = none := by decide +kernel

/-- A tariff that matches its check word and one that does not; a bad context over an escrow of value, in a
tube that reads full and empty, and over none. -/
theorem witness_ComparedAndJudged :
    let s := comparing (crc [100])
    let valued := { s with adu.cache.escrow := 40, cnu.tubeEmpty := false }
    (s.powered = true ∧ s.cfl.step = .tariff ∧ s.pfu.power = .running ∧ s.held = [] ∧
      s.inu.rebuilt = true ∧ s.lnu.quiet = false ∧ s.cfl.fault = none ∧ s.tru.compare = some [] ∧
      portReaches .tru s = true ∧ portReaches .pfu s = true ∧
      crc (s.mem.words (baseOf .tariff s) (checkedWords s)) = s.mem.word (checkWordAddr s) ∧
      s.mem.word (baseOf .context s + 0xFE) ≠ 0xA1E7 ∧ s.adu.cache.escrow = 0) ∧
    crc ((comparing 0).mem.words (baseOf .tariff s) 1) ≠ (comparing 0).mem.word 0x80802 ∧
    valued.mem.word (baseOf .context valued + 0xFE) ≠ 0xA1E7 ∧ valued.adu.cache.escrow ≠ 0 ∧
    valued.cnu.tubeEmpty = false ∧
    ({ valued with cnu.tubeEmpty := true } : State).cnu.tubeEmpty = true := by decide +kernel

/-- Fourteen words of 0, and the CRC over seven times as many. -/
def zeros : List Word := List.replicate 14 0

theorem zeros_1 : zeros.foldl crcWord 65535 = 44191 := by decide +kernel

theorem zeros_2 : zeros.foldl crcWord 44191 = 39343 := by decide +kernel

theorem zeros_3 : zeros.foldl crcWord 39343 = 24238 := by decide +kernel

theorem zeros_4 : zeros.foldl crcWord 24238 = 30846 := by decide +kernel

theorem zeros_5 : zeros.foldl crcWord 30846 = 11308 := by decide +kernel

theorem zeros_6 : zeros.foldl crcWord 11308 = 1791 := by decide +kernel

theorem zeros_7 : zeros.foldl crcWord 1791 = 52182 := by decide +kernel

theorem crc_zeros : crc (zeros ++ zeros ++ zeros ++ zeros ++ zeros ++ zeros ++ zeros) = 52182 := by
  simp only [crc, List.foldl_append, zeros_1, zeros_2, zeros_3, zeros_4, zeros_5, zeros_6, zeros_7]
  rfl

/-- A saved context of zeros that is good. -/
def saved : State :=
  { comparing 0 with
    mem := Memory.storeAll [] (placed 0x88800 (List.replicate 98 0 ++ [52182]) ++ [(0x888FE, 0xA1E7)]) }

theorem saved_words :
    saved.mem.words (baseOf .context saved) 99 =
      (zeros ++ zeros ++ zeros ++ zeros ++ zeros ++ zeros ++ zeros) ++ [52182] := by decide +kernel

theorem saved_good : crcGood (saved.mem.words (baseOf .context saved) 99) = true := by
  rw [saved_words]
  simp only [crcGood, List.reverse_append, List.reverse_singleton, List.singleton_append,
    List.append_assoc]
  simp only [← List.reverse_append]
  simpa using crc_zeros.symm

theorem witness_ComparedAndJudged_good :
    portReaches .tru saved = true ∧ portReaches .pfu saved = true ∧
    saved.mem.word (baseOf .context saved + 0xFE) = 0xA1E7 ∧
    crcGood (saved.mem.words (baseOf .context saved) 99) = true ∧
    wordAt (saved.mem.words (baseOf .context saved) 99) 3 = saved.adu.check ∧
    wordAt (saved.mem.words (baseOf .context saved) 99) 3 ≠
      ({ saved with adu.check := 5 } : State).adu.check ∧
    saved.adu.suspect = false := by
  refine ⟨rfl, rfl, by decide +kernel, saved_good, ?_, ?_, rfl⟩ <;> rw [saved_words] <;> decide

/-- R160: a saved call of the next sequence is logged if there is room for it, opened with the mark or not;
one of another sequence is not. -/
theorem test_saved_call_logged :
    let s (through : Nat) : State := { up with adu.nextCall := 300, adu.cache.collectedThrough := through }
    savedLogged ⟨300, true⟩ (s 44) = true ∧ savedLogged ⟨300, false⟩ (s 44) = true ∧
      savedLogged ⟨300, true⟩ (s 43) = false ∧ savedLogged ⟨299, true⟩ (s 44) = false := by
  decide +kernel

/-- Config fault, and out of RUNNING. -/
theorem witness_NothingComparedInFault :
    let s := { auditing with cfl.step := .tariff, inu.rebuilt := true, tru.valid := false }
    (s.powered = true ∧ s.cfl.step = .tariff ∧ s.pfu.power = .running ∧ s.cfl.fault.isSome = true ∧
      s.tru.compare = none ∧ s.held = [] ∧ s.inu.rebuilt = true ∧ s.lnu.quiet = false ∧
      (nx .tariffCompareDone s).lnu.state = .idle) ∧
    ({ s with pfu.power := .saving } : State).pfu.power ≠ .running := by decide +kernel

/-! ### Coins -/

/-- READY with the handset up. -/
def ready : State := { up with lnu.state := .ready, lnu.offHook := true }

theorem test_offer_granted :
    let t := nx (.offer 2) ready
    t.cnu.offerAnswer = some true ∧ t.cnu.chute = [⟨2, 20, 0, 1200⟩] := by decide +kernel

theorem test_offer_declined :
    (nx (.offer 3) ready).cnu.offerAnswer = some false ∧ (nx (.offer 1) up).cnu.chute = [] := by
  decide +kernel

theorem test_reject :
    let t := nx .reject { up with pfu.power := .saving }
    t.held = [.attrEvent .coinRejects] ∧ (nx .reject up).inu.attrs.coinRejects.total = 1 := by
  decide +kernel

theorem test_entryPassage_credits :
    let t := nx (.entryPassage false) { ready with cnu.chute := [⟨2, 20, 0, 1200⟩] }
    t.cnu.escrow = [⟨0, 2, 20, false, some ⟨1, false⟩, .held⟩] ∧ t.cnu.chute = [] ∧
      t.adu.cache.credited = 20 ∧ t.rtu.waiting = [⟨0, 20, false⟩] := by decide +kernel

theorem test_entryPassage_foreign :
    let t := nx (.entryPassage false) ready
    t.cnu.escrow.map (fun c => (c.isForeign, c.value)) = [(true, 0)] ∧ t.adu.cache.credited = 0 := by
  decide +kernel

theorem test_entryBlocked :
    let t := nx .entryBlocked (nx .entrySensorBlockedEdge ready)
    t.cnu.ms = 2000 ∧ latched t.inu.latches .coinJam = true ∧ coinsBarred t = true ∧
      t.cnu.jamDue = none ∧ t.cnu.blockedSince = some 0 := by decide +kernel

/-- R47, R62: a save stops the deadlines and not the 2 s of a blocked sensor. -/
theorem test_entryBlocked_spans_a_save :
    let s := { ready with cnu.blockedSince := some 0, cnu.jamDue := some 2000, cnu.edgeMs := 1990 }
    let t := nx .entryBlocked { s with pfu.power := .saved }
    t.held = [.entryBlocked] ∧ t.cnu.ms = s.cnu.ms ∧ t.cnu.edgeMs = 2000 ∧
      (nx .entryBlocked s).cnu.ms = s.cnu.ms + 10 := by decide +kernel

theorem test_chuteDeadline :
    let t := nx .chuteDeadline { ready with cnu.chute := [⟨2, 20, 0, 1200⟩] }
    t.cnu.chute = [] ∧ t.cnu.ms = 1200 ∧ t.inu.attrs.coinPathErrors.level = 1 := by decide +kernel

theorem test_entrySensorBlockedEdge :
    (nx .entrySensorBlockedEdge { ready with cnu.ms := 7 }).cnu.blockedSince = some 7 := by
  decide +kernel

theorem test_entrySensorBlockedEdge_starting :
    let s := { up with cfl.step := .settle, cnu.ms := 7 }
    (nx .entrySensorBlockedEdge s).cnu.blockedSince = some 7 ∧
      (nx .entrySensorBlockedEdge s).cnu.jamDue = some 2000 ∧
      (nx .entrySensorBlockedEdge s).held = [] := by decide +kernel

theorem test_tube_emptied_by_the_eighth_drop :
    let s := { up with cnu.clearance := some ⟨8, 500, true⟩ }
    (nx (.exitPassage true) s).inu.latches = 0 ∧ (nx (.exitPassage true) s).cnu.clearance = none ∧
      latched (nx (.exitPassage false) s).inu.latches .escrowFault = true := by decide +kernel

/-- The bottom coin is on its way to the cash box. -/
def collecting : State :=
  { calling .connected with
    cnu.escrow := [{ coin 0 with status := .dropping }, coin 1]
    cnu.motion := some ⟨.collect, 500⟩ }

theorem test_exitPassage_collects :
    let t := nx (.exitPassage false) collecting
    t.cnu.escrow = [coin 1] ∧ t.adu.cache.collected = 20 ∧ t.adu.cache.boxValue = 20 ∧
      t.adu.cache.boxCoins = 1 ∧ t.adu.cache.coins2 = 1 ∧ t.adu.cache.escrow = 20 := by decide +kernel

theorem test_exitPassage_stray :
    let t := nx (.exitPassage true) ready
    t.inu.attrs.coinPathErrors.total = 1 ∧ t.adu.cache.returned = 0 := by decide +kernel

theorem test_exitTimeout :
    let t := nx .exitTimeout collecting
    t.cnu.frozen = true ∧ t.cnu.stuck = some .collect ∧ latched t.inu.latches .escrowFault = true := by
  decide +kernel

theorem test_cashDoorChange :
    latched (nx (.cashDoorChange true) up).inu.latches .cashDoorOpen = true ∧
      (nx (.cashDoorChange true) { up with acu.mode := .service }).inu.latches = 0 := by decide +kernel

theorem test_cashboxPresenceChange :
    let t := nx (.cashboxPresenceChange false) up
    latched t.inu.latches .cashboxRemoved = true ∧ t.cnu.boxPresent = false := by decide +kernel

theorem test_emptyCashbox :
    let s := { up with acu.mode := .service, adu.cache.boxValue := 90, adu.cache.boxCoins := 3 }
    let t := nx .emptyCashbox (req kindEmptyCashbox [] s)
    code t = some 1 ∧ t.adu.cache.boxValue = 0 ∧ t.adu.cache.boxCoins = 0 := by decide +kernel

/-- R48, R34: in config fault an offer is declined, whatever denominations a reload has given. -/
theorem test_offer_in_config_fault :
    let t := nx (.offer 2) { ready with cfl.fault := some (.field, 4) }
    t.cnu.offerAnswer = some false ∧ t.cnu.chute = [] := by decide +kernel

theorem witness_OfferJudged :
    let d : Denom := ⟨20, true⟩
    (ready.powered = true ∧ starting ready = false ∧ coinsBarred ready = false ∧
      ready.pfu.power = .running ∧
      ready.lnu.state ∈
        [.ready, .seizing, .dialling, .awaitAnswer, .connected, .grace, LineState.followOn] ∧
      ready.cnu.escrow.length + ready.cnu.chute.length < 8 ∧
      ready.cfl.fault = none ∧ ready.cfl.params.denoms[2 - 1]? = some d ∧ d.enabled = true) ∧
    ({ ready with cfl.fault := some (.field, 4) } : State).cfl.fault.isSome = true ∧
    ready.cfl.params.denoms[4 - 1]? = none ∧
    ready.cfl.params.denoms[3 - 1]? = some ⟨50, false⟩ := by decide +kernel

theorem witness_RejectCounts : up.powered = true := rfl

/-- Seven coins and one in the chute, an empty chute, a full tube, and a passage out of RUNNING. -/
theorem witness_PassageCredited :
    let s :=
      { calling .connected with
        cnu.escrow := (List.range 7).map coin
        cnu.chute := [⟨1, 10, 0, 1200⟩] }
    let full := { s with cnu.escrow := (List.range 8).map coin }
    let pre := { ready with cnu.chute := [⟨1, 10, 0, 1200⟩] }
    let none' := { up with cnu.chute := [⟨1, 10, 0, 1200⟩] }
    (s.powered = true ∧ s.pfu.power = .running ∧ starting s = false ∧ s.cnu.escrow.length < 8 ∧
      s.cnu.chute = ⟨1, 10, 0, 1200⟩ :: [] ∧ s.rtu.ctx = some call ∧
      s.cnu.openCall = some call.owner ∧ call.phase ≠ .grace) ∧
    (full.cnu.escrow.length = 8 ∧ starting full = false ∧ full.inu.rebuilt = true) ∧
    (pre.cnu.chute = ⟨1, 10, 0, 1200⟩ :: [] ∧ pre.rtu.ctx = none ∧ pre.cnu.openCall = none ∧
      pre.lnu.state = .ready) ∧
    (none'.cnu.openCall = none ∧ none'.lnu.state = .idle ∧ none'.cnu.escrow = [] ∧
      none'.cnu.drops = [] ∧ none'.cnu.motion = none ∧ none'.cnu.clearance = none ∧
      none'.cnu.frozen = false) ∧
    up.cnu.chute = [] ∧ ({ up with pfu.power := .saving } : State).pfu.power ≠ .running := by
  decide +kernel

/-- A latched jam with no record, with a record that others of the kind stand before, and before the INU's
rebuild. -/
theorem witness_PassageEndsJam :
    let jam (n : Nat) (st : RecState) : IncRec := { record .coinJam st with slot := n, seq := n }
    let s (rs : List IncRec) : State := { ready with inu.latches := 16, inu.records := rs }
    let rs := [jam 0 .reported, jam 63 .pending, { record .shock .pending with slot := 7 }]
    ((s []).powered = true ∧ (s []).pfu.power = .running ∧ starting (s []) = false ∧
      (s []).inu.rebuilt = true ∧ latched (s []).inu.latches .coinJam = true ∧ IndexLaw (s [])) ∧
    (IndexLaw (s rs) ∧
      (s rs).inu.records =
        [jam 0 .reported] ++ jam 63 .pending :: [{ record .shock .pending with slot := 7 }] ∧
      (jam 63 .pending).kind = .coinJam ∧ IncKind.shock ≠ .coinJam) ∧
    ({ s [] with inu.rebuilt := false } : State).inu.rebuilt = false := by decide +kernel

/-- R54, R125, R131: the passage that ends a jam clears its latch and marks its latest record. -/
theorem test_entryPassage_ends_the_jam :
    let t := nx (.entryPassage false) (nx .entryBlocked (nx .entrySensorBlockedEdge ready))
    latched t.inu.latches .coinJam = false ∧ coinsBarred t = false ∧
      t.inu.records.map (fun r => (r.kind, r.cleared)) = [(.coinJam, true)] := by decide +kernel

/-- A call in GRACE to whose credit of 12 a coin of 10 comes: short of a due 23 and a cover of 22, in a
line in GRACE and with an interval end passed; and an object with no coin granted. -/
theorem witness_GraceTested :
    let c := ctxOf charging
    let x (due : Nat) : Ctx :=
      { c with phase := .grace, due := due, graceDeadline := some 70, finish := some 60 }
    let s (due : Nat) : State :=
      { charging with
        lnu.state := .grace
        rtu.ms := 61000
        rtu.ctx := some (x due)
        cnu.chute := [⟨1, 10, 0, 1200⟩]
        cnu.nextSeq := 2 }
    let credit := (x 0).cin + (x 0).roll.foldl (fun v y => v + y.value) 0 + 10 - (x 0).consumed
    ((s 22).powered = true ∧ (s 22).pfu.power = .running ∧ starting (s 22) = false ∧
      (s 22).cnu.escrow.length < 8 ∧ (s 22).cnu.openCall = some (x 22).owner ∧
      (s 22).rtu.ctx = some (x 22) ∧ (x 22).phase = .grace) ∧
    credit = 22 ∧ (s 22).cnu.chute ≠ [] ∧ ({ s 22 with cnu.chute := [] } : State).cnu.chute = [] := by
  decide +kernel

/-- R97: the coin that covers the due charge pays the interval. -/
theorem test_grace_covered :
    let c := { ctxOf charging with phase := .grace, due := 12, graceDeadline := some 70 }
    let s := { charging with lnu.state := .grace, rtu.ctx := some c, cnu.chute := [⟨1, 10, 0, 1200⟩] }
    let t := nx (.entryPassage false) s
    t.lnu.state = .connected ∧
      t.rtu.ctx.map (fun c => (c.phase, c.consumed, c.intervals, c.due)) =
        some (.charging, 40, 2, 0) := by decide +kernel

/-- A clear sensor, a blocking of 2 s at hand, one past its event, and the coins of the chute at one
deadline. -/
theorem witness_EntrySensorTimes :
    let blocked := { ready with cnu.blockedSince := some 0, cnu.jamDue := some 2000 }
    let c : ChuteCoin := ⟨2, 20, 0, 1200⟩
    let s := { ready with cnu.chute := [⟨1, 10, 0, 1201⟩, c, ⟨1, 10, 0, 1200⟩] }
    (ready.powered = true ∧ ready.pfu.power = .running ∧ starting ready = false ∧
      ready.cnu.blockedSince = none) ∧
    (starting { blocked with cfl.step := .settle } = true) ∧
    (blocked.cnu.blockedSince.isSome = true ∧ blocked.cnu.jamDue = some 2000 ∧
      ready.cnu.jamDue = none ∧ ready.cnu.chute = []) ∧
    ({ blocked with pfu.power := .saved } : State).pfu.power ≠ .running ∧
    (s.cnu.chute = [⟨1, 10, 0, 1201⟩] ++ c :: [⟨1, 10, 0, 1200⟩] ∧ s.pfu.power = .running ∧
      s.cnu.blockedSince = none ∧ (∀ x ∈ [(⟨1, 10, 0, 1201⟩ : ChuteCoin)], c.deadline < x.deadline) ∧
      ∀ x ∈ [(⟨1, 10, 0, 1200⟩ : ChuteCoin)], c.deadline ≤ x.deadline) := by decide +kernel

/-- A COLLECT drop at both fill counts with the latches clear and set; a stuck coin; the last restored drop
over a tube that is not empty, and one with a coin granted since. -/
theorem witness_ExitPassageCompletesDrop :
    let stuck := { collecting with cnu.motion := none, cnu.stuck := some .ret }
    let near := { collecting with adu.cache.boxCoins := 899 }
    let full := { collecting with adu.cache.boxCoins := 999, inu.latches := 0x80 }
    let last :=
      { collecting with
        cnu.escrow := [{ coin 0 with status := .dropping }]
        cnu.restored := [0]
        cnu.coinSince := false }
    (collecting.powered = true ∧ collecting.pfu.power = .running ∧ starting collecting = false ∧
      collecting.cnu.clearance = none ∧
      collecting.cnu.escrow = { coin 0 with status := .dropping } :: [coin 1] ∧
      collecting.cnu.restored = [] ∧ collecting.cnu.drops = [] ∧
      collecting.cnu.motion = some ⟨.collect, 500⟩) ∧
    (stuck.cnu.motion = none ∧ stuck.cnu.stuck = some .ret ∧
      ({ coin 0 with status := .dropping } : Coin).status = .dropping) ∧
    (near.cfl.params.boxNearFull = satAdd near.adu.cache.boxCoins 1 ∧ near.inu.rebuilt = true ∧
      latched near.inu.latches .cashboxNearFull = false) ∧
    (full.cfl.params.boxFull = satAdd full.adu.cache.boxCoins 1 ∧
      latched full.inu.latches .cashboxNearFull = true ∧
      latched full.inu.latches .cashboxFull = false) ∧
    (last.cnu.escrow = { coin 0 with status := .dropping } :: [] ∧ last.cnu.restored = [(coin 0).seq] ∧
      last.cnu.coinSince = false ∧ last.cnu.chute = [] ∧ last.inu.rebuilt = true) ∧
    ({ last with cnu.coinSince := true } : State).cnu.coinSince = true := by
  decide +kernel

/-- R177: the sweep begins with the last restored drop, and a coin granted since keeps it from beginning. -/
theorem test_exitPassage_sweeps :
    let s :=
      { collecting with
        cnu.escrow := [{ coin 0 with status := .dropping }]
        cnu.restored := [0]
        cnu.coinSince := false }
    let t := nx (.exitPassage false) s
    t.cnu.clearance = some ⟨1, 500, true⟩ ∧ t.inu.attrs.coinPathErrors.total = 1 ∧
      (nx (.exitPassage false) { s with cnu.coinSince := true }).cnu.clearance = none ∧
      (nx (.exitPassage true) s).cnu.clearance = none := by decide +kernel

theorem witness_StrayExit :
    ready.powered = true ∧ ready.pfu.power = .running ∧ starting ready = false ∧
      ready.cnu.clearance = none ∧ ready.cnu.motion = none ∧ ready.cnu.stuck = none := by
  decide +kernel

/-- Out of RUNNING with a clearance and without one, and in STARTING with none. -/
theorem witness_ExitPassageHeld :
    let saved := { up with pfu.power := .saved }
    (saved.powered = true ∧ saved.pfu.power ≠ .running ∧ saved.cnu.clearance = none) ∧
    ({ saved with cnu.clearance := some ⟨3, 500, false⟩ } : State).cnu.clearance.isSome = true ∧
    (starting { up with cfl.step := .settle } = true ∧ up.cnu.clearance = none) := by decide +kernel

/-- R63: an exit held before the clearance began is none of the clearance's when the power returns. -/
theorem test_held_exit_is_no_clearance_drop :
    let s := { up with
      cfl.step := .settle
      pfu.power := .saved
      pfu.warning := true
      held := [.exitPassage false]
      cnu.clearance := some ⟨3, 500, false⟩ }
    let t := nx .warningCleared s
    t.pfu.power = .running ∧ t.held = [.exitPassage false] ∧ t.cnu.clearance = some ⟨3, 500, false⟩ := by
  decide +kernel

theorem witness_ClearanceGoesOn :
    let s (n : Nat) (sweep : Bool) : State := { up with cnu.clearance := some ⟨n, 500, sweep⟩ }
    (s 7 true).powered = true ∧ (s 7 true).pfu.power = .running ∧
      (s 7 true).cnu.clearance = some ⟨7, 500, true⟩ ∧
      (s 8 false).cnu.clearance = some ⟨8, 500, false⟩ := by
  decide +kernel

/-- A drop in motion before its deadline, at it and with a settlement watched; a clearance and a sweep;
and neither. -/
theorem witness_ExitTimerRunsOut :
    let clear (sweep : Bool) : State := { up with cnu.clearance := some ⟨1, 500, sweep⟩ }
    let late := { collecting with cnu.ms := 500, cnu.watch := [⟨1, false⟩] }
    (collecting.powered = true ∧ collecting.pfu.power = .running ∧ collecting.cnu.clearance = none ∧
      collecting.cnu.motion = some ⟨.collect, 500⟩ ∧ collecting.cnu.ms < 500) ∧
    (late.cnu.motion = some ⟨.collect, 500⟩ ∧ late.cnu.ms = 500 ∧ late.cnu.watch ≠ []) ∧
    ((clear false).cnu.clearance = some ⟨1, 500, false⟩ ∧
      (clear true).cnu.clearance = some ⟨1, 500, true⟩) ∧
    (up.powered = true ∧ up.pfu.power = .running ∧ up.cnu.clearance = none ∧ up.cnu.motion = none) := by
  decide +kernel

/-- R47, R59, R62: the debounce counts go on while the exit timer runs. -/
theorem test_exitTimeout_debounce :
    let t := nx .exitTimeout { collecting with cnu.ms := 120, cnu.edgeMs := 7 }
    t.cnu.ms = 500 ∧ t.cnu.edgeMs = 387 ∧ (nx .exitTimeout up).cnu = up.cnu := by decide +kernel

theorem witness_CashBoxSwitches :
    let out :=
      { calling .connected with
        cnu.boxPresent := false
        cnu.drops := [⟨0, .collect⟩] }
    (up.powered = true ∧ up.cnu.doorOpen = false ∧ up.cnu.boxPresent = true ∧ up.acu.mode ≠ .service) ∧
    ({ up with acu.mode := .service } : State).acu.mode = .service ∧
    ({ up with cnu.doorOpen := true } : State).cnu.doorOpen = true ∧
    ({ up with cnu.boxPresent := false } : State).cnu.drops = [] ∧
    (out.cnu.boxPresent = false ∧ out.cnu.escrow = coin 0 :: [coin 1] ∧
      out.cnu.drops = ⟨0, .collect⟩ :: [] ∧ (⟨0, .collect⟩ : Drop).seq = (coin 0).seq ∧
      out.cnu.motion = none ∧ out.cnu.clearance = none ∧ out.cnu.frozen = false ∧
      out.pfu.power = .running ∧ starting out = false) := by decide +kernel

theorem witness_CashBoxEmptied :
    let v := asked kindEmptyCashbox []
    let s := req kindEmptyCashbox [] { up with acu.mode := .service }
    (InService kindEmptyCashbox v (req kindEmptyCashbox [] up) ∧ up.acu.mode ≠ .service) ∧
    (InService kindEmptyCashbox v s ∧ s.acu.mode = .service ∧ s.pfu.power = .running ∧
      s.cnu.boxPresent = true ∧ s.inu.rebuilt = true) ∧
    (nx .emptyCashbox { s with adu.cache.boxCoins := 1 }).adu.dirty = true ∧
    (InService kindEmptyCashbox v { s with cnu.boxPresent := false }) := by decide +kernel

/-! ### Tariff and clock -/

/-- An area of 1671 words whose items all pass: no entry, no row in use, schedules of one point. -/
def passing : List Word :=
  List.replicate 1604 0 ++ ([1, 0, 1] ++ List.replicate 14 0) ++ ([1, 0, 2] ++ List.replicate 14 0) ++
    ([1, 0, 3] ++ List.replicate 14 0) ++ List.replicate 16 0

/-- A check whose area fails at its header: a surcharge of 501. -/
def failing : Check := ⟨[501], 1, false, true, false⟩

theorem test_tariffCheck :
    let t := nx .tariffCheck (req kindTariffCheck [] { up with acu.mode := .service })
    t.tru.check = some ⟨[], 4095, false, true, false⟩ ∧
      code (nx .tariffCheck (req kindTariffCheck [] up)) = some 6 := by decide +kernel

theorem test_tariffCheckReadsDone_bad :
    let t := nx .tariffCheckReadsDone
      { up with tru.check := some failing, rqu.service := some (asked kindTariffCheck []).accepted }
    code t = some 17 ∧ results t = [1, 0, 1] ∧ t.tru.valid = false ∧
      latched t.inu.latches .tariffInvalid = true := by decide +kernel

/-- R73: of one entry, digits first and then length. -/
theorem test_prefix_fields_in_order :
    let area (n : Nat) (digits : Nat) : Area := fun i =>
      if i = 1 then 1 else if i = 4 then digits else if i = 6 then n * 256 else 0
    judgeArea (area 9 0xA000) = some ⟨2, 0, 2⟩ ∧ judgeArea (area 9 0x9000) = some ⟨2, 0, 1⟩ ∧
      judgeArea (area 0 0xA000) = some ⟨2, 0, 1⟩ := by decide +kernel

/-- R76: a write before a check's first read does not overtake it. -/
theorem test_write_overtakes_a_check_that_reads :
    let s (rev : List Word) : State :=
      { up with acu.mode := .service, tru.check := some ⟨rev, 4095, false, true, false⟩ }
    let t (rev : List Word) : State := nx (.controllerWrite 0x80900 1 .both) (s rev)
    (t []).tru.check.map (·.overtaken) = some false ∧ (t [7]).tru.check.map (·.overtaken) = some true ∧
      (t []).tru.unsettled = true := by decide +kernel

theorem test_checkWordWriteDone :
    let s := { writing (.checkWord 9) .home [(0x827FE, 9)] with
      tru.valid := false
      tru.unsettled := true
      tru.check := some { failing with writing := true }
      rqu.service := some (asked kindTariffCheck []).accepted }
    let t := nx .checkWordWriteDone s
    t.tru.valid = true ∧ t.tru.unsettled = false ∧ code t = some 1 ∧ t.mem.word 0x827FE = 9 := by
  decide +kernel

/-- The last second of 29 February 2096. -/
def leap : State := { up with tru.clock := some ⟨96, 2, 29, 23, 59, 59⟩ }

theorem test_clockSecond_leap :
    (nx .clockSecond leap).tru.clock = some ⟨96, 3, 1, 0, 0, 0⟩ := by decide +kernel

/-- The last day of each month of 2023 is followed by the first of the next. -/
theorem test_clockSecond_months :
    ((List.range 11).all fun m =>
      let days := [31, 28, 31, 30, 31, 30, 31, 31, 30, 31, 30].getD m 0
      (nx .clockSecond { up with tru.clock := some ⟨23, m + 1, days, 23, 59, 59⟩ }).tru.clock =
        some ⟨23, m + 2, 1, 0, 0, 0⟩) = true := by decide +kernel

theorem test_clockSecond_2099 :
    (nx .clockSecond { up with tru.clock := some ⟨99, 12, 31, 23, 59, 59⟩ }).tru.clock =
      some ⟨0, 1, 1, 0, 0, 0⟩ := by decide +kernel

theorem test_setClock :
    let t := nx .setClock (req kindSetClock [2024, 2, 29, 13, 5, 59] up)
    t.tru.clock = some ⟨24, 2, 29, 13, 5, 59⟩ ∧ code t = some 1 ∧
      code (nx .setClock (req kindSetClock [2023, 2, 29, 13, 5, 59] up)) = some 7 := by decide +kernel

theorem test_setClock_kept :
    code (nx .setClock (req kindSetClock [2024, 2, 29, 13, 5, 59] leap)) = some 6 := by decide +kernel

theorem witness_TariffCheckAsked :
    let v := asked kindTariffCheck []
    let s := req kindTariffCheck [] { up with acu.mode := .service }
    (InService kindTariffCheck v (req kindTariffCheck [] up) ∧ up.acu.mode ≠ .service) ∧
    (InService kindTariffCheck v s ∧ s.acu.mode = .service ∧ hasWindow .tariff s = true ∧
      s.tru.check = none) ∧
    ({ s with tru.check := some failing } : State).tru.check.isSome = true ∧
    hasWindow .tariff { s with bpu.table := some [] } = false := by decide +kernel

theorem witness_TariffReadsJudged_bad :
    let s := { up with tru.check := some failing }
    let v := (asked kindTariffCheck []).accepted
    let unread : Check := { failing with size := 2 }
    let behind :=
      { up with
        tru.check := some unread
        bpu.cycle := some ⟨true, 0x3E200, 0, .both, some 0x3E200⟩ }
    (behind.tru.check = some unread ∧ ¬unread.size ≤ unread.rev.length ∧
      portReaches .tru behind = false) ∧
    s.powered = true ∧ s.tru.check = some failing ∧ failing.writing = false ∧
      failing.size ≤ failing.rev.length ∧ portReaches .tru s = true ∧
      judgeArea (readArea (failing.rev.reverse ++
        s.mem.words (baseOf .tariff s + 2 * failing.rev.length) (failing.size - failing.rev.length))) =
        some ⟨1, 0, 1⟩ ∧
      v.phase = .held ∧ v.kind.toNat = kindTariffCheck := by decide +kernel

theorem witness_TariffReadsJudged_good :
    let k : Check := ⟨passing.reverse, 1671, false, false, false⟩
    let s := { up with tru.check := some k }
    s.powered = true ∧ s.tru.check = some k ∧ k.writing = false ∧ k.size ≤ k.rev.length ∧
      judgeArea (readArea (k.rev.reverse ++
        s.mem.words (baseOf .tariff s + 2 * k.rev.length) (k.size - k.rev.length))) = none := by
  decide +kernel

/-- Areas at the bounds of each item. -/
theorem witness_TariffItemsInOrder :
    let w (xs : List (Nat × Nat)) : Area := fun i => (xs.lookup i).getD 0
    let digit (x : Nat) (i : Nat) : Nat := w [(4, x)] (4 + i / 4) / 16 ^ (3 - i % 4) % 16
    500 < w [(0, 501)] 0 ∧ (w [(0, 500), (1, 257)] 0 ≤ 500 ∧ 256 < w [(0, 500), (1, 257)] 1) ∧
    (w [(1, 256), (3, 17)] 1 ≤ 256 ∧ 16 < w [(1, 256), (3, 17)] 3) ∧
    (1 ≤ w [(1, 1), (6, 0x900)] 1 ∧ 8 < w [(1, 1), (6, 0x900)] 6 / 256) ∧
    (9 < digit 0x000A 3 ∧ 3 < w [(6, 0x400)] 6 / 256 ∧
      ∀ i ∈ List.range 8, digit 0x9999 i ≤ 9) ∧
    (∀ c ∈ List.range 32, w [] (1284 + 10 * c) = 0) ∧
    (∀ j ∈ List.range 3, readArea passing (1604 + 17 * j) = 1 ∧ readArea passing (1605 + 17 * j) = 0 ∧
      readArea passing (1606 + 17 * j) ≤ 3) ∧
    (∀ c ∈ List.range 32, readArea passing (1284 + 10 * c) = 0) ∧
    readArea passing 0 = 0 ∧ readArea passing 1 = 0 ∧ readArea passing 3 = 0 ∧
    1 < w [(1294, 2)] 1294 := by decide +kernel

theorem witness_CheckWordEnds :
    let k := { failing with writing := true }
    let r : Run := ⟨.checkWord 9, .home, [(0x827FE, 9)], .read, 0, 0, true⟩
    let s := { up with adu.run := some r, tru.check := some k }
    let failed :=
      { up with
        adu.run := some { r with todo := [], failed := 1 }
        tru.check := some k
        pfu.power := .saved }
    (s.powered = true ∧ s.adu.run = some r ∧ r.job = .checkWord 9 ∧ s.tru.check = some k ∧
      s.pfu.power = .running ∧ portReaches .adu s = true ∧ r.failed = 0 ∧
      s.inu.rebuilt = true ∧ k.forRequest = true) ∧
    (failed.adu.run = some { r with todo := [], failed := 1 } ∧ failed.tru.check = some k) ∧
    (({ s with pfu.power := .saved } : State).pfu.power ≠ .running ∧ r.todo ≠ []) := by
  decide +kernel

theorem witness_ClockSecondAdvances :
    up.powered = true ∧ up.tru.clock = none ∧ leap.tru.clock = some ⟨96, 2, 29, 23, 59, 59⟩ ∧
      leap.tru.phase ≤ 1000 ∧
      ({ up with tru.clock := some ⟨99, 12, 31, 23, 59, 59⟩ } : State).tru.clock.isSome = true := by
  decide +kernel

theorem witness_ClockSetByRequest :
    let v := asked kindSetClock [2099, 12, 31, 23, 59, 59]
    let w := asked kindSetClock [1999, 12, 31, 23, 59, 59]
    let s := req kindSetClock [2099, 12, 31, 23, 59, 59]
    (InService kindSetClock v (s leap) ∧ leap.acu.mode ≠ .service ∧ leap.tru.clock ≠ none) ∧
    (InService kindSetClock v (s up) ∧ up.tru.clock = none ∧ up.pfu.power = .running ∧
      2000 ≤ param v.params 1 ∧ param v.params 1 ≤ 2099 ∧ param v.params 3 ≤ 31) ∧
    (InService kindSetClock v (s { up with pfu.power := .saved })) ∧
    InService kindSetClock w (req kindSetClock w.params up) ∧ ¬2000 ≤ param w.params 1 := by
  decide +kernel

/-! ### Rating -/

/-- A band by the settled calendar: Friday 1 March 2024, 08:00. -/
def banded : State :=
  { charging with
    tru.clock := some ⟨24, 3, 1, 8, 0, 0⟩
    tru.calendar := some ⟨[⟨0, 3⟩, ⟨480, 1⟩], [⟨0, 2⟩], [⟨0, 3⟩], []⟩ }

theorem test_intervalEnd_pays :
    let t := nx .intervalEnd { banded with rtu.ctx := banded.rtu.ctx.map fun c => { c with consumed := 26 } }
    t.rtu.ctx.map (fun c => (c.consumed, c.band, c.finish, c.intervals)) =
      some (40, some 1, some 120, 2) ∧ t.rtu.ms = 60000 := by decide +kernel

theorem test_intervalEnd_grace :
    let t := nx .intervalEnd banded
    t.rtu.ctx.map (fun c => (c.phase, c.due, c.graceDeadline, c.consumed)) =
      some (.grace, 14, some 70, 28) ∧ t.lnu.state = .grace ∧ t.rqu.flags.getLsbD 6 = true := by
  decide +kernel

/-- The call in grace. -/
def inGrace : State :=
  { charging with
    lnu.state := .grace
    rtu.ctx := some { call with phase := .grace, graceDeadline := some 70, maxEnd := some 3600 } }

theorem test_graceDeadline :
    let t := nx .graceDeadline inGrace
    t.lnu.state = .clearing ∧ t.rtu.ctx = none ∧ t.adu.cache.excess = 0 ∧
      t.cnu.motion = some ⟨.ret, 70500⟩ := by
  decide +kernel

theorem test_maxDurationEnd :
    let t := nx .maxDurationEnd charging
    t.lnu.state = .clearing ∧ t.rtu.ms = 3600000 ∧ t.adu.cache.paidAnswered = 1 := by decide +kernel

/-- A Friday at its second switch point, and a holiday at its first. -/
theorem witness_BandLookedUp :
    let k : Calendar := ⟨[⟨0, 3⟩, ⟨480, 1⟩], [⟨0, 2⟩], [⟨0, 3⟩], [(12, 31)]⟩
    (banded.tru.clock = some ⟨24, 3, 1, 8, 0, 0⟩ ∧
      banded.tru.calendar.map (·.weekday) = some [⟨0, 3⟩, ⟨480, 1⟩] ∧
      [(⟨0, 3⟩ : SwitchPoint), ⟨480, 1⟩].Pairwise (fun p q => p.minute < q.minute) ∧
      (365 * 24 + (24 + 3) / 4 + 59 + 1 + 0) % 7 = 6 ∧ 480 ≤ 8 * 60 ∧ bandLookup banded = some 1) ∧
    ((12, 31) ∈ k.holidays ∧
      bandLookup { up with tru.clock := some ⟨99, 12, 31, 0, 0, 0⟩, tru.calendar := some k } =
        some 3) := by decide +kernel

theorem witness_BandChosen :
    bandLookup banded = some 1 ∧ up.tru.clock = none ∧ bandLookup up = none := by decide +kernel

theorem witness_IntervalBegins :
    let c := { call with phase := .charging, finish := some 60 }
    let s := { banded with rtu.ctx := some c }
    let short := { banded with rtu.ctx := some { c with consumed := 27 } }
    (s.powered = true ∧ s.rtu.ctx = some c ∧ c.phase = .charging ∧ c.finish = some 60 ∧
      c.row = some row ∧ s.pfu.power = .running ∧
      (row.rate (chooseBand row s)).charge = 12 ∧
      min 9999 (12 + (12 * row.surcharge + 999) / 1000) ≤
        c.cin + (c.roll.map (·.value)).sum - c.consumed) ∧
    (short.rtu.ctx = some { c with consumed := 27 } ∧ (row.rate (chooseBand row short)).charge = 12 ∧
      c.cin + (c.roll.map (·.value)).sum - 27 < min 9999 (12 + (12 * row.surcharge + 999) / 1000)) ∧
    ({ s with pfu.power := .saving, rtu.ms := 60000 } : State).pfu.power ≠ .running ∧
    60 ≤ ({ s with pfu.power := .saving, rtu.ms := 60000 } : State).rtu.ms / 1000 := by decide +kernel

theorem test_polarityReversal_answers :
    let t := nx .polarityReversal (calling .awaitAnswer)
    t.lnu.state = .connected ∧
      t.rtu.ctx.map (fun c => (c.consumed, c.intervals, c.committed)) = some (28, 1, 40) ∧
      t.adu.cache.consumed = 28 ∧ t.cnu.motion = some ⟨.collect, 500⟩ := by decide +kernel

theorem test_polarityReversal_report :
    let t := nx .polarityReversal
      { report .reportAwaitAnswer reporting with lnu.timers.reportAnswer := some 60000 }
    t.lnu.timers.sendDelay = some 1000 ∧ t.lnu.timers.reportAnswer = none := by decide +kernel

theorem witness_ReversalAnswers :
    let s := calling .awaitAnswer
    let reports := { report .reportAwaitAnswer reporting with lnu.timers.reportAnswer := some 60000 }
    let poor := { s with rtu.ctx := some { call with roll := [⟨0, 20, false⟩] } }
    let charge (u : State) : Nat :=
      min 9999 (row.setup + (row.setup * row.surcharge + 999) / 1000) +
        min 9999
          ((row.rate (chooseBand row u)).charge +
            ((row.rate (chooseBand row u)).charge * row.surcharge + 999) / 1000)
    (s.powered = true ∧ s.pfu.power = .running ∧ s.lnu.state = .awaitAnswer ∧ s.rtu.ctx = some call ∧
      call.phase = .dialled ∧ call.row = some row ∧
      charge s ≤ call.cin + (call.roll.map (·.value)).sum - call.consumed) ∧
    ({ call with row := none } : Ctx).row = none ∧
    (poor.rtu.ctx = some { call with roll := [⟨0, 20, false⟩] } ∧
      call.cin + ([(⟨0, 20, false⟩ : RollCoin)].map (·.value)).sum - call.consumed < charge poor) ∧
    (up.lnu.state ≠ .awaitAnswer ∧ up.lnu.timers.reportAnswer = none) ∧
    (reports.lnu.state ≠ .awaitAnswer ∧ reports.lnu.timers.reportAnswer.isSome = true) ∧
    ({ up with pfu.power := .saved } : State).pfu.power ≠ .running := by decide +kernel

/-! ### The end of a call -/

theorem test_onHook_ends :
    let t := nx .onHook charging
    t.lnu.state = .clearing ∧ t.lnu.timers.clearing = some 1000 ∧ t.rtu.ctx = none ∧
      t.adu.cache.excess = 12 ∧ t.lnu.offHook = false := by decide +kernel

theorem test_polarityReversion_ends :
    let t := nx .polarityReversion { charging with lnu.followOn := true }
    t.lnu.state = .clearing ∧ t.lnu.keep = true ∧ t.rtu.carry = 12 ∧ t.adu.cache.excess = 0 := by
  decide +kernel

theorem test_answerTimeout :
    let t := nx .answerTimeout { calling .awaitAnswer with lnu.timers.answer := some 90000 }
    t.lnu.state = .clearing ∧ t.lnu.ms = 90000 ∧ t.adu.cache.unanswered = 1 := by decide +kernel

theorem test_loopTimeout :
    let t := nx .loopTimeout { calling .seizing with lnu.timers.loop := some 1000 }
    t.lnu.state = .clearing ∧ t.lnu.relay = false ∧ t.lnu.relayOpened = some 1000 := by decide +kernel

theorem test_loopLossTimeout :
    let t := nx .loopLossTimeout { charging with lnu.timers.loss := some 2000 }
    t.lnu.state = .down ∧ t.rtu.ctx = none ∧ latched t.inu.latches .lineFault = true := by
  decide +kernel

theorem test_release :
    let t := nx .release (req kindRelease [1] charging)
    code t = some 1 ∧ t.lnu.state = .clearing ∧ t.lnu.keep = true ∧
      code (nx .release (req kindRelease [2] charging)) = some 7 := by decide +kernel

theorem witness_CallsEnd :
    let c := { call with phase := .grace, graceDeadline := some 70, maxEnd := some 3600 }
    let v := asked kindRelease [1]
    let s :=
      { inGrace with
        rqu.service := some v
        lnu.timers := { Timers.stopped with answer := some 1, loop := some 1, loss := some 2000 } }
    s.powered = true ∧ s.pfu.power = .running ∧ starting s = false ∧ s.rtu.ctx = some c ∧
      s.lnu.state.isEndable = true ∧ s.lnu.state = .grace ∧ s.lnu.timers.answer = some 1 ∧
      s.lnu.timers.loop = some 1 ∧ s.lnu.timers.loss = some 2000 ∧ s.lnu.quiet = false ∧
      c.phase = .grace ∧ c.graceDeadline = some 70 ∧ c.phase ≠ .ending ∧ c.maxEnd = some 3600 ∧
      InService kindRelease v s ∧ param v.params 1 ≤ 1 := by decide +kernel

/-- A record at the ends of its ranges: 20 digits, an answer at the last second the offset holds, and the
greatest sums; and one of a call that was not answered. -/
theorem witness_CallRecordLayout :
    let c : Ctx :=
      { call with
        owner := ⟨0xFFFFFFFF, false⟩, cls := 255, answerPoint := some 65535, consumed := 0xFFFFFFFF,
        committed := 0xFFFFFFFF, cin := 0 }
    let s : State := { charging with lnu.number := List.replicate 20 9, rtu.ms := 66000000 }
    (s.lnu.number.length < 256 ∧ c.cls < 256 ∧ s.lnu.number[19]? = some 9 ∧ c.owner.seq < 0x100000000 ∧
      c.answerPoint = some 65535 ∧ 65535 - c.seizePoint < 65536 ∧ s.rtu.ms / 1000 - 65535 < 0x100000000 ∧
      c.consumed < 0x100000000 ∧ c.roll.length < 65536 ∧ c.committed < 0x100000000 ∧
      c.cin + c.committed - c.consumed < 0x100000000) ∧
    (call.answerPoint = none ∧ (s.lnu.number.take 19).length ≤ 19) := by decide +kernel

/-- R104, R158, section 3.6: the record of a charged call of two coins, ended after 65 s. -/
theorem test_call_record_words :
    let s := { charging with lnu.number := [0, 1, 2], rtu.ms := 65000 }
    (callWords (endRecord (ctxOf charging) .farEnd false s)).take 31 =
      [0, 1, 0x0305, 0x012F, 0xFFFF, 0xFFFF, 0xFFFF, 0xFFFF, 0, 0, 0, 0, 0, 65, 1, 0, 28, 2, 0, 40, 0, 40,
        0, 0, 0, 0, 0, 0, 0x0208, 0, 0] := by decide +kernel

/-- R56, R101, R104: the coins of a call that ends before its answer go back, or on to the next call. -/
theorem test_call_end_settles_the_coins :
    let s := calling .dialling
    let back := nx .onHook s
    let on := nx .answerTimeout { s with lnu.followOn := true, lnu.timers.answer := some 1 }
    (back.cnu.motion.map (·.dir) = some .ret ∧ back.cnu.drops = [⟨1, .ret⟩] ∧
      back.cnu.watch = [⟨1, false⟩]) ∧
    (on.cnu.escrow.map (·.owner) = [some ⟨2, false⟩, some ⟨2, false⟩] ∧ on.cnu.drops = [] ∧
      on.rtu.waiting = call.roll ∧ on.cnu.watch = []) := by decide +kernel

theorem witness_EndingsHeldOrRefused :
    let c := { call with phase := .grace, graceDeadline := some 70, maxEnd := some 70 }
    let s := { up with pfu.power := .saving, rtu.ctx := some c, rtu.ms := 70000 }
    (s.powered = true ∧ s.pfu.power ≠ .running ∧ s.rtu.ctx = some c ∧ 70 ≤ s.rtu.ms / 1000 ∧
      c.phase = .grace ∧ c.graceDeadline = some 70 ∧ c.phase ≠ .ending ∧ c.maxEnd = some 70) ∧
    (InService kindRelease (asked kindRelease [2]) (req kindRelease [2] up) ∧
      1 < param (asked kindRelease [2]).params 1) ∧
    (InService kindRelease (asked kindRelease [1]) (req kindRelease [1] up) ∧
      param (asked kindRelease [1]).params 1 ≤ 1 ∧ up.lnu.state.isEndable = false) := by
  decide +kernel

/-! ### The line -/

/-- Two pre-call coins in the tube in READY. -/
def paid : State :=
  { ready with
    cnu.escrow := [coin 0, coin 1]
    rtu.waiting := [⟨0, 20, false⟩, ⟨1, 20, false⟩]
    adu.cache.escrow := 40
    adu.cache.credited := 40 }

/-- FOLLOW_ON with a carry of 12. -/
def followed : State :=
  { paid with lnu.state := .followOn, rtu.carry := 12, lnu.timers.window := some 20000 }

theorem test_offHook :
    let t := nx .offHook { up with lnu.quiet := true }
    t.lnu.state = .ready ∧ t.lnu.timers.ready = some 60000 ∧ t.lnu.quiet = false := by decide +kernel

theorem test_offHook_yields :
    let t := nx .offHook (report .reportDialling reporting)
    t.lnu.state = .ready ∧ t.rpu.call = none ∧ t.inu.records.map (·.state) = [.pending] := by
  decide +kernel

theorem test_onHook_ready :
    let t := nx .onHook paid
    t.lnu.state = .idle ∧ t.rtu.waiting = [] ∧ t.cnu.drops = [⟨1, .ret⟩] ∧
      t.cnu.motion = some ⟨.ret, 500⟩ := by decide +kernel

theorem test_readyTimeout :
    let t := nx .readyTimeout { paid with lnu.timers.ready := some 60000 }
    t.lnu.state = .parked ∧ t.rtu.waiting = [] ∧ t.lnu.ms = 60000 := by decide +kernel

theorem test_quietTime :
    let t := nx .quietTime { up with lnu.timers.quiet := some 30000 }
    t.lnu.quiet = true ∧ t.lnu.ms = 30000 := by decide +kernel

/-- The number 112 of the emergency list. -/
def emergency : List Word := [3, 1, 1, 2]

theorem test_dial_emergency :
    let t := nx .dial (req kindDial emergency { ready with adu.nextCall := 0x10005 })
    t.lnu.state = .seizing ∧ code t = some 1 ∧ results t = [1, 1, 5] ∧ t.lnu.buffer = [1, 1, 2] ∧
      t.lnu.timers.loop = some 1000 := by decide +kernel

theorem test_dial_idle : code (nx .dial (req kindDial emergency up)) = some 5 := by decide +kernel

theorem test_clearGuardEnd :
    let t := nx .clearGuardEnd { calling .seizing with lnu.relay := false, lnu.timers.guard := some 400 }
    t.lnu.relay = true ∧ t.lnu.timers.loop = some 1400 := by decide +kernel

theorem test_loopAppears :
    let t := nx .loopAppears { calling .seizing with lnu.timers.loop := some 1000 }
    t.lnu.timers.dialDelay = some 2000 ∧ t.lnu.timers.loop = none := by decide +kernel

/-- A call dialling its last two digits. -/
def dialling : State :=
  { calling .dialling with lnu.buffer := [2, 1], lnu.tone := some ⟨true, 80, 60⟩ }

theorem test_dialDelayEnd :
    let s := { calling .seizing with lnu.buffer := [1, 1, 2], lnu.timers.dialDelay := some 2000 }
    let t := nx .dialDelayEnd s
    t.lnu.state = .dialling ∧ t.lnu.tone = some ⟨true, 2080, 80⟩ := by decide +kernel

theorem test_toneOnEnd : (nx .toneOnEnd dialling).lnu.tone = some ⟨false, 140, 60⟩ := by decide +kernel

theorem test_toneOffEnd :
    let t := nx .toneOffEnd { dialling with lnu.tone := some ⟨false, 140, 60⟩ }
    t.lnu.buffer = [1] ∧ t.lnu.tone = some ⟨true, 220, 80⟩ := by decide +kernel

theorem test_toneOffEnd_last :
    let t := nx .toneOffEnd { dialling with lnu.buffer := [1], lnu.tone := some ⟨false, 140, 60⟩ }
    t.lnu.state = .awaitAnswer ∧ t.lnu.timers.answer = some 90140 := by decide +kernel

/-- CLEARING after a call that kept its follow-on. -/
def clearing : State :=
  { followed with lnu.state := .clearing, lnu.keep := true, lnu.timers.clearing := some 1000 }

theorem test_clearingEnd :
    let t := nx .clearingEnd clearing
    t.lnu.state = .followOn ∧ t.lnu.timers.window = some 21000 ∧ t.rtu.carry = 12 := by decide +kernel

theorem test_followOnWindowEnd :
    let t := nx .followOnWindowEnd followed
    t.lnu.state = .parked ∧ t.rtu.carry = 0 ∧ t.adu.cache.excess = 12 := by decide +kernel

theorem test_sendDigits :
    let t := nx .sendDigits (req kindSendDigits [2, 10, 11] charging)
    code t = some 1 ∧ t.lnu.buffer = [10, 11] ∧ t.lnu.tone = some ⟨true, 80, 80⟩ := by decide +kernel

theorem test_followOn :
    let t := nx .followOn (req kindFollowOn [] (calling .awaitAnswer))
    t.lnu.followOn = true ∧ code (nx .followOn (req kindFollowOn [] (calling .dialling))) = some 5 := by
  decide +kernel

theorem test_loopLost : (nx .loopLost charging).lnu.timers.loss = some 2000 := by decide +kernel

theorem test_lineVoltageChange :
    let t := nx (.lineVoltageChange false) up
    t.lnu.timers.absent = some 5000 ∧ t.lnu.voltage = false := by decide +kernel

theorem test_voltageAbsentTimeout :
    let t := nx .voltageAbsentTimeout { paid with lnu.timers.absent := some 5000 }
    t.lnu.state = .down ∧ t.rtu.waiting = [] ∧ latched t.inu.latches .lineFault = true := by
  decide +kernel

/-- R119: a quiet line goes DOWN before LINE_FAULT is handed, so that no report call starts on it. -/
theorem test_voltageAbsentTimeout_quiet :
    let s := { up with lnu.quiet := true, lnu.timers.absent := some 5000, cfl.params.hold2 := 0 }
    let t := nx .voltageAbsentTimeout s
    t.lnu.state = .down ∧ t.rpu.call = none ∧ t.inu.records.map (·.state) = [.pending] := by
  decide +kernel

theorem test_voltageRestored :
    let s := { up with lnu.state := .down, inu.latches := 0x200, lnu.timers.present := some 5000 }
    let t := nx .voltageRestored s
    t.lnu.state = .idle ∧ t.inu.latches = 0 := by decide +kernel

theorem witness_HookOutsideCalls :
    (up.powered = true ∧ up.pfu.power = .running ∧ starting up = false ∧ up.lnu.state = .idle) ∧
    (paid.lnu.state = .ready ∧ (freeCoins ⟨paid.adu.nextCall, false⟩ paid).length = 2) ∧
    (paid.lnu.state ≠ .idle ∧ paid.lnu.state.isReport = false) ∧
    followed.lnu.state = .followOn ∧ ({ up with lnu.state := .parked } : State).lnu.state = .parked := by
  decide +kernel

theorem witness_ReadyAndQuietTimes :
    let s := { paid with lnu.timers.ready := some 60000 }
    let q := { up with lnu.timers.quiet := some 30000, cfl.params := Params.absent }
    (s.powered = true ∧ s.pfu.power = .running ∧ s.lnu.timers.ready = some 60000 ∧
      s.lnu.state = .ready) ∧
    q.lnu.timers.quiet = some 30000 ∧ q.cfl.params.report = none := by decide +kernel

/-- A TARIFF area of one entry, prefix 9, class 5, at least 3 and at most 20 digits. -/
def priced : State :=
  { ready with
    mem := Memory.storeAll []
      ([(0x80800, 100), (0x80802, 1), (0x80804, 0), (0x80806, 0)] ++
        placed 0x80808 [0x9000, 0, 0x0105, 0, 0x0314] ++
        placed (0x80800 + 2 * 1334) [1, 10, 60, 15, 60, 12, 30, 15, 60, 9])
    rtu.carry := 28 }

/-- The same with class 0. -/
def toll : State := { priced with mem := priced.mem.store 0x8080C 0x0100 .both }

theorem test_analysis :
    analyse [9, 1, 2] priced = .route 5 false (some row) ∧
      analyse [9, 1] priced = .refused .tooShort ∧ analyse [8, 1, 2] priced = .refused .noRoute ∧
      analyse [9, 1, 2] toll = .route 0 false none := by decide +kernel

/-- R79: a word passes into the TARIFF window between REQUEST_TAKE and DIAL. -/
theorem test_dial_after_a_tariff_write :
    let s := { req kindDial [3, 9, 1, 2] toll with acu.mode := .service }
    let write := nx (.controllerWrite 0x80810 0x0114 .both)
    let granted (n : Nat) (t : State) : State := Nat.repeat (nx .portGrant) n t
    (analysisSize [9, 1, 2] s = 9 ∧ (granted 9 s).tru.outcome = some (.route 0 false none)) ∧
    code (nx .dial s) = some 1 ∧ code (nx .dial (write (granted 1 s))) = some 16 ∧
      code (nx .dial (write (granted 8 s))) = some 16 ∧
      code (nx .dial (write (granted 9 s))) = some 1 ∧ code (nx .dial (write s)) = some 16 := by
  decide +kernel

/-- R80: a prefix nibble Ah matches no dialled `*`. -/
theorem test_prefix_star_matches_nothing :
    analyse [10, 1, 2] { priced with mem := priced.mem.store 0x80808 0xA000 .both } =
      .refused .noRoute := by decide +kernel

theorem witness_NumberAnalysed :
    let w (s : State) (i : Nat) : Nat := (s.mem.word (baseOf .tariff s + 2 * i)).toNat
    let barred := { priced with mem := priced.mem.store 0x8080E 1 .both }
    let full := { priced with mem := priced.mem.store 0x80802 256 .both }
    ([1, 1, 2] ∈ priced.cfl.params.emergency ∧ [9, 1] ∉ priced.cfl.params.emergency) ∧
    (priced.tru.unsettled = false ∧ priced.tru.valid = true ∧ priced.tru.edited = false ∧
      priced.tru.outcome = none ∧ priced.tru.analysed = 0 ∧
      ({ priced with tru.analysed := 1 } : State).tru.analysed ≠ 0 ∧
      ({ priced with tru.outcome := some (.refused .barred) } : State).tru.outcome =
        some (.refused .barred)) ∧
    (({ priced with tru.unsettled := true } : State).tru.unsettled = true ∧
      ({ priced with tru.valid := false } : State).tru.valid = false ∧
      ({ priced with tru.edited := true } : State).tru.edited = true) ∧
    (w priced 1 = 1 ∧ w full 1 = 256 ∧ w priced 6 / 256 = 1 ∧ w priced 4 / 16 ^ 3 % 16 = 9 ∧
      w priced 6 % 256 = 5 ∧ w priced 7 = 0 ∧ w barred 7 = 1 ∧ w priced 8 / 256 = 3 ∧
      w priced 8 % 256 = 20) := by
  decide +kernel

/-- R16, R79: the words of an analysis are read one by one, and DIAL waits for the port meanwhile. -/
theorem test_analysis_reads :
    let s := req kindDial [3, 9, 1, 2] priced
    let behind :=
      { s with pfu.power := .running, bpu.cycle := some ⟨true, 0x3E200, 0, .both, some 0x3E200⟩ }
    analysisSize [9, 1, 2] s = 19 ∧ (nx .portGrant s).tru.analysed = 1 ∧
      waits .tru { s with tru.analysed := 18 } = true ∧
      waits .tru { s with tru.analysed := 19 } = false ∧ code (nx .dial behind) = none ∧
      code (nx .dial { nx .portGrant { s with tru.analysed := 18 } with bpu := behind.bpu }) =
        some 1 := by decide +kernel

theorem witness_DialRefusals :
    let v := asked kindDial [3, 9, 1, 2]
    let e := asked kindDial emergency
    let reports := report .reportSending reporting
    let full := { priced with adu.nextCall := 249 }
    let barred := { priced with inu.latches := 1 }
    let figure (x : Nat) : Nat := min 9999 (x + (x * row.surcharge + 999) / 1000)
    let deposit := figure row.setup + figure (row.rate (chooseBand row priced)).charge
    (InService kindDial v (req kindDial v.params { ready with lnu.state := .down })) ∧
    (InService kindDial (asked kindDial [21]) (req kindDial [21] ready) ∧
      ¬param (asked kindDial [21]).params 1 ≤ 20) ∧
    (InService kindDial e (req kindDial e.params up) ∧ [1, 1, 2] ∈ up.cfl.params.emergency ∧
      up.lnu.state.isReport = false ∧ up.lnu.state ≠ .ready ∧ up.lnu.state ≠ .parked) ∧
    (InService kindDial e (req kindDial e.params reports) ∧ reports.lnu.state.isReport = true ∧
      reports.lnu.offHook = false) ∧
    (InService kindDial v (req kindDial v.params reports) ∧
      [9, 1, 2] ∉ reports.cfl.params.emergency ∧ outOfOrder { ready with inu.latches := 4 } = true) ∧
    (InService kindDial v (req kindDial v.params priced) ∧ priced.lnu.state = .ready ∧
      outOfOrder priced = false ∧ priced.tru.unsettled = false ∧ priced.tru.valid = true ∧
      analyse [9, 1] priced = .refused .tooShort) ∧
    (analyse [9, 1, 2] full = .route 5 false (some row) ∧ uncollected full = 248) ∧
    (analyse [9, 1, 2] barred = .route 5 false (some row) ∧ outOfOrder barred = false ∧
      uncollected barred < 248 ∧ paidBarred barred = true) ∧
    (analyse [9, 1, 2] priced = .route 5 false (some row) ∧ paidBarred priced = false ∧
      ({ priced with rtu.carry := 27 } : State).rtu.carry + (priced.rtu.waiting.map (·.value)).sum <
        deposit) := by decide +kernel

/-- An analysis that reads the TARIFF window: the port the TRU's, a word before it on the port, no word left,
and its outcome known; and one that reads none. -/
theorem witness_DialRefusals_words :
    let v := asked kindDial [3, 9, 1, 2]
    let s := req kindDial v.params priced
    let behind := { s with bpu.cycle := some ⟨true, 0x3E200, 0, .both, some 0x3E200⟩ }
    (InService kindDial v s ∧ s.tru.edited = false ∧ portReaches .tru s = true) ∧
    (InService kindDial v behind ∧ portReaches .tru behind = false ∧
      ¬analysisSize [9, 1, 2] behind ≤ behind.tru.analysed ∧
      analysisSize [9, 1, 2] behind ≤ ({ behind with tru.analysed := 19 } : State).tru.analysed ∧
      analyse [9, 1, 2] { behind with tru.outcome := some (.refused .barred) } = .refused .barred) ∧
    (({ s with tru.unsettled := true } : State).tru.unsettled = true ∧
      ({ s with tru.valid := false } : State).tru.valid = false ∧
      s.tru.outcome = none ∧ s.tru.analysed = 0 ∧
      ({ s with tru.edited := true, tru.analysed := 1 } : State).tru.edited = true) := by decide +kernel

theorem witness_DialAccepted :
    let v := asked kindDial [3, 9, 1, 2]
    let e := asked kindDial emergency
    let full := { paid with adu.nextCall := 257, lnu.relayOpened := some 0 }
    let figure (x : Nat) : Nat := min 9999 (x + (x * row.surcharge + 999) / 1000)
    let deposit := figure row.setup + figure (row.rate (chooseBand row priced)).charge
    (InService kindDial e (req kindDial e.params ready) ∧ ready.pfu.power = .running ∧
      ready.lnu.quiet = false ∧ [1, 1, 2] ∈ ready.cfl.params.emergency ∧ ready.lnu.state = .ready) ∧
    (InService kindDial v (req kindDial v.params toll) ∧ [9, 1, 2] ∉ toll.cfl.params.emergency ∧
      outOfOrder toll = false ∧ portReaches .tru (req kindDial v.params toll) = true ∧
      analyse [9, 1, 2] (req kindDial v.params toll) = .route 0 false none) ∧
    (InService kindDial v (req kindDial v.params priced) ∧
      analyse [9, 1, 2] (req kindDial v.params priced) = .route 5 false (some row) ∧
      uncollected priced < 248 ∧ paidBarred priced = false ∧
      deposit ≤ priced.rtu.carry + (priced.rtu.waiting.map (·.value)).sum) ∧
    (256 ≤ uncollected full ∧ (full.lnu.relayOpened.any fun p => full.lnu.ms < p + 1000) = true ∧
      [1, 1, 2] ∈ full.cfl.params.emergency) := by decide +kernel

/-- The coins put in for an unlogged call take its marked owner. -/
theorem test_dial_unlogged_coins :
    let pay (c : Coin) : Coin := { c with owner := some ⟨257, false⟩ }
    let s := { paid with adu.nextCall := 257, cnu.escrow := [pay (coin 0), pay (coin 1)] }
    (nx .dial (req kindDial emergency s)).cnu.escrow.map (·.owner) =
      [some ⟨257, true⟩, some ⟨257, true⟩] := by decide +kernel

theorem witness_SeizureSteps :
    let s :=
      { calling .seizing with
        lnu.buffer := [1]
        lnu.timers :=
          { Timers.stopped with guard := some 400, loop := some 1000, dialDelay := some 2000 } }
    (s.powered = true ∧ s.pfu.power = .running ∧ s.lnu.timers.guard = some 400 ∧
      s.lnu.timers.loop.isSome = true ∧ s.lnu.timers.dialDelay = some 2000 ∧ s.lnu.state = .seizing ∧
      s.lnu.buffer ≠ []) ∧
    up.lnu.timers.loop = none ∧
    (charging.lnu.state.watchesLoop = true ∧ charging.lnu.relay = true ∧
      charging.lnu.loopSeen = true) ∧
    up.lnu.relay = false := by decide +kernel

theorem witness_TonesSent :
    let off' : ToneStage := ⟨false, 140, 60⟩
    let s := { dialling with lnu.tone := some off' }
    (dialling.powered = true ∧ dialling.pfu.power = .running ∧ dialling.lnu.tone = some ⟨true, 80, 60⟩) ∧
    (s.lnu.tone = some off' ∧ off'.on = false ∧ s.lnu.buffer = 2 :: 1 :: [] ∧
      s.lnu.state ≠ .reportSending) ∧
    (({ s with lnu.buffer := [1] } : State).lnu.state = .dialling ∧ s.lnu.reversed = false) ∧
    ({ s with lnu.buffer := [1], lnu.reversed := true } : State).lnu.reversed = true ∧
    ({ charging with lnu.buffer := [1], lnu.tone := some off' } : State).lnu.state = .connected := by
  decide +kernel

theorem witness_ClearingAndFollowOnEnd :
    clearing.powered = true ∧ clearing.pfu.power = .running ∧
      clearing.lnu.timers.clearing = some 1000 ∧ clearing.lnu.state = .clearing ∧
      clearing.lnu.keep = true ∧ clearing.lnu.offHook = true ∧
      ({ clearing with lnu.keep := false, lnu.offHook := false } : State).lnu.keep = false ∧
      followed.lnu.timers.window = some 20000 ∧ followed.lnu.state = .followOn := by decide +kernel

theorem witness_SendDigitsJudged :
    let v := asked kindSendDigits [16, 11]
    let bad := asked kindSendDigits [17]
    let s (k : Nat) : State := { charging with lnu.buffer := List.replicate k 1 }
    (InService kindSendDigits v (req kindSendDigits v.params up) ∧ up.lnu.state ≠ .connected) ∧
    (InService kindSendDigits bad (req kindSendDigits bad.params charging) ∧
      charging.pfu.power = .running ∧ charging.lnu.state = .connected ∧ ¬param bad.params 1 ≤ 16) ∧
    (InService kindSendDigits v (req kindSendDigits v.params (s 20)) ∧ param v.params 1 ≤ 16 ∧
      (s 20).lnu.buffer.length + param v.params 1 ≤ 36 ∧
      36 < (s 21).lnu.buffer.length + param v.params 1 ∧
      ∀ d ∈ (List.range 16).map fun i => param v.params (2 + i), d ≤ 11) := by decide +kernel

theorem witness_FollowOnJudged :
    let v := asked kindFollowOn []
    (InService kindFollowOn v (req kindFollowOn [] (calling .awaitAnswer)) ∧
      (calling .awaitAnswer).pfu.power = .running) ∧
    InService kindFollowOn v (req kindFollowOn [] (calling .dialling)) := by decide +kernel

theorem witness_LineVoltageWatched :
    let s := { up with lnu.timers.absent := some 5000 }
    let down := { up with lnu.state := .down, lnu.timers.present := some 5000 }
    (s.powered = true ∧ s.pfu.power = .running ∧ s.lnu.voltage = true ∧
      s.lnu.timers.absent = some 5000 ∧ starting s = false ∧ s.lnu.quiet = false ∧
      ({ s with lnu.quiet := true } : State).lnu.state = .idle) ∧
    starting { s with cfl.step := .settle } = true ∧
    (({ paid with lnu.timers := s.lnu.timers } : State).lnu.state = .ready ∧
      ({ followed with lnu.timers := s.lnu.timers } : State).lnu.state = .followOn ∧
      freeCoins ⟨1, false⟩ paid = [coin 0, coin 1] ∧ paid.adu.nextCall = 1) ∧
    down.lnu.timers.present = some 5000 ∧
    ({ s with pfu.power := .saved } : State).pfu.power ≠ .running := by decide +kernel

/-! ### Report calls -/

/-- A PENDING record of severity 2 due at second 300. -/
def duePending : IncRec := { record .cordCut .pending with due := 300 }

def quiet : State := { up with lnu.quiet := true, inu.records := [duePending] }

theorem test_recordDuePoint :
    let t := nx .recordDuePoint quiet
    t.lnu.state = .reportSeizing ∧ t.lnu.buffer = [0, 2, 1] ∧ t.inu.records.map (·.state) = [.reporting] ∧
      t.inu.ms = 300000 := by decide +kernel

theorem test_timeRequestDue :
    let t := nx .timeRequestDue { up with lnu.quiet := true, rpu.timeRequest := some ⟨.clock, 0, 5⟩ }
    t.lnu.state = .reportSeizing ∧
      t.rpu.call.map (fun c => (c.timeRides, c.carried.length)) = some (true, 0) := by
  decide +kernel

/-- R140: in config fault no start is wanted, though a reload has given a report number (R34). -/
theorem test_no_start_in_fault :
    let s := { quiet with cfl.fault := some (.length, 3) }
    (nx .recordDuePoint s).lnu.state = .idle ∧ (nx .recordDuePoint quiet).lnu.state = .reportSeizing := by
  decide +kernel

theorem test_testReport :
    let t := nx .testReport (req kindTestReport [] { up with acu.mode := .service })
    code t = some 1 ∧ t.rpu.timeRequest = some ⟨.test, 0, 0⟩ ∧
      code (nx .testReport (req kindTestReport [] up)) = some 6 := by decide +kernel

theorem test_reportAnswerTimeout :
    let t := nx .reportAnswerTimeout
      { report .reportAwaitAnswer reporting with lnu.timers.reportAnswer := some 60000 }
    t.lnu.state = .reportClearing ∧ t.rpu.call = none ∧ t.lnu.timers.reportClearing = some 61000 := by
  decide +kernel

theorem test_reportSendDelayEnd :
    let t := nx .reportSendDelayEnd
      { report .reportAwaitAnswer { reporting with number := none } with
        lnu.timers.sendDelay := some 1000
        rpu.counter := 9999 }
    t.lnu.state = .reportSending ∧ t.rpu.counter = 0 ∧ t.lnu.tone = some ⟨true, 1080, 80⟩ := by
  decide +kernel

theorem test_reportClearingEnd :
    let t := nx .reportClearingEnd
      { up with
        lnu.state := .reportClearing
        lnu.timers.reportClearing := some 1000
        lnu.offHookMemory := true }
    t.lnu.state = .ready ∧ t.lnu.offHookMemory = false := by decide +kernel

/-- The line awaits the acknowledgement. -/
def awaiting (c : ReportCall) : State :=
  { report .reportAwaitAck c with rpu.firstTone := some 10000 }

theorem test_toneReceived_a :
    let t := nx (.toneReceived .a) (awaiting reporting)
    t.rpu.call.map (·.stage) = some .afterA ∧ t.rpu.interTone = some 1000 ∧ t.rpu.firstTone = none := by
  decide +kernel

theorem test_toneReceived_second_b :
    let t := nx (.toneReceived .b) (awaiting { reporting with resend := true })
    t.inu.records.map (fun r => (r.state, r.attempts, r.due)) = [(.pending, 1, 120)] ∧
      t.lnu.state = .reportClearing := by decide +kernel

theorem test_firstToneTimeout :
    let t := nx .firstToneTimeout (awaiting reporting)
    t.inu.records.map (·.state) = [.pending] ∧ t.rpu.ms = 10000 := by decide +kernel

theorem test_interToneTimeout :
    let t := nx .interToneTimeout
      { awaiting { reporting with stage := .afterA } with rpu.interTone := some 1000 }
    t.inu.records.map (·.state) = [.reported] ∧ t.rqu.flags.getLsbD 8 = true := by decide +kernel

/-- A record due alone, none, a line that is not quiet, a time request of either origin, a valid clock, and
the quiet count at its end. -/
theorem witness_ReportStarts :
    let cfg : ReportCfg := ⟨[0, 2, 1], [3, 5, 7], [2, 5, 15, 30, 60, 60]⟩
    let loud := { quiet with lnu.quiet := false }
    let timed := { quiet with rpu.timeRequest := some ⟨.test, 1, 7⟩ }
    let clocked :=
      { quiet with
        rpu.timeRequest := some ⟨.clock, 1, 7⟩
        rpu.call := some reporting
        tru.clock := some ⟨24, 3, 1, 8, 0, 0⟩ }
    let asks := req kindTestReport [] { quiet with acu.mode := .service }
    let ending := { loud with lnu.timers.quiet := some 30000, inu.ms := 300000 }
    (quiet.powered = true ∧ quiet.pfu.power = .running ∧ quiet.cfl.params.report = some cfg ∧
      duePending ∈ pendingRecords quiet ∧ (∀ x ∈ pendingRecords quiet, duePending.due ≤ x.due) ∧
      quiet.lnu.quiet = true ∧ quiet.lnu.state = .idle ∧ quiet.rpu.call = none ∧
      quiet.tru.clock = none ∧ IndexLaw quiet ∧ (quiet.inu.records.map (·.seq)).Nodup) ∧
    (pendingRecords up = [] ∧ up.rpu.timeRequest = none) ∧
    (loud.lnu.quiet = false ∧ duePending ∈ pendingRecords loud) ∧
    (timed.rpu.timeRequest = some ⟨.test, 1, 7⟩ ∧ timed.lnu.quiet = true ∧ timed.rpu.call = none) ∧
    (clocked.rpu.timeRequest = some ⟨.clock, 1, 7⟩ ∧ clocked.rpu.call.isSome = true ∧
      clocked.tru.clock.isSome = true ∧ clocked.lnu.quiet = true) ∧
    (ending.lnu.timers.quiet = some 30000 ∧ ending.lnu.state = .idle ∧
      duePending.due ≤ ending.inu.ms / 1000) ∧
    (InService kindTestReport (asked kindTestReport []) asks ∧ asks.acu.mode = .service ∧
      asks.cfl.params.report.isSome = true ∧ asks.lnu.quiet = true ∧ asks.rpu.call = none) ∧
    InService kindTestReport (asked kindTestReport []) { asks with lnu.quiet := false } := by
  decide +kernel

/-- R140, R141: of six PENDING records the due ones first, then the graver, then the older. -/
theorem test_quietTime_carries_four :
    let r (i : Nat) (k : IncKind) (due : Nat) : IncRec :=
      { record k .pending with slot := i, seq := i, due := due }
    let s :=
      { up with
        lnu.timers.quiet := some 30000
        inu.ms := 300000
        inu.records :=
          [r 0 .cordCut 999, r 1 .shock 999, r 2 .controllerFault 300, r 3 .controllerFault 999,
            r 4 .cordCut 300] }
    let t := nx .quietTime s
    t.lnu.state = .reportSeizing ∧
      t.rpu.call.map (fun c => c.carried.map (·.seq)) = some [4, 2, 0, 1] ∧
      t.inu.records.map (·.state) = [.reporting, .reporting, .reporting, .pending, .reporting] := by
  decide +kernel

theorem witness_TestReportRefusals :
    let v := asked kindTestReport []
    let bare := req kindTestReport [] { up with acu.mode := .service, cfl.params := Params.absent }
    (InService kindTestReport v (req kindTestReport [] up) ∧ up.acu.mode ≠ .service) ∧
    (InService kindTestReport v bare ∧ bare.acu.mode = .service ∧ bare.cfl.params.report = none) := by
  decide +kernel

theorem witness_MessageSent :
    let cfg : ReportCfg := ⟨[0, 2, 1], [3, 5, 7], [2, 5, 15, 30, 60, 60]⟩
    let c := { reporting with number := none }
    let r := record .cordCut .reporting
    let delay := { report .reportAwaitAnswer c with lnu.timers.sendDelay := some 1000 }
    let sending (b : List Nat) (c : ReportCall) : State :=
      { report .reportSending c with lnu.buffer := b, lnu.tone := some ⟨false, 140, 60⟩ }
    (delay.powered = true ∧ delay.pfu.power = .running ∧ delay.rpu.call = some c ∧
      delay.lnu.timers.sendDelay = some 1000 ∧ c.number = none ∧
      delay.cfl.params.report = some cfg ∧ c.carried.map (·.seq) = [r].map (·.seq) ∧
      (delay.inu.records.find? fun x => x.seq = r.seq && x.state = .reporting) = some r) ∧
    ((sending [5, 6] { reporting with toHand := [7] }).rpu.call = some { reporting with toHand := [7] } ∧
      (sending [5, 6] reporting).lnu.tone = some ⟨false, 140, 60⟩ ∧
      (sending [5, 6] reporting).lnu.state = .reportSending) ∧
    ((sending [11] reporting).lnu.buffer = [11] ∧ reporting.toHand = []) := by decide +kernel

/-- R142, R143: a CORD_CUT of count 1 with no dates, under the number 4: the digits sum to 34. -/
theorem test_message_digits :
    let c := { reporting with number := none }
    let s :=
      { report .reportAwaitAnswer c with
        lnu.timers.sendDelay := some 1000
        cfl.params.report := some ⟨[0, 2, 1], [3, 5, 7, 0, 0, 0, 0, 0], [2, 5, 15, 30, 60, 60]⟩
        rpu.counter := 4 }
    (nx .reportSendDelayEnd s).rpu.call.map (·.message) =
      some ([10, 3, 5, 7, 0, 0, 0, 0, 0, 0, 0, 0, 4, 1] ++
        [0, 3, 2, 0, 0, 1, 0, 0, 0, 0, 0, 0, 0, 0, 0, 0, 0, 0] ++ [4, 11]) := by decide +kernel

theorem witness_ReportYieldsOrEnds :
    let unanswered :=
      { report .reportAwaitAnswer reporting with lnu.timers.reportAnswer := some 60000 }
    let lifted := { report .reportSending reporting with lnu.offHook := true }
    let dials := req kindDial emergency lifted
    (unanswered.powered = true ∧ unanswered.pfu.power = .running ∧ starting unanswered = false ∧
      unanswered.rpu.call = some reporting ∧ unanswered.lnu.quiet = false ∧
      unanswered.lnu.timers.reportAnswer = some 60000 ∧ unanswered.lnu.state = .reportAwaitAnswer ∧
      reporting.stage = .none ∧ (∀ x ∈ reporting.carried, x.severity ≠ 3) ∧
      reporting.carried =
        [⟨(record .cordCut .reporting).seq, (record .cordCut .reporting).kind.severity⟩] ∧
      unanswered.inu.records = [record .cordCut .reporting] ∧ uncollected unanswered < 247) ∧
    (∃ x ∈ [(⟨3, 3⟩ : Carried)], x.severity = 3) ∧
    (report .reportSeizing { reporting with carried := [⟨3, 3⟩] }).lnu.state.isReport = true ∧
    (InService kindDial (asked kindDial emergency) dials ∧ dials.lnu.state.isReport = true ∧
      dials.lnu.state ≠ .reportClearing ∧ dials.lnu.offHook = true ∧ dials.lnu.relay = true ∧
      [1, 1, 2] ∈ dials.cfl.params.emergency) := by decide +kernel

/-- REPORT_AWAIT_ACK after the centre's A, the handset lifted, as an emergency number is dialled. -/
theorem witness_ReportYieldsOrEnds_afterA :
    let c := { reporting with stage := .afterA }
    let s := req kindDial emergency { report .reportAwaitAck c with lnu.offHook := true }
    (InService kindDial (asked kindDial emergency) s ∧ s.rpu.call = some c ∧ c.stage = .afterA ∧
      s.lnu.state.isReport = true ∧ s.lnu.state ≠ .reportClearing ∧ s.lnu.offHook = true) ∧
    Carries c s := by
  unfold Carries
  decide +kernel

/-- A seizure with a number to send and with no loop, the number's last tone over polarity reversed and not,
the message, and the loss of the loop, at both stages of the acknowledgement. -/
theorem witness_ReportDialsOrFails :
    let timed (st : LineState) (c : ReportCall) : State :=
      { report st c with
        lnu.buffer := [0, 2, 1]
        lnu.timers :=
          { Timers.stopped with dialDelay := some 2000, loop := some 1000, loss := some 2000 } }
    let sent (reversed : Bool) : State :=
      { report .reportDialling reporting with
        lnu.reversed := reversed, lnu.buffer := [1], lnu.tone := some ⟨false, 140, 60⟩ }
    let after := { reporting with stage := .afterA }
    let seizing := timed .reportSeizing reporting
    (seizing.powered = true ∧ seizing.pfu.power = .running ∧ seizing.rpu.call = some reporting ∧
      seizing.lnu.quiet = false ∧ seizing.lnu.timers.dialDelay = some 2000 ∧
      seizing.lnu.buffer ≠ [] ∧ seizing.lnu.timers.loop = some 1000 ∧
      seizing.lnu.timers.loss = some 2000 ∧ seizing.lnu.state.isReport = true) ∧
    ((sent false).lnu.tone = some ⟨false, 140, 60⟩ ∧ (sent true).lnu.reversed = true ∧
      (sent true).lnu.buffer = [1] ∧ (sent true).lnu.state = .reportDialling) ∧
    ((timed .reportSending reporting).rpu.call = some reporting ∧ reporting.stage = .none ∧
      (timed .reportAwaitAck after).rpu.call = some after ∧ after.stage = .afterA) ∧
    Carries reporting seizing ∧ Carries after (timed .reportAwaitAck after) := by
  unfold Carries
  decide +kernel

/-- R114, R150: the line ends a report call: a failure before the centre's A, an acceptance after it. -/
theorem test_line_ends_a_report :
    let s (c : ReportCall) : State :=
      { report .reportAwaitAck c with lnu.timers.loss := some 2000, rpu.interTone := some 1000 }
    let after := { reporting with stage := .afterA, digits := [2, 4] }
    let record (t : State) := (t.inu.records.find? (·.kind = .cordCut)).map fun r => (r.state, r.attempts)
    let failed := nx .polarityReversion (s reporting)
    (record failed = some (.pending, 1) ∧ failed.lnu.state = .reportClearing) ∧
    record (nx .polarityReversion (s after)) = some (.reported, 0) ∧
    record (nx .loopLossTimeout (s after)) = some (.reported, 0) ∧
      (nx .loopLossTimeout (s after)).lnu.state = .down ∧
      latched (nx .loopLossTimeout (s after)).inu.latches .lineFault = true := by decide +kernel

/-- REPORT_CLEARING after the outcome. -/
def reportCleared : State :=
  { up with
    lnu.state := .reportClearing
    lnu.timers.reportClearing := some 1000
    lnu.relayOpened := some 0
    inu.records := [record .cordCut .pending] }

theorem test_dial_emergency_in_reportClearing :
    let t := nx .dial (req kindDial emergency { reportCleared with lnu.offHook := true })
    t.lnu.state = .seizing ∧ code t = some 1 ∧ t.lnu.timers.guard = some 1000 ∧
      t.inu.records = reportCleared.inu.records := by decide +kernel

theorem witness_ReportClears :
    let dials := req kindDial emergency { reportCleared with lnu.offHook := true }
    (reportCleared.powered = true ∧ reportCleared.pfu.power = .running ∧
      starting reportCleared = false ∧ reportCleared.rpu.call = none ∧
      reportCleared.lnu.quiet = false ∧ reportCleared.lnu.state = .reportClearing ∧
      reportCleared.lnu.timers.reportClearing = some 1000 ∧
      reportCleared.lnu.offHookMemory = false) ∧
    ({ reportCleared with lnu.offHookMemory := true } : State).lnu.offHookMemory = true ∧
    (InService kindDial (asked kindDial emergency) dials ∧ dials.lnu.offHook = true ∧
      dials.rpu.call = none ∧ [1, 1, 2] ∈ dials.cfl.params.emergency ∧ uncollected dials < 247) := by
  decide +kernel

theorem witness_AcknowledgementTones :
    let s := awaiting reporting
    let after := { reporting with stage := .afterA, digits := List.replicate 11 0 }
    (s.powered = true ∧ s.rpu.call = some reporting ∧ s.pfu.power = .running ∧
      s.lnu.state = .reportAwaitAck ∧ reporting.stage = .none ∧ reporting.resend = false ∧
      reporting.number.isSome = true) ∧
    (report .reportSending reporting).lnu.state ≠ .reportAwaitAck ∧
    ({ s with pfu.power := .saving } : State).pfu.power ≠ .running ∧
    ((awaiting after).rpu.call = some after ∧ after.stage = .afterA ∧ after.digits.length < 12) := by
  decide +kernel

/-- Two carried records of two kinds, no answer, a second B, silence after A, a digit too many, and twelve
digits in and out of range. -/
theorem witness_ReportOutcomes :
    let other := { record .shock .reporting with slot := 63, seq := 65535 }
    let c := { reporting with carried := [⟨3, 2⟩, ⟨65535, 1⟩], timeRides := true }
    let s (c : ReportCall) : State :=
      { awaiting c with
        inu.records :=
          [record .cordCut .reporting, other, { record .cordCut .reported with slot := 9, seq := 2 }]
        rpu.timeRequest := some ⟨.clock, 255, 0⟩ }
    let after (ds : List Nat) : ReportCall := { c with stage := .afterA, digits := ds }
    let x := s c
    (x.powered = true ∧ x.pfu.power = .running ∧ x.lnu.state = .reportAwaitAck ∧ x.lnu.quiet = false ∧
      x.rpu.call = some c ∧ IndexLaw x ∧ (x.inu.records.map (·.seq)).Nodup ∧
      (c.carried.map (·.seq)).Nodup ∧
      (∀ r ∈ x.inu.records, r.seq ∈ c.carried.map (·.seq) → r.state = .reporting ∧
        ∀ y ∈ x.inu.records, y.kind = r.kind → y.state ≠ .reported → y = r) ∧
      c.stage = .none ∧ x.rpu.firstTone = some 10000 ∧ x.rpu.timeRequest.isSome = true) ∧
    ((s { c with resend := true }).rpu.call = some { c with resend := true } ∧ Tone.b ≠ .a ∧
      Tone.hash ≠ .a ∧ Tone.hash ≠ .b) ∧
    ((s (after [2])).rpu.call = some (after [2]) ∧ (after [2]).stage = .afterA ∧
      (after [2]).digits.length ≠ 12 ∧
      ({ s (after [2]) with rpu.interTone := some 1000 } : State).rpu.interTone = some 1000) ∧
    ((after [2, 4, 0, 2, 2, 9, 2, 3, 5, 9, 5, 8]).digits.length = 12 ∧
      (after [2, 3, 0, 2, 2, 9, 2, 3, 5, 9, 5, 8]).digits.length = 12) := by decide +kernel

/-- R84: twelve digits closed by `#` set the clock, and out of range they leave it. -/
theorem test_report_time :
    let c (ds : List Nat) : ReportCall := { reporting with stage := .afterA, digits := ds }
    (nx (.toneReceived .hash) (awaiting (c [2, 4, 0, 2, 2, 9, 2, 3, 5, 9, 5, 8]))).tru.clock =
        some ⟨24, 2, 29, 23, 59, 58⟩ ∧
      (nx (.toneReceived .hash) (awaiting (c [2, 3, 0, 2, 2, 9, 2, 3, 5, 9, 5, 8]))).tru.clock = none := by
  decide +kernel

theorem witness_ReturnedRecordAbsorbs :
    let r := record .cordCut .reporting
    let x := { record .cordCut .pending with slot := 1, seq := 9, count := 255 }
    let s := { awaiting reporting with inu.records := [r, x] }
    s.powered = true ∧ s.pfu.power = .running ∧ s.lnu.state = .reportAwaitAck ∧ s.lnu.quiet = false ∧
      s.rpu.call = some reporting ∧ reporting.stage = .none ∧
      reporting.carried = [⟨r.seq, r.kind.severity⟩] ∧ s.inu.records = [r, x] ∧
      r.state = .reporting ∧ x.state = .pending ∧ x.kind = r.kind ∧ x.slot ≠ r.slot := by
  decide +kernel

/-! ### Incidents -/

theorem test_cordContinuityChange :
    let t := nx (.cordContinuityChange false) up
    t.inu.latches = 4 ∧ t.inu.records.map (fun r => (r.slot, r.seq, r.count, r.due)) = [(0, 0, 1, 300)] := by
  decide +kernel

theorem test_shockPulse :
    let s (ms : Nat) : State := { up with inu.lastShock := some 0, inu.edgeMs := ms }
    (nx .shockPulse (s 199)).inu.attrs.shockPulses.total = 0 ∧
      (nx .shockPulse (s 200)).inu.attrs.shockPulses.total = 1 := by decide +kernel

/-- R126, R136: the spacing of the edges goes on in a save. -/
theorem test_shockPulse_spacing_in_a_save :
    let s := { up with pfu.power := .saving, inu.lastShock := some 0, inu.edgeMs := 199 }
    (nx .shockPulse (stepped s)).held = [.attrEvent .shockPulses] ∧ (nx .shockPulse s).held = [] := by
  decide +kernel

/-- SHOCK_PULSES one below its threshold of 5, its decay due in 600 s. -/
def shaken : State := { up with inu.attrs.shockPulses := ⟨4, 4, true, some 600000⟩ }

theorem test_shockPulse_crosses :
    let t := nx .shockPulse shaken
    t.inu.records.map (·.kind) = [.shock] ∧ t.inu.attrs.shockPulses.armed = false := by decide +kernel

theorem test_decayExpiry :
    let t := nx (.decayExpiry .shockPulses)
      { up with inu.attrs.shockPulses := ⟨9, 1, false, some 600000⟩ }
    t.inu.attrs.shockPulses = ⟨9, 0, true, some 1200000⟩ := by decide +kernel

theorem test_reportFault :
    let t := nx .reportFault (req kindReportFault [15] up)
    code t = some 1 ∧ t.inu.records.map (fun r => (r.kind, r.detail)) = [(.controllerFault, 15)] ∧
      t.inu.latches = 0 := by decide +kernel

/-- A frozen drop queue, its stuck coin at the bottom of the tube, in SERVICE. -/
def stuckDrop : State :=
  { collecting with
    acu.mode := .service
    cnu.motion := none
    cnu.frozen := true
    cnu.stuck := some .ret
    inu.latches := 0x40 }

theorem test_clearIncident :
    let t := nx .clearIncident (req kindClearIncident [7] stuckDrop)
    code t = some 1 ∧ t.cnu.frozen = false ∧ t.cnu.motion = some ⟨.ret, 500⟩ ∧ t.inu.latches = 0 := by
  decide +kernel

theorem test_clearAttributes :
    let t := nx .clearAttributes (req kindClearAttributes [] { shaken with acu.mode := .service })
    t.inu.attrs.shockPulses = ⟨0, 0, true, some 600000⟩ ∧ code t = some 1 := by decide +kernel

/-- An INU that holds; the lowest slot free, and slot 63 alone; no slot free; a PENDING record of the kind;
with a hold and without, over a loud line and a quiet one. -/
theorem witness_OccurrenceMade :
    let records (n : Nat) : List IncRec :=
      (List.range n).map fun i => { record .shock .reported with slot := i, seq := i }
    let some63 := { up with inu.records := records 63 }
    let full := { up with inu.records := records 64 }
    let merging := { up with inu.records := [{ record .shock .pending with count := 255 }] }
    let quiet' := { up with lnu.quiet := true }
    (({ up with pfu.power := .saved } : State).pfu.power ≠ .running ∧
      ({ up with inu.rebuilt := false } : State).inu.rebuilt = false) ∧
    (up.pfu.power = .running ∧ up.inu.rebuilt = true ∧ up.lnu.quiet = false ∧
      pendingOf .shock up = none ∧ up.inu.records = []) ∧
    (pendingOf .shock some63 = none ∧ (∀ x ∈ some63.inu.records, x.slot ≠ 63) ∧
      ∀ j ∈ List.range 63, ∃ x ∈ some63.inu.records, x.slot = j) ∧
    (pendingOf .shock full = none ∧ (∀ i ∈ List.range 64, ∃ y ∈ full.inu.records, y.slot = i) ∧
      full.inu.records = [] ++ { record .shock .reported with slot := 0, seq := 0 } ::
        full.inu.records.tail) ∧
    (quiet'.lnu.quiet = true ∧ quiet'.lnu.state = .idle ∧ pendingOf .configFault quiet' = none) ∧
    pendingOf .shock merging = some { record .shock .pending with count := 255 } := by decide +kernel

/-- R129, R130: a record of kind 2 carries the cash-box value, is due at once, and starts a report call
over a quiet line. -/
theorem test_occurrence_severity_3 :
    let s := { up with lnu.quiet := true, adu.cache.boxValue := 1234 }
    let t := occur .cashboxRemoved 0 s
    t.inu.records.map (fun r => (r.snapshot, r.due, r.state)) = [(some 1234, 0, .reporting)] ∧
      t.lnu.state = .reportSeizing ∧ t.adu.jobs.length = 1 := by decide +kernel

theorem witness_CordWatched :
    let full :=
      { up with
        inu.records := (List.range 64).map fun i =>
          { record .shock .reported with slot := i, seq := i } }
    let pending := { up with inu.records := [record .cordCut .pending] }
    let broken :=
      { up with
        inu.cordWhole := false, inu.latches := 4, inu.records := [record .cordCut .pending] }
    (up.powered = true ∧ up.pfu.power = .running ∧ up.inu.rebuilt = true ∧ up.lnu.quiet = false ∧
      up.inu.cordWhole = true ∧ up.inu.latches.getLsbD 2 = false ∧ pendingOf .cordCut up = none ∧
      up.inu.records = []) ∧
    (pendingOf .cordCut full = none ∧ full.inu.cordWhole = true ∧
      (∀ i ∈ List.range 64, ∃ y ∈ full.inu.records, y.slot = i) ∧
      full.inu.records = [] ++ { record .shock .reported with slot := 0, seq := 0 } ::
        full.inu.records.tail) ∧
    pendingOf .cordCut pending = some (record .cordCut .pending) ∧
    (broken.inu.cordWhole = false ∧ broken.inu.latches.getLsbD 2 = true ∧
      latestOf .cordCut broken = some (record .cordCut .pending)) ∧
    ({ broken with inu.latches := 0 } : State).inu.latches.getLsbD 2 = false := by decide +kernel

/-- A threshold reached by each attribute, at the end of its counts; one not armed, and one with no
threshold; and an INU that holds. -/
theorem witness_AttributeCounted :
    let v : Attr := ⟨65535, 255, true, none⟩
    let s := { up with inu.attrs := ⟨v, v, v, v, v⟩ }
    (s.pfu.power = .running ∧ s.inu.rebuilt = true) ∧
    (∀ a ∈ [AttrId.shockPulses, .coinRejects, .coinPathErrors, .blockedWrites, .nvRetries],
      (s.inu.attrs.get a).armed = true ∧ (s.cfl.params.attrs.get a).threshold ≠ 0 ∧
        (s.cfl.params.attrs.get a).threshold ≤ min 255 ((s.inu.attrs.get a).level + 1)) ∧
    (({ v with armed := false } : Attr).armed = false ∧
      (({ up with cfl.params.attrs.nvRetries := ⟨0, 0⟩ } : State).cfl.params.attrs.get
        .nvRetries).threshold = 0) ∧
    ({ s with inu.rebuilt := false } : State).inu.rebuilt = false := by decide +kernel

/-- The kinds and details of the crossings (R124). -/
theorem test_crossings :
    let v : Attr := ⟨7, 255, true, none⟩
    let s := { up with inu.attrs := ⟨v, v, v, v, v⟩ }
    let made (a : AttrId) := (attrEvent a s).inu.records.map fun r => (r.kind, r.detail)
    made .shockPulses = [(.shock, 0)] ∧ made .coinRejects = [(.coinPath, 1)] ∧
      made .coinPathErrors = [(.coinPath, 2)] ∧ made .blockedWrites = [(.tamperAccess, 0)] ∧
      made .nvRetries = [(.auditSuspect, 4)] := by decide +kernel

theorem witness_ShockAndDecay :
    shaken.powered = true ∧ shaken.pfu.power = .running ∧ shaken.inu.rebuilt = true ∧
      shaken.inu.lastShock = none ∧ shaken.inu.attrs.shockPulses.armed = true ∧
      shaken.cfl.params.attrs.shockPulses.threshold = 5 ∧
      (shaken.inu.attrs.get .shockPulses).timer = some 600000 ∧
      (¬199 ≥ 0 + 200 ∧ 200 ≥ 0 + 200) ∧ (up.inu.attrs.get .shockPulses).timer = none := by
  decide +kernel

theorem witness_FaultReported :
    let v := asked kindReportFault [15]
    let w := asked kindReportFault [16]
    let s := { up with inu.records := [record .controllerFault .pending] }
    (InService kindReportFault v (req kindReportFault [15] up) ∧ param v.params 1 ≤ 15 ∧
      up.inu.rebuilt = true ∧ up.pfu.power = .running ∧ pendingOf .controllerFault up = none ∧
      slotForNew up.inu.records = some 0) ∧
    pendingOf .controllerFault s = some (record .controllerFault .pending) ∧
    (InService kindReportFault w (req kindReportFault [16] up) ∧ 15 < param w.params 1) := by
  decide +kernel

theorem witness_IncidentCleared :
    let v (k : Word) := asked kindClearIncident [k]
    let s (k : Word) := req kindClearIncident [k] stuckDrop
    (InService kindClearIncident (v 7) (req kindClearIncident [7] up) ∧ up.acu.mode ≠ .service) ∧
    (InService kindClearIncident (v 3) (s 3) ∧ (s 3).acu.mode = .service ∧
      (s 3).pfu.power = .running ∧ param (v 3).params 1 ∉ [0, 1, 2, 7, 15]) ∧
    (InService kindClearIncident (v 7) (s 7) ∧ (s 7).inu.rebuilt = true ∧
      param (v 7).params 1 = IncKind.escrowFault.code ∧
      latched (s 7).inu.latches .escrowFault = true ∧ (s 7).cnu.stuck = some .ret) ∧
    InService kindClearIncident (v 7) { s 7 with pfu.power := .saving } := by decide +kernel

/-- The four latches over an open door and an absent box. -/
def fourLatches (code : Word) : State :=
  req kindClearIncident [code]
    { stuckDrop with inu.latches := 0x4043, inu.doorOpen := true, inu.boxPresent := false }

/-- Each code, its latch set. -/
theorem witness_IncidentCleared_codes :
    ∀ n ∈ [0, 1, 2, 7, 15],
      let k := wordOf n
      InService kindClearIncident (asked kindClearIncident [k]) (fourLatches k) ∧
      param (asked kindClearIncident [k]).params 1 ∈ [0, 1, 2, 7, 15] ∧
      (fourLatches k).inu.rebuilt = true ∧
      ∀ x ∈ [IncKind.cashDoorOpen, .cashboxRemoved, .escrowFault, .auditSuspect],
        latched (fourLatches k).inu.latches x = true := by decide +kernel

/-- Each code, no latch set. -/
theorem witness_IncidentCleared_unset :
    ∀ n ∈ [0, 1, 2, 7, 15],
      let k := wordOf n
      let s := req kindClearIncident [k] { up with acu.mode := .service }
      InService kindClearIncident (asked kindClearIncident [k]) s ∧ s.acu.mode = .service ∧
      s.pfu.power = .running ∧
      ∀ x ∈ [IncKind.cashDoorOpen, .cashboxRemoved, .escrowFault, .auditSuspect],
        latched s.inu.latches x = false := by decide +kernel

theorem test_clearIncident_open_door :
    let s (k : Word) : State :=
      req kindClearIncident [k] { up with acu.mode := .service, inu.latches := 3, inu.doorOpen := true }
    latched (nx .clearIncident (s 1)).inu.latches .cashDoorOpen = true ∧
      (nx .clearIncident (s 2)).inu.latches = 1 ∧ (nx .clearIncident (s 0)).inu.latches = 1 := by
  decide +kernel

theorem witness_AttributesCleared :
    let v := asked kindClearAttributes []
    let s := req kindClearAttributes [] { shaken with acu.mode := .service }
    (InService kindClearAttributes v (req kindClearAttributes [] up) ∧ up.acu.mode ≠ .service) ∧
    (InService kindClearAttributes v s ∧ s.acu.mode = .service ∧ s.pfu.power = .running ∧
      s.adu.run.isNone = true ∧ (nx .clearAttributes s).adu.dirty = true) ∧
    InService kindClearAttributes v { s with pfu.power := .saved } := by decide +kernel

/-! ### Audit -/

/-- The words of a call record whose first two hold its sequence. -/
def recordWords : List Word := [0, 9, 3]

theorem test_writerJobStart :
    let t := nx .writerJobStart { up with adu.jobs := [.record .call 3 recordWords] }
    t.adu.jobs = [] ∧
      t.adu.run.map (·.todo) = some [(0x840C0, 0), (0x840C2, 9), (0x840C4, 3)] := by decide +kernel

theorem test_nvReadbackDone_retry :
    let t := nx (.nvReadbackDone 8) (writing (.checkWord 9) .home [(0x827FE, 9)])
    t.adu.run.map (fun r => (r.tries, r.todo)) = some (1, [(0x827FE, 9)]) ∧
      t.inu.attrs.nvRetries.total = 1 := by decide +kernel

theorem test_nvReadbackDone_spare :
    let s := writing (.record .call 3 recordWords) .home [(0x840C0, 0)]
    let t := nx (.nvReadbackDone 1) { s with adu.run := s.adu.run.map fun r => { r with tries := 2 } }
    t.adu.run.map (fun r => (r.phase, r.todo)) =
      some (.spare 0, [(0x88940, 0), (0x88942, 9), (0x88944, 3)]) := by decide +kernel

theorem test_writeBackDone :
    let s := writing (.writeBack true false) .home [(0x82800, 7)]
    let t := nx .writeBackDone { s with rqu.service := some (asked kindFlush []).accepted }
    t.adu.run = none ∧ code t = some 1 ∧ t.mem.word 0x82800 = 7 := by decide +kernel

theorem test_flush :
    let t := nx .flush (req kindFlush [] up)
    t.adu.jobs = [.writeBack true false] ∧ code t = none ∧
      code (nx .flush (req kindFlush [] collecting)) = some 3 := by decide +kernel

/-- R156: a FLUSH that finds the mark set. -/
theorem test_flush_deferred_by_the_mark :
    let t := nx .flush (req kindFlush [] { up with adu.flushPending := true })
    code t = some 3 ∧ t.adu.jobs = [] := by decide +kernel

/-- R162: a spare that fails is marked BAD, and its entry is written next. -/
theorem test_nvReadbackDone_bad_spare :
    let s := writing (.record .call 3 recordWords) (.spare 0) [(0x88940, 0)]
    let t := nx (.nvReadbackDone 1) { s with adu.run := s.adu.run.map fun r => { r with tries := 2 } }
    t.adu.remap.head? = some .bad ∧
      t.adu.run.map (fun r => (r.phase, (r.todo.map (·.1)).take 2)) =
        some (.entryBad 0, [0x88900, 0x88902]) := by decide +kernel

theorem test_collectLog :
    let s := { up with adu.greatest := 9, adu.nextCall := 10 }
    (nx .collectLog (req kindCollectLog [0, 9] s)).adu.cache.collectedThrough = 9 ∧
      code (nx .collectLog (req kindCollectLog [0, 10] s)) = some 7 := by decide +kernel

theorem witness_WriterTakesJob :
    let j := Job.record .call 3 recordWords
    let s (j : Job) : State := { up with adu.jobs := [j] }
    ((s j).powered = true ∧ (s j).adu.run = none ∧ (s j).adu.jobs = j :: [] ∧
      (s j).pfu.power = .running) ∧
    (({ s j with pfu.power := .saving } : State).pfu.power ≠ .running) ∧
    (windowOf .tally (s (.writeBack true false)) = some ⟨.tally, 0x82800, 0x100, 5⟩) := by
  decide +kernel

theorem witness_WordVerified :
    let r (j : Job) : Run := ⟨j, .home, [(0x840C0, 0), (0x840C2, 9)], .read, 2, 0, true⟩
    let s (j : Job) : State := { up with adu.run := some (r j) }
    let full := { s (.record .call 3 recordWords) with adu.remap := List.replicate 8 .bad }
    let spare (ph : RunPhase) : State :=
      { s (.record .call 3 recordWords) with
        adu.run := some { r (.record .call 3 recordWords) with phase := ph } }
    (∀ ph ∈ [RunPhase.spare 7, .entry 7, .entryBad 7],
      (spare ph).adu.run = some { r (.record .call 3 recordWords) with phase := ph } ∧
      (((spare ph).adu.remap.set 7 .bad).findIdx? fun e => e = .free) = some 0 ∧
      ((((spare ph).adu.remap.map fun _ => RemapEntry.bad).set 7 .bad).findIdx? fun e => e = .free) =
        none) ∧
    (portReaches .adu (s (.checkWord 0)) = true ∧
      portReaches .adu
        { s (.checkWord 0) with bpu.cycle := some ⟨true, 0x3E200, 0, .both, some 0x3E200⟩ } = false) ∧
    ((s (.writeBack true false)).powered = true ∧ (s (.writeBack true false)).pfu.power = .running ∧
      (r (.writeBack true false)).todo = (0x840C0, 0) :: (0x840C2, 9) :: [] ∧
      (1 : Word) ≠ 0 ∧ 2 ≤ (r (.writeBack true false)).tries ∧
      Job.isWriteBack (.writeBack true false) = true ∧
      ({ r (.checkWord 0) with tries := 1 } : Run).tries < 2) ∧
    ((s (.record .call 3 recordWords)).adu.run = some (r (.record .call 3 recordWords)) ∧
      mappedSpare .call 3 (s (.record .call 3 recordWords)) = none ∧
      ((s (.record .call 3 recordWords)).adu.remap.findIdx? fun e => e = .free) = some 0) ∧
    (full.adu.remap.findIdx? fun e => e = .free) = none ∧
    (({ r (.checkWord 9) with todo := [(0x827FE, 9)] } : Run).todo = (0x827FE, 9) :: [] ∧
      (∀ log slot ws, (r (.checkWord 9)).job ≠ .record log slot ws) ∧
      ({ r (.checkWord 9) with stage := .write, tries := 0 } : Run).stage = .write ∧
      ({ s (.checkWord 9) with pfu.power := .saving } : State).pfu.power ≠ .running) ∧
    (spare .final).adu.run = some { r (.record .call 3 recordWords) with phase := .final } := by
  refine ⟨by decide +kernel, by decide +kernel, by decide +kernel, by decide +kernel, by decide +kernel,
    ⟨rfl, ?_, rfl, by decide +kernel⟩, rfl⟩
  intro log slot ws h
  cases h

theorem witness_RecordJobEnds :
    let r (ph : RunPhase) : Run :=
      ⟨.record .call 3 recordWords, ph, [(0x840C4, 3)], .read, 0, 0, true⟩
    let s (ph : RunPhase) : State := { up with adu.run := some (r ph) }
    (s .home).powered = true ∧ (s .home).pfu.power = .running ∧ (s .home).adu.run = some (r .home) ∧
      portReaches .adu (s .home) = true ∧ (r .home).todo = [(0x840C4, 3)] ∧ (r .home).phase = .home ∧
      (r (.spare 7)).phase = .spare 7 ∧ (r (.entry 7)).phase = .entry 7 ∧
      (r (.entryBad 7)).phase = .entryBad 7 ∧ (r .final).phase = .final ∧
      2 ≤ ({ r .final with tries := 2 } : Run).tries ∧
      ((s (.entryBad 7)).adu.remap.findIdx? fun e => e = .free) = some 0 ∧
      (({ s (.entryBad 7) with adu.remap := List.replicate 8 .bad } : State).adu.remap.findIdx?
        fun e => e = .free) = none := by decide +kernel

theorem witness_WriteBackEnded :
    let r : Run := ⟨.writeBack true true, .home, [(0x82800, 7)], .read, 0, 1, true⟩
    let v := (asked kindFlush []).accepted
    let s := { up with adu.run := some r, rqu.service := some v }
    (s.powered = true ∧ s.adu.run = some r ∧ r.job = .writeBack true true ∧ starting s = false ∧
      s.pfu.power = .running ∧ portReaches .adu s = true ∧ s.pfu.step5 = .idle ∧
      s.rqu.service = some v ∧ v.phase = .held ∧
      v.kind.toNat = kindFlush ∧ s.adu.dirty = false) ∧
    (({ s with adu.dirty := true } : State).adu.dirty = true ∧
      ({ s with pfu.power := .saving } : State).pfu.power ≠ .running ∧ r.todo ≠ []) := by
  decide +kernel

/-- The write-back of the settle path, that of the lost-context path, and one that neither waits for; out of
RUNNING; and one whose words have been written. -/
theorem witness_Step5WriteBackEnded :
    let r : Run := ⟨.writeBack false false, .home, [(0x82800, 7)], .read, 0, 0, true⟩
    let s (p : Step5) : State :=
      { up with cfl.step := .settle, pfu.step5 := p, adu.run := some r }
    ((s (.writeBack false)).powered = true ∧ (s (.writeBack false)).adu.run = some r ∧
      r.job = .writeBack false false ∧ starting (s (.writeBack false)) = true ∧
      (s (.writeBack false)).pfu.power = .running ∧ portReaches .adu (s (.writeBack false)) = true) ∧
    ((s (.writeBack true)).held = [] ∧ (s (.writeBack true)).inu.rebuilt = true ∧
      (s (.writeBack true)).lnu.quiet = false ∧
      (s (.writeBack true)).pfu.step5 = .writeBack true) ∧
    (s .clearing).pfu.step5 = .clearing ∧
    ({ s (.writeBack true) with pfu.power := .saved } : State).pfu.power ≠ .running ∧
    ({ r with todo := [] } : Run).todo = [] := by decide +kernel

theorem witness_FlushJudged :
    let v := asked kindFlush []
    let s := req kindFlush [] up
    let waits' := { s with adu.jobs := [.checkWord 9, .writeBack false true, .checkWord 8] }
    (InService kindFlush v { s with pfu.power := .saved }) ∧
    (InService kindFlush v (req kindFlush [] collecting) ∧ collecting.cnu.motion.isSome = true ∧
      collecting.cnu.frozen = false) ∧
    (InService kindFlush v s ∧ s.pfu.power = .running ∧ s.cnu.motion = none ∧ s.cnu.clearance = none ∧
      s.cnu.drops = [] ∧ s.adu.flushPending = false ∧ s.adu.jobs.any Job.isWriteBack = false) ∧
    ({ s with adu.flushPending := true } : State).adu.flushPending = true ∧
    (waits'.adu.jobs = [.checkWord 9] ++ .writeBack false true :: [.checkWord 8] ∧
      [Job.checkWord 9].any Job.isWriteBack = false) := by decide +kernel

theorem witness_LogCollected :
    let s (n : Word) (p : Nat) : State :=
      req kindCollectLog [0, n]
        { up with adu.greatest := p, adu.nextCall := 251, adu.cache.collectedThrough := 2 }
    let v (n : Word) := asked kindCollectLog [0, n]
    (InService kindCollectLog (v 2) (s 2 250) ∧ (s 2 250).pfu.power = .running ∧
      param (v 2).params 1 * 65536 + param (v 2).params 2 = (s 2 250).adu.cache.collectedThrough) ∧
    (InService kindCollectLog (v 1) (s 1 250) ∧ InService kindCollectLog (v 251) (s 251 250)) ∧
    (InService kindCollectLog (v 250) (s 250 250) ∧ (s 250 250).inu.rebuilt = true ∧
      248 ≤ uncollected (s 250 250) ∧ uncollected (nx .collectLog (s 250 250)) < 248) ∧
    InService kindCollectLog (v 2) { s 2 250 with pfu.power := .saving } := by decide +kernel

/-! ### Access and power -/

/-- NORMAL with the key on. -/
def keyed : State := { up with acu.keyOn := true }

/-- SERVICE with the lapse timer running. -/
def session : State := { keyed with acu.mode := .service, acu.lapse := some 1800000 }

theorem test_serviceUnlock :
    let t := nx .serviceUnlock (req kindServiceUnlock [4, 5, 0, 3, 8] { keyed with acu.attempts := 4 })
    t.acu.mode = .service ∧ t.acu.attempts = 0 ∧ t.acu.lapse = some 1800000 ∧ code t = some 1 := by
  decide +kernel

theorem test_serviceUnlock_fifth :
    let t := nx .serviceUnlock (req kindServiceUnlock [4, 5, 0, 3, 9] { keyed with acu.attempts := 4 })
    t.acu.mode = .lockout ∧ code t = some 18 ∧ results t = [5, 0, 0] ∧
      latched t.inu.latches .unlockLockout = true := by decide +kernel

theorem test_freeze :
    (nx .freeze (req kindFreeze [] up)).acu.mode = .frozen ∧
      code (nx .freeze (req kindFreeze [] session)) = some 6 := by decide +kernel

theorem test_serviceEnd :
    let t := nx .serviceEnd (req kindServiceEnd [] { session with tru.unsettled := true })
    t.acu.mode = .normal ∧ t.acu.lapse = none ∧ t.tru.check.isSome = true ∧ code t = some 1 := by
  decide +kernel

theorem test_serviceKeyChange :
    let t := nx (.serviceKeyChange false) { session with cnu.doorOpen := true }
    t.acu.mode = .normal ∧ latched t.inu.latches .cashDoorOpen = true := by decide +kernel

theorem test_lapseExpiry :
    let t := nx .lapseExpiry session
    t.acu.mode = .normal ∧ t.acu.ms = 1800000 ∧ t.acu.keyOn = true := by decide +kernel

/-- SAVED, with a validity word written. -/
def powerSaved : State :=
  { up with pfu.power := .saved, pfu.warning := true, pfu.wroteValidity := true }

theorem test_saveDone :
    let t := nx .saveDone
      { up with pfu.power := .saving, pfu.warning := true, pfu.save := [(0x888FE, 0xA1E7)] }
    t.pfu.power = .saved ∧ t.mem.word 0x888FE = 0xA1E7 := by decide +kernel

theorem test_warningCleared :
    let t := nx .warningCleared powerSaved
    t.pfu.power = .saved ∧ t.pfu.unsave = some ⟨.write, false⟩ ∧ t.pfu.warning = false := by
  decide +kernel

theorem test_validityWordVerified :
    let t := nx (.validityWordVerified []) (nx .warningCleared powerSaved)
    t.pfu.power = .running ∧ t.mem.word 0x888FE = 0 := by decide +kernel

theorem test_powerWarning_starting :
    let t := nx .powerWarning { up with bpu.table := some [], lnu.tone := some ⟨true, 80, 80⟩ }
    t.pfu.power = .saved ∧ t.lnu.tone = none := by decide +kernel

theorem witness_ServiceUnlockJudged :
    let good := [4, 5, 0, 3, 8]
    let wrong := [8, 5, 0, 3, 8, 0, 0, 0, 9]
    let v := asked kindServiceUnlock
    let s (ps : List Word) (u : State) : State := req kindServiceUnlock ps u
    (InService kindServiceUnlock (v good) (s good { keyed with acu.mode := .lockout })) ∧
    (InService kindServiceUnlock (v good) (s good { keyed with acu.mode := .frozen })) ∧
    (InService kindServiceUnlock (v good) (s good up) ∧ up.acu.mode = .normal ∧ up.acu.keyOn = false) ∧
    (InService kindServiceUnlock (v []) (s [] { keyed with cfl.params.code := none }) ∧
      keyed.acu.mode = .normal ∧ keyed.pfu.power = .running ∧ keyed.acu.keyOn = true) ∧
    (InService kindServiceUnlock (v good) (s good keyed) ∧ keyed.cfl.fault = none ∧
      keyed.cfl.params.code = some [5, 0, 3, 8] ∧ 4 ≤ param (v good).params 1 ∧
      (List.range 4).map (fun i => param (v good).params (2 + i)) = [5, 0, 3, 8]) ∧
    (InService kindServiceUnlock (v wrong) (s wrong keyed) ∧ param (v wrong).params 1 ≤ 8 ∧
      (∀ d ∈ (List.range 8).map fun i => param (v wrong).params (2 + i), d ≤ 9) ∧
      (List.range 8).map (fun i => param (v wrong).params (2 + i)) ≠ [5, 0, 3, 8] ∧
      keyed.acu.attempts + 1 ≠ 5 ∧ ({ keyed with acu.attempts := 4 } : State).acu.attempts = 4) ∧
    (InService kindServiceUnlock (v [3]) (s [3] keyed) ∧ ¬4 ≤ param (v [3]).params 1) := by
  decide +kernel

theorem witness_FreezeJudged :
    let v := asked kindFreeze []
    let u := asked kindServiceUnlock []
    (InService kindFreeze v (req kindFreeze [] session) ∧ session.acu.mode ≠ .normal) ∧
    (InService kindFreeze v (req kindFreeze [] up) ∧ up.acu.mode = .normal ∧ up.pfu.power = .running) ∧
    (InService kindFreeze v { req kindFreeze [] up with pfu.power := .saving }) ∧
    (InService kindServiceUnlock u (req kindServiceUnlock [] { up with acu.mode := .frozen })) ∧
    (let frozen := { up with acu.mode := .frozen }
    frozen.powered = true ∧ frozen.acu.mode = .frozen ∧ frozen.pfu.power = .running ∧
      ({ frozen with pfu.power := .saved } : State).pfu.power ≠ .running) := by decide +kernel

theorem witness_SessionEnds :
    let v := asked kindServiceEnd []
    let saving := { session with pfu.power := .saving, acu.ms := 1800000 }
    (InService kindServiceEnd v (req kindServiceEnd [] up) ∧ up.acu.mode ≠ .service) ∧
    (InService kindServiceEnd v (req kindServiceEnd [] saving) ∧ saving.acu.mode = .service ∧
      saving.pfu.power ≠ .running ∧ saving.acu.lapse = some 1800000 ∧ 1800000 ≤ saving.acu.ms) ∧
    (InService kindServiceEnd v (req kindServiceEnd [] session) ∧ session.powered = true ∧
      session.pfu.power = .running ∧ session.acu.mode = .service ∧
      session.acu.lapse = some 1800000) ∧
    ({ session with cnu.doorOpen := true, cnu.boxPresent := false } : State).cnu.doorOpen = true := by
  decide +kernel

/-- The warning there already; in service with its windows; in STARTING with step 5's movements applied
and before; with no windows; and in SAVING. -/
theorem witness_SaveBegins :
    let bare := { up with bpu.table := some [] }
    let settled := { up with cfl.step := .settle, pfu.step5 := .writeBack false }
    let early := { up with cfl.step := .audit }
    let saving (w : Bool) : State :=
      { up with pfu.power := .saving, pfu.warning := w, pfu.save := [(0x888FE, 0xA1E7)] }
    (up.powered = true ∧ up.pfu.warning = false ∧ up.pfu.power = .running ∧ up.bpu.cycle = none ∧
      starting up = false ∧ windowOf .tally up = some ⟨.tally, 0x82800, 0x100, 5⟩ ∧
      windowOf .context up = some ⟨.context, 0x88800, 0x100, 8⟩) ∧
    (starting settled = true ∧ settled.pfu.step5 = .writeBack false ∧
      windowOf .tally settled = some ⟨.tally, 0x82800, 0x100, 5⟩ ∧
      hasWindow .context settled = true) ∧
    (starting early = true ∧ early.pfu.step5 = .idle) ∧
    (windowOf .tally bare = none ∧ bare.pfu.warning = false) ∧
    (powerSaved.pfu.warning = true) ∧
    ((saving false).pfu.warning = false ∧ (saving true).pfu.warning = true ∧
      (saving true).pfu.power = .saving) := by decide +kernel

/-- A call cut off with three coins in the tube, of which the lowest drops in a direction, and one record
REPORTING. -/
def cutCall (dir : Dir) : State :=
  { charging with
    rtu.ctx := some { ctxOf charging with owner := ⟨300, false⟩ }
    rtu.ms := 65000
    tru.clock := some ⟨99, 12, 31, 23, 59, 59⟩
    lnu.number := [0, 1, 2]
    cnu.escrow :=
      [⟨0xFFFE, 2, 20, false, some ⟨300, false⟩, .dropping⟩,
        ⟨0xFFFF, 2, 20, false, some ⟨300, false⟩, .committed⟩, ⟨0, 1, 10, false, some ⟨300, false⟩, .held⟩]
    cnu.motion := some ⟨dir, 500⟩
    inu.records := [record .cordCut .reporting] }

/-- A clock and none, a call with a class row, answered, and none, one REPORTING record. -/
theorem witness_ContextBlockLayout :
    let s := cutCall .collect
    let c := ctxOf s
    (s.tru.clock = some ⟨99, 12, 31, 23, 59, 59⟩ ∧ s.rtu.ctx = some c ∧ c.owner.seq < 0x100000000 ∧
      s.lnu.number.length < 65536 ∧ s.lnu.number[2]? = some 2 ∧ c.cls < 256 ∧ c.row = some row ∧
      c.band = some 0 ∧ c.answerPoint = some 0 ∧ c.intervals ≤ 65535 ∧
      s.cnu.escrow[2]? = some ⟨0, 1, 10, false, some ⟨300, false⟩, .held⟩ ∧ s.cnu.escrow.length ≤ 3 ∧
      (s.inu.records.filter fun r => r.state = .reporting).map (·.seq) = [3]) ∧
    (up.tru.clock = none ∧ up.rtu.ctx = none ∧ up.cnu.escrow.length ≤ 0 ∧ up.rtu.carry < 0x100000000) ∧
    ({ call with row := none, owner := ⟨0xFFFFFFFF, true⟩ } : Ctx).row = none := by decide +kernel

theorem witness_SavedContextReadBack :
    let s := cutCall .ret
    let c := ctxOf s
    (s.cnu.escrow.length ≤ 8 ∧
      (∀ x ∈ s.cnu.escrow, x.seq < 65536 ∧ x.denom < 256 ∧ x.value < 65536 ∧
        x.owner = some ⟨300, false⟩) ∧
      s.cnu.motion.map (·.dir) = some .ret ∧
      (s.inu.records.filter fun r => r.state = .reporting).map (·.seq) = [3]) ∧
    (up.rtu.ctx = none ∧ up.rtu.carry < 0x100000000) ∧
    (s.rtu.ctx = some c ∧ c.owner.seq < 0x100000000 ∧ c.cls < 256 ∧ s.lnu.number.length ≤ 20 ∧
      (∀ d ∈ s.lnu.number, d < 16) ∧ c.seizePoint ≤ s.rtu.ms / 1000 ∧
      s.rtu.ms / 1000 - c.seizePoint < 0x100000000 ∧ c.answerPoint = some 0 ∧ 0 ≤ s.rtu.ms / 1000 ∧
      s.rtu.ms / 1000 - 0 < 0xFFFFFFFF ∧ c.intervals < 65536 ∧ c.consumed < 0x100000000 ∧
      c.roll.length < 65536 ∧ (c.roll.map (·.value)).sum < 0x100000000 ∧ c.committed < 0x100000000 ∧
      c.cin < 0x100000000 ∧ s.tru.clock = some ⟨99, 12, 31, 23, 59, 59⟩) := by decide +kernel

/-- R174, section 3.6: the words of that context from 06h to 22h, of its first coin, and its last ones. -/
theorem test_context_words :
    let ws := contextBody 5 (cutCall .collect)
    (ws.drop 3).take 15 =
      [5, 0, 300, 3, 0x012F, 0xFFFF, 0xFFFF, 0xFFFF, 0xFFFF, 0, 0, 0, 0, 65, 0x0500] ∧
    (ws.drop 42).take 7 = [3, 0xFFFE, 0x0202, 20, 0, 300, 0x0100] ∧
    (ws.drop 91).take 7 = [0, 0, 1, 3, 0xFFFF, 0xFFFF, 0xFFFF] := by decide +kernel

/-- The start-up over an NV, before the comparison of its tariff, one record REPORTING. -/
def startingOn (m : Memory) : State :=
  { comparing 0 with
    bpu.table :=
      some [⟨.tariff, 0x80800, 4, 0⟩, ⟨.context, 0x88800, 0x100, 1⟩, ⟨.callLog, 0x84000, 0x4000, 2⟩]
    adu.nextCall := 300
    adu.cache.collectedThrough := 100
    adu.check := 5
    inu.records := [record .cordCut .reporting]
    mem := m }

@[simp] theorem startingOn_mem (m : Memory) : (startingOn m).mem = m := rfl

/-- A good TARIFF window and a validity word. -/
@[irreducible] def beforeCut : Memory :=
  Memory.storeAll [] (placed 0x80800 [100, crc [100]] ++ [(0x888FE, 0xA1E7)])

theorem beforeCut_wf : beforeCut.wf = true := by decide +kernel

/-- The words of that context as they are saved. -/
@[irreducible] def cutWords (dir : Dir) : List Word := withCrc (contextBody 5 (cutCall dir))

theorem cutWords_length (dir : Dir) : (cutWords dir).length = 99 := by cases dir <;> decide +kernel

/-- The NV after that cut. -/
@[irreducible] def afterCut (dir : Dir) : Memory := beforeCut.storeAll (placed 0x88800 (cutWords dir))

theorem afterCut_words (dir : Dir) : (afterCut dir).words 0x88800 99 = cutWords dir := by
  have h := Memory.words_placed beforeCut_wf 0x88800 (cutWords dir)
    (by rw [cutWords_length]; decide +kernel)
  rw [cutWords_length] at h
  unfold afterCut
  exact h

theorem afterCut_get (dir : Dir) (b : Nat) (h : b < 0x88800 ∨ 0x888C6 ≤ b) :
    (afterCut dir).get b = beforeCut.get b := by
  unfold afterCut
  exact Memory.get_storeAll_placed beforeCut_wf _ _ _ (by rw [cutWords_length]; exact h)

theorem afterCut_word (dir : Dir) (a : Nat) (h : a + 1 < 0x88800 ∨ 0x888C6 ≤ a) :
    (afterCut dir).word a = beforeCut.word a := by
  rw [Memory.word, Memory.word, afterCut_get dir a (by omega), afterCut_get dir (a + 1) (by omega)]

theorem afterCut_outside (dir : Dir) (a n : Nat) (h : a + 2 * n ≤ 0x88800) :
    (afterCut dir).words a n = beforeCut.words a n := by
  induction n generalizing a with
  | zero => simp only [Memory.words]
  | succ n ih => rw [Memory.words, Memory.words, afterCut_word dir a (by omega), ih (a + 2) (by omega)]

theorem cutWords_values (dir : Dir) :
    let ws := cutWords dir
    let fallen := (savedCoins ws).filter fun c => decide (c.coin.status = .dropping)
    wordAt ws 3 = 5 ∧ callSaved ws = true ∧ (savedOwner ws).seq = 300 ∧ savedSeqs ws = [3] ∧
      fallen.length = 1 ∧ ∀ c ∈ fallen, c.dir = dir := by cases dir <;> decide +kernel

/-- The context of that cut on the settle path and on the finish path, its call of the next sequence with
room and of another, the log's slot empty, the coin falling either way, and a context with no call and no
coin. -/
theorem witness_ContextSettled (dir : Dir) :
    let s := startingOn (afterCut dir)
    let ws := s.mem.words (baseOf .context s) 99
    let falling (c : SavedCoin) : Bool := c.coin.status = .dropping
    let fallen := (savedCoins ws).filter falling
    let slot := slotWords .call ((savedOwner ws).seq % 256) s
    let none' := saved.mem.words (baseOf .context saved) 99
    ((s.powered = true ∧ s.cfl.step = .tariff ∧ s.pfu.power = .running ∧ s.cfl.fault = none ∧
        s.tru.compare = some [] ∧ portReaches .tru s = true ∧ portReaches .pfu s = true) ∧
      s.mem.word (baseOf .context s + 0xFE) = 0xA1E7 ∧ crcGood ws = true) ∧
    (wordAt ws 3 = s.adu.check ∧ wordAt ws 3 ≠ ({ s with adu.check := 6 } : State).adu.check ∧
      s.adu.suspect = false) ∧
    (fallen.length = 1 ∧ (∀ c ∈ fallen, c.dir = dir) ∧ callSaved ws = true) ∧
    ((∀ c ∈ savedCoins none', falling c = false) ∧ callSaved none' = true) ∧
    (hasWindow .callLog s = true ∧ uncollected s < 256 ∧ (savedOwner ws).seq = s.adu.nextCall ∧
      (savedOwner ws).seq ≠ ({ s with adu.nextCall := 299 } : State).adu.nextCall ∧
      value32 (slot.getD 0 0) (slot.getD 1 0) ≠ (savedOwner ws).seq) ∧
    (crc ([] ++ s.mem.words (baseOf .tariff s + 0) (checkedWords s)) =
        (s.mem.words (baseOf .tariff s + 0) (checkedWords s + 1)).getD (checkedWords s) 0 ∧
      uncollected s ≠ 247 ∧ s.adu.cache.collectedThrough < 0x100000000 ∧ IndexLaw s ∧
      (s.inu.records.map (·.seq)).Nodup ∧
      ∀ r ∈ s.inu.records, r.state = .reporting → r.seq ∈ savedSeqs ws →
        ∀ y ∈ s.inu.records, y.kind = r.kind → y.state ≠ .reported → y = r) := by
  have hws : (startingOn (afterCut dir)).mem.words (baseOf .context (startingOn (afterCut dir))) 99 =
      cutWords dir := afterCut_words dir
  have hslot : slotWords .call 44 (startingOn (afterCut dir)) = beforeCut.words 0x84B00 32 :=
    afterCut_outside dir 0x84B00 32 (by omega)
  have hchecked (n : Nat) (h : n ≤ 2) :
      (startingOn (afterCut dir)).mem.words 0x80800 n = beforeCut.words 0x80800 n :=
    afterCut_outside dir 0x80800 n (by omega)
  have hcount : checkedWords (startingOn (afterCut dir)) = 1 := by
    simp [checkedWords, windowOf, startingOn]
  have hbase : baseOf .tariff (startingOn (afterCut dir)) + 0 = 0x80800 := rfl
  obtain ⟨h3, hcall, hseq, hseqs, hfall, hdir⟩ := cutWords_values dir
  have hjudged : (startingOn (afterCut dir)).mem.word
      (baseOf .context (startingOn (afterCut dir)) + 0xFE) = 0xA1E7 := by
    show (afterCut dir).word 0x888FE = _
    rw [afterCut_word dir _ (by omega)]
    decide +kernel
  dsimp only
  rw [hws, hseq, hcount, hbase, hchecked 1 (by omega), hchecked 2 (by omega)]
  refine ⟨⟨⟨rfl, rfl, rfl, rfl, rfl, rfl, rfl⟩, hjudged, by unfold cutWords; exact crcGood_withCrc _⟩,
    ⟨h3, ?_, rfl⟩, ⟨hfall, hdir, hcall⟩, ?_, ⟨rfl, ?_, rfl, by decide, ?_⟩, by decide +kernel, ?_, ?_, ?_, ?_, ?_⟩
  · rw [h3]; decide
  · rw [saved_words]; decide +kernel
  · show uncollectedOf 300 100 < 256; decide
  · rw [show 300 % 256 = 44 from rfl, hslot]; decide +kernel
  · show uncollectedOf 300 100 ≠ 247; decide
  · show 100 < 0x100000000; decide
  · show IndexLaw (startingOn []); decide +kernel
  · show ((startingOn []).inu.records.map (·.seq)).Nodup; decide +kernel
  · show ∀ r ∈ [record .cordCut .reporting], _ → _ → ∀ y ∈ [record .cordCut .reporting], _ → _ → y = r
    simp
/-- A write to NV and a read held when the save begins. -/
theorem witness_HeldWordClassedAgain :
    let s (c : Cycle) : State := { up with bpu.cycle := some c }
    let write : Cycle := ⟨true, 0x82802, 7, .both, some 0x82802⟩
    let read : Cycle := ⟨false, 0x9FFFE, 0, .high, some 0x9FFFE⟩
    ((s write).powered = true ∧ (s write).pfu.warning = false ∧ (s write).pfu.power = .running ∧
      (s write).bpu.table.isSome = true ∧ write.addr = (0x82802#20).toNat ∧ write.write = true ∧
      0x82802 % 2 = 0) ∧
    (read.addr = (0x9FFFE#20).toNat ∧ read.write = false ∧ read.data = 0 ∧
      (s read).bpu.answer = none) := by decide +kernel

/-- The warning cleared with a validity word written and without, the events of three blocks held; in
SAVING; and asserted again. -/
theorem witness_WarningClears :
    let fresh :=
      { powerSaved with
        pfu.wroteValidity := false
        held := [.onHook, .occurrence .shock 0, .entryPassage] }
    let back (w : Bool) : State := { powerSaved with pfu.warning := w, pfu.unsave := some ⟨.write, w⟩ }
    let saving (v : Bool) : State :=
      { up with pfu.power := .saving, pfu.wroteValidity := v, pfu.save := [(0x82800, 0)] }
    (powerSaved.powered = true ∧ powerSaved.pfu.warning = true ∧ powerSaved.pfu.power = .saved ∧
      powerSaved.pfu.unsave = none ∧ powerSaved.pfu.again = false ∧
      powerSaved.pfu.wroteValidity = true) ∧
    (fresh.pfu.wroteValidity = false ∧ fresh.held ≠ []) ∧
    ((back false).pfu.unsave = some ⟨.write, false⟩ ∧ (back false).pfu.power = .saved ∧
      (back false).pfu.warning = false ∧ (back true).pfu.warning = true) ∧
    ((saving true).pfu.warning = false ∧ (saving true).pfu.power = .saving ∧
      (saving false).pfu.wroteValidity = false) ∧
    ({ powerSaved with pfu.power := .saving } : State).pfu.power = .saving ∧
    up.pfu.warning = false := by decide +kernel

/-- Two words that fail before one that verifies, and three that fail; with the warning back and not;
and the word written once more. -/
theorem witness_ValidityWordWritten :
    let back (w : Bool) : State := { powerSaved with pfu.warning := w, pfu.unsave := some ⟨.write, w⟩ }
    let behind := { back false with bpu.cycle := some ⟨true, 0x3E200, 0, .both, some 0x3E200⟩ }
    let again := { powerSaved with pfu.again := true }
    ((back false).powered = true ∧ portReaches .pfu behind = false ∧
      behind.pfu.unsave = some ⟨.write, false⟩ ∧ behind.pfu.power = .saved) ∧
    (portReaches .pfu (back false) = true ∧ (back false).pfu.unsave = some ⟨.write, false⟩ ∧
      portReaches .pfu (back true) = true ∧ (back true).pfu.unsave = some ⟨.write, true⟩) ∧
    ([(1 : Word), 2].length ≤ 2 ∧ (1 : Word) ≠ 0 ∧ (2 : Word) ≠ 0 ∧ [(0 : Word)].head? = some 0) ∧
    (again.pfu.again = true ∧ again.pfu.power = .saved ∧ again.pfu.save = [] ∧
      again.pfu.warning = true ∧ again.pfu.unsave = none ∧ portReaches .pfu again = true ∧
      again.pfu.wroteValidity = true) ∧
    (({ again with pfu.warning := false } : State).pfu.warning = false ∧
      portReaches .pfu { again with bpu.cycle := behind.bpu.cycle } = false) := by decide +kernel

/-- The end of STARTING over a handset on the hook and one off it: a word that verifies at once and after
two retries, and one that fails. -/
theorem witness_StartingEnds :
    let ending := { up with cfl.step := .settle, pfu.step5 := .invalidate .write }
    let lifted := { ending with lnu.offHook := true }
    let tried (n : Nat) (cell : Word) (s : State) : State :=
      (attrEvent .nvRetries)^[n] { s with mem := s.mem.store (baseOf .context s + 0xFE) cell .both }
    let twice := tried [(1 : Word), 2].length 0 ending
    let failed := occur .auditSuspect 2 (tried 2 3 lifted)
    (ending.powered = true ∧ portReaches .pfu ending = true ∧ ending.pfu.unsave = none ∧
      ending.pfu.step5 = .invalidate .write ∧ ending.pfu.power = .running ∧
      ending.cnu.clearance = none) ∧
    ([(1 : Word), 2].length ≤ 2 ∧ (1 : Word) ≠ 0 ∧ (2 : Word) ≠ 0 ∧ (3 : Word) ≠ 0 ∧
      [(0 : Word)].head? = some 0) ∧
    (twice.lnu.timers.absent = none ∧ twice.lnu.offHook = false) ∧
    (portReaches .pfu lifted = true ∧ failed.lnu.timers.absent = none ∧ failed.lnu.offHook = true ∧
      failed.lnu.state = .idle ∧ failed.lnu.voltage = true) := by decide +kernel

/-- R161, R175, R177 step 7: two retries and three mismatches of step 5's own word. -/
theorem test_validityWord_retried :
    let s := { up with cfl.step := .settle, pfu.step5 := .invalidate .write }
    let good := nx (.validityWordVerified [1, 2, 0]) s
    let bad := nx (.validityWordVerified [1, 2, 3]) s
    (good.inu.attrs.nvRetries.total = 2 ∧ good.mem.word 0x888FE = 0 ∧ starting good = false ∧
      latched good.inu.latches .auditSuspect = false) ∧
    (bad.inu.attrs.nvRetries.total = 2 ∧ bad.mem.word 0x888FE = 3 ∧ starting bad = false ∧
      latched bad.inu.latches .auditSuspect = true) := by decide +kernel

/-- R136, R175: the events held through a save are taken at the return to RUNNING. -/
theorem test_held_events_taken :
    let s := { powerSaved with
      pfu.wroteValidity := false
      lnu.state := .ready
      held := [.onHook, .occurrence .shock 0] }
    let t := nx .warningCleared s
    t.pfu.power = .running ∧ t.held = [] ∧ t.lnu.state = .idle ∧
      t.inu.records.map (·.kind) = [.shock] := by decide +kernel

/-- R175: the validity word written once more after the warning came back. -/
theorem test_again_word :
    let s := { powerSaved with pfu.unsave := some ⟨.write, true⟩ }
    let t := nx (.validityWordVerified []) s
    t.pfu.again = true ∧ t.mem.word 0x888FE = 0 ∧ (nx .saveDone t).mem.word 0x888FE = 0xA1E7 ∧
      (nx .saveDone t).pfu.again = false := by decide +kernel

end Sys2Proof.Tests
end

section
/-! Frames of the operations that Laws/Frames leaves out, and what every step keeps. -/

namespace Sys2Proof.Machine

/-! ### Operations of a DIAL, of the rebuild and of the timers' commands -/

/-- The giving of a call sequence touches the blocks that an occurrence touches, and no other. -/
theorem openCall_frame (s : State) :
    (openCall s).2.powered = s.powered ∧
    (openCall s).2.mem = s.mem ∧
    (openCall s).2.bpu = s.bpu ∧
    (openCall s).2.cfl = s.cfl ∧
    (openCall s).2.cnu = s.cnu ∧
    (openCall s).2.acu = s.acu ∧
    (openCall s).2.pfu = s.pfu ∧
    (openCall s).2.rqu.service = s.rqu.service ∧
    (openCall s).2.rqu.queue = s.rqu.queue ∧
    (openCall s).2.rqu.abandon = s.rqu.abandon := by
  rw [openCall_snd]
  split <;> simp

/-- An accepted DIAL once its sequence has been given (R110). -/
def dialOpened (number : List Nat) (cls : Nat) (emergency : Bool) (row : Option Row) (owner : Owner)
    (s : State) : State :=
  answer .ok (bytePair cls (if emergency then 1 else 0)) (wordOf (owner.seq / 65536))
    (wordOf owner.seq)
    (beginSeizure .seizing
      { openContext owner cls emergency row s with
        lnu.buffer := number
        lnu.number := number
        lnu.followOn := false
        lnu.timers.window := none })

/-- The body of `acceptDial`, word by word: its equation lemma is out of reach, since the kernel would
count down from the literals of `uncollectedOf` in the test of `openCall`. -/
theorem acceptDial_def : acceptDial = fun number cls emergency row s =>
    let s := yieldToDial s
    let (owner, s) := openCall s
    let s := openContext owner cls emergency row s
    let s :=
      { s with
        lnu.buffer := number
        lnu.number := number
        lnu.followOn := false
        lnu.timers.window := none }
    let s := beginSeizure .seizing s
    answer .ok (bytePair cls (if emergency then 1 else 0)) (wordOf (owner.seq / 65536))
      (wordOf owner.seq) s := rfl

/-- What follows the giving of a sequence, as `acceptDial` takes its pair apart. -/
theorem dialOpened_pair (number : List Nat) (cls : Nat) (emergency : Bool) (row : Option Row)
    (p : Owner × State) :
    (match p with
      | (owner, s) =>
        let s := openContext owner cls emergency row s
        let s :=
          { s with
            lnu.buffer := number
            lnu.number := number
            lnu.followOn := false
            lnu.timers.window := none }
        let s := beginSeizure .seizing s
        answer .ok (bytePair cls (if emergency then 1 else 0)) (wordOf (owner.seq / 65536))
          (wordOf owner.seq) s) =
      dialOpened number cls emergency row p.1 p.2 := by
  cases p
  rfl

theorem acceptDial_eq (number : List Nat) (cls : Nat) (emergency : Bool) (row : Option Row)
    (s : State) :
    acceptDial number cls emergency row s =
      dialOpened number cls emergency row (openCall (yieldToDial s)).1
        (openCall (yieldToDial s)).2 :=
  calc acceptDial number cls emergency row s
    _ = _ :=
      congrFun (congrFun (congrFun (congrFun (congrFun acceptDial_def number) cls) emergency) row) s
    _ = _ := dialOpened_pair number cls emergency row (openCall (yieldToDial s))

@[simp] theorem dialOpened_frame (number : List Nat) (cls : Nat) (emergency : Bool)
    (row : Option Row) (o : Owner) (s : State) :
    (dialOpened number cls emergency row o s).powered = s.powered ∧
    (dialOpened number cls emergency row o s).mem = s.mem ∧
    (dialOpened number cls emergency row o s).bpu = s.bpu ∧
    (dialOpened number cls emergency row o s).cfl = s.cfl ∧
    (dialOpened number cls emergency row o s).acu = s.acu ∧
    (dialOpened number cls emergency row o s).pfu = s.pfu ∧
    (dialOpened number cls emergency row o s).cnu.chute = s.cnu.chute ∧
    (dialOpened number cls emergency row o s).inu = s.inu ∧
    (dialOpened number cls emergency row o s).rqu.queue = s.rqu.queue ∧
    (dialOpened number cls emergency row o s).rqu.abandon = s.rqu.abandon := by
  unfold dialOpened
  simp

@[simp] theorem acceptDial_frame (number : List Nat) (cls : Nat) (emergency : Bool)
    (row : Option Row) (s : State) :
    (acceptDial number cls emergency row s).powered = s.powered ∧
    (acceptDial number cls emergency row s).mem = s.mem ∧
    (acceptDial number cls emergency row s).bpu = s.bpu ∧
    (acceptDial number cls emergency row s).cfl = s.cfl ∧
    (acceptDial number cls emergency row s).acu = s.acu ∧
    (acceptDial number cls emergency row s).pfu = s.pfu ∧
    (acceptDial number cls emergency row s).cnu.chute = s.cnu.chute ∧
    (acceptDial number cls emergency row s).rqu.queue = s.rqu.queue ∧
    (acceptDial number cls emergency row s).rqu.abandon = s.rqu.abandon := by
  have h := openCall_frame (yieldToDial s)
  rw [acceptDial_eq]
  simp only [dialOpened_frame, h, yieldToDial_frame, and_self]

@[simp] theorem judgeClass_frame (number : List Nat) (cls : Nat) (row : Option Row) (s : State) :
    (judgeClass number cls row s).powered = s.powered ∧
    (judgeClass number cls row s).mem = s.mem ∧
    (judgeClass number cls row s).bpu = s.bpu ∧
    (judgeClass number cls row s).cfl = s.cfl ∧
    (judgeClass number cls row s).acu = s.acu ∧
    (judgeClass number cls row s).pfu = s.pfu ∧
    (judgeClass number cls row s).cnu.chute = s.cnu.chute ∧
    (judgeClass number cls row s).rqu.queue = s.rqu.queue ∧
    (judgeClass number cls row s).rqu.abandon = s.rqu.abandon := by
  unfold judgeClass
  (repeat' split) <;> simp

@[simp] theorem dialRequest_frame (ps : List Word) (s : State) :
    (dialRequest ps s).powered = s.powered ∧
    (dialRequest ps s).mem = s.mem ∧
    (dialRequest ps s).bpu = s.bpu ∧
    (dialRequest ps s).cfl = s.cfl ∧
    (dialRequest ps s).acu = s.acu ∧
    (dialRequest ps s).pfu = s.pfu ∧
    (dialRequest ps s).cnu.chute = s.cnu.chute ∧
    (dialRequest ps s).rqu.queue = s.rqu.queue ∧
    (dialRequest ps s).rqu.abandon = s.rqu.abandon := by
  unfold dialRequest
  (repeat' split) <;> simp

/-- Steps 2 to 6 of the rebuild (R137), which config fault leaves out (R26). -/
def rebuildRecords (s : State) : State :=
  if s.cfl.fault.isSome then s
  else
    [IncKind.cashDoorOpen, .cashboxRemoved, .escrowFault, .auditSuspect].foldl
      (fun s k => rebuildLatch k s) (rebuildQueue (rebuildIndex s))

/-- Step 7 of the rebuild: the latches set by counts (R137). -/
def rebuildCounts (s : State) : State :=
  let coins := s.adu.cache.boxCoins
  let s := countLatch (s.cfl.params.boxNearFull ≤ coins) .cashboxNearFull s
  let s := countLatch (s.cfl.params.boxFull ≤ coins) .cashboxFull s
  countLatch (248 ≤ uncollected s) .logFull s

/-- Steps 8 and 9 of the rebuild: the sensors, and the held items (R137). -/
def rebuildApplied (s : State) : State :=
  replayIncidents { rebuildSensors s with inu.rebuilt := true }

/-- The rebuild up to its decay timers. -/
def rebuiltIndex (s : State) : State :=
  rebuildApplied (rebuildCounts (rebuildRecords (allAttrs.foldl (fun s a => rebuildAttr a s) s)))

theorem rebuild_eq (s : State) :
    rebuild s =
      if (rebuiltIndex s).cfl.fault.isSome then rebuiltIndex s
      else startStoppedDecays (rebuiltIndex s) := by
  unfold rebuild rebuiltIndex rebuildApplied rebuildCounts rebuildRecords
  rfl

@[simp] theorem rebuildRecords_frame (s : State) :
    (rebuildRecords s).powered = s.powered ∧
    (rebuildRecords s).mem = s.mem ∧
    (rebuildRecords s).bpu = s.bpu ∧
    (rebuildRecords s).cfl = s.cfl ∧
    (rebuildRecords s).cnu = s.cnu ∧
    (rebuildRecords s).acu = s.acu ∧
    (rebuildRecords s).pfu = s.pfu ∧
    (rebuildRecords s).rqu.service = s.rqu.service ∧
    (rebuildRecords s).rqu.queue = s.rqu.queue ∧
    (rebuildRecords s).rqu.abandon = s.rqu.abandon := by
  unfold rebuildRecords
  split <;> simp

@[simp] theorem rebuildCounts_frame (s : State) :
    (rebuildCounts s).powered = s.powered ∧
    (rebuildCounts s).mem = s.mem ∧
    (rebuildCounts s).bpu = s.bpu ∧
    (rebuildCounts s).cfl = s.cfl ∧
    (rebuildCounts s).cnu = s.cnu ∧
    (rebuildCounts s).acu = s.acu ∧
    (rebuildCounts s).pfu = s.pfu ∧
    (rebuildCounts s).rqu.service = s.rqu.service ∧
    (rebuildCounts s).rqu.queue = s.rqu.queue ∧
    (rebuildCounts s).rqu.abandon = s.rqu.abandon := by
  unfold rebuildCounts
  simp

@[simp] theorem rebuildApplied_frame (s : State) :
    (rebuildApplied s).powered = s.powered ∧
    (rebuildApplied s).mem = s.mem ∧
    (rebuildApplied s).bpu = s.bpu ∧
    (rebuildApplied s).cfl = s.cfl ∧
    (rebuildApplied s).cnu = s.cnu ∧
    (rebuildApplied s).acu = s.acu ∧
    (rebuildApplied s).pfu = s.pfu ∧
    (rebuildApplied s).rqu.service = s.rqu.service ∧
    (rebuildApplied s).rqu.queue = s.rqu.queue ∧
    (rebuildApplied s).rqu.abandon = s.rqu.abandon := by
  unfold rebuildApplied
  simp

@[simp] theorem rebuild_frame (s : State) :
    (rebuild s).powered = s.powered ∧
    (rebuild s).mem = s.mem ∧
    (rebuild s).bpu = s.bpu ∧
    (rebuild s).cfl = s.cfl ∧
    (rebuild s).cnu = s.cnu ∧
    (rebuild s).acu = s.acu ∧
    (rebuild s).pfu = s.pfu ∧
    (rebuild s).rqu.service = s.rqu.service ∧
    (rebuild s).rqu.queue = s.rqu.queue ∧
    (rebuild s).rqu.abandon = s.rqu.abandon := by
  rw [rebuild_eq, rebuiltIndex]
  split <;> simp

/-- The ADU's loads and scans of step 3 (R153, R160, R164, R26). -/
def startupLoads (calls incidents : List Nat) (s : State) : State :=
  if s.cfl.fault.isSome then faultLoads s
  else
    let s := scanCalls calls (loadRemap (loadTallies s))
    attrEvents .nvRetries (rereads .incident incidents s) s

/-- Step 4 of the start-up begins, with the words its comparison has read (R31, R78). -/
def enterTariffStep (compare : Option (List Word)) (s : State) : State :=
  { s with cfl.step := .tariff, tru.compare := compare }

/-- Step 3 of the start-up taken: loads, rebuild, and the comparison that step 4 begins. -/
def startupAudit (calls incidents : List Nat) (s : State) : State :=
  enterTariffStep (if hasWindow .tariff (startupLoads calls incidents s) then some [] else none)
    (rebuild (startupLoads calls incidents s))

theorem exec_startupAuditLoadDone (calls incidents : List Nat) (s : State) :
    exec (.startupAuditLoadDone calls incidents) s =
      onPower s fun s =>
        match s.cfl.step with
        | .audit =>
          if running s && (s.cfl.fault.isSome || portReaches .adu s) then
            startupAudit calls incidents s
          else s
        | _ => s := by
  unfold exec execStartupAuditLoadDone startupAudit startupLoads enterTariffStep
  rfl

@[simp] theorem startupLoads_frame (calls incidents : List Nat) (s : State) :
    (startupLoads calls incidents s).powered = s.powered ∧
    (startupLoads calls incidents s).mem = s.mem ∧
    (startupLoads calls incidents s).bpu = s.bpu ∧
    (startupLoads calls incidents s).cfl = s.cfl ∧
    (startupLoads calls incidents s).cnu = s.cnu ∧
    (startupLoads calls incidents s).acu = s.acu ∧
    (startupLoads calls incidents s).pfu = s.pfu ∧
    (startupLoads calls incidents s).rqu.service = s.rqu.service ∧
    (startupLoads calls incidents s).rqu.queue = s.rqu.queue ∧
    (startupLoads calls incidents s).rqu.abandon = s.rqu.abandon := by
  unfold startupLoads
  split <;> simp

@[simp] theorem enterTariffStep_frame (compare : Option (List Word)) (s : State) :
    (enterTariffStep compare s).powered = s.powered ∧
    (enterTariffStep compare s).mem = s.mem ∧
    (enterTariffStep compare s).bpu = s.bpu ∧
    (enterTariffStep compare s).rqu = s.rqu ∧
    (enterTariffStep compare s).cnu = s.cnu ∧
    (enterTariffStep compare s).inu = s.inu ∧
    (enterTariffStep compare s).acu = s.acu ∧
    (enterTariffStep compare s).pfu = s.pfu ∧
    (enterTariffStep compare s).cfl.step = .tariff := by
  simp [enterTariffStep]

@[simp] theorem startupAudit_frame (calls incidents : List Nat) (s : State) :
    (startupAudit calls incidents s).powered = s.powered ∧
    (startupAudit calls incidents s).mem = s.mem ∧
    (startupAudit calls incidents s).bpu = s.bpu ∧
    (startupAudit calls incidents s).cnu = s.cnu ∧
    (startupAudit calls incidents s).acu = s.acu ∧
    (startupAudit calls incidents s).pfu = s.pfu ∧
    (startupAudit calls incidents s).rqu.service = s.rqu.service ∧
    (startupAudit calls incidents s).rqu.queue = s.rqu.queue ∧
    (startupAudit calls incidents s).rqu.abandon = s.rqu.abandon ∧
    (startupAudit calls incidents s).cfl.step = .tariff := by
  unfold startupAudit
  simp only [enterTariffStep_frame, rebuild_frame, startupLoads_frame, and_self]

/-! ### What a step keeps -/

/-- What a step keeps: what idling and every command keep, of what does not depend on the queue of
commands. -/
theorem step_keeps {P : State → Prop} {s t : State} (hs : P s) (e : step s = .next t)
    (queue : ∀ u l, P u → P { u with pending := l }) (idles : ∀ u, P u → P (idle u))
    (commands : ∀ c u v, P u → exec c u = .next v → P v) : P t := by
  unfold step at e
  split at e
  · exact commands _ _ _ (queue _ _ hs) e
  · cases e
    exact idles s hs

end Sys2Proof.Machine
end

section
/-! The canonical form of memory (log 3): every write of the part keeps it, and so does every step (O4). -/

namespace Sys2Proof.Machine

@[simp] theorem storeWord_mem_wf (a : Nat) (w : Word) {s : State} (h : s.mem.wf = true) :
    (storeWord a w s).mem.wf = true := by
  simp [storeWord, Memory.store_wf, h]

@[simp] theorem finishRun_mem_wf {s : State} (h : s.mem.wf = true) :
    (finishRun s).mem.wf = true := by
  unfold finishRun
  split <;> simp [Memory.storeAll_wf, h]

@[simp] theorem controllerAccess_mem_wf (c : Cycle) {s : State} (h : s.mem.wf = true) :
    (controllerAccess c s).mem.wf = true := by
  unfold controllerAccess
  dsimp only
  (repeat' split) <;> simp [Memory.store_wf, h]

@[simp] theorem portWord_mem_wf (act : Action) (c : Cycle) {s : State} (h : s.mem.wf = true) :
    (portWord act c s).mem.wf = true := by
  unfold portWord
  (repeat' split) <;> simp [h]

@[simp] theorem classWord_mem_wf (c : Cycle) {s : State} (h : s.mem.wf = true) :
    (classWord c s).mem.wf = true := by
  unfold classWord
  (repeat' split) <;> simp [h]

@[simp] theorem busWord_mem_wf (c : Cycle) {s : State} (h : s.mem.wf = true) :
    (busWord c s).mem.wf = true := by
  unfold busWord
  (repeat' split) <;> simp [h]

@[simp] theorem reclassCycle_mem_wf {s : State} (h : s.mem.wf = true) :
    (reclassCycle s).mem.wf = true := by
  unfold reclassCycle
  (repeat' split) <;> simp [h]

@[simp] theorem statusWrite_mem_wf (offset : Nat) (data : Word) (lanes : Lanes) {s : State}
    (h : s.mem.wf = true) :
    (statusWrite offset data lanes s).mem.wf = true := by
  unfold statusWrite
  (repeat' split) <;> simp [h]

@[simp] theorem preloadTuple_mem_wf (t : Nat × Word) {s : State} (h : s.mem.wf = true) :
    (preloadTuple t s).mem.wf = true := by
  unfold preloadTuple
  (repeat' split) <;> simp [h]

@[simp] theorem finishPreload_mem_wf {s : State} (h : s.mem.wf = true) :
    (finishPreload s).mem.wf = true := by
  exact foldl_induction (P := fun s => s.mem.wf = true) _ _ s h fun _ t => preloadTuple_mem_wf t

@[simp] theorem installConfig_mem_wf (table : List Window) (p : Params)
    (tuples : List (Nat × Word)) {s : State} (h : s.mem.wf = true) :
    (installConfig table p tuples s).mem.wf = true := by
  unfold installConfig
  simp [h]

@[simp] theorem enterSaving_mem_wf {s : State} (h : s.mem.wf = true) :
    (enterSaving s).mem.wf = true := by
  unfold enterSaving
  dsimp only
  (repeat' split) <;> simp [h]

@[simp] theorem writeInvalid_mem_wf (readBacks : List Word) {s : State} (h : s.mem.wf = true) :
    (writeInvalid readBacks s).mem.wf = true := by
  unfold writeInvalid
  dsimp only
  (repeat' split) <;> simp [h]

@[simp] theorem writeAgain_mem_wf {s : State} (h : s.mem.wf = true) :
    (writeAgain s).mem.wf = true := by
  unfold writeAgain
  dsimp only
  (repeat' split) <;> simp [h]

@[simp] theorem writeCompletion_mem_wf {s : State} (h : s.mem.wf = true) :
    (writeCompletion s).mem.wf = true := by
  unfold writeCompletion
  (repeat' split) <;> simp [h]

@[simp] theorem writeAbandon_mem_wf {s : State} (h : s.mem.wf = true) :
    (writeAbandon s).mem.wf = true := by
  unfold writeAbandon
  (repeat' split) <;> simp [h]

@[simp] theorem grantController_mem_wf {s : State} (h : s.mem.wf = true) :
    (grantController s).mem.wf = true := by
  unfold grantController
  (repeat' split) <;> simp [h]

@[simp] theorem grantPfu_mem_wf {s : State} (h : s.mem.wf = true) :
    (grantPfu s).mem.wf = true := by
  unfold grantPfu
  (repeat' split) <;> simp [h]

@[simp] theorem writerWord_mem_wf {s : State} (h : s.mem.wf = true) :
    (writerWord s).mem.wf = true := by
  unfold writerWord
  (repeat' split) <;> simp [h]

@[simp] theorem grantAdu_mem_wf {s : State} (h : s.mem.wf = true) :
    (grantAdu s).mem.wf = true := by
  unfold grantAdu
  (repeat' split) <;> simp [h]

@[simp] theorem serveWord_mem_wf {s : State} (h : s.mem.wf = true) :
    (serveWord s).mem.wf = true := by
  unfold serveWord
  (repeat' split) <;> simp [h]

@[simp] theorem grantRqu_mem_wf {s : State} (h : s.mem.wf = true) :
    (grantRqu s).mem.wf = true := by
  unfold grantRqu
  (repeat' split) <;> simp [h]

@[simp] theorem grantCfl_mem_wf {s : State} (h : s.mem.wf = true) :
    (grantCfl s).mem.wf = true := by
  unfold grantCfl
  dsimp only
  (repeat' split) <;> simp [h]

@[simp] theorem grant_mem_wf (p : Party) {s : State} (h : s.mem.wf = true) :
    (grant p s).mem.wf = true := by
  unfold grant
  (repeat' split) <;> simp [h]
/-- Every command keeps the canonical form of memory. -/
theorem exec_mem_wf {c : Instr} {s t : State} (h : s.mem.wf = true) (e : exec c s = .next t) :
    t.mem.wf = true := by
  cases c
  case powerOn levels =>
    cases e
    split
    · exact h
    · have wf : s.mem.nonvolatile.wf = true := Memory.nonvolatile_wf h
      dsimp only
      split <;> simp [State.powerOn, wf]
  case powerLost =>
    cases e
    split
    · exact Memory.nonvolatile_wf h
    · exact h
  case startupAuditLoadDone calls incidents =>
    rw [exec_startupAuditLoadDone] at e
    refine onPower_induction (P := fun s => s.mem.wf = true) e h fun _ => ?_
    (repeat' split) <;> simp [h]
  all_goals
    cases e
    try dsimp only [onRequest, atLineTimer, atRatingPoint, atReportTimer]
    (repeat' split) <;> simp [Memory.storeAll_wf, h]

/-- Settles O4: the writes of every command keep the form, and idling writes nothing. -/
theorem memoryStaysCanonical : Obligations.MemoryStaysCanonical := by
  intro s t h e
  exact step_keeps (P := fun u => u.mem.wf = true) h e (fun _ _ h => h)
    (fun u h => by simpa using h) fun _ _ _ => exec_mem_wf

end Sys2Proof.Machine
end

section
/-! The intercept law (R15): at most 8 records wait, and the overflow flag needs one that waits. -/

namespace Sys2Proof.Machine

/-- At most 8 records wait, and the overflow flag stands only over a queue that is not empty
(R15). -/
def QueueLaw (queue : List Intercept) (overflow : Bool) : Prop :=
  queue.length ≤ 8 ∧ (overflow = true → queue ≠ [])

theorem interceptLaw_iff (s : State) :
    InterceptLaw s ↔ QueueLaw s.bpu.intercepts s.bpu.overflow := Iff.rfl

theorem QueueLaw.joined {queue : List Intercept} {overflow : Bool} (_ : QueueLaw queue overflow)
    (r : Intercept) (lt : queue.length < 8) : QueueLaw (queue ++ [r]) overflow :=
  ⟨by simpa using lt, fun _ => by simp⟩

theorem QueueLaw.overflowed {queue : List Intercept} {overflow : Bool}
    (h : QueueLaw queue overflow) (full : ¬ queue.length < 8) : QueueLaw queue true :=
  ⟨h.1, fun _ e => full (by simp [e])⟩

theorem QueueLaw.popped {r : Intercept} {rest : List Intercept} {overflow : Bool}
    (h : QueueLaw (r :: rest) overflow) : QueueLaw rest (overflow && !decide (rest = [])) :=
  ⟨by have := h.1; simp only [List.length_cons] at this; omega, fun e => by simp_all⟩

theorem QueueLaw.empty : QueueLaw [] false := ⟨by decide, by simp⟩

@[simp] theorem postSlot_overflow (i : Nat) (s : State) :
    (postSlot i s).bpu.overflow = s.bpu.overflow := by
  unfold postSlot
  (repeat' split) <;> simp

@[simp] theorem afterWrite_overflow (c : Cycle) (s : State) :
    (afterWrite c s).bpu.overflow = s.bpu.overflow := by
  unfold afterWrite
  dsimp only
  (repeat' split) <;> simp

@[simp] theorem answerRead_overflow (w : Word) (lanes : Lanes) (s : State) :
    (answerRead w lanes s).bpu.overflow = s.bpu.overflow := by
  unfold answerRead
  simp

@[simp] theorem controllerAccess_overflow (c : Cycle) (s : State) :
    (controllerAccess c s).bpu.overflow = s.bpu.overflow := by
  unfold controllerAccess
  dsimp only
  (repeat' split) <;> simp

@[simp] theorem portWord_overflow (act : Action) (c : Cycle) (s : State) :
    (portWord act c s).bpu.overflow = s.bpu.overflow := by
  unfold portWord
  (repeat' split) <;> simp

@[simp] theorem substituteRead_overflow (c : Cycle) (s : State) :
    (substituteRead c s).bpu.overflow = s.bpu.overflow := by
  unfold substituteRead
  (repeat' split) <;> simp

@[simp] theorem slotCleared_overflow (i : Nat) (s : State) :
    (slotCleared i s).bpu.overflow = s.bpu.overflow := by
  unfold slotCleared
  simp

@[simp] theorem endService_overflow (s : State) :
    (endService s).bpu.overflow = s.bpu.overflow := by
  unfold endService
  (repeat' split) <;> simp

@[simp] theorem endAbandon_overflow (s : State) :
    (endAbandon s).bpu.overflow = s.bpu.overflow := by
  unfold endAbandon
  (repeat' split) <;> simp

@[simp] theorem writeCompletion_overflow (s : State) :
    (writeCompletion s).bpu.overflow = s.bpu.overflow := by
  unfold writeCompletion
  (repeat' split) <;> simp

@[simp] theorem writeAbandon_overflow (s : State) :
    (writeAbandon s).bpu.overflow = s.bpu.overflow := by
  unfold writeAbandon
  (repeat' split) <;> simp

@[simp] theorem grantController_overflow (s : State) :
    (grantController s).bpu.overflow = s.bpu.overflow := by
  unfold grantController
  (repeat' split) <;> simp

@[simp] theorem serveWord_overflow (s : State) :
    (serveWord s).bpu.overflow = s.bpu.overflow := by
  unfold serveWord
  (repeat' split) <;> simp

@[simp] theorem grantRqu_overflow (s : State) :
    (grantRqu s).bpu.overflow = s.bpu.overflow := by
  unfold grantRqu
  (repeat' split) <;> simp

@[simp] theorem grant_overflow (p : Party) (s : State) :
    (grant p s).bpu.overflow = s.bpu.overflow := by
  unfold grant
  (repeat' split) <;> simp

@[simp] theorem offerIntercept_queueLaw (r : Intercept) {s : State}
    (h : QueueLaw s.bpu.intercepts s.bpu.overflow) :
    QueueLaw (offerIntercept r s).bpu.intercepts (offerIntercept r s).bpu.overflow := by
  unfold offerIntercept
  split
  · simpa using h.joined r ‹_›
  · simpa using h.overflowed ‹_›

@[simp] theorem blockWrite_queueLaw (cause : Cause) (c : Cycle) {s : State}
    (h : QueueLaw s.bpu.intercepts s.bpu.overflow) :
    QueueLaw (blockWrite cause c s).bpu.intercepts (blockWrite cause c s).bpu.overflow := by
  unfold blockWrite
  simp [h]

@[simp] theorem popIntercept_queueLaw {s : State} (h : QueueLaw s.bpu.intercepts s.bpu.overflow) :
    QueueLaw (popIntercept s).bpu.intercepts (popIntercept s).bpu.overflow := by
  unfold popIntercept
  split
  · exact h
  · rename_i r rest e
    rw [e] at h
    simpa using h.popped

@[simp] theorem commandWord_queueLaw (c : Cycle) {s : State}
    (h : QueueLaw s.bpu.intercepts s.bpu.overflow) :
    QueueLaw (commandWord c s).bpu.intercepts (commandWord c s).bpu.overflow := by
  unfold commandWord
  (repeat' split) <;> simp [h]

@[simp] theorem classWord_queueLaw (c : Cycle) {s : State}
    (h : QueueLaw s.bpu.intercepts s.bpu.overflow) :
    QueueLaw (classWord c s).bpu.intercepts (classWord c s).bpu.overflow := by
  unfold classWord
  (repeat' split) <;> simp [h]

@[simp] theorem busWord_queueLaw (c : Cycle) {s : State}
    (h : QueueLaw s.bpu.intercepts s.bpu.overflow) :
    QueueLaw (busWord c s).bpu.intercepts (busWord c s).bpu.overflow := by
  unfold busWord
  (repeat' split) <;> simp [h]

@[simp] theorem reclassCycle_queueLaw {s : State} (h : QueueLaw s.bpu.intercepts s.bpu.overflow) :
    QueueLaw (reclassCycle s).bpu.intercepts (reclassCycle s).bpu.overflow := by
  unfold reclassCycle
  (repeat' split) <;> simp [h]

@[simp] theorem statusWrite_queueLaw (offset : Nat) (data : Word) (lanes : Lanes) {s : State}
    (h : QueueLaw s.bpu.intercepts s.bpu.overflow) :
    QueueLaw (statusWrite offset data lanes s).bpu.intercepts
      (statusWrite offset data lanes s).bpu.overflow := by
  unfold statusWrite
  (repeat' split) <;> simp [h]

@[simp] theorem installConfig_queueLaw (table : List Window) (p : Params)
    (tuples : List (Nat × Word)) {s : State} (h : QueueLaw s.bpu.intercepts s.bpu.overflow) :
    QueueLaw (installConfig table p tuples s).bpu.intercepts
      (installConfig table p tuples s).bpu.overflow := by
  unfold installConfig
  simp [h]

@[simp] theorem enterSaving_queueLaw {s : State} (h : QueueLaw s.bpu.intercepts s.bpu.overflow) :
    QueueLaw (enterSaving s).bpu.intercepts (enterSaving s).bpu.overflow := by
  unfold enterSaving
  dsimp only
  (repeat' split) <;> simp [h]

theorem exec_interceptLaw {c : Instr} {s t : State} (h : InterceptLaw s) (e : exec c s = .next t) :
    InterceptLaw t := by
  rw [interceptLaw_iff] at h ⊢
  cases c
  case powerOn levels =>
    cases e
    split
    · exact h
    · dsimp only
      split <;> simp [State.powerOn, QueueLaw.empty]
  case powerLost =>
    cases e
    split
    · exact QueueLaw.empty
    · exact h
  case startupAuditLoadDone calls incidents =>
    rw [exec_startupAuditLoadDone] at e
    refine onPower_induction (P := fun s => QueueLaw s.bpu.intercepts s.bpu.overflow) e h
      fun _ => ?_
    (repeat' split) <;> simp [h]
  all_goals
    cases e
    try dsimp only [onRequest, atLineTimer, atRatingPoint, atReportTimer]
    (repeat' split) <;> simp [h, QueueLaw.empty]

end Sys2Proof.Machine
end

section
/-! The escrow law (R48, R55): escrow and chute lists hold at most 8 coins together, and none is in
the chute while the terminal is STARTING. -/

namespace Sys2Proof.Machine

/-- A tube of `n` coins and a chute list of these fit, the chute being empty if `b` (R48, R55,
R63). -/
def CoinsFit (b : Prop) (n : Nat) (chute : List ChuteCoin) : Prop :=
  n + chute.length ≤ 8 ∧ (b → chute = [])

theorem escrowLaw_iff (s : State) :
    EscrowLaw s ↔ CoinsFit (starting s = true) s.cnu.escrow.length s.cnu.chute := Iff.rfl

theorem CoinsFit.fewer {b : Prop} {n m : Nat} {chute : List ChuteCoin}
    (h : CoinsFit b n chute) (le : m ≤ n) : CoinsFit b m chute :=
  ⟨by have := h.1; omega, h.2⟩

theorem CoinsFit.mono {b c : Prop} {n : Nat} {chute : List ChuteCoin} (h : CoinsFit b n chute)
    (imp : c → b) : CoinsFit c n chute :=
  ⟨h.1, fun e => h.2 (imp e)⟩

/-- A chute coin passes into the tube (R50). -/
theorem CoinsFit.passed {b : Prop} {n : Nat} {c : ChuteCoin} {cs : List ChuteCoin}
    (h : CoinsFit b n (c :: cs)) : CoinsFit b (n + 1) cs :=
  ⟨by have := h.1; simp only [List.length_cons] at this; omega, fun e => by simpa using h.2 e⟩

/-- A coin joins a tube that is not full, over an empty chute (R51). -/
theorem CoinsFit.joined {b : Prop} {n : Nat} (_ : CoinsFit b n []) (lt : n < 8) :
    CoinsFit b (n + 1) [] :=
  ⟨by simpa using lt, fun _ => rfl⟩

theorem CoinsFit.shifted {b : Prop} {n : Nat} {chute : List ChuteCoin}
    (h : CoinsFit b n chute) (now since : Nat) :
    CoinsFit b n (chute.map (ChuteCoin.shifted now since)) :=
  ⟨by simpa using h.1, fun e => by simp [h.2 e]⟩

@[simp] theorem foldl_escrow_length {α : Type} (g : State → α → State) (l : List α) (s : State)
    (h : ∀ u a, (g u a).cnu.escrow.length = u.cnu.escrow.length) :
    (l.foldl g s).cnu.escrow.length = s.cnu.escrow.length := by
  induction l generalizing s with
  | nil => rfl
  | cons a l ih => rw [List.foldl_cons, ih, h]

@[simp] theorem watchCredit_escrow_length (f : State → State) (s : State)
    (h : ∀ u, (f u).cnu.escrow.length = u.cnu.escrow.length) :
    (watchCredit f s).cnu.escrow.length = s.cnu.escrow.length := by
  simp [watchCredit, h]

/-- A coin is granted while the tube and the chute are not full, out of STARTING (R48). -/
theorem CoinsFit.granted {b : Prop} {n : Nat} {chute : List ChuteCoin} (c : ChuteCoin)
    (lt : n + chute.length < 8) (out : ¬ b) : CoinsFit b n (chute ++ [c]) :=
  ⟨by simp; omega, fun e => absurd e out⟩

/-- A chute coin is taken from the list (R50). -/
theorem CoinsFit.erased {b : Prop} {n : Nat} {chute : List ChuteCoin} (h : CoinsFit b n chute)
    (p : ChuteCoin → Bool) : CoinsFit b n (chute.eraseP p) := by
  have le := List.length_eraseP_le (p := p) (l := chute)
  exact ⟨by have := h.1; omega, fun e => by simp [h.2 e]⟩

@[simp] theorem startDrop_escrow_length (s : State) :
    (startDrop s).cnu.escrow.length = s.cnu.escrow.length := by
  unfold startDrop
  (repeat' split) <;> simp [*]

@[simp] theorem commitOrder_escrow_length (seq : Nat) (s : State) :
    (commitOrder seq s).cnu.escrow.length = s.cnu.escrow.length := by
  unfold commitOrder
  (repeat' split) <;> simp

@[simp] theorem returnOrder_escrow_length (o : Owner) (s : State) :
    (returnOrder o s).cnu.escrow.length = s.cnu.escrow.length := by
  unfold returnOrder
  simp

@[simp] theorem transferOrder_escrow_length (old : Owner) (new : Owner) (s : State) :
    (transferOrder old new s).cnu.escrow.length = s.cnu.escrow.length := by
  unfold transferOrder
  simp

@[simp] theorem unfreeze_escrow_length (s : State) :
    (unfreeze s).cnu.escrow.length = s.cnu.escrow.length := by
  unfold unfreeze
  dsimp only
  (repeat' split) <;> simp

@[simp] theorem takeCharge_escrow_length (charge : Nat) (s : State) :
    (takeCharge charge s).cnu.escrow.length = s.cnu.escrow.length := by
  unfold takeCharge
  (repeat' split) <;> simp

@[simp] theorem beginInterval_escrow_length (start : Nat) (first : Bool) (s : State) :
    (beginInterval start first s).cnu.escrow.length = s.cnu.escrow.length := by
  unfold beginInterval
  dsimp only
  (repeat' split) <;> simp

@[simp] theorem catchUp_escrow_length (n : Nat) (s : State) :
    (catchUp n s).cnu.escrow.length = s.cnu.escrow.length := by
  induction n generalizing s with
  | zero => simp [catchUp]
  | succ n ih =>
    unfold catchUp
    (repeat' split) <;> simp [ih]

@[simp] theorem graceTest_escrow_length (s : State) :
    (graceTest s).cnu.escrow.length = s.cnu.escrow.length := by
  unfold graceTest
  dsimp only
  (repeat' split) <;> simp

@[simp] theorem coinNotice_escrow_length (o : Owner) (seq : Nat) (value : Nat) (s : State) :
    (coinNotice o seq value s).cnu.escrow.length = s.cnu.escrow.length := by
  unfold coinNotice watchCredit
  dsimp only
  (repeat' split) <;> simp

@[simp] theorem openContext_escrow_length (o : Owner) (cls : Nat) (emergency : Bool)
    (row : Option Row) (s : State) :
    (openContext o cls emergency row s).cnu.escrow.length = s.cnu.escrow.length := by
  unfold openContext
  dsimp only
  split <;> simp

@[simp] theorem rateAnswer_escrow_length (s : State) :
    (rateAnswer s).cnu.escrow.length = s.cnu.escrow.length := by
  unfold rateAnswer
  (repeat' split) <;> simp

@[simp] theorem settle_escrow_length (cause : EndCause) (keep : Bool) (s : State) :
    (settle cause keep s).cnu.escrow.length = s.cnu.escrow.length := by
  unfold settle
  (repeat' split) <;> simp

@[simp] theorem releaseCarry_escrow_length (s : State) :
    (releaseCarry s).cnu.escrow.length = s.cnu.escrow.length := by
  unfold releaseCarry
  simp

@[simp] theorem releasePreCall_escrow_length (s : State) :
    (releasePreCall s).cnu.escrow.length = s.cnu.escrow.length := by
  unfold releasePreCall
  simp

@[simp] theorem endClearance_escrow_length (c : Clearance) (fault : Bool) (s : State) :
    (endClearance c fault s).cnu.escrow.length = s.cnu.escrow.length := by
  unfold endClearance
  (repeat' split) <;> simp

@[simp] theorem nextClearance_escrow_length (c : Clearance) (s : State) :
    (nextClearance c s).cnu.escrow.length = s.cnu.escrow.length := by
  unfold nextClearance
  (repeat' split) <;> simp

@[simp] theorem orderClearance_escrow_length (s : State) :
    (orderClearance s).cnu.escrow.length = s.cnu.escrow.length := by
  unfold orderClearance
  simp

@[simp] theorem afterClear_escrow_length (k : IncKind) (s : State) :
    (afterClear k s).cnu.escrow.length = s.cnu.escrow.length := by
  unfold afterClear
  (repeat' split) <;> simp

@[simp] theorem clearNamed_escrow_length (k : IncKind) (s : State) :
    (clearNamed k s).cnu.escrow.length = s.cnu.escrow.length := by
  unfold clearNamed
  (repeat' split) <;> simp

@[simp] theorem clearIncidentRequest_escrow_length (ps : List Word) (s : State) :
    (clearIncidentRequest ps s).cnu.escrow.length = s.cnu.escrow.length := by
  unfold clearIncidentRequest
  (repeat' split) <;> simp

@[simp] theorem endCall_escrow_length (cause : EndCause) (s : State) :
    (endCall cause s).cnu.escrow.length = s.cnu.escrow.length := by
  unfold endCall
  (repeat' split) <;> simp

@[simp] theorem takeOnHook_escrow_length (s : State) :
    (takeOnHook s).cnu.escrow.length = s.cnu.escrow.length := by
  unfold takeOnHook
  dsimp only
  (repeat' split) <;> simp

@[simp] theorem answerCall_escrow_length (s : State) :
    (answerCall s).cnu.escrow.length = s.cnu.escrow.length := by
  unfold answerCall
  simp

@[simp] theorem awaitAnswer_escrow_length (report : Bool) (s : State) :
    (awaitAnswer report s).cnu.escrow.length = s.cnu.escrow.length := by
  unfold awaitAnswer
  dsimp only
  (repeat' split) <;> simp

@[simp] theorem sendingEnds_escrow_length (s : State) :
    (sendingEnds s).cnu.escrow.length = s.cnu.escrow.length := by
  unfold sendingEnds
  (repeat' split) <;> simp

@[simp] theorem takeReversal_escrow_length (s : State) :
    (takeReversal s).cnu.escrow.length = s.cnu.escrow.length := by
  unfold takeReversal
  dsimp only
  (repeat' split) <;> simp

@[simp] theorem takeReversion_escrow_length (s : State) :
    (takeReversion s).cnu.escrow.length = s.cnu.escrow.length := by
  unfold takeReversion
  dsimp only
  (repeat' split) <;> simp

@[simp] theorem followOnRequest_escrow_length (x : List Word) (s : State) :
    (followOnRequest x s).cnu.escrow.length = s.cnu.escrow.length := by
  unfold followOnRequest
  dsimp only
  (repeat' split) <;> simp

@[simp] theorem releaseRequest_escrow_length (ps : List Word) (s : State) :
    (releaseRequest ps s).cnu.escrow.length = s.cnu.escrow.length := by
  unfold releaseRequest
  (repeat' split) <;> simp

@[simp] theorem voltageFault_escrow_length (s : State) :
    (voltageFault s).cnu.escrow.length = s.cnu.escrow.length := by
  unfold voltageFault
  dsimp only
  (repeat' split) <;> simp

@[simp] theorem takeIntervalEnd_escrow_length (s : State) :
    (takeIntervalEnd s).cnu.escrow.length = s.cnu.escrow.length := by
  unfold takeIntervalEnd
  (repeat' split) <;> simp

@[simp] theorem cutOff_escrow_length (cause : EndCause) (c : Ctx) (s : State) :
    (cutOff cause c s).cnu.escrow.length = s.cnu.escrow.length := by
  unfold cutOff
  simp

@[simp] theorem takeGraceDeadline_escrow_length (s : State) :
    (takeGraceDeadline s).cnu.escrow.length = s.cnu.escrow.length := by
  unfold takeGraceDeadline
  (repeat' split) <;> simp

@[simp] theorem takeMaxDurationEnd_escrow_length (s : State) :
    (takeMaxDurationEnd s).cnu.escrow.length = s.cnu.escrow.length := by
  unfold takeMaxDurationEnd
  (repeat' split) <;> simp

@[simp] theorem creditCoin_escrow_length (denom value : Nat) (isForeign : Bool) (s : State) :
    (creditCoin denom value isForeign s).cnu.escrow.length = s.cnu.escrow.length + 1 := by
  unfold creditCoin
  dsimp only
  split <;> simp

theorem savedCoins_length (ws : List Word) : (savedCoins ws).length ≤ 8 := by
  simp [savedCoins]

/-- Of a saved context at most 8 coins are restored, over an empty chute (R63, R177). -/
@[simp] theorem restoreEscrow_coinsFit {b : Prop} (ws : List Word) (s : State) :
    CoinsFit b (restoreEscrow ws s).cnu.escrow.length [] := by
  refine ⟨?_, fun _ => rfl⟩
  have le := List.length_filter_le (fun c : Coin => decide (c.status ≠ .dropping))
    ((savedCoins ws).map (·.coin))
  have := savedCoins_length ws
  simp only [List.length_map] at le
  simp only [restoreEscrow, List.length_nil]
  omega

@[simp] theorem acceptDial_escrow_length (number : List Nat) (cls : Nat) (emergency : Bool)
    (row : Option Row) (s : State) :
    (acceptDial number cls emergency row s).cnu.escrow.length = s.cnu.escrow.length := by
  rw [acceptDial_eq, dialOpened]
  simp [-openCall_snd, openCall_frame]

@[simp] theorem judgeClass_escrow_length (number : List Nat) (cls : Nat) (row : Option Row)
    (s : State) :
    (judgeClass number cls row s).cnu.escrow.length = s.cnu.escrow.length := by
  unfold judgeClass
  (repeat' split) <;> simp

@[simp] theorem dialRequest_escrow_length (ps : List Word) (s : State) :
    (dialRequest ps s).cnu.escrow.length = s.cnu.escrow.length := by
  unfold dialRequest
  (repeat' split) <;> simp

@[simp] theorem settlePath_coinsFit {b : Prop} (ws : List Word) (s : State) :
    CoinsFit b (settlePath ws s).cnu.escrow.length [] := by
  unfold settlePath
  simp

@[simp] theorem finishPath_coinsFit {b : Prop} (ws : List Word) (s : State) :
    CoinsFit b (finishPath ws s).cnu.escrow.length [] := by
  unfold finishPath
  simp

@[simp] theorem completeDrop_coinsFit {b : Prop} (dir : Dir) {s : State}
    (h : CoinsFit b s.cnu.escrow.length s.cnu.chute) :
    CoinsFit b (completeDrop dir s).cnu.escrow.length s.cnu.chute := by
  unfold completeDrop
  split
  · exact h
  · rename_i c cs e
    have fit := h.fewer (m := cs.length) (by simp [e])
    dsimp only
    (repeat' split) <;> simp [fit]

@[simp] theorem sensorClears_coinsFit {b : Prop} {n : Nat} {s : State}
    (h : CoinsFit b n s.cnu.chute) :
    CoinsFit b n (sensorClears s).cnu.chute := by
  unfold sensorClears
  split
  · simpa using h.shifted _ _
  · simpa using h

@[simp] theorem matchPassage_coinsFit {b : Prop} {s : State}
    (h : CoinsFit b s.cnu.escrow.length s.cnu.chute) :
    CoinsFit b (matchPassage s).cnu.escrow.length (matchPassage s).cnu.chute := by
  unfold matchPassage
  split
  · split
    · rename_i c cs e
      rw [e] at h
      simpa using h.passed
    · rename_i e
      rw [e] at h
      simpa [e] using h.joined (by assumption)
  · simpa using h

@[simp] theorem takeEntryPassage_coinsFit {b : Prop} {s : State}
    (h : CoinsFit b s.cnu.escrow.length s.cnu.chute) :
    CoinsFit b (takeEntryPassage s).cnu.escrow.length (takeEntryPassage s).cnu.chute := by
  unfold takeEntryPassage
  simp [h]

@[simp] theorem takeExitPassage_coinsFit {b : Prop} {s : State}
    (h : CoinsFit b s.cnu.escrow.length s.cnu.chute) :
    CoinsFit b (takeExitPassage s).cnu.escrow.length s.cnu.chute := by
  unfold takeExitPassage
  (repeat' split) <;> simp [h]

@[simp] theorem takeHeld_coinsFit {b : Prop} (x : Held) {s : State}
    (h : CoinsFit b s.cnu.escrow.length s.cnu.chute) :
    CoinsFit b (takeHeld x s).cnu.escrow.length (takeHeld x s).cnu.chute := by
  unfold takeHeld
  (repeat' split) <;> simp [h]

@[simp] theorem replayHeld_coinsFit {b : Prop} {s : State}
    (h : CoinsFit b s.cnu.escrow.length s.cnu.chute) :
    CoinsFit b (replayHeld s).cnu.escrow.length (replayHeld s).cnu.chute := by
  unfold replayHeld
  exact foldl_induction (P := fun s => CoinsFit b s.cnu.escrow.length s.cnu.chute) _ _ _
    (by simpa using h) fun u x hu => takeHeld_coinsFit x hu

@[simp] theorem resume_coinsFit {b : Prop} {s : State}
    (h : CoinsFit b s.cnu.escrow.length s.cnu.chute) :
    CoinsFit b (resume s).cnu.escrow.length (resume s).cnu.chute := by
  unfold resume
  simp [h]

@[simp] theorem leaveSaved_coinsFit {b : Prop} {s : State}
    (h : CoinsFit b s.cnu.escrow.length s.cnu.chute) :
    CoinsFit b (leaveSaved s).cnu.escrow.length (leaveSaved s).cnu.chute := by
  unfold leaveSaved
  (repeat' split) <;> simp [h]

@[simp] theorem enterSaved_coinsFit {b : Prop} {s : State}
    (h : CoinsFit b s.cnu.escrow.length s.cnu.chute) :
    CoinsFit b (enterSaved s).cnu.escrow.length (enterSaved s).cnu.chute := by
  unfold enterSaved
  dsimp only
  split <;> simp [h]

@[simp] theorem enterSaving_coinsFit {b : Prop} {s : State}
    (h : CoinsFit b s.cnu.escrow.length s.cnu.chute) :
    CoinsFit b (enterSaving s).cnu.escrow.length (enterSaving s).cnu.chute := by
  unfold enterSaving
  dsimp only
  (repeat' split) <;> simp [h]

@[simp] theorem endStarting_coinsFit {b : Prop} {s : State}
    (h : CoinsFit b s.cnu.escrow.length s.cnu.chute) :
    CoinsFit b (endStarting s).cnu.escrow.length (endStarting s).cnu.chute := by
  unfold endStarting
  simp [h]

@[simp] theorem afterInvalid_coinsFit {b : Prop} (u : Unsave) {s : State}
    (h : CoinsFit b s.cnu.escrow.length s.cnu.chute) :
    CoinsFit b (afterInvalid u s).cnu.escrow.length (afterInvalid u s).cnu.chute := by
  unfold afterInvalid
  (repeat' split) <;> simp [h]

@[simp] theorem writeAgain_coinsFit {b : Prop} {s : State}
    (h : CoinsFit b s.cnu.escrow.length s.cnu.chute) :
    CoinsFit b (writeAgain s).cnu.escrow.length (writeAgain s).cnu.chute := by
  unfold writeAgain
  dsimp only
  (repeat' split) <;> simp [h]

@[simp] theorem step5WriteBack_coinsFit {b : Prop} {s : State}
    (h : CoinsFit b s.cnu.escrow.length s.cnu.chute) :
    CoinsFit b (step5WriteBack s).cnu.escrow.length (step5WriteBack s).cnu.chute := by
  unfold step5WriteBack
  (repeat' split) <;> simp [h]

@[simp] theorem grantPfu_coinsFit {b : Prop} {s : State}
    (h : CoinsFit b s.cnu.escrow.length s.cnu.chute) :
    CoinsFit b (grantPfu s).cnu.escrow.length (grantPfu s).cnu.chute := by
  unfold grantPfu
  (repeat' split) <;> simp [h]

@[simp] theorem grant_coinsFit {b : Prop} (p : Party) {s : State}
    (h : CoinsFit b s.cnu.escrow.length s.cnu.chute) :
    CoinsFit b (grant p s).cnu.escrow.length (grant p s).cnu.chute := by
  unfold grant
  (repeat' split) <;> simp [h]

@[simp] theorem judgeContext_coinsFit {b : Prop} {s : State} (c : s.cnu.chute = [])
    (h : CoinsFit b s.cnu.escrow.length s.cnu.chute) :
    CoinsFit b (judgeContext s).cnu.escrow.length (judgeContext s).cnu.chute := by
  unfold judgeContext
  dsimp only
  (repeat' split)
  · simp [h]
  · simp [c]
  · simp [c]
  · simp [h]
  · simp [h]

/-! Every command but the supply's leaves a terminal that is not STARTING so. -/

@[simp] theorem endStarting_done (s : State) : (endStarting s).cfl.step = .done := by
  simp [endStarting]

@[simp] theorem judgeContext_done {s : State} (h : s.cfl.step = .done) :
    (judgeContext s).cfl.step = .done := by
  unfold judgeContext
  dsimp only
  (repeat' split) <;> simp [h]

@[simp] theorem step5WriteBack_done {s : State} (h : s.cfl.step = .done) :
    (step5WriteBack s).cfl.step = .done := by
  unfold step5WriteBack
  (repeat' split) <;> simp [h]

@[simp] theorem enterSaving_done {s : State} (h : s.cfl.step = .done) :
    (enterSaving s).cfl.step = .done := by
  simp [h]

theorem exec_done {c : Instr} {s t : State} (h : s.cfl.step = .done) (e : exec c s = .next t)
    (on : ∀ levels, c ≠ .powerOn levels) (off : c ≠ .powerLost) : t.cfl.step = .done := by
  cases c
  case powerOn levels => exact absurd rfl (on levels)
  case powerLost => exact absurd rfl off
  case startupAuditLoadDone calls incidents =>
    rw [exec_startupAuditLoadDone] at e
    refine onPower_induction (P := fun s => s.cfl.step = .done) e h fun _ => ?_
    simp [h]
  all_goals
    cases e
    try dsimp only [onRequest, atLineTimer, atRatingPoint, atReportTimer]
    (repeat' split) <;> simp_all

theorem gateOpen_room {s : State} (h : gateOpen s = true) :
    starting s = false ∧ s.cnu.escrow.length + s.cnu.chute.length < 8 := by
  simp only [gateOpen, Bool.and_eq_true, Bool.not_eq_true', decide_eq_true_eq] at h
  obtain ⟨⟨⟨⟨out, _⟩, _⟩, _⟩, room⟩ := h
  exact ⟨out, room⟩

theorem ite_fits {b : Prop} {c : Prop} [Decidable c] {s t : State}
    (h : CoinsFit b s.cnu.escrow.length s.cnu.chute)
    (h' : c → CoinsFit b t.cnu.escrow.length t.cnu.chute) :
    CoinsFit b (if c then t else s).cnu.escrow.length (if c then t else s).cnu.chute := by
  split
  · exact h' ‹_›
  · exact h

/-- Every command but those of the supply keeps the bounds, in a terminal that is STARTING before
it or not. -/
theorem exec_coinsFit {c : Instr} {s t : State}
    (h : CoinsFit (starting s = true) s.cnu.escrow.length s.cnu.chute) (e : exec c s = .next t)
    (on : ∀ levels, c ≠ .powerOn levels) (off : c ≠ .powerLost) :
    CoinsFit (starting s = true) t.cnu.escrow.length t.cnu.chute := by
  cases c
  case powerOn levels => exact absurd rfl (on levels)
  case powerLost => exact absurd rfl off
  case startupAuditLoadDone calls incidents =>
    rw [exec_startupAuditLoadDone] at e
    refine onPower_induction
      (P := fun t => CoinsFit (starting s = true) t.cnu.escrow.length t.cnu.chute) e h fun _ => ?_
    (repeat' split) <;> simp [h]
  case offer code =>
    cases e
    refine ite_fits h fun _ => ?_
    dsimp only
    by_cases gate : gateOpen s = true
    · obtain ⟨out, room⟩ := gateOpen_room gate
      split
      · exact CoinsFit.granted _ room (by simp [out])
      · exact h
    · simpa [gate] using h
  case tariffCompareDone =>
    cases e
    refine ite_fits h fun _ => ?_
    dsimp only
    split
    · have empty := h.2 (by simp_all [starting])
      split
      · rw [empty] at h
        exact judgeContext_coinsFit (by simpa using empty) (by simpa [empty] using h)
      · exact h
    · exact h
  case chuteDeadline =>
    cases e
    refine ite_fits h fun _ => ?_
    dsimp only
    (repeat' split) <;> simp [h, h.erased]
  all_goals
    cases e
    try dsimp only [onRequest, atLineTimer, atRatingPoint, atReportTimer]
    (repeat' split) <;> simp [h]

theorem exec_escrowLaw {c : Instr} {s t : State} (h : EscrowLaw s) (e : exec c s = .next t) :
    EscrowLaw t := by
  rw [escrowLaw_iff] at h ⊢
  by_cases on : ∃ levels, c = .powerOn levels
  · obtain ⟨levels, rfl⟩ := on
    cases e
    split
    · exact h
    · have fit : CoinsFit True 0 [] := ⟨by decide, fun _ => rfl⟩
      dsimp only
      split <;> simp [State.powerOn, fit.mono]
  by_cases off : c = .powerLost
  · subst off
    cases e
    split
    · exact ⟨by simp [State.powerOn], fun _ => rfl⟩
    · exact h
  · have on' : ∀ levels, c ≠ .powerOn levels := fun levels eq => on ⟨levels, eq⟩
    refine (exec_coinsFit h e on' off).mono fun up => ?_
    by_contra done
    have := exec_done (by simpa [starting] using done) e on' off
    simp [starting, this] at up

end Sys2Proof.Machine
end

section
/-! The index law (R129): each record of the incident index lies in a slot of its own. -/

namespace Sys2Proof.Machine

theorem records_map_slot (r : IncRec) (l : List IncRec) :
    (l.map fun x => if x.slot = r.slot then r else x).map (·.slot) = l.map (·.slot) := by
  rw [List.map_map]
  refine List.map_congr_left fun x _ => ?_
  simp only [Function.comp_apply]
  split <;> simp_all

@[simp] theorem putRecord_slots (r : IncRec) (s : State) :
    (putRecord r s).inu.records.map (·.slot) = s.inu.records.map (·.slot) := by
  simp only [putRecord, rewrite_frame]
  exact records_map_slot r s.inu.records

@[simp] theorem foldl_slots {α : Type} (g : State → α → State) (l : List α) (s : State)
    (h : ∀ u a, (g u a).inu.records.map (·.slot) = u.inu.records.map (·.slot)) :
    (l.foldl g s).inu.records.map (·.slot) = s.inu.records.map (·.slot) := by
  induction l generalizing s with
  | nil => rfl
  | cons a l ih => rw [List.foldl_cons, ih, h]

@[simp] theorem forSeqs_slots (f : Nat → State → State) (qs : List Nat) (s : State)
    (h : ∀ q u, (f q u).inu.records.map (·.slot) = u.inu.records.map (·.slot)) :
    (forSeqs f qs s).inu.records.map (·.slot) = s.inu.records.map (·.slot) :=
  foldl_slots _ _ _ fun u q => h q u
@[simp] theorem carryRecord_slots (seq : Nat) (s : State) :
    (carryRecord seq s).inu.records.map (·.slot) = s.inu.records.map (·.slot) := by
  unfold carryRecord
  (repeat' split) <;> simp

@[simp] theorem acceptRecord_slots (seq : Nat) (s : State) :
    (acceptRecord seq s).inu.records.map (·.slot) = s.inu.records.map (·.slot) := by
  unfold acceptRecord
  (repeat' split) <;> simp

@[simp] theorem returnRecord_slots (f : IncRec → IncRec) (seq : Nat) (s : State) :
    (returnRecord f seq s).inu.records.map (·.slot) = s.inu.records.map (·.slot) := by
  unfold returnRecord
  (repeat' split) <;> simp

@[simp] theorem failRecord_slots (backoff : Nat → Nat) (seq : Nat) (s : State) :
    (failRecord backoff seq s).inu.records.map (·.slot) = s.inu.records.map (·.slot) := by
  unfold failRecord
  simp

@[simp] theorem yieldRecord_slots (seq : Nat) (s : State) :
    (yieldRecord seq s).inu.records.map (·.slot) = s.inu.records.map (·.slot) := by
  unfold yieldRecord
  simp

@[simp] theorem markCleared_slots (k : IncKind) (s : State) :
    (markCleared k s).inu.records.map (·.slot) = s.inu.records.map (·.slot) := by
  unfold markCleared
  (repeat' split) <;> simp

@[simp] theorem grantReport_slots (s : State) :
    (grantReport s).inu.records.map (·.slot) = s.inu.records.map (·.slot) := by
  unfold grantReport
  simp

@[simp] theorem judgeStart_slots (s : State) :
    (judgeStart s).inu.records.map (·.slot) = s.inu.records.map (·.slot) := by
  unfold judgeStart
  dsimp only
  (repeat' split) <;> simp

@[simp] theorem takeClearLatch_slots (k : IncKind) (s : State) :
    (takeClearLatch k s).inu.records.map (·.slot) = s.inu.records.map (·.slot) := by
  unfold takeClearLatch
  (repeat' split) <;> simp

@[simp] theorem clearLatch_slots (k : IncKind) (s : State) :
    (clearLatch k s).inu.records.map (·.slot) = s.inu.records.map (·.slot) := by
  unfold clearLatch
  (repeat' split) <;> simp

@[simp] theorem emptyReport_slots (s : State) :
    (emptyReport s).inu.records.map (·.slot) = s.inu.records.map (·.slot) := by
  unfold emptyReport
  simp

@[simp] theorem failReport_slots (s : State) :
    (failReport s).inu.records.map (·.slot) = s.inu.records.map (·.slot) := by
  unfold failReport
  (repeat' split) <;> simp

@[simp] theorem acceptReport_slots (ask : Bool) (timed : Bool) (s : State) :
    (acceptReport ask timed s).inu.records.map (·.slot) = s.inu.records.map (·.slot) := by
  unfold acceptReport
  (repeat' split) <;> simp

@[simp] theorem lineFailure_slots (s : State) :
    (lineFailure s).inu.records.map (·.slot) = s.inu.records.map (·.slot) := by
  unfold lineFailure
  (repeat' split) <;> simp

@[simp] theorem yieldReport_slots (s : State) :
    (yieldReport s).inu.records.map (·.slot) = s.inu.records.map (·.slot) := by
  unfold yieldReport
  (repeat' split) <;> simp

@[simp] theorem passCheck_slots (k : Check) (s : State) :
    (passCheck k s).inu.records.map (·.slot) = s.inu.records.map (·.slot) := by
  unfold passCheck
  (repeat' split) <;> simp

@[simp] theorem sensorClears_slots (s : State) :
    (sensorClears s).inu.records.map (·.slot) = s.inu.records.map (·.slot) := by
  unfold sensorClears
  (repeat' split) <;> simp

@[simp] theorem emptyCashboxRequest_slots (x : List Word) (s : State) :
    (emptyCashboxRequest x s).inu.records.map (·.slot) = s.inu.records.map (·.slot) := by
  unfold emptyCashboxRequest
  (repeat' split) <;> simp

@[simp] theorem offHookInReport_slots (s : State) :
    (offHookInReport s).inu.records.map (·.slot) = s.inu.records.map (·.slot) := by
  unfold offHookInReport
  dsimp only
  (repeat' split) <;> simp

@[simp] theorem takeOffHook_slots (s : State) :
    (takeOffHook s).inu.records.map (·.slot) = s.inu.records.map (·.slot) := by
  unfold takeOffHook
  dsimp only
  (repeat' split) <;> simp

@[simp] theorem endReportByLine_slots (s : State) :
    (endReportByLine s).inu.records.map (·.slot) = s.inu.records.map (·.slot) := by
  unfold endReportByLine
  simp

@[simp] theorem takeReversion_slots (s : State) :
    (takeReversion s).inu.records.map (·.slot) = s.inu.records.map (·.slot) := by
  unfold takeReversion
  dsimp only
  (repeat' split) <;> simp

@[simp] theorem yieldToDial_slots (s : State) :
    (yieldToDial s).inu.records.map (·.slot) = s.inu.records.map (·.slot) := by
  unfold yieldToDial
  dsimp only
  (repeat' split) <;> simp

@[simp] theorem failAck_slots (s : State) :
    (failAck s).inu.records.map (·.slot) = s.inu.records.map (·.slot) := by
  unfold failAck
  simp

@[simp] theorem toneAtNone_slots (c : ReportCall) (t : Tone) (s : State) :
    (toneAtNone c t s).inu.records.map (·.slot) = s.inu.records.map (·.slot) := by
  unfold toneAtNone
  (repeat' split) <;> simp

@[simp] theorem toneAfterA_slots (c : ReportCall) (t : Tone) (s : State) :
    (toneAfterA c t s).inu.records.map (·.slot) = s.inu.records.map (·.slot) := by
  unfold toneAfterA
  (repeat' split) <;> simp

@[simp] theorem takeTone_slots (t : Tone) (s : State) :
    (takeTone t s).inu.records.map (·.slot) = s.inu.records.map (·.slot) := by
  unfold takeTone
  (repeat' split) <;> simp

@[simp] theorem testReportRequest_slots (x : List Word) (s : State) :
    (testReportRequest x s).inu.records.map (·.slot) = s.inu.records.map (·.slot) := by
  unfold testReportRequest
  (repeat' split) <;> simp

/-- Slots of their own, below 64 (R129). -/
def SlotsGood (l : List Nat) : Prop := l.Nodup ∧ ∀ i ∈ l, i < 64

theorem indexLaw_iff (s : State) : IndexLaw s ↔ SlotsGood (s.inu.records.map (·.slot)) := by
  simp [IndexLaw, SlotsGood]

theorem freeSlot_spec {l : List IncRec} {i : Nat} (h : freeSlot l = some i) :
    i < 64 ∧ i ∉ l.map (·.slot) := by
  unfold freeSlot at h
  have hm := List.mem_of_find?_eq_some h
  have hp := List.find?_some h
  simp_all

theorem slotForNew_spec {l : List IncRec} (h : SlotsGood (l.map (·.slot))) {i : Nat}
    (e : slotForNew l = some i) : i < 64 := by
  unfold slotForNew at e
  split at e
  · rename_i j hj
    cases e
    exact (freeSlot_spec hj).1
  · cases hr : l.find? (fun r => r.state = .reported) with
    | none => simp [hr] at e
    | some r =>
      simp only [hr, Option.map_some, Option.some.injEq] at e
      subst e
      exact h.2 _ (List.mem_map_of_mem (List.mem_of_find?_eq_some hr))

theorem SlotsGood.replace {l : List IncRec} (h : SlotsGood (l.map (·.slot))) {r : IncRec}
    (hr : r.slot < 64) :
    SlotsGood (((l.filter fun x => x.slot ≠ r.slot) ++ [r]).map (·.slot)) := by
  obtain ⟨hn, hb⟩ := h
  constructor
  · rw [List.map_append, List.nodup_append]
    refine ⟨(hn.sublist (List.filter_sublist.map _)), by simp, ?_⟩
    intro a ha b hb
    simp at ha hb
    grind
  · intro i hi
    simp at hi hb
    grind

@[simp] theorem createRecord_slots (k : IncKind) (detail : Nat) {s : State}
    (h : SlotsGood (s.inu.records.map (·.slot))) :
    SlotsGood ((createRecord k detail s).inu.records.map (·.slot)) := by
  unfold createRecord
  split
  · exact h
  · rename_i slot e
    simp only [rewrite_frame]
    exact h.replace (r := newRecord k detail slot s) (slotForNew_spec h e)
@[simp] theorem foldl_slotsGood {α : Type} (g : State → α → State) (l : List α) {s : State}
    (h : SlotsGood (s.inu.records.map (·.slot)))
    (step : ∀ u a, SlotsGood (u.inu.records.map (·.slot)) →
      SlotsGood ((g u a).inu.records.map (·.slot))) :
    SlotsGood ((l.foldl g s).inu.records.map (·.slot)) :=
  foldl_induction (P := fun s => SlotsGood (s.inu.records.map (·.slot))) _ _ _ h
    fun u a hu => step u a hu
@[simp] theorem takeOccurrence_slots (k : IncKind) (detail : Nat) {s : State}
    (h : SlotsGood (s.inu.records.map (·.slot))) :
    SlotsGood ((takeOccurrence k detail s).inu.records.map (·.slot)) := by
  unfold takeOccurrence
  (repeat' split) <;> simp [h]

@[simp] theorem occur_slots (k : IncKind) (detail : Nat) {s : State}
    (h : SlotsGood (s.inu.records.map (·.slot))) :
    SlotsGood ((occur k detail s).inu.records.map (·.slot)) := by
  unfold occur
  (repeat' split) <;> simp [h]

@[simp] theorem takeAttrEvent_slots (a : AttrId) {s : State}
    (h : SlotsGood (s.inu.records.map (·.slot))) :
    SlotsGood ((takeAttrEvent a s).inu.records.map (·.slot)) := by
  unfold takeAttrEvent
  dsimp only
  (repeat' split) <;> simp [h]

@[simp] theorem attrEvent_slots (a : AttrId) {s : State}
    (h : SlotsGood (s.inu.records.map (·.slot))) :
    SlotsGood ((attrEvent a s).inu.records.map (·.slot)) := by
  unfold attrEvent
  (repeat' split) <;> simp [h]

@[simp] theorem attrEvents_slots (a : AttrId) (n : Nat) {s : State}
    (h : SlotsGood (s.inu.records.map (·.slot))) :
    SlotsGood ((attrEvents a n s).inu.records.map (·.slot)) := by
  induction n generalizing s with
  | zero => simpa [attrEvents] using h
  | succ n ih =>
    unfold attrEvents
    exact ih (attrEvent_slots a h)

@[simp] theorem fillCheck_slots {s : State} (h : SlotsGood (s.inu.records.map (·.slot))) :
    SlotsGood ((fillCheck s).inu.records.map (·.slot)) := by
  unfold fillCheck
  dsimp only
  (repeat' split) <;> simp [h]

@[simp] theorem clearanceDrop_slots (made : Nat) (sweep : Bool) {s : State}
    (h : SlotsGood (s.inu.records.map (·.slot))) :
    SlotsGood ((clearanceDrop made sweep s).inu.records.map (·.slot)) := by
  unfold clearanceDrop
  (repeat' split) <;> simp [h]

@[simp] theorem sweepCheck_slots {s : State} (h : SlotsGood (s.inu.records.map (·.slot))) :
    SlotsGood ((sweepCheck s).inu.records.map (·.slot)) := by
  unfold sweepCheck
  (repeat' split) <;> simp [h]

@[simp] theorem completeDrop_slots (dir : Dir) {s : State}
    (h : SlotsGood (s.inu.records.map (·.slot))) :
    SlotsGood ((completeDrop dir s).inu.records.map (·.slot)) := by
  unfold completeDrop
  dsimp only
  (repeat' split) <;> simp [h]

@[simp] theorem judgeCount_slots (old : Nat) {s : State}
    (h : SlotsGood (s.inu.records.map (·.slot))) :
    SlotsGood ((judgeCount old s).inu.records.map (·.slot)) := by
  unfold judgeCount
  dsimp only
  (repeat' split) <;> simp [h]

@[simp] theorem failCheck_slots (k : Check) (b : BadItem) {s : State}
    (h : SlotsGood (s.inu.records.map (·.slot))) :
    SlotsGood ((failCheck k b s).inu.records.map (·.slot)) := by
  unfold failCheck
  (repeat' split) <;> simp [h]

@[simp] theorem matchPassage_slots {s : State} (h : SlotsGood (s.inu.records.map (·.slot))) :
    SlotsGood ((matchPassage s).inu.records.map (·.slot)) := by
  unfold matchPassage
  (repeat' split) <;> simp [h]

@[simp] theorem takeEntryPassage_slots {s : State} (h : SlotsGood (s.inu.records.map (·.slot))) :
    SlotsGood ((takeEntryPassage s).inu.records.map (·.slot)) := by
  unfold takeEntryPassage
  simp [h]

@[simp] theorem takeEntryBlocked_slots {s : State} (h : SlotsGood (s.inu.records.map (·.slot))) :
    SlotsGood ((takeEntryBlocked s).inu.records.map (·.slot)) := by
  unfold takeEntryBlocked
  simp [h]

@[simp] theorem lostAccounting_slots {s : State} (h : SlotsGood (s.inu.records.map (·.slot))) :
    SlotsGood ((lostAccounting s).inu.records.map (·.slot)) := by
  unfold lostAccounting
  simp [h]

@[simp] theorem endClearance_slots (c : Clearance) (fault : Bool) {s : State}
    (h : SlotsGood (s.inu.records.map (·.slot))) :
    SlotsGood ((endClearance c fault s).inu.records.map (·.slot)) := by
  unfold endClearance
  (repeat' split) <;> simp [h]

@[simp] theorem nextClearance_slots (c : Clearance) {s : State}
    (h : SlotsGood (s.inu.records.map (·.slot))) :
    SlotsGood ((nextClearance c s).inu.records.map (·.slot)) := by
  unfold nextClearance
  (repeat' split) <;> simp [h]

@[simp] theorem orderClearance_slots {s : State} (h : SlotsGood (s.inu.records.map (·.slot))) :
    SlotsGood ((orderClearance s).inu.records.map (·.slot)) := by
  unfold orderClearance
  simp [h]

@[simp] theorem takeExitPassage_slots {s : State} (h : SlotsGood (s.inu.records.map (·.slot))) :
    SlotsGood ((takeExitPassage s).inu.records.map (·.slot)) := by
  unfold takeExitPassage
  (repeat' split) <;> simp [h]

@[simp] theorem dropStuck_slots (m : Motion) {s : State}
    (h : SlotsGood (s.inu.records.map (·.slot))) :
    SlotsGood ((dropStuck m s).inu.records.map (·.slot)) := by
  unfold dropStuck
  dsimp only
  (repeat' split) <;> simp [h]

@[simp] theorem outsideService_slots (k : IncKind) {s : State}
    (h : SlotsGood (s.inu.records.map (·.slot))) :
    SlotsGood ((outsideService k s).inu.records.map (·.slot)) := by
  unfold outsideService
  (repeat' split) <;> simp [h]

@[simp] theorem judgeSwitches_slots {s : State} (h : SlotsGood (s.inu.records.map (·.slot))) :
    SlotsGood ((judgeSwitches s).inu.records.map (·.slot)) := by
  unfold judgeSwitches
  dsimp only
  (repeat' split) <;> simp [h]

@[simp] theorem endSession_slots {s : State} (h : SlotsGood (s.inu.records.map (·.slot))) :
    SlotsGood ((endSession s).inu.records.map (·.slot)) := by
  unfold endSession
  simp [h]

@[simp] theorem wrongCode_slots {s : State} (h : SlotsGood (s.inu.records.map (·.slot))) :
    SlotsGood ((wrongCode s).inu.records.map (·.slot)) := by
  unfold wrongCode
  dsimp only
  (repeat' split) <;> simp [h]

@[simp] theorem serviceUnlockRequest_slots (ps : List Word) {s : State}
    (h : SlotsGood (s.inu.records.map (·.slot))) :
    SlotsGood ((serviceUnlockRequest ps s).inu.records.map (·.slot)) := by
  unfold serviceUnlockRequest
  (repeat' split) <;> simp [h]

@[simp] theorem serviceEndRequest_slots (x : List Word) {s : State}
    (h : SlotsGood (s.inu.records.map (·.slot))) :
    SlotsGood ((serviceEndRequest x s).inu.records.map (·.slot)) := by
  unfold serviceEndRequest
  (repeat' split) <;> simp [h]

@[simp] theorem takeKey_slots (on : Bool) {s : State}
    (h : SlotsGood (s.inu.records.map (·.slot))) :
    SlotsGood ((takeKey on s).inu.records.map (·.slot)) := by
  unfold takeKey
  dsimp only
  (repeat' split) <;> simp [h]

@[simp] theorem takeLapse_slots {s : State} (h : SlotsGood (s.inu.records.map (·.slot))) :
    SlotsGood ((takeLapse s).inu.records.map (·.slot)) := by
  unfold takeLapse
  (repeat' split) <;> simp [h]

@[simp] theorem resetAccess_slots {s : State} (h : SlotsGood (s.inu.records.map (·.slot))) :
    SlotsGood ((resetAccess s).inu.records.map (·.slot)) := by
  unfold resetAccess
  (repeat' split) <;> simp [h]

@[simp] theorem recordPhaseDone_slots (log : LogId) (slot : Nat) (ws : List Word) (r : Run)
    {s : State} (h : SlotsGood (s.inu.records.map (·.slot))) :
    SlotsGood ((recordPhaseDone log slot ws r s).inu.records.map (·.slot)) := by
  unfold recordPhaseDone
  (repeat' split) <;> simp [h]

@[simp] theorem nextWord_slots (r : Run) {s : State} (h : SlotsGood (s.inu.records.map (·.slot))) :
    SlotsGood ((nextWord r s).inu.records.map (·.slot)) := by
  unfold nextWord
  dsimp only
  (repeat' split) <;> simp [h]

@[simp] theorem recordWordFailed_slots (log : LogId) (slot : Nat) (ws : List Word) (r : Run)
    {s : State} (h : SlotsGood (s.inu.records.map (·.slot))) :
    SlotsGood ((recordWordFailed log slot ws r s).inu.records.map (·.slot)) := by
  unfold recordWordFailed
  (repeat' split) <;> simp [h]

@[simp] theorem wordFailed_slots (r : Run) {s : State}
    (h : SlotsGood (s.inu.records.map (·.slot))) :
    SlotsGood ((wordFailed r s).inu.records.map (·.slot)) := by
  unfold wordFailed
  dsimp only
  (repeat' split) <;> simp [h]

@[simp] theorem compareWord_slots (readBack : Word) (r : Run) {s : State}
    (h : SlotsGood (s.inu.records.map (·.slot))) :
    SlotsGood ((compareWord readBack r s).inu.records.map (·.slot)) := by
  unfold compareWord
  (repeat' split) <;> simp [h]

@[simp] theorem collectLogRequest_slots (ps : List Word) {s : State}
    (h : SlotsGood (s.inu.records.map (·.slot))) :
    SlotsGood ((collectLogRequest ps s).inu.records.map (·.slot)) := by
  unfold collectLogRequest
  dsimp only
  (repeat' split) <;> simp [h]

@[simp] theorem blockWrite_slots (cause : Cause) (c : Cycle) {s : State}
    (h : SlotsGood (s.inu.records.map (·.slot))) :
    SlotsGood ((blockWrite cause c s).inu.records.map (·.slot)) := by
  unfold blockWrite
  simp [h]

@[simp] theorem classWord_slots (c : Cycle) {s : State}
    (h : SlotsGood (s.inu.records.map (·.slot))) :
    SlotsGood ((classWord c s).inu.records.map (·.slot)) := by
  unfold classWord
  (repeat' split) <;> simp [h]

@[simp] theorem busWord_slots (c : Cycle) {s : State}
    (h : SlotsGood (s.inu.records.map (·.slot))) :
    SlotsGood ((busWord c s).inu.records.map (·.slot)) := by
  unfold busWord
  (repeat' split) <;> simp [h]

@[simp] theorem reclassCycle_slots {s : State} (h : SlotsGood (s.inu.records.map (·.slot))) :
    SlotsGood ((reclassCycle s).inu.records.map (·.slot)) := by
  unfold reclassCycle
  (repeat' split) <;> simp [h]

@[simp] theorem statusWrite_slots (offset : Nat) (data : Word) (lanes : Lanes) {s : State}
    (h : SlotsGood (s.inu.records.map (·.slot))) :
    SlotsGood ((statusWrite offset data lanes s).inu.records.map (·.slot)) := by
  unfold statusWrite
  (repeat' split) <;> simp [h]

@[simp] theorem installConfig_slots (table : List Window) (p : Params)
    (tuples : List (Nat × Word)) {s : State} (h : SlotsGood (s.inu.records.map (·.slot))) :
    SlotsGood ((installConfig table p tuples s).inu.records.map (·.slot)) := by
  unfold installConfig
  simp [h]

@[simp] theorem giveParams_slots (p : Params) {s : State}
    (h : SlotsGood (s.inu.records.map (·.slot))) :
    SlotsGood ((giveParams p s).inu.records.map (·.slot)) := by
  unfold giveParams
  simp [h]

@[simp] theorem reportFaultRequest_slots (ps : List Word) {s : State}
    (h : SlotsGood (s.inu.records.map (·.slot))) :
    SlotsGood ((reportFaultRequest ps s).inu.records.map (·.slot)) := by
  unfold reportFaultRequest
  (repeat' split) <;> simp [h]

@[simp] theorem afterClear_slots (k : IncKind) {s : State}
    (h : SlotsGood (s.inu.records.map (·.slot))) :
    SlotsGood ((afterClear k s).inu.records.map (·.slot)) := by
  unfold afterClear
  (repeat' split) <;> simp [h]

@[simp] theorem clearNamed_slots (k : IncKind) {s : State}
    (h : SlotsGood (s.inu.records.map (·.slot))) :
    SlotsGood ((clearNamed k s).inu.records.map (·.slot)) := by
  unfold clearNamed
  (repeat' split) <;> simp [h]

@[simp] theorem clearIncidentRequest_slots (ps : List Word) {s : State}
    (h : SlotsGood (s.inu.records.map (·.slot))) :
    SlotsGood ((clearIncidentRequest ps s).inu.records.map (·.slot)) := by
  unfold clearIncidentRequest
  (repeat' split) <;> simp [h]
  exact foldl_slotsGood _ _ h fun u k hu => clearNamed_slots k hu

@[simp] theorem loadTallies_slots {s : State} (h : SlotsGood (s.inu.records.map (·.slot))) :
    SlotsGood ((loadTallies s).inu.records.map (·.slot)) := by
  unfold loadTallies
  dsimp only
  (repeat' split) <;> simp [h]

@[simp] theorem scanCalls_slots (misread : List Nat) {s : State}
    (h : SlotsGood (s.inu.records.map (·.slot))) :
    SlotsGood ((scanCalls misread s).inu.records.map (·.slot)) := by
  unfold scanCalls
  simp [h]

@[simp] theorem rebuildSensors_slots {s : State} (h : SlotsGood (s.inu.records.map (·.slot))) :
    SlotsGood ((rebuildSensors s).inu.records.map (·.slot)) := by
  unfold rebuildSensors
  dsimp only
  (repeat' split) <;> (repeat' apply takeOccurrence_slots) <;> exact h

@[simp] theorem takeIncidentItem_slots (x : Held) {s : State}
    (h : SlotsGood (s.inu.records.map (·.slot))) :
    SlotsGood ((takeIncidentItem x s).inu.records.map (·.slot)) := by
  unfold takeIncidentItem
  (repeat' split) <;> simp [h]

@[simp] theorem replayIncidents_slots {s : State} (h : SlotsGood (s.inu.records.map (·.slot))) :
    SlotsGood ((replayIncidents s).inu.records.map (·.slot)) := by
  unfold replayIncidents
  dsimp only
  refine foldl_slotsGood _ _ ?_ fun u x hu => takeIncidentItem_slots x hu
  simpa using h

@[simp] theorem voltageFault_slots {s : State} (h : SlotsGood (s.inu.records.map (·.slot))) :
    SlotsGood ((voltageFault s).inu.records.map (·.slot)) := by
  unfold voltageFault
  dsimp only
  (repeat' split) <;> simp [h]

@[simp] theorem takeHeld_slots (x : Held) {s : State}
    (h : SlotsGood (s.inu.records.map (·.slot))) :
    SlotsGood ((takeHeld x s).inu.records.map (·.slot)) := by
  unfold takeHeld
  (repeat' split) <;> simp [h]

@[simp] theorem replayHeld_slots {s : State} (h : SlotsGood (s.inu.records.map (·.slot))) :
    SlotsGood ((replayHeld s).inu.records.map (·.slot)) := by
  unfold replayHeld
  dsimp only
  refine foldl_slotsGood _ _ ?_ fun u x hu => takeHeld_slots x hu
  simpa using replayIncidents_slots h

@[simp] theorem resume_slots {s : State} (h : SlotsGood (s.inu.records.map (·.slot))) :
    SlotsGood ((resume s).inu.records.map (·.slot)) := by
  unfold resume
  simp [h]

@[simp] theorem leaveSaved_slots {s : State} (h : SlotsGood (s.inu.records.map (·.slot))) :
    SlotsGood ((leaveSaved s).inu.records.map (·.slot)) := by
  unfold leaveSaved
  (repeat' split) <;> simp [h]

@[simp] theorem enterSaved_slots {s : State} (h : SlotsGood (s.inu.records.map (·.slot))) :
    SlotsGood ((enterSaved s).inu.records.map (·.slot)) := by
  unfold enterSaved
  dsimp only
  (repeat' split) <;> simp [h]

@[simp] theorem enterSaving_slots {s : State} (h : SlotsGood (s.inu.records.map (·.slot))) :
    SlotsGood ((enterSaving s).inu.records.map (·.slot)) := by
  unfold enterSaving
  dsimp only
  (repeat' split) <;> simp [h]

@[simp] theorem startLine_slots {s : State} (h : SlotsGood (s.inu.records.map (·.slot))) :
    SlotsGood ((startLine s).inu.records.map (·.slot)) := by
  unfold startLine
  (repeat' split) <;> simp [h]

@[simp] theorem endStarting_slots {s : State} (h : SlotsGood (s.inu.records.map (·.slot))) :
    SlotsGood ((endStarting s).inu.records.map (·.slot)) := by
  unfold endStarting
  simp [h]

@[simp] theorem writeInvalid_slots (readBacks : List Word) {s : State}
    (h : SlotsGood (s.inu.records.map (·.slot))) :
    SlotsGood ((writeInvalid readBacks s).inu.records.map (·.slot)) := by
  unfold writeInvalid
  dsimp only
  (repeat' split) <;> simp [h]

@[simp] theorem afterInvalid_slots (u : Unsave) {s : State}
    (h : SlotsGood (s.inu.records.map (·.slot))) :
    SlotsGood ((afterInvalid u s).inu.records.map (·.slot)) := by
  unfold afterInvalid
  (repeat' split) <;> simp [h]

@[simp] theorem writeAgain_slots {s : State} (h : SlotsGood (s.inu.records.map (·.slot))) :
    SlotsGood ((writeAgain s).inu.records.map (·.slot)) := by
  unfold writeAgain
  dsimp only
  (repeat' split) <;> simp [h]

@[simp] theorem compareTariff_slots {s : State} (h : SlotsGood (s.inu.records.map (·.slot))) :
    SlotsGood ((compareTariff s).inu.records.map (·.slot)) := by
  unfold compareTariff
  dsimp only
  (repeat' split) <;> simp [h]

@[simp] theorem advanceSaved_slots (o : Owner) {s : State}
    (h : SlotsGood (s.inu.records.map (·.slot))) :
    SlotsGood ((advanceSaved o s).inu.records.map (·.slot)) := by
  unfold advanceSaved
  (repeat' split) <;> simp [h]

@[simp] theorem settleCall_slots (ws : List Word) {s : State}
    (h : SlotsGood (s.inu.records.map (·.slot))) :
    SlotsGood ((settleCall ws s).inu.records.map (·.slot)) := by
  unfold settleCall
  (repeat' split) <;> simp [h]

@[simp] theorem finishCall_slots (ws : List Word) {s : State}
    (h : SlotsGood (s.inu.records.map (·.slot))) :
    SlotsGood ((finishCall ws s).inu.records.map (·.slot)) := by
  unfold finishCall
  dsimp only
  (repeat' split) <;> simp [h]

@[simp] theorem settlePath_slots (ws : List Word) {s : State}
    (h : SlotsGood (s.inu.records.map (·.slot))) :
    SlotsGood ((settlePath ws s).inu.records.map (·.slot)) := by
  unfold settlePath
  simp [h]

@[simp] theorem finishPath_slots (ws : List Word) {s : State}
    (h : SlotsGood (s.inu.records.map (·.slot))) :
    SlotsGood ((finishPath ws s).inu.records.map (·.slot)) := by
  unfold finishPath
  simp [h]

@[simp] theorem judgeContext_slots {s : State} (h : SlotsGood (s.inu.records.map (·.slot))) :
    SlotsGood ((judgeContext s).inu.records.map (·.slot)) := by
  unfold judgeContext
  dsimp only
  (repeat' split) <;> simp [h]

@[simp] theorem step5WriteBack_slots {s : State} (h : SlotsGood (s.inu.records.map (·.slot))) :
    SlotsGood ((step5WriteBack s).inu.records.map (·.slot)) := by
  unfold step5WriteBack
  (repeat' split) <;> simp [h]

@[simp] theorem grantPfu_slots {s : State} (h : SlotsGood (s.inu.records.map (·.slot))) :
    SlotsGood ((grantPfu s).inu.records.map (·.slot)) := by
  unfold grantPfu
  (repeat' split) <;> simp [h]

@[simp] theorem grant_slots (p : Party) {s : State} (h : SlotsGood (s.inu.records.map (·.slot))) :
    SlotsGood ((grant p s).inu.records.map (·.slot)) := by
  unfold grant
  (repeat' split) <;> simp [h]

/-! The index as it is rebuilt. -/

theorem insertRecord_perm (r : IncRec) (l : List IncRec) : (insertRecord r l).Perm (r :: l) := by
  induction l with
  | nil => exact .refl _
  | cons x xs ih =>
    unfold insertRecord
    split
    · exact .refl _
    · exact (ih.cons x).trans (.swap ..)

theorem creationOrder_perm (l : List IncRec) : (creationOrder l).Perm l := by
  have sorted : (l.foldr insertRecord []).Perm l := by
    induction l with
    | nil => exact .refl _
    | cons x xs ih => exact (insertRecord_perm ..).trans (ih.cons x)
  refine List.Perm.trans ?_ sorted
  unfold creationOrder
  dsimp only
  exact List.perm_append_comm.trans (.of_eq (List.take_append_drop ..))

theorem heldIncident_slot {k : Nat} {s : State} {r : IncRec} (h : heldIncident k s = some r) :
    r.slot = k := by
  unfold heldIncident at h
  split at h
  · split at h
    · obtain ⟨_, _, rfl⟩ := Option.map_eq_some_iff.mp h
      rfl
    · cases h
  · cases h

/-- Of the records read from a list of slots, each lies in the slot it was read from. -/
theorem slots_heldIncident (l : List Nat) (s : State) :
    (l.filterMap fun k => heldIncident k s).map (·.slot) =
      l.filter fun k => (heldIncident k s).isSome := by
  induction l with
  | nil => rfl
  | cons k l ih =>
    cases e : heldIncident k s with
    | none => simp [e, ih]
    | some r => simp [e, ih, heldIncident_slot e]

@[simp] theorem rebuildIndex_slots (s : State) :
    SlotsGood ((rebuildIndex s).inu.records.map (·.slot)) := by
  have perm := (creationOrder_perm ((List.range 64).filterMap fun k => heldIncident k s)).map
    (·.slot)
  rw [slots_heldIncident] at perm
  refine ⟨perm.nodup_iff.mpr (List.nodup_range.filter _), fun i hi => ?_⟩
  have mem := List.mem_of_mem_filter (perm.mem_iff.mp hi)
  simpa using mem

@[simp] theorem rebuildQueue_slots {s : State} (h : SlotsGood (s.inu.records.map (·.slot))) :
    SlotsGood ((rebuildQueue s).inu.records.map (·.slot)) := by
  simpa [rebuildQueue, Function.comp_def] using h

@[simp] theorem openCall_slots {s : State} (h : SlotsGood (s.inu.records.map (·.slot))) :
    SlotsGood ((openCall s).2.inu.records.map (·.slot)) := by
  rw [openCall_snd]
  split <;> simp [h]

@[simp] theorem acceptDial_slots (number : List Nat) (cls : Nat) (emergency : Bool)
    (row : Option Row) {s : State} (h : SlotsGood (s.inu.records.map (·.slot))) :
    SlotsGood ((acceptDial number cls emergency row s).inu.records.map (·.slot)) := by
  rw [acceptDial_eq]
  simp [-openCall_snd, h]

@[simp] theorem judgeClass_slots (number : List Nat) (cls : Nat) (row : Option Row) {s : State}
    (h : SlotsGood (s.inu.records.map (·.slot))) :
    SlotsGood ((judgeClass number cls row s).inu.records.map (·.slot)) := by
  unfold judgeClass
  (repeat' split) <;> simp [h]

@[simp] theorem dialRequest_slots (ps : List Word) {s : State}
    (h : SlotsGood (s.inu.records.map (·.slot))) :
    SlotsGood ((dialRequest ps s).inu.records.map (·.slot)) := by
  unfold dialRequest
  (repeat' split) <;> simp [h]

@[simp] theorem rebuildRecords_slots {s : State} (h : SlotsGood (s.inu.records.map (·.slot))) :
    SlotsGood ((rebuildRecords s).inu.records.map (·.slot)) := by
  unfold rebuildRecords
  split
  · exact h
  · exact foldl_slotsGood _ _ (by simp) fun u k hu => by simp [hu]

@[simp] theorem rebuildCounts_slots {s : State} (h : SlotsGood (s.inu.records.map (·.slot))) :
    SlotsGood ((rebuildCounts s).inu.records.map (·.slot)) := by
  simp [rebuildCounts, h]

@[simp] theorem rebuildApplied_slots {s : State} (h : SlotsGood (s.inu.records.map (·.slot))) :
    SlotsGood ((rebuildApplied s).inu.records.map (·.slot)) := by
  simp [rebuildApplied, h]

@[simp] theorem rebuild_slots {s : State} (h : SlotsGood (s.inu.records.map (·.slot))) :
    SlotsGood ((rebuild s).inu.records.map (·.slot)) := by
  have index : SlotsGood ((rebuiltIndex s).inu.records.map (·.slot)) :=
    rebuildApplied_slots (rebuildCounts_slots (rebuildRecords_slots (by simpa using h)))
  rw [rebuild_eq]
  split <;> simp [index]

@[simp] theorem startupLoads_slots (calls incidents : List Nat) {s : State}
    (h : SlotsGood (s.inu.records.map (·.slot))) :
    SlotsGood ((startupLoads calls incidents s).inu.records.map (·.slot)) := by
  have loaded := scanCalls_slots calls (s := loadRemap (loadTallies s)) (by simp [h])
  unfold startupLoads
  split <;> simp [h, loaded]

@[simp] theorem startupAudit_slots (calls incidents : List Nat) {s : State}
    (h : SlotsGood (s.inu.records.map (·.slot))) :
    SlotsGood ((startupAudit calls incidents s).inu.records.map (·.slot)) := by
  unfold startupAudit
  simp only [enterTariffStep_frame, rebuild_slots, startupLoads_slots, h]

theorem exec_indexLaw {c : Instr} {s t : State} (h : IndexLaw s) (e : exec c s = .next t) :
    IndexLaw t := by
  rw [indexLaw_iff] at h ⊢
  have empty : SlotsGood [] := ⟨by simp, by simp⟩
  cases c
  case powerOn levels =>
    cases e
    split
    · exact h
    · dsimp only
      split <;> simp [State.powerOn, empty]
  case powerLost =>
    cases e
    split
    · exact empty
    · exact h
  case startupAuditLoadDone calls incidents =>
    rw [exec_startupAuditLoadDone] at e
    refine onPower_induction (P := fun s => SlotsGood (s.inu.records.map (·.slot))) e h
      fun _ => ?_
    (repeat' split) <;> simp [h]
  all_goals
    cases e
    try dsimp only [onRequest, atLineTimer, atRatingPoint, atReportTimer]
    (repeat' split) <;> simp [h]

end Sys2Proof.Machine
end

section
/-! The laws of the lists, kept by every step (O6). -/

namespace Sys2Proof.Machine

/-- The intercept law is kept: the operations keep it of queue and flag. -/
theorem interceptLawKept : Clause.InterceptLawKept := fun _ _ h e =>
  step_keeps (P := InterceptLaw) h e (fun _ _ h => h)
    (fun _ h => by simpa [interceptLaw_iff] using h) fun _ _ _ => exec_interceptLaw

/-- The escrow law is kept: a coin is granted only where there is room, and none in STARTING. -/
theorem escrowLawKept : Clause.EscrowLawKept := fun _ _ h e =>
  step_keeps (P := EscrowLaw) h e (fun _ _ h => h)
    (fun _ h => by simpa [escrowLaw_iff, starting] using h) fun _ _ _ => exec_escrowLaw

/-- The index law is kept: a record is created in a free slot, or in that of the record it
replaces. -/
theorem indexLawKept : Clause.IndexLawKept := fun _ _ h e =>
  step_keeps (P := IndexLaw) h e (fun _ _ h => h) (fun _ h => by simpa [indexLaw_iff] using h)
    fun _ _ _ => exec_indexLaw

/-- Settles O6, law by law. -/
theorem listBoundsKept : Obligations.ListBoundsKept :=
  ⟨interceptLawKept, escrowLawKept, indexLawKept⟩

end Sys2Proof.Machine
end

section
/-! The slot law (R8, R35, R36, R37, R40): a slot is busy exactly while it waits, is in service or
is marked for abandoning (O7). -/

namespace Sys2Proof.Machine

@[simp] theorem Marks.get_set (m : Marks) (i j : Nat) (b : Bool) :
    (m.set i b).get j = if j = i ∧ i < 4 then b else m.get j := by
  rcases i with _ | _ | _ | _ | i <;> rcases j with _ | _ | _ | _ | j <;>
    simp [Marks.set, Marks.get]

/-- Slots, each in one place, that the busy marks are set for (R8, R35). -/
def PlacesAgree (places : List Nat) (busy : Marks) : Prop :=
  places.Nodup ∧ (∀ i ∈ places, i < 4) ∧ ∀ i, i < 4 → (busy.get i = true ↔ i ∈ places)

theorem PlacesAgree.perm {l k : List Nat} {busy : Marks} (h : PlacesAgree l busy) (p : l.Perm k) :
    PlacesAgree k busy :=
  ⟨p.nodup_iff.mp h.1, fun i mem => h.2.1 i (p.mem_iff.mpr mem),
    fun i lt => (h.2.2 i lt).trans p.mem_iff⟩

theorem PlacesAgree.freed {i : Nat} {l : List Nat} {busy : Marks} (h : PlacesAgree (i :: l) busy) :
    PlacesAgree l (busy.set i false) := by
  obtain ⟨nodup, below, marks⟩ := h
  obtain ⟨notMem, nodup⟩ := List.nodup_cons.mp nodup
  refine ⟨nodup, fun j mem => below j (.tail _ mem), fun j lt => ?_⟩
  by_cases eq : j = i
  · subst eq
    simp [lt, notMem]
  · simp [eq, marks j lt]

theorem PlacesAgree.used {i : Nat} {l : List Nat} {busy : Marks} (h : PlacesAgree l busy)
    (free : ¬ busy.get i = true) (lt : i < 4) : PlacesAgree (i :: l) (busy.set i true) := by
  obtain ⟨nodup, below, marks⟩ := h
  refine ⟨List.nodup_cons.mpr ⟨fun mem => free ((marks i lt).mpr mem), nodup⟩, fun j mem => ?_,
    fun j lt' => ?_⟩
  · rcases List.mem_cons.mp mem with rfl | mem
    · exact lt
    · exact below j mem
  · by_cases eq : j = i
    · simp [eq, lt]
    · simp [eq, marks j lt']

/-- The slots waiting, in service and marked for abandoning agree with the busy marks (R8, R35). -/
def SlotsAgree (queue : List Nat) (service : Option Nat) (abandoned : List Nat) (busy : Marks) :
    Prop :=
  PlacesAgree (queue ++ service.toList ++ abandoned) busy

theorem slotLaw_iff (s : State) :
    SlotLaw s ↔
      SlotsAgree s.rqu.queue (s.rqu.service.map (·.slot)) (s.rqu.abandon.map (·.slot))
        s.bpu.busy := Iff.rfl

section
variable {i : Nat} {queue abandoned : List Nat} {service : Option Nat} {busy : Marks}

theorem SlotsAgree.taken (h : SlotsAgree (i :: queue) none abandoned busy) :
    SlotsAgree queue (some i) abandoned busy := by
  refine PlacesAgree.perm h ?_
  simpa using (List.perm_middle (a := i) (l₁ := queue) (l₂ := abandoned)).symm

theorem SlotsAgree.completed (h : SlotsAgree queue (some i) abandoned busy) :
    SlotsAgree queue none abandoned (busy.set i false) := by
  have p : PlacesAgree (i :: (queue ++ abandoned)) busy :=
    h.perm (by simp)
  simpa [SlotsAgree] using p.freed

theorem SlotsAgree.unmarked (h : SlotsAgree queue service (i :: abandoned) busy) :
    SlotsAgree queue service abandoned (busy.set i false) :=
  PlacesAgree.freed (PlacesAgree.perm h List.perm_middle)

theorem SlotsAgree.posted (h : SlotsAgree queue service abandoned busy)
    (free : ¬ busy.get i = true) (lt : i < 4) :
    SlotsAgree (queue ++ [i]) service abandoned (busy.set i true) := by
  refine PlacesAgree.perm (PlacesAgree.used h free lt) ?_
  simp only [List.append_assoc, List.singleton_append]
  exact (List.perm_middle (a := i) (l₁ := queue) (l₂ := service.toList ++ abandoned)).symm

theorem SlotsAgree.reset (h : SlotsAgree queue service abandoned busy) :
    SlotsAgree [] service (abandoned ++ queue) busy := by
  refine PlacesAgree.perm h ?_
  simp only [List.append_assoc, List.nil_append]
  exact List.perm_append_comm.trans (by simp)

theorem SlotsAgree.none : SlotsAgree [] none [] ⟨false, false, false, false⟩ := by
  refine ⟨by simp, by simp, fun i lt => ?_⟩
  rcases i with _ | _ | _ | _ | i <;> simp [Marks.get]

end

@[simp] theorem Service.feed_slot (w : Word) (v : Service) : (v.feed w).slot = v.slot := by
  unfold Service.feed
  split <;> rfl

@[simp] theorem Service.readWord_slot (m : Memory) (a : Nat) (v : Service) :
    (v.readWord m a).slot = v.slot := by
  simp [Service.readWord]

@[simp] theorem Service.readAll_slot (m : Memory) (a : Nat) (v : Service) :
    (v.readAll m a).slot = v.slot := by
  unfold Service.readAll
  generalize 27 = n
  induction n with
  | zero => rfl
  | succ n ih => simp [Nat.repeat, ih]

@[simp] theorem foldl_serviceSlot {α : Type} (g : State → α → State) (l : List α) (s : State)
    (h : ∀ u a, (g u a).rqu.service.map (·.slot) = u.rqu.service.map (·.slot)) :
    (l.foldl g s).rqu.service.map (·.slot) = s.rqu.service.map (·.slot) := by
  induction l generalizing s with
  | nil => rfl
  | cons a l ih => rw [List.foldl_cons, ih, h]

@[simp] theorem answer_serviceSlot (c : ResultCode) (r1 : Word) (r2 : Word) (r3 : Word)
    (s : State) :
    (answer c r1 r2 r3 s).rqu.service.map (·.slot) = s.rqu.service.map (·.slot) := by
  unfold answer
  (repeat' split) <;> simp [*]

@[simp] theorem answer0_serviceSlot (c : ResultCode) (s : State) :
    (answer0 c s).rqu.service.map (·.slot) = s.rqu.service.map (·.slot) := by
  unfold answer0
  simp

@[simp] theorem holdRequest_serviceSlot (s : State) :
    (holdRequest s).rqu.service.map (·.slot) = s.rqu.service.map (·.slot) := by
  unfold holdRequest
  (repeat' split) <;> simp [*]

@[simp] theorem answerHeld_serviceSlot (k : Nat) (c : ResultCode) (r1 : Word) (r2 : Word)
    (r3 : Word) (s : State) :
    (answerHeld k c r1 r2 r3 s).rqu.service.map (·.slot) = s.rqu.service.map (·.slot) := by
  unfold answerHeld
  (repeat' split) <;> simp

@[simp] theorem stopCall_serviceSlot (s : State) :
    (stopCall s).rqu.service.map (·.slot) = s.rqu.service.map (·.slot) := by
  unfold stopCall
  simp

@[simp] theorem clearReport_serviceSlot (s : State) :
    (clearReport s).rqu.service.map (·.slot) = s.rqu.service.map (·.slot) := by
  unfold clearReport
  simp

@[simp] theorem setClockRequest_serviceSlot (ps : List Word) (s : State) :
    (setClockRequest ps s).rqu.service.map (·.slot) = s.rqu.service.map (·.slot) := by
  unfold setClockRequest
  dsimp only
  (repeat' split) <;> simp

@[simp] theorem acceptReport_serviceSlot (ask : Bool) (timed : Bool) (s : State) :
    (acceptReport ask timed s).rqu.service.map (·.slot) = s.rqu.service.map (·.slot) := by
  unfold acceptReport
  (repeat' split) <;> simp

@[simp] theorem lineFailure_serviceSlot (s : State) :
    (lineFailure s).rqu.service.map (·.slot) = s.rqu.service.map (·.slot) := by
  unfold lineFailure
  (repeat' split) <;> simp

@[simp] theorem yieldReport_serviceSlot (s : State) :
    (yieldReport s).rqu.service.map (·.slot) = s.rqu.service.map (·.slot) := by
  unfold yieldReport
  (repeat' split) <;> simp

@[simp] theorem failCheck_serviceSlot (k : Check) (b : BadItem) (s : State) :
    (failCheck k b s).rqu.service.map (·.slot) = s.rqu.service.map (·.slot) := by
  unfold failCheck
  (repeat' split) <;> simp

@[simp] theorem passCheck_serviceSlot (k : Check) (s : State) :
    (passCheck k s).rqu.service.map (·.slot) = s.rqu.service.map (·.slot) := by
  unfold passCheck
  (repeat' split) <;> simp

@[simp] theorem tariffCheckRequest_serviceSlot (x : List Word) (s : State) :
    (tariffCheckRequest x s).rqu.service.map (·.slot) = s.rqu.service.map (·.slot) := by
  unfold tariffCheckRequest
  (repeat' split) <;> simp [*]

@[simp] theorem emptyCashboxRequest_serviceSlot (x : List Word) (s : State) :
    (emptyCashboxRequest x s).rqu.service.map (·.slot) = s.rqu.service.map (·.slot) := by
  unfold emptyCashboxRequest
  (repeat' split) <;> simp

@[simp] theorem wrongCode_serviceSlot (s : State) :
    (wrongCode s).rqu.service.map (·.slot) = s.rqu.service.map (·.slot) := by
  unfold wrongCode
  dsimp only
  (repeat' split) <;> simp

@[simp] theorem serviceUnlockRequest_serviceSlot (ps : List Word) (s : State) :
    (serviceUnlockRequest ps s).rqu.service.map (·.slot) = s.rqu.service.map (·.slot) := by
  unfold serviceUnlockRequest
  (repeat' split) <;> simp

@[simp] theorem freezeRequest_serviceSlot (x : List Word) (s : State) :
    (freezeRequest x s).rqu.service.map (·.slot) = s.rqu.service.map (·.slot) := by
  unfold freezeRequest
  (repeat' split) <;> simp

@[simp] theorem serviceEndRequest_serviceSlot (x : List Word) (s : State) :
    (serviceEndRequest x s).rqu.service.map (·.slot) = s.rqu.service.map (·.slot) := by
  unfold serviceEndRequest
  (repeat' split) <;> simp

@[simp] theorem flushRequest_serviceSlot (x : List Word) (s : State) :
    (flushRequest x s).rqu.service.map (·.slot) = s.rqu.service.map (·.slot) := by
  unfold flushRequest
  (repeat' split) <;> simp

@[simp] theorem collectLogRequest_serviceSlot (ps : List Word) (s : State) :
    (collectLogRequest ps s).rqu.service.map (·.slot) = s.rqu.service.map (·.slot) := by
  unfold collectLogRequest
  dsimp only
  (repeat' split) <;> simp

@[simp] theorem readService_serviceSlot (s : State) :
    (readService s).rqu.service.map (·.slot) = s.rqu.service.map (·.slot) := by
  cases e : s.rqu.service <;> simp [readService, e]

@[simp] theorem readRest_serviceSlot (s : State) :
    (readRest s).rqu.service.map (·.slot) = s.rqu.service.map (·.slot) := by
  cases e : s.rqu.service <;> simp [readRest, e]

@[simp] theorem answerRead_serviceSlot (w : Word) (lanes : Lanes) (s : State) :
    (answerRead w lanes s).rqu.service.map (·.slot) = s.rqu.service.map (·.slot) := by
  unfold answerRead
  simp

@[simp] theorem substituteRead_serviceSlot (c : Cycle) (s : State) :
    (substituteRead c s).rqu.service.map (·.slot) = s.rqu.service.map (·.slot) := by
  unfold substituteRead
  (repeat' split) <;> simp

@[simp] theorem probeRequest_serviceSlot (ps : List Word) (s : State) :
    (probeRequest ps s).rqu.service.map (·.slot) = s.rqu.service.map (·.slot) := by
  unfold probeRequest
  dsimp only
  (repeat' split) <;> simp

@[simp] theorem reloadConfigRequest_serviceSlot (x : List Word) (s : State) :
    (reloadConfigRequest x s).rqu.service.map (·.slot) = s.rqu.service.map (·.slot) := by
  unfold reloadConfigRequest
  (repeat' split) <;> simp

@[simp] theorem reportFaultRequest_serviceSlot (ps : List Word) (s : State) :
    (reportFaultRequest ps s).rqu.service.map (·.slot) = s.rqu.service.map (·.slot) := by
  unfold reportFaultRequest
  (repeat' split) <;> simp

@[simp] theorem clearIncidentRequest_serviceSlot (ps : List Word) (s : State) :
    (clearIncidentRequest ps s).rqu.service.map (·.slot) = s.rqu.service.map (·.slot) := by
  unfold clearIncidentRequest
  (repeat' split) <;> simp

@[simp] theorem clearAttributesRequest_serviceSlot (x : List Word) (s : State) :
    (clearAttributesRequest x s).rqu.service.map (·.slot) = s.rqu.service.map (·.slot) := by
  unfold clearAttributesRequest
  (repeat' split) <;> simp

@[simp] theorem endCall_serviceSlot (cause : EndCause) (s : State) :
    (endCall cause s).rqu.service.map (·.slot) = s.rqu.service.map (·.slot) := by
  unfold endCall
  (repeat' split) <;> simp

@[simp] theorem offHookInReport_serviceSlot (s : State) :
    (offHookInReport s).rqu.service.map (·.slot) = s.rqu.service.map (·.slot) := by
  unfold offHookInReport
  dsimp only
  (repeat' split) <;> simp

@[simp] theorem takeOffHook_serviceSlot (s : State) :
    (takeOffHook s).rqu.service.map (·.slot) = s.rqu.service.map (·.slot) := by
  unfold takeOffHook
  dsimp only
  (repeat' split) <;> simp

@[simp] theorem takeOnHook_serviceSlot (s : State) :
    (takeOnHook s).rqu.service.map (·.slot) = s.rqu.service.map (·.slot) := by
  unfold takeOnHook
  dsimp only
  (repeat' split) <;> simp

@[simp] theorem endReportByLine_serviceSlot (s : State) :
    (endReportByLine s).rqu.service.map (·.slot) = s.rqu.service.map (·.slot) := by
  unfold endReportByLine
  simp

@[simp] theorem answerCall_serviceSlot (s : State) :
    (answerCall s).rqu.service.map (·.slot) = s.rqu.service.map (·.slot) := by
  unfold answerCall
  simp

@[simp] theorem awaitAnswer_serviceSlot (report : Bool) (s : State) :
    (awaitAnswer report s).rqu.service.map (·.slot) = s.rqu.service.map (·.slot) := by
  unfold awaitAnswer
  dsimp only
  (repeat' split) <;> simp

@[simp] theorem sendingEnds_serviceSlot (s : State) :
    (sendingEnds s).rqu.service.map (·.slot) = s.rqu.service.map (·.slot) := by
  unfold sendingEnds
  (repeat' split) <;> simp

@[simp] theorem takeReversal_serviceSlot (s : State) :
    (takeReversal s).rqu.service.map (·.slot) = s.rqu.service.map (·.slot) := by
  unfold takeReversal
  dsimp only
  (repeat' split) <;> simp

@[simp] theorem takeReversion_serviceSlot (s : State) :
    (takeReversion s).rqu.service.map (·.slot) = s.rqu.service.map (·.slot) := by
  unfold takeReversion
  dsimp only
  (repeat' split) <;> simp

@[simp] theorem yieldToDial_serviceSlot (s : State) :
    (yieldToDial s).rqu.service.map (·.slot) = s.rqu.service.map (·.slot) := by
  unfold yieldToDial
  dsimp only
  (repeat' split) <;> simp

@[simp] theorem sendDigitsRequest_serviceSlot (ps : List Word) (s : State) :
    (sendDigitsRequest ps s).rqu.service.map (·.slot) = s.rqu.service.map (·.slot) := by
  unfold sendDigitsRequest
  dsimp only
  (repeat' split) <;> simp

@[simp] theorem followOnRequest_serviceSlot (x : List Word) (s : State) :
    (followOnRequest x s).rqu.service.map (·.slot) = s.rqu.service.map (·.slot) := by
  unfold followOnRequest
  dsimp only
  (repeat' split) <;> simp

@[simp] theorem releaseRequest_serviceSlot (ps : List Word) (s : State) :
    (releaseRequest ps s).rqu.service.map (·.slot) = s.rqu.service.map (·.slot) := by
  unfold releaseRequest
  (repeat' split) <;> simp

@[simp] theorem cutOff_serviceSlot (cause : EndCause) (c : Ctx) (s : State) :
    (cutOff cause c s).rqu.service.map (·.slot) = s.rqu.service.map (·.slot) := by
  unfold cutOff
  simp

@[simp] theorem takeGraceDeadline_serviceSlot (s : State) :
    (takeGraceDeadline s).rqu.service.map (·.slot) = s.rqu.service.map (·.slot) := by
  unfold takeGraceDeadline
  (repeat' split) <;> simp

@[simp] theorem takeMaxDurationEnd_serviceSlot (s : State) :
    (takeMaxDurationEnd s).rqu.service.map (·.slot) = s.rqu.service.map (·.slot) := by
  unfold takeMaxDurationEnd
  (repeat' split) <;> simp

@[simp] theorem failAck_serviceSlot (s : State) :
    (failAck s).rqu.service.map (·.slot) = s.rqu.service.map (·.slot) := by
  unfold failAck
  simp

@[simp] theorem toneAtNone_serviceSlot (c : ReportCall) (t : Tone) (s : State) :
    (toneAtNone c t s).rqu.service.map (·.slot) = s.rqu.service.map (·.slot) := by
  unfold toneAtNone
  (repeat' split) <;> simp

@[simp] theorem toneAfterA_serviceSlot (c : ReportCall) (t : Tone) (s : State) :
    (toneAfterA c t s).rqu.service.map (·.slot) = s.rqu.service.map (·.slot) := by
  unfold toneAfterA
  (repeat' split) <;> simp

@[simp] theorem takeTone_serviceSlot (t : Tone) (s : State) :
    (takeTone t s).rqu.service.map (·.slot) = s.rqu.service.map (·.slot) := by
  unfold takeTone
  (repeat' split) <;> simp

@[simp] theorem testReportRequest_serviceSlot (x : List Word) (s : State) :
    (testReportRequest x s).rqu.service.map (·.slot) = s.rqu.service.map (·.slot) := by
  unfold testReportRequest
  (repeat' split) <;> simp

@[simp] theorem takeHeld_serviceSlot (h : Held) (s : State) :
    (takeHeld h s).rqu.service.map (·.slot) = s.rqu.service.map (·.slot) := by
  unfold takeHeld
  (repeat' split) <;> simp

@[simp] theorem replayHeld_serviceSlot (s : State) :
    (replayHeld s).rqu.service.map (·.slot) = s.rqu.service.map (·.slot) := by
  unfold replayHeld
  simp

@[simp] theorem resume_serviceSlot (s : State) :
    (resume s).rqu.service.map (·.slot) = s.rqu.service.map (·.slot) := by
  unfold resume
  simp

@[simp] theorem leaveSaved_serviceSlot (s : State) :
    (leaveSaved s).rqu.service.map (·.slot) = s.rqu.service.map (·.slot) := by
  unfold leaveSaved
  (repeat' split) <;> simp

@[simp] theorem enterSaved_serviceSlot (s : State) :
    (enterSaved s).rqu.service.map (·.slot) = s.rqu.service.map (·.slot) := by
  unfold enterSaved
  dsimp only
  (repeat' split) <;> simp

@[simp] theorem endStarting_serviceSlot (s : State) :
    (endStarting s).rqu.service.map (·.slot) = s.rqu.service.map (·.slot) := by
  unfold endStarting
  simp

@[simp] theorem afterInvalid_serviceSlot (u : Unsave) (s : State) :
    (afterInvalid u s).rqu.service.map (·.slot) = s.rqu.service.map (·.slot) := by
  unfold afterInvalid
  (repeat' split) <;> simp

@[simp] theorem writeAgain_serviceSlot (s : State) :
    (writeAgain s).rqu.service.map (·.slot) = s.rqu.service.map (·.slot) := by
  unfold writeAgain
  dsimp only
  (repeat' split) <;> simp

@[simp] theorem judgeContext_serviceSlot (s : State) :
    (judgeContext s).rqu.service.map (·.slot) = s.rqu.service.map (·.slot) := by
  unfold judgeContext
  dsimp only
  (repeat' split) <;> simp

@[simp] theorem step5WriteBack_serviceSlot (s : State) :
    (step5WriteBack s).rqu.service.map (·.slot) = s.rqu.service.map (·.slot) := by
  unfold step5WriteBack
  (repeat' split) <;> simp

@[simp] theorem countService_serviceSlot (n : Nat) (s : State) :
    (countService n s).rqu.service.map (·.slot) = s.rqu.service.map (·.slot) := by
  cases e : s.rqu.service <;> simp [countService, e]
  split <;> rfl

@[simp] theorem grantPfu_serviceSlot (s : State) :
    (grantPfu s).rqu.service.map (·.slot) = s.rqu.service.map (·.slot) := by
  unfold grantPfu
  (repeat' split) <;> simp

@[simp] theorem readService_queue (s : State) : (readService s).rqu.queue = s.rqu.queue := rfl

@[simp] theorem readRest_queue (s : State) : (readRest s).rqu.queue = s.rqu.queue := rfl

@[simp] theorem countService_queue (n : Nat) (s : State) :
    (countService n s).rqu.queue = s.rqu.queue := rfl

@[simp] theorem readHead_slotsAgree {abandoned : List Nat} {busy : Marks} {s : State}
    (h : SlotsAgree s.rqu.queue (s.rqu.service.map (·.slot)) abandoned busy) :
    SlotsAgree (readHead s).rqu.queue ((readHead s).rqu.service.map (·.slot)) abandoned busy := by
  unfold readHead
  split
  · rename_i i rest queue service
    dsimp only
    rw [queue, service] at h
    split
    · simpa [takeIndex] using h.taken
    · simpa [queue, service] using h
  · exact h

@[simp] theorem headComes_slotsAgree {abandoned : List Nat} {busy : Marks} {s : State}
    (h : SlotsAgree s.rqu.queue (s.rqu.service.map (·.slot)) abandoned busy) :
    SlotsAgree (headComes s).rqu.queue ((headComes s).rqu.service.map (·.slot)) abandoned busy := by
  unfold headComes
  dsimp only
  (repeat' split) <;> simp [h]

@[simp] theorem judgeHead_slotsAgree {abandoned : List Nat} {busy : Marks} {s : State}
    (h : SlotsAgree s.rqu.queue (s.rqu.service.map (·.slot)) abandoned busy) :
    SlotsAgree (judgeHead s).rqu.queue ((judgeHead s).rqu.service.map (·.slot)) abandoned busy := by
  unfold judgeHead
  dsimp only
  (repeat' split) <;> simp [h]

@[simp] theorem postSlot_slotsAgree (i : Nat) (lt : i < 4) {abandoned : List Nat} {s : State}
    (h : SlotsAgree s.rqu.queue (s.rqu.service.map (·.slot)) abandoned s.bpu.busy) :
    SlotsAgree (postSlot i s).rqu.queue ((postSlot i s).rqu.service.map (·.slot)) abandoned
      (postSlot i s).bpu.busy := by
  unfold postSlot
  split
  · exact h
  · have posted := h.posted (by assumption) lt
    dsimp only
    split <;> simp [posted]

@[simp] theorem afterWrite_slotsAgree (c : Cycle) {abandoned : List Nat} {s : State}
    (h : SlotsAgree s.rqu.queue (s.rqu.service.map (·.slot)) abandoned s.bpu.busy) :
    SlotsAgree (afterWrite c s).rqu.queue ((afterWrite c s).rqu.service.map (·.slot)) abandoned
      (afterWrite c s).bpu.busy := by
  unfold afterWrite
  dsimp only
  (repeat' split)
  · exact h
  · exact postSlot_slotsAgree _ (by omega) h
  · exact h
  · simp [h]

@[simp] theorem controllerAccess_slotsAgree (c : Cycle) {abandoned : List Nat} {s : State}
    (h : SlotsAgree s.rqu.queue (s.rqu.service.map (·.slot)) abandoned s.bpu.busy) :
    SlotsAgree (controllerAccess c s).rqu.queue
      ((controllerAccess c s).rqu.service.map (·.slot)) abandoned
      (controllerAccess c s).bpu.busy := by
  unfold controllerAccess
  dsimp only
  (repeat' split) <;> simp [h]

@[simp] theorem portWord_slotsAgree (act : Action) (c : Cycle) {abandoned : List Nat} {s : State}
    (h : SlotsAgree s.rqu.queue (s.rqu.service.map (·.slot)) abandoned s.bpu.busy) :
    SlotsAgree (portWord act c s).rqu.queue ((portWord act c s).rqu.service.map (·.slot))
      abandoned (portWord act c s).bpu.busy := by
  unfold portWord
  (repeat' split) <;> simp [h]

@[simp] theorem classWord_slotsAgree (c : Cycle) {abandoned : List Nat} {s : State}
    (h : SlotsAgree s.rqu.queue (s.rqu.service.map (·.slot)) abandoned s.bpu.busy) :
    SlotsAgree (classWord c s).rqu.queue ((classWord c s).rqu.service.map (·.slot)) abandoned
      (classWord c s).bpu.busy := by
  unfold classWord
  (repeat' split) <;> simp [h]

@[simp] theorem busWord_slotsAgree (c : Cycle) {abandoned : List Nat} {s : State}
    (h : SlotsAgree s.rqu.queue (s.rqu.service.map (·.slot)) abandoned s.bpu.busy) :
    SlotsAgree (busWord c s).rqu.queue ((busWord c s).rqu.service.map (·.slot)) abandoned
      (busWord c s).bpu.busy := by
  unfold busWord
  (repeat' split) <;> simp [h]

@[simp] theorem reclassCycle_slotsAgree {abandoned : List Nat} {s : State}
    (h : SlotsAgree s.rqu.queue (s.rqu.service.map (·.slot)) abandoned s.bpu.busy) :
    SlotsAgree (reclassCycle s).rqu.queue ((reclassCycle s).rqu.service.map (·.slot)) abandoned
      (reclassCycle s).bpu.busy := by
  unfold reclassCycle
  (repeat' split) <;> simp [h]

@[simp] theorem statusWrite_slotsAgree (offset : Nat) (data : Word) (lanes : Lanes) {abandoned : List Nat}
    {s : State}
    (h : SlotsAgree s.rqu.queue (s.rqu.service.map (·.slot)) abandoned s.bpu.busy) :
    SlotsAgree (statusWrite offset data lanes s).rqu.queue
      ((statusWrite offset data lanes s).rqu.service.map (·.slot)) abandoned
      (statusWrite offset data lanes s).bpu.busy := by
  unfold statusWrite
  (repeat' split) <;> simp [h]

@[simp] theorem installConfig_slotsAgree (table : List Window) (p : Params)
    (tuples : List (Nat × Word)) {abandoned : List Nat} {s : State}
    (h : SlotsAgree s.rqu.queue (s.rqu.service.map (·.slot)) abandoned s.bpu.busy) :
    SlotsAgree (installConfig table p tuples s).rqu.queue
      ((installConfig table p tuples s).rqu.service.map (·.slot)) abandoned
      (installConfig table p tuples s).bpu.busy := by
  unfold installConfig
  simp [h]

@[simp] theorem enterSaving_slotsAgree {abandoned : List Nat} {s : State}
    (h : SlotsAgree s.rqu.queue (s.rqu.service.map (·.slot)) abandoned s.bpu.busy) :
    SlotsAgree (enterSaving s).rqu.queue ((enterSaving s).rqu.service.map (·.slot)) abandoned
      (enterSaving s).bpu.busy := by
  unfold enterSaving
  dsimp only
  (repeat' split) <;> simp [h]

@[simp] theorem endService_slotsAgree {abandoned : List Nat} {s : State}
    (h : SlotsAgree s.rqu.queue (s.rqu.service.map (·.slot)) abandoned s.bpu.busy) :
    SlotsAgree (endService s).rqu.queue ((endService s).rqu.service.map (·.slot)) abandoned
      (endService s).bpu.busy := by
  unfold endService
  split
  · rename_i v e
    simp only [e, Option.map_some] at h
    simpa [slotCleared] using h.completed
  · exact h

@[simp] theorem endAbandon_slotsAgree {s : State}
    (h : SlotsAgree s.rqu.queue (s.rqu.service.map (·.slot)) (s.rqu.abandon.map (·.slot))
      s.bpu.busy) :
    SlotsAgree (endAbandon s).rqu.queue ((endAbandon s).rqu.service.map (·.slot))
      ((endAbandon s).rqu.abandon.map (·.slot)) (endAbandon s).bpu.busy := by
  unfold endAbandon
  split
  · rename_i b rest e
    simp only [e, List.map_cons] at h
    simpa [slotCleared] using h.unmarked
  · exact h

@[simp] theorem writeCompletion_slotsAgree {abandoned : List Nat} {s : State}
    (h : SlotsAgree s.rqu.queue (s.rqu.service.map (·.slot)) abandoned s.bpu.busy) :
    SlotsAgree (writeCompletion s).rqu.queue ((writeCompletion s).rqu.service.map (·.slot))
      abandoned (writeCompletion s).bpu.busy := by
  unfold writeCompletion
  (repeat' split) <;> simp [h]

@[simp] theorem writeAbandon_slotsAgree {s : State}
    (h : SlotsAgree s.rqu.queue (s.rqu.service.map (·.slot)) (s.rqu.abandon.map (·.slot))
      s.bpu.busy) :
    SlotsAgree (writeAbandon s).rqu.queue ((writeAbandon s).rqu.service.map (·.slot))
      ((writeAbandon s).rqu.abandon.map (·.slot)) (writeAbandon s).bpu.busy := by
  unfold writeAbandon
  split
  · simp [h]
  · rename_i e
    simp only [e, List.map_cons] at h
    simpa using h
  · exact h

@[simp] theorem readSlotWord_slotsAgree {abandoned : List Nat} {busy : Marks} {s : State}
    (h : SlotsAgree s.rqu.queue (s.rqu.service.map (·.slot)) abandoned busy) :
    SlotsAgree (readSlotWord s).rqu.queue ((readSlotWord s).rqu.service.map (·.slot)) abandoned
      busy := by
  unfold readSlotWord
  split
  · rename_i i rest service queue
    rw [queue, service] at h
    simpa [takeIndex] using h.taken
  · simp [h]

@[simp] theorem grantController_slotsAgree {abandoned : List Nat} {s : State}
    (h : SlotsAgree s.rqu.queue (s.rqu.service.map (·.slot)) abandoned s.bpu.busy) :
    SlotsAgree (grantController s).rqu.queue ((grantController s).rqu.service.map (·.slot))
      abandoned (grantController s).bpu.busy := by
  unfold grantController
  (repeat' split) <;> simp [h]

@[simp] theorem serveWord_slotsAgree {abandoned : List Nat} {s : State}
    (h : SlotsAgree s.rqu.queue (s.rqu.service.map (·.slot)) abandoned s.bpu.busy) :
    SlotsAgree (serveWord s).rqu.queue ((serveWord s).rqu.service.map (·.slot)) abandoned
      (serveWord s).bpu.busy := by
  unfold serveWord
  (repeat' split) <;> simp [h]

@[simp] theorem grantRqu_slotsAgree {s : State}
    (h : SlotsAgree s.rqu.queue (s.rqu.service.map (·.slot)) (s.rqu.abandon.map (·.slot))
      s.bpu.busy) :
    SlotsAgree (grantRqu s).rqu.queue ((grantRqu s).rqu.service.map (·.slot))
      ((grantRqu s).rqu.abandon.map (·.slot)) (grantRqu s).bpu.busy := by
  unfold grantRqu
  (repeat' split) <;> simp [h]

@[simp] theorem grant_slotsAgree (p : Party) {s : State}
    (h : SlotsAgree s.rqu.queue (s.rqu.service.map (·.slot)) (s.rqu.abandon.map (·.slot))
      s.bpu.busy) :
    SlotsAgree (grant p s).rqu.queue ((grant p s).rqu.service.map (·.slot))
      ((grant p s).rqu.abandon.map (·.slot)) (grant p s).bpu.busy := by
  unfold grant
  (repeat' split) <;> simp [h]

@[simp] theorem dialOpened_serviceSlot (number : List Nat) (cls : Nat) (emergency : Bool)
    (row : Option Row) (o : Owner) (s : State) :
    (dialOpened number cls emergency row o s).rqu.service.map (·.slot) =
      s.rqu.service.map (·.slot) := by
  unfold dialOpened
  simp

@[simp] theorem acceptDial_serviceSlot (number : List Nat) (cls : Nat) (emergency : Bool)
    (row : Option Row) (s : State) :
    (acceptDial number cls emergency row s).rqu.service.map (·.slot) =
      s.rqu.service.map (·.slot) := by
  rw [acceptDial_eq]
  simp only [dialOpened_serviceSlot, openCall_frame, yieldToDial_serviceSlot]

@[simp] theorem judgeClass_serviceSlot (number : List Nat) (cls : Nat) (row : Option Row)
    (s : State) :
    (judgeClass number cls row s).rqu.service.map (·.slot) = s.rqu.service.map (·.slot) := by
  unfold judgeClass
  (repeat' split) <;> simp

@[simp] theorem dialRequest_serviceSlot (ps : List Word) (s : State) :
    (dialRequest ps s).rqu.service.map (·.slot) = s.rqu.service.map (·.slot) := by
  unfold dialRequest
  (repeat' split) <;> simp

theorem exec_slotLaw {c : Instr} {s t : State} (h : SlotLaw s) (e : exec c s = .next t) :
    SlotLaw t := by
  rw [slotLaw_iff] at h ⊢
  cases c
  case powerOn levels =>
    cases e
    split
    · exact h
    · dsimp only
      split <;> simp [State.powerOn, SlotsAgree.none]
  case powerLost =>
    cases e
    split
    · exact SlotsAgree.none
    · exact h
  case controllerReset =>
    cases e
    split
    · have reset := h.reset
      dsimp only
      split <;> simpa [Function.comp_def] using reset
    · exact h
  case startupAuditLoadDone calls incidents =>
    rw [exec_startupAuditLoadDone] at e
    refine onPower_induction (P := SlotLaw) e h fun _ => ?_
    rw [slotLaw_iff]
    (repeat' split) <;> simp [h]
  all_goals
    cases e
    try dsimp only [onRequest, atLineTimer, atRatingPoint, atReportTimer]
    (repeat' split) <;> simp [h]

/-- Settles O7: a slot moves from place to place, and its busy mark is set and cleared with its
coming and
its going. -/
theorem slotLawKept : Obligations.SlotLawKept := fun _ _ h e =>
  step_keeps (P := SlotLaw) h e (fun _ _ h => h) (fun _ h => by simpa [slotLaw_iff] using h)
    fun _ _ _ => exec_slotLaw

end Sys2Proof.Machine
end

section
/-! Controller words on a ready bus: how a word is classed, and what a granted read is answered
with (R2 to R6, R12; O12). -/

namespace Sys2Proof.Machine

/-! ### Classing (R2 to R5, R12) -/

section
variable {s : State} {a : Nat} {w : Window} {write : Bool}

theorem memKind_isSome_of_judged (h : JudgedByWindow s a) : (memKind a).isSome = true := by
  rcases h with h | ⟨h, _⟩ <;> simp [h]

/-- In a window the window judges, where the power state leaves the word to it. -/
theorem classify_of_window (h : JudgedByWindow s a) (e : windowAt s a = some w) :
    classify write a s = classInWindow write a w s := by
  unfold windowAt at e
  rcases h with h | ⟨h, running⟩ <;> simp [classify, running, Machine.running, *]

theorem classify_outside (h : JudgedByWindow s a) (e : windowAt s a = none) :
    classify write a s = .pass := by
  unfold windowAt at e
  rcases h with h | ⟨h, running⟩ <;> simp [classify, running, Machine.running, *]

theorem classify_undecoded (h : memKind a = none) : classify write a s = .pass := by
  simp [classify, h]

/-- NV is closed while the power state is not RUNNING (R3). -/
theorem classify_save (h : memKind a = some .nv) (p : s.pfu.power ≠ .running) :
    classify write a s = if write then .block .saveRefused else .pattern := by
  simp [classify, h, running, p]

theorem classify_writeBlocked {cause : Cause} (h : WriteBlocked s a cause) :
    classify true a s = .block cause := by
  rcases h with ⟨nv, p, rfl⟩ | ⟨judged, w, e, h⟩
  · exact classify_save nv p
  · rw [classify_of_window judged e]
    rcases h with ⟨k, rfl⟩ | ⟨k, h, rfl⟩ | ⟨k, h, rfl⟩ | ⟨k, h, rfl⟩ | ⟨k, lt, busy, rfl⟩
    · rcases k with k | k | k | k | k <;> simp [classInWindow, k]
    · rcases h with h | h <;> simp [classInWindow, k, h]
    · simp [classInWindow, k, h]
    · simp [classInWindow, k, Nat.not_le.mpr h]
    · simp [classInWindow, k, lt, busy]

end

/-! ### A word arrives on a ready bus (R1, R2, R6) -/

/-- A cycle or burst begins: the answer of the word before is gone, and with its first word the
sample. -/
def beginRead (first : Bool) (s : State) : State :=
  { s with
    bpu.answer := none
    bpu.sample := if first then none else s.bpu.sample }

@[simp] theorem classify_beginRead (write : Bool) (a : Nat) (first : Bool) (s : State) :
    classify write a (beginRead first s) = classify write a s := rfl

theorem busWord_ready {s : State} (h : BusReady s) (c : Cycle) : busWord c s = classWord c s := by
  obtain ⟨_, table, cycle⟩ := h
  simp [busWord, cycle, Option.isNone_iff_eq_none, Option.isSome_iff_ne_none.mp table]

theorem exec_controllerRead_ready {s : State} {addr : BitVec 20} (h : BusReady s)
    (even : addr.toNat % 2 = 0) (lanes : Lanes) (first : Bool) :
    exec (.controllerRead addr lanes first) s =
      .next (classWord ⟨false, addr.toNat, 0, lanes, none⟩ (beginRead first s)) := by
  have ready : BusReady (beginRead first s) := h
  rw [← busWord_ready ready]
  obtain ⟨powered, _, cycle⟩ := h
  simp [exec, execControllerRead, onPower, powered, cycle, wordAddr, even, beginRead]

theorem exec_controllerWrite_ready {s : State} {addr : BitVec 20} (h : BusReady s)
    (even : addr.toNat % 2 = 0) (data : Word) (lanes : Lanes) :
    exec (.controllerWrite addr data lanes) s =
      .next (classWord ⟨true, addr.toNat, data, lanes, none⟩ s) := by
  rw [← busWord_ready h]
  simp [exec, execControllerWrite, onPower, h.1, wordAddr, even, writeCycle]

theorem classWord_pass {s : State} {c : Cycle} (h : classify c.write c.addr s = .pass) :
    classWord c s = portWord .pass c s := by
  simp [classWord, h]

theorem classWord_pattern {s : State} {c : Cycle} (h : classify c.write c.addr s = .pattern) :
    classWord c s = { s with bpu.answer := some ⟨0x5AC3, .both⟩ } := by
  simp [classWord, h]

theorem classWord_block {s : State} {c : Cycle} {cause : Cause}
    (h : classify c.write c.addr s = .block cause) : classWord c s = blockWrite cause c s := by
  simp [classWord, h]

theorem classWord_substitute {s : State} {c : Cycle}
    (h : classify c.write c.addr s = .substitute) :
    classWord c s = if c.write then commandWord c s else substituteRead c s := by
  simp [classWord, h]

theorem classWord_redirect {s : State} {c : Cycle} {j : Nat}
    (h : classify c.write c.addr s = .redirect j) : classWord c s = portWord (.redirect j) c s := by
  simp [classWord, h]

/-- A granted read of a decoded word is answered from memory (R2, R6). -/
theorem portWord_read {s : State} {act : Action} {c : Cycle} (granted : arrivesGranted s = true)
    (read : c.write = false) (decoded : (memKind (routeOf c.addr act s)).isSome = true) :
    portWord act c s =
      { s with
        bpu.answer :=
          some ⟨s.mem.word (routeOf c.addr act s) &&& laneMask c.lanes, c.lanes⟩ } := by
  simp [portWord, granted, controllerAccess, read, decoded, answerRead]

@[simp] theorem routeOf_pass (a : Nat) (s : State) : routeOf a .pass s = a := rfl

theorem read_passes {s : State} {addr : BitVec 20} (h : BusReady s)
    (granted : arrivesGranted s = true) (even : addr.toNat % 2 = 0)
    (decoded : (memKind addr.toNat).isSome = true) (pass : classify false addr.toNat s = .pass)
    (lanes : Lanes) (first : Bool) :
    exec (.controllerRead addr lanes first) s =
      .next
        { s with
          bpu.answer := some ⟨s.mem.word addr.toNat &&& laneMask lanes, lanes⟩
          bpu.sample := if first then none else s.bpu.sample } := by
  rw [exec_controllerRead_ready h even, classWord_pass (by simpa using pass),
    portWord_read (s := beginRead first s) granted rfl (by simpa using decoded)]
  rfl

/-! ### O12 -/

theorem classInWindow_log_read {w : Window} {log : LogId} (kind : w.kind = logWindow log) (a : Nat)
    (s : State) : classInWindow false a w s = classLogRead log (a - w.base) s := by
  cases log <;> simp_all [classInWindow, logWindow]

theorem routeOf_redirect {s : State} {a : Nat} {w : Window} {log : LogId} (e : windowAt s a = some w)
    (kind : w.kind = logWindow log) (j : Nat) :
    routeOf a (.redirect j) s =
      baseOf .spare s + 0x40 + 0x40 * j + (a - w.base) % slotSize log := by
  unfold windowAt at e
  cases log <;> simp_all [routeOf, logWindow]

theorem readReachesMemory : Clause.ReadReachesMemory := by
  intro s addr lanes first a answered ready granted even judged
  have decoded := memKind_isSome_of_judged judged
  have passes (h : classify false a s = .pass) :
      exec (.controllerRead addr lanes first) s = .next (answered (s.mem.word a)) :=
    read_passes ready granted even decoded h lanes first
  refine ⟨fun kinds => passes ?_, ?_⟩
  · cases e : windowAt s a with
    | none => exact classify_outside judged e
    | some w =>
      rw [classify_of_window judged e]
      rcases kinds w e with k | k | k | ⟨service, k | k | k⟩ <;> simp [classInWindow, *]
  intro w log e kind k
  have judgedLog : classify false a s = classLogRead log (a - w.base) s := by
    rw [classify_of_window judged e, classInWindow_log_read kind]
  refine ⟨fun h => passes ?_, ?_⟩
  · rw [judgedLog, classLogRead]
    rcases h with h | h
    · simp [Nat.not_lt.mpr h, k] 
    · simp [k, h]
  · intro j lt spare b decoded'
    have redirect : classify false a s = .redirect j := by
      rw [judgedLog, classLogRead]
      simp [k, lt, spare]
    rw [exec_controllerRead_ready ready even, classWord_redirect (by simpa using redirect),
      portWord_read (s := beginRead first s) granted rfl]
    · rw [routeOf_redirect (s := beginRead first s) e kind]
      rfl
    · rw [routeOf_redirect (s := beginRead first s) e kind]
      exact decoded'

theorem hiddenReadPattern : Clause.HiddenReadPattern := by
  intro s addr lanes first ready even hidden
  have pattern : classify false addr.toNat s = .pattern := by
    rcases hidden with ⟨nv, p⟩ | ⟨judged, mode, w, e, kind⟩
    · exact classify_save nv p
    · rw [classify_of_window judged e]
      rcases kind with k | k | k <;> simp [classInWindow, *]
  rw [exec_controllerRead_ready ready even, classWord_pattern (by simpa using pattern)]
  rfl

/-- Settles O12: a word is read where the classing of its window routes it. -/
theorem readsPassedOrHidden : Obligations.ReadsPassedOrHidden :=
  ⟨readReachesMemory, hiddenReadPattern⟩

end Sys2Proof.Machine
end

section
/-! Substituted reads: the words of the status block and of the tally area, each in its place (R6,
R9, R11, R43, R46; O13). -/

namespace Sys2Proof.Machine

@[simp] theorem wordOf_toNat (n : Nat) : (wordOf n).toNat = n % 65536 := by simp [wordOf]

theorem bytePair_toNat (a b : Nat) : (bytePair a b).toNat = a % 256 * 256 + b % 256 := by
  rw [bytePair, wordOf_toNat]
  omega

/-- The status block, word by word up to the oldest intercept (3.6). -/
theorem statusWords_eq (s : State) :
    statusWords s =
      [s.rqu.flags.setWidth 16, s.rqu.mask.setWidth 16,
        wordOf (s.bpu.intercepts.length % 16 + bitIf s.bpu.overflow 15),
        terminalFlags s, wordOf s.lnu.state.code, bytePair s.acu.mode.code s.pfu.power.code,
        wordOf ((shownCredit s).1 / 65536), wordOf (shownCredit s).1,
        wordOf ((shownCredit s).2.1 / 65536), wordOf (shownCredit s).2.1,
        wordOf ((shownCredit s).2.2 / 65536), wordOf (shownCredit s).2.2,
        wordOf (escrowValue s / 65536), wordOf (escrowValue s),
        bytePair s.cnu.escrow.length s.cnu.chute.length, classAndBand s,
        wordOf (intervalLeft s), wordOf (graceLeft s), wordOf (uncollected s),
        wordOf (s.adu.nextCall / 65536), wordOf s.adu.nextCall,
        wordOf (s.inu.records.countP fun r => r.state = .pending), s.inu.latches.setWidth 16,
        (s.inu.latches >>> 16).setWidth 16, (stampNow s).w0, (stampNow s).w1, (stampNow s).w2,
        wordOf s.cfl.skip,
        match s.cfl.fault with | some (r, i) => bytePair r.code i | none => 0] ++
      oldestIntercept s := by
  unfold statusWords words32 Stamp.words
  rfl

/-- Ten flag bits in a word. -/
def tenFlags (f : Fin 10 → Bool) : Word :=
  wordOf
    (bitIf (f 0) 0 + bitIf (f 1) 1 + bitIf (f 2) 2 + bitIf (f 3) 3 + bitIf (f 4) 4 + bitIf (f 5) 5 +
     bitIf (f 6) 6 + bitIf (f 7) 7 + bitIf (f 8) 8 + bitIf (f 9) 9)

theorem tenFlags_bits :
    ∀ f : Fin 10 → Bool, (∀ i : Fin 10, (tenFlags f).getLsbD i = f i) ∧ (tenFlags f).toNat < 1024 := by
  decide +kernel

/-- The flags of the status block, bit by bit (3.6, 06h). -/
def statusFlags (s : State) : Fin 10 → Bool :=
  ![coinsBarred s, paidBarred s, outOfOrder s, starting s, s.cfl.fault.isSome, s.tru.unsettled,
    s.tru.valid, s.adu.suspect, lowCredit s, s.tru.clock.isSome]

theorem terminalFlags_eq (s : State) : terminalFlags s = tenFlags (statusFlags s) := rfl

/-- A 32-bit value is that of its two words (R45). -/
theorem words32_value {v : Nat} (h : v < 0x100000000) :
    (wordOf (v / 65536)).toNat * 65536 + (wordOf v).toNat = v := by
  simp only [wordOf_toNat]
  omega

/-- A byte pair of two bytes shows them (R45). -/
theorem bytePair_value {a b : Nat} (ha : a < 256) (hb : b < 256) :
    (bytePair a b).toNat = a * 256 + b := by
  rw [bytePair_toNat]
  omega

theorem LineState.code_lt (l : LineState) : l.code < 256 := by cases l <;> decide

theorem AccessMode.code_lt (m : AccessMode) : m.code < 256 := by cases m <;> decide

theorem PowerState.code_lt (p : PowerState) : p.code < 256 := by cases p <;> decide

theorem WalkReason.code_lt (r : WalkReason) : r.code < 256 := by cases r <;> decide

theorem oldestIntercept_length (s : State) : (oldestIntercept s).length = 7 := by
  unfold oldestIntercept interceptWords words32 absent32
  (repeat' split) <;> rfl

theorem statusBlockLayout : Clause.StatusBlockLayout := by
  intro s w shows
  obtain ⟨bits, bound⟩ := tenFlags_bits (statusFlags s)
  simp only [shows, w, statusWords_eq, List.cons_append, List.nil_append, Nat.reduceAdd, Nat.reduceDiv,
    List.getD_cons_succ, List.getD_cons_zero, terminalFlags_eq,
    true_and]
  refine ⟨?length, fun le => ?intercepts, bits 0, bits 1, bits 2, bits 3, bits 4, bits 5,
    bits 6, bits 7, bits 8, bits 9, bound, ?line, ?mode, words32_value, fun le => ?coins,
    wordOf_toNat _, words32_value, fun lt => ?pending, ?latch, fun e => ?noClock,
    fun c e _ _ _ _ _ _ => ?clock, fun lt => ?skip, fun e => ?noFault, fun r i e lt => ?fault⟩
  case length => simp [oldestIntercept_length]
  case intercepts =>
    refine (wordOf_toNat _).trans ?_
    cases s.bpu.overflow <;> simp [bitIf] <;> omega
  case line => exact (wordOf_toNat _).trans (Nat.mod_eq_of_lt (by have := s.lnu.state.code_lt; omega))
  case mode => exact bytePair_value s.acu.mode.code_lt s.pfu.power.code_lt
  case coins => exact bytePair_value (by omega) (by omega)
  case pending =>
    refine (wordOf_toNat _).trans ?_
    have le := s.inu.records.countP_le_length (p := fun r => r.state = .pending)
    rw [List.countP_eq_length_filter] at le ⊢
    omega
  case latch =>
    have lt := s.inu.latches.isLt
    rw [BitVec.toNat_setWidth, BitVec.toNat_ushiftRight, Nat.shiftRight_eq_div_pow]
    have bit : s.inu.latches.getLsbD 16 = decide (s.inu.latches.toNat / 2 ^ 16 % 2 = 1) := by
      rw [BitVec.getLsbD, Nat.testBit_eq_decide_div_mod_eq]
    rw [bit]
    simp only [decide_eq_true_eq]
    split <;> omega
  case noClock => simp [stampNow, e, Stamp.ofClock, Stamp.zero]
  case clock =>
    simp only [stampNow, e, Stamp.ofClock]
    exact ⟨bytePair_value ‹_› ‹_›, bytePair_value ‹_› ‹_›, bytePair_value ‹_› ‹_›⟩
  case skip => exact (wordOf_toNat _).trans (Nat.mod_eq_of_lt lt)
  case noFault => rw [e]
  case fault =>
    rw [e]
    exact bytePair_value r.code_lt lt

/-- The whole seconds to a point are the fewest that reach it (R103). -/
theorem secondsTo_counts {point : Nat} {s : State} (le : point * 1000 ≤ s.rtu.ms + 65535000) :
    point * 1000 ≤ s.rtu.ms + (wordOf (secondsTo point s)).toNat * 1000 ∧
      ∀ k, point * 1000 ≤ s.rtu.ms + k * 1000 → (wordOf (secondsTo point s)).toNat ≤ k := by
  simp only [wordOf_toNat, secondsTo]
  exact ⟨by omega, fun k h => by omega⟩

theorem ratingFieldsShown : Clause.RatingFieldsShown := by
  intro s w shows counts
  simp only [counts, shows, w, statusWords_eq, List.cons_append, List.nil_append, Nat.reduceAdd,
    Nat.reduceDiv, List.getD_cons_succ, List.getD_cons_zero]
  refine ⟨fun e => ?_, fun c e => ?_⟩
  · simp only [shownCredit, classAndBand, intervalLeft, graceLeft, e]
    exact ⟨words32_value, words32_value, words32_value, rfl, rfl, rfl⟩
  · simp only [shownCredit, classAndBand, intervalLeft, graceLeft, e]
    refine ⟨words32_value, words32_value, words32_value, fun lt band => ?_, fun b lt lt' band => ?_,
      fun finish => ?_, fun p finish => ?_, fun phase => ?_, fun p phase deadline => ?_⟩
    · rw [band]
      exact bytePair_value lt (by decide)
    · rw [band]
      exact bytePair_value lt lt'
    · rw [finish]
      rfl
    · rw [finish]
      exact secondsTo_counts
    · rw [if_neg phase]
      rfl
    · rw [if_pos phase, deadline]
      exact secondsTo_counts

theorem getD_zeros (n k : Nat) : (List.replicate n (0 : Word)).getD k 0 = 0 := by
  rw [List.getD_eq_getElem?_getD, List.getElem?_replicate]
  split <;> rfl

theorem oldestInterceptShown : Clause.OldestInterceptShown := by
  intro s w shows
  refine ⟨fun e i le => ?_, fun r rest e => ?_⟩
  · have zeros : oldestIntercept s = List.replicate 7 0 := by simp [oldestIntercept, e]
    simp only [w, statusWords_eq, zeros]
    rw [List.getD_append_right _ _ _ _ (by simp only [List.length_cons, List.length_nil]; omega)]
    exact getD_zeros ..
  · simp only [shows, w, statusWords_eq, oldestIntercept, e, List.cons_append, List.nil_append,
      Nat.reduceAdd, Nat.reduceDiv, List.getD_cons_succ, List.getD_cons_zero, interceptWords, words32,
      true_and]
    refine ⟨?_, words32_value, fun lt => bytePair_value lt r.mode.code_lt, fun none => ?_,
      fun n some => ?_⟩
    · cases r.cause <;> cases r.lanes <;> rfl
    · rw [none]
      exact ⟨rfl, rfl⟩
    · rw [some]
      exact words32_value

theorem tallyAreaLayout : Clause.TallyAreaLayout := by
  intro s x w shows attr
  have level (v : CacheAttr) (lt : v.level < 256) :
      (wordOf (bitIf v.armed 15 + v.level % 256)).toNat = v.level + if v.armed then 32768 else 0 := by
    rw [wordOf_toNat]
    cases v.armed <;> simp [bitIf] <;> omega
  have total (v : CacheAttr) (lt : v.total < 65536) : (wordOf v.total).toNat = v.total := by
    rw [wordOf_toNat, Nat.mod_eq_of_lt lt]
  simp only [shows, attr, w, tallyArea, tallyWords, PerAttr.toList, words32, List.flatMap_cons,
    List.flatMap_nil, List.append_nil, List.cons_append, List.nil_append, Nat.reduceAdd,
    Nat.reduceDiv, List.getD_cons_succ, List.getD_cons_zero, and_true]
  exact ⟨rfl, words32_value, words32_value, words32_value, words32_value, words32_value,
    words32_value, words32_value, words32_value, words32_value, words32_value, words32_value,
    words32_value, words32_value, words32_value, words32_value, words32_value, words32_value,
    words32_value, words32_value, ⟨total _, level _⟩, ⟨total _, level _⟩, ⟨total _, level _⟩,
    ⟨total _, level _⟩, ⟨total _, level _⟩⟩

theorem substituteRead_of_window {s : State} {c : Cycle} {w : Window}
    (e : windowAt s c.addr = some w) :
    substituteRead c s =
      { s with
        bpu.answer :=
          some ⟨sampleWord (s.bpu.sample.getD (takeSample s)) w.kind (c.addr - w.base) &&&
            laneMask c.lanes, c.lanes⟩
        bpu.sample := some (s.bpu.sample.getD (takeSample s)) } := by
  unfold windowAt at e
  simp [substituteRead, e, answerRead]

@[simp] theorem takeSample_beginRead (first : Bool) (s : State) :
    takeSample (beginRead first s) = takeSample s := rfl

theorem liveRead : Clause.LiveRead := by
  intro s addr lanes first w a p ready even judged e
  have shown (k : w.kind = .status ∨ w.kind = .tally) :
      exec (.controllerRead addr lanes first) s =
        .next
          { s with
            bpu.answer := some ⟨sampleWord p w.kind (a - w.base) &&& laneMask lanes, lanes⟩
            bpu.sample := some p } := by
    have substitute : classify false a s = .substitute := by
      rw [classify_of_window judged e]
      rcases k with k | k <;> simp [classInWindow, k]
    rw [exec_controllerRead_ready ready even, classWord_substitute (by simpa using substitute),
      if_neg (by simp),
      substituteRead_of_window (s := beginRead first s) (c := ⟨false, a, 0, lanes, none⟩) e,
      takeSample_beginRead]
    rfl
  exact ⟨fun k => by simpa [k, sampleWord] using shown (.inl k),
    fun k => by simpa [k, sampleWord] using shown (.inr k)⟩

/-- Settles O13. -/
theorem liveStateRead : Obligations.LiveStateRead :=
  ⟨liveRead, statusBlockLayout, ratingFieldsShown, oldestInterceptShown, tallyAreaLayout⟩

end Sys2Proof.Machine
end

section
/-! Words of no window, words on the wait line (R1, R2, R17; O14), and blocked writes (R7, R14,
R15; O15). -/

namespace Sys2Proof.Machine

/-- A write to an undecoded address writes nothing and is of no further notice (R2). -/
theorem portWord_write_undecoded {s : State} {c : Cycle} (granted : arrivesGranted s = true)
    (write : c.write = true) (undecoded : memKind c.addr = none)
    (outside : windowAt s c.addr = none) : portWord .pass c s = s := by
  unfold windowAt at outside
  have store := Memory.store_undecoded (m := s.mem) (a := c.addr) c.data c.lanes (by simp [undecoded])
  simp [portWord, granted, controllerAccess, write, store, afterWrite, outside]

theorem portWord_read_undecoded {s : State} {c : Cycle} (granted : arrivesGranted s = true)
    (read : c.write = false) (undecoded : memKind c.addr = none) :
    portWord .pass c s =
      { s with
        bpu.answer := some ⟨Config.undecodedRead s.free c.addr &&& laneMask c.lanes, c.lanes⟩
        free := s.free + 1 } := by
  simp [portWord, granted, controllerAccess, read, undecoded, answerRead]

/-- A word that needs the port waits for a save under way (R16, R17). -/
theorem portWord_held {s : State} (act : Action) (c : Cycle) (held : arrivesGranted s = false) :
    portWord act c s =
      { s with bpu.cycle := some { c with route := some (routeOf c.addr act s) } } := by
  simp [portWord, held]

theorem undecodedPasses : Clause.UndecodedPasses := by
  intro s addr data lanes first ready granted even undecoded outside
  constructor
  · rw [exec_controllerWrite_ready ready even, classWord_pass (classify_undecoded undecoded),
      portWord_write_undecoded granted rfl undecoded outside]
  · refine ⟨Config.undecodedRead s.free addr.toNat &&& laneMask lanes, ?_⟩
    rw [exec_controllerRead_ready ready even, classWord_pass (classify_undecoded undecoded),
      portWord_read_undecoded (s := beginRead first s) granted rfl undecoded]
    rfl

theorem classify_ram_passes {s : State} {a : Nat} {write : Bool} (ram : memKind a = some .ram)
    (passes : ∀ w, windowAt s a = some w → classInWindow write a w s = .pass) :
    classify write a s = .pass := by
  cases e : windowAt s a with
  | none => exact classify_outside (.inl ram) e
  | some w => rw [classify_of_window (.inl ram) e, passes w e]

theorem wordsHeldOnTheWaitLine : Clause.WordsHeldOnTheWaitLine := by
  intro s addr data lanes first a powered even
  refine ⟨fun cycle => ?_, fun cycle table => ?_, fun ready power save => ?_⟩
  · constructor <;> simp [exec, execControllerRead, execControllerWrite, onPower, powered, busWord, cycle]
  · constructor <;>
      simp [exec, execControllerRead, execControllerWrite, onPower, powered, busWord, cycle, table,
        writeCycle, wordAddr, even, a]
  · have held : arrivesGranted s = false := by simp [arrivesGranted, power, save]
    refine ⟨fun passes => ?_, fun passes => ?_⟩
    · have pass : classify true a s = .pass := by
        rcases passes with undecoded | ⟨ram, kinds⟩
        · exact classify_undecoded undecoded
        · refine classify_ram_passes ram fun w e => ?_
          rcases kinds w e with k | ⟨k, beyond | free⟩
          · simp [classInWindow, k]
          · simp [classInWindow, k, Nat.not_lt.mpr beyond]
          · simp [classInWindow, k, free]
      rw [exec_controllerWrite_ready ready even, classWord_pass pass, portWord_held _ _ held]
      rfl
    · have pass : classify false a s = .pass := by
        rcases passes with undecoded | ⟨ram, kinds⟩
        · exact classify_undecoded undecoded
        · refine classify_ram_passes ram fun w e => ?_
          rcases kinds w e with k | k <;> simp [classInWindow, k]
      rw [exec_controllerRead_ready ready even, classWord_pass (by simpa using pass),
        portWord_held (s := beginRead first s) _ _ held]
      rfl

/-- Settles O14. -/
theorem wordsPassedOrHeld : Obligations.WordsPassedOrHeld :=
  ⟨undecodedPasses, wordsHeldOnTheWaitLine⟩

theorem offerIntercept_room {s : State} (r : Intercept) (room : s.bpu.intercepts.length < 8) :
    offerIntercept r s =
      { s with
        bpu.intercepts := s.bpu.intercepts ++ [r]
        rqu.flags := setFlag s.rqu.flags .intercept } := by
  simp [offerIntercept, room, raise]

theorem offerIntercept_full {s : State} (r : Intercept) (full : 8 ≤ s.bpu.intercepts.length) :
    offerIntercept r s =
      { s with
        bpu.overflow := true
        rqu.flags := setFlag s.rqu.flags .intercept } := by
  simp [offerIntercept, Nat.not_lt.mpr full, raise]

theorem secondOfDay_eq :
    Cal.secondOfDay = fun c => c.hour * 3600 + c.minute * 60 + c.second := by
  funext c
  simp only [Cal.secondOfDay, Cal.minuteOfDay]
  omega

/-- Settles O15: the event goes to the INU before the record is offered, and touches no part of
the queue. -/
theorem blockedWriteRecorded : Obligations.BlockedWriteRecorded := by
  intro s addr data lanes cause a u r ready even blocked
  have bpu : u.bpu = s.bpu := (attrEvent_frame ..).2.2.1
  have record : interceptOf cause ⟨true, a, data, lanes, none⟩ s = r := by
    rw [interceptOf, secondOfDay_eq]
    rfl
  refine ⟨blockWrite cause ⟨true, a, data, lanes, none⟩ s, ?_, by simp, fun room => ?_, fun full => ?_⟩
  · rw [exec_controllerWrite_ready ready even, classWord_block (classify_writeBlocked blocked)]
  · rw [blockWrite, record, offerIntercept_room r (by simpa using room), ← bpu]
  · rw [blockWrite, record, offerIntercept_full r (by simpa using full), ← bpu]

end Sys2Proof.Machine
end

section
/-! What a passing write leaves in memory, and its notices (R2, R10, R171; O21). -/

namespace Sys2Proof.Machine

/-! ### Written words (O21) -/

/-- What a write of a word in some lanes leaves, byte by byte (R2). -/
theorem Memory.get_store {m : Memory} (h : m.wf = true) {a : Nat}
    (decoded : (memKind a).isSome = true) (next : (memKind (a + 1)).isSome = true) (w : Word)
    (lanes : Lanes) (b : Nat) : (m.store a w lanes).get b = byteAfter m a w lanes b := by
  have high : (m.set a w.hi).wf = true := Memory.set_wf h decoded
  cases lanes
  · simp [Memory.store, decoded, next, byteAfter, Memory.get_set h]
  · simp [Memory.store, decoded, next, byteAfter, Memory.get_set h]
  · simp only [Memory.store, decoded, next, and_self, if_true, Memory.get_set high, Memory.get_set h,
      byteAfter]
    grind

theorem memoryReadAfterWrite : Clause.MemoryReadAfterWrite := by
  intro m a w lanes h even decoded
  have next : (memKind (a + 1)).isSome = true := by rwa [memKind_succ even]
  exact ⟨Memory.store_wf a w lanes h, Memory.word_store h a w decoded next,
    Memory.get_store h decoded next w lanes⟩

theorem portWord_write {s : State} {c : Cycle} (granted : arrivesGranted s = true)
    (write : c.write = true) :
    portWord .pass c s =
      afterWrite { c with route := some c.addr } { s with mem := s.mem.store c.addr c.data c.lanes } := by
  simp [portWord, granted, controllerAccess, write]

theorem write_passes {s : State} {addr : BitVec 20} (h : BusReady s)
    (granted : arrivesGranted s = true) (even : addr.toNat % 2 = 0)
    (pass : classify true addr.toNat s = .pass) (data : Word) (lanes : Lanes) :
    exec (.controllerWrite addr data lanes) s =
      .next
        (afterWrite ⟨true, addr.toNat, data, lanes, some addr.toNat⟩
          { s with mem := s.mem.store addr.toNat data lanes }) := by
  rw [exec_controllerWrite_ready h even, classWord_pass pass, portWord_write granted rfl]

section
variable {s : State} {c : Cycle} {w : Window}

theorem afterWrite_outside (e : windowAt s c.addr = none) : afterWrite c s = s := by
  unfold windowAt at e
  simp [afterWrite, e]

theorem afterWrite_of_window (e : windowAt s c.addr = some w) (k : w.kind ≠ .request) :
    afterWrite c s = writeNotices w.kind s := by
  unfold windowAt at e
  simp [afterWrite, e, k]

/-- A word in REQUEST posts a request if it is a full write of a non-zero kind word (R8). -/
theorem afterWrite_request (e : windowAt s c.addr = some w) (k : w.kind = .request) :
    afterWrite c s =
      if c.addr - w.base < 0x100 ∧ (c.addr - w.base) % 0x40 = 0 ∧ c.lanes = .both ∧ c.data ≠ 0 then
        postSlot ((c.addr - w.base) / 0x40) s
      else s := by
  unfold windowAt at e
  simp [afterWrite, e, k]

end

theorem onlyChanges_mem (m : Memory) (s : State) : OnlyChanges [.mem] s { s with mem := m } := by
  intro b h
  cases b <;> simp_all [Block.same]

/-- In SERVICE a notice restarts the lapse timer, or is held through a save (R171, R172). -/
theorem acuNotice_service {s : State} (service : s.acu.mode = .service) (tariff : Bool) :
    acuNotice tariff s =
      if s.pfu.power = .running then
        { s with
          acu.lapse :=
            if s.cfl.params.lapse = 0 then none
            else some (s.acu.ms + s.cfl.params.lapse * 60000) }
      else { s with held := s.held ++ [.passingWrite tariff] } := by
  by_cases run : s.pfu.power = .running <;>
    simp [acuNotice, running, run, takeNotice, service, startLapse, hold]

theorem writeReachesMemory : Clause.WriteReachesMemory := by
  intro s addr data lanes a ready granted even judged wf
  have decoded := memKind_isSome_of_judged judged
  have bytes := Memory.get_store wf decoded (by rwa [memKind_succ even]) data lanes
  refine ⟨fun kinds => ?_, fun w e service => ?_⟩
  · have pass : classify true a s = .pass := by
      cases e : windowAt s a with
      | none => exact classify_outside judged e
      | some w =>
        rw [classify_of_window judged e]
        rcases kinds w e with k | ⟨k, beyond | ⟨free, _⟩⟩
        · simp [classInWindow, k]
        · simp [classInWindow, k, Nat.not_lt.mpr beyond]
        · simp [classInWindow, k, free]
    refine ⟨{ s with mem := s.mem.store a data lanes }, ?_, onlyChanges_mem _ s, bytes⟩
    rw [write_passes ready granted even pass]
    congr 1
    cases e : windowAt s a with
    | none => exact afterWrite_outside e
    | some w =>
      have e' : windowAt { s with mem := s.mem.store a data lanes } a = some w := e
      rcases kinds w e with k | ⟨k, posts⟩
      · rw [afterWrite_of_window (c := ⟨true, a, data, lanes, some a⟩) e' (by simp [k]), k]
        rfl
      · rw [afterWrite_request (c := ⟨true, a, data, lanes, some a⟩) e' k, if_neg]
        rintro ⟨lt, slot, full, ne⟩
        rcases posts with beyond | ⟨_, odd | half | zero⟩
        · exact absurd lt (Nat.not_lt.mpr beyond)
        · exact odd slot
        · exact half full
        · exact ne zero
  · intro lapse noticed
    have e' : windowAt { s with mem := s.mem.store a data lanes } a = some w := e
    refine ⟨fun k ne => ?_, fun k => ?_⟩
    · have pass : classify true a s = .pass := by
        rw [classify_of_window judged e]
        simp [classInWindow, k, service, ne]
      rw [write_passes ready granted even pass,
        afterWrite_of_window (c := ⟨true, a, data, lanes, some a⟩) e' (by simp [k]), k]
      refine ⟨_, rfl, ?_⟩
      rw [writeNotices, acuNotice_service (by exact service)]
      by_cases run : s.pfu.power = .running
      · refine ⟨fun b h => ?_, ?_, ?_, ?_⟩
        · cases b <;> simp_all [Block.same, tariffWritten]
        · simpa [tariffWritten, run] using bytes
        · simp [tariffWritten, run]
        · simp [noticed, tariffWritten, run, lapse]
      · refine ⟨fun b h => ?_, ?_, ?_, ?_⟩
        · cases b <;> simp_all [Block.same, tariffWritten]
        · simpa [tariffWritten, run] using bytes
        · simp [tariffWritten, run]
        · simp [noticed, tariffWritten, run]
    · have pass : classify true a s = .pass := by
        rw [classify_of_window judged e]
        simp [classInWindow, k, service]
      rw [write_passes ready granted even pass,
        afterWrite_of_window (c := ⟨true, a, data, lanes, some a⟩) e' (by simp [k]), k]
      refine ⟨_, rfl, ?_⟩
      rw [writeNotices, acuNotice_service (by exact service)]
      by_cases run : s.pfu.power = .running
      · refine ⟨fun b h => ?_, ?_, ?_⟩
        · cases b <;> simp_all [Block.same]
        · simpa [run] using bytes
        · simp [noticed, run, lapse]
      · refine ⟨fun b h => ?_, ?_, ?_⟩
        · cases b <;> simp_all [Block.same]
        · simpa [run] using bytes
        · simp [noticed, run]

/-- Settles O21. -/
theorem writesReachMemory : Obligations.WritesReachMemory :=
  ⟨memoryReadAfterWrite, writeReachesMemory⟩

end Sys2Proof.Machine
end

section
/-! A request's posting (R8, R29; O16). -/

namespace Sys2Proof.Machine

/-! ### Requests posted (O16) -/

/-- The parties that go before the RQU in every power state (R16). -/
theorem portReaches_rqu (s : State) :
    portReaches .rqu s =
      (!waits .controller s && !waits .pfu s && !waits .adu s && !waits .tru s) := by
  unfold portReaches
  cases s.pfu.power <;> simp [grantOrder, List.takeWhile, Bool.and_assoc, Bool.and_left_comm]

theorem analysisReads_of_none {s : State} (h : s.rqu.service = none) : analysisReads s = false := by
  simp [analysisReads, numberInHand, serving, h]

theorem headUnread_eq_false {s : State}
    (h : starting s = false ∨ s.rqu.service.isSome = true) : headUnread s = false := by
  rcases h with h | h
  · simp [headUnread, h]
  · simp [headUnread, Option.isNone_eq_false_iff.mpr h]

theorem windowOf_base {s : State} {k : WindowKind} {w : Window} (h : windowOf k s = some w) :
    baseOf k s = w.base ∧ hasWindow k s = true := by
  simp [baseOf, hasWindow, h]

/-- A free slot's index joins the queue; at its head in STARTING it is judged (R8, R29). -/
theorem postSlot_free {s : State} {i : Nat} (free : s.bpu.busy.get i = false) :
    postSlot i s =
      if s.rqu.queue = [] then
        judgeHead { s with bpu.busy := s.bpu.busy.set i true, rqu.queue := s.rqu.queue ++ [i] }
      else { s with bpu.busy := s.bpu.busy.set i true, rqu.queue := s.rqu.queue ++ [i] } := by
  simp [postSlot, free]

theorem judgeHead_of_idle {s : State} (h : starting s = false ∨ s.rqu.service.isSome = true) :
    judgeHead s = s := by
  rcases judgeHead_cases s with ⟨_, e⟩ | ⟨unread, _⟩ | ⟨unread, _⟩
  · exact e
  · rw [headUnread_eq_false (by exact h)] at unread
    cases unread
  · rw [headUnread_eq_false (by exact h)] at unread
    cases unread

theorem exec_postRequest_ready {s : State} {slot : Fin 4} {kind : Word} {w : Window}
    (ready : BusReady s) (window : windowOf .request s = some w) :
    exec (.postRequest slot kind) s =
      .next (classWord (writeCycle (w.base + 0x40 * slot.val) kind .both) s) := by
  obtain ⟨base, has⟩ := windowOf_base window
  rw [← busWord_ready ready]
  simp [exec, execPostRequest, onPower, ready.1, has, slotAddr, base]

/-- The parties before the RQU do not see a post: none of their words is read off what it changes,
as long as
no analysis is in hand. -/
theorem portReaches_posted {s : State} (service : s.rqu.service = none) (marks : Marks)
    (queue : List Nat) :
    portReaches .rqu
        { s with bpu.busy := marks, rqu.queue := queue, rqu.unread := true } =
      portReaches .rqu s := by
  rw [portReaches_rqu, portReaches_rqu]
  simp only [waits, analysisReads_of_none service]
  rw [analysisReads_of_none (by exact service)]
  rfl

/-- A slot posted at the head in STARTING is judged once the port comes to the RQU (R29). -/
theorem postSlot_head {s : State} {i : Nat} (free : s.bpu.busy.get i = false)
    (up : starting s = true) (queue : s.rqu.queue = []) (service : s.rqu.service = none) :
    postSlot i s =
      let t :=
        { s with bpu.busy := s.bpu.busy.set i true, rqu.queue := [i], rqu.unread := true }
      if portReaches .rqu s then readRest (readHead t) else t := by
  have unread : headUnread
      { s with bpu.busy := s.bpu.busy.set i true, rqu.queue := [i], rqu.unread := true } = true := by
    simp [headUnread, service]
    exact up
  rw [postSlot_free free, if_pos queue, queue, List.nil_append]
  have cases := judgeHead_cases
    { s with bpu.busy := s.bpu.busy.set i true, rqu.queue := [i] }
  dsimp only at cases ⊢
  rw [unread, portReaches_posted service] at cases
  rcases cases with ⟨e, _⟩ | ⟨_, e, e'⟩ | ⟨_, e, e'⟩
  · cases e
  · rw [e', if_neg (by simp [e])]
  · rw [e', if_pos e]

/-- A head whose kind word is no DIAL waits (R29). -/
theorem readHead_other {s : State} {i : Nat} {rest : List Nat} (queue : s.rqu.queue = i :: rest)
    (service : s.rqu.service = none) (other : (s.mem.word (slotAddr s i)).toNat ≠ kindDial) :
    readRest (readHead s) = { s with rqu.unread := false } := by
  have head : readHead s = { s with rqu.unread := false } := by
    simp [readHead, queue, service, other]
  rw [head, readRest_of_none (by exact service)]

/-- A DIAL at the head is taken, its sequence word read, to be completed with STARTING (R29). -/
theorem readHead_dial {s : State} {i : Nat} {rest : List Nat} (queue : s.rqu.queue = i :: rest)
    (service : s.rqu.service = none) (dial : (s.mem.word (slotAddr s i)).toNat = kindDial) :
    readRest (readHead s) =
      { s with
        rqu.queue := rest
        rqu.unread := false
        rqu.service :=
          some
            ⟨i, s.mem.word (slotAddr s i), s.mem.word (slotAddr s i + 2), [],
              .answered ⟨4, 0, 0, 0⟩ 0⟩ } := by
  have head : readHead s =
      { s with
        rqu.queue := rest
        rqu.unread := false
        rqu.service := some ⟨i, s.mem.word (slotAddr s i), 0, [], .seqWord true⟩ } := by
    unfold readHead
    simp only [queue, service]
    rw [if_pos dial]
    rfl
  rw [head, readRest]
  simp only [Option.map_some]
  rw [Service.readAll_seqWord (refused := true) _ _ rfl rfl, if_pos rfl]
  rfl

section
variable {s : State} {i : Nat}

theorem postSlot_unreached (free : s.bpu.busy.get i = false) (up : starting s = true)
    (queue : s.rqu.queue = []) (service : s.rqu.service = none)
    (reach : portReaches .rqu s = false) :
    postSlot i s =
      { s with bpu.busy := s.bpu.busy.set i true, rqu.queue := [i], rqu.unread := true } := by
  rw [postSlot_head free up queue service]
  simp [reach]

theorem postSlot_other (free : s.bpu.busy.get i = false) (up : starting s = true)
    (queue : s.rqu.queue = []) (service : s.rqu.service = none)
    (reach : portReaches .rqu s = true) (other : (s.mem.word (slotAddr s i)).toNat ≠ kindDial) :
    postSlot i s =
      { s with bpu.busy := s.bpu.busy.set i true, rqu.queue := [i], rqu.unread := false } := by
  rw [postSlot_head free up queue service]
  dsimp only
  rw [if_pos reach, readHead_other (by rfl) (by exact service) (by exact other)]

theorem postSlot_dial {a : Nat} {kind : Word} (free : s.bpu.busy.get i = false)
    (up : starting s = true) (queue : s.rqu.queue = []) (service : s.rqu.service = none)
    (reach : portReaches .rqu s = true) (addr : slotAddr s i = a) (head : s.mem.word a = kind)
    (dial : kind.toNat = kindDial) :
    postSlot i s =
      { s with
        bpu.busy := s.bpu.busy.set i true
        rqu.queue := []
        rqu.unread := false
        rqu.service := some ⟨i, kind, s.mem.word (a + 2), [], .answered ⟨4, 0, 0, 0⟩ 0⟩ } := by
  subst addr head
  rw [postSlot_head free up queue service]
  dsimp only
  rw [if_pos reach, readHead_dial (by rfl) (by exact service) (by exact dial)]
  rfl

end

/-- Settles O16: what a full write of a kind word posts, slot by slot. -/
theorem requestPosted : Obligations.RequestPosted := by
  intro s slot kind w a posted ready granted wf nonzero window place k ram ram'
  obtain ⟨base, _⟩ := windowOf_base window
  have offset : a - w.base = 0x40 * slot.val := by simp [a]
  have lt := slot.isLt
  have slotPlace : 0x40 * slot.val / 0x40 = slot.val := by omega
  rw [exec_postRequest_ready ready window]
  have judged : JudgedByWindow s a := .inl ram
  refine ⟨fun free => ?_, fun busy => ?_⟩
  · have pass : classify true a s = .pass := by
      rw [classify_of_window judged place]
      simp [classInWindow, k, offset, slotPlace, free]
    have bytes := Memory.get_store wf (a := a) (by simp [ram]) (by simp [ram']) kind .both
    have read : (s.mem.store a kind .both).word a = kind :=
      Memory.word_store wf a kind (by simp [ram]) (by simp [ram'])
    generalize hm : s.mem.store a kind .both = m at bytes read
    have place' : windowAt { s with mem := m } a = some w := place
    have word : classWord (writeCycle a kind .both) s = postSlot slot.val { s with mem := m } := by
      rw [classWord_pass (by exact pass), portWord_write granted rfl,
        afterWrite_request (by rw [← hm] at place'; exact place') k, if_pos]
      · simp [writeCycle, offset, hm]
      · refine ⟨?_, ?_, rfl, nonzero⟩ <;> simp [writeCycle, offset]; omega
    refine ⟨m, bytes, fun idle => ?_, fun up queue service => ?_⟩
    · rw [word, postSlot_free (by exact free)]
      split
      · rename_i queue
        rw [judgeHead_of_idle (by exact idle.imp id fun h => h.resolve_left (by simpa using queue))]
      · rfl
    · have reach : portReaches .rqu { s with mem := m } = portReaches .rqu s := by
        simp only [portReaches_rqu, waits, analysisReads_of_none service]
        rw [analysisReads_of_none (by exact service)]
        rfl
      have addr : slotAddr s slot.val = a := by rw [slotAddr, base]
      rw [word]
      refine ⟨fun no => ?_, fun yes other => ?_, fun yes dial => ?_⟩
      · rw [postSlot_unreached (by exact free) (by exact up) (by exact queue) (by exact service)
          (by rw [reach, no])]
        simp [posted, queue]
      · rw [postSlot_other (by exact free) (by exact up) (by exact queue) (by exact service)
          (by rw [reach, yes])
          (by change (m.word (slotAddr s slot.val)).toNat ≠ _; rwa [addr, read])]
        simp [posted, queue]
      · rw [postSlot_dial (a := a) (kind := kind) (by exact free) (by exact up) (by exact queue)
          (by exact service) (by rw [reach, yes]) (by exact addr) (by exact read) dial]
  · have block : classify true a s = .block .slotBusy := by
      rw [classify_of_window judged place]
      simp [classInWindow, k, offset, slotPlace, busy]
      omega
    rw [classWord_block (by exact block)]
    exact ⟨_, rfl, by simp, by simp, by simp⟩

end Sys2Proof.Machine
end

section
/-! The writable status words and the attention line (O17), the controller's reset (O18), and PROBE
(O19). -/

namespace Sys2Proof.Machine

/-! ### Status words, attention and barrings (O17) -/

/-- A write to one of the three writable words of the status block is taken as its command (R9). -/
theorem statusWrite_command {s : State} {w : Window} {offset : Nat} (ready : BusReady s)
    (window : windowOf .status s = some w) (kind : w.kind = .status) (le : offset ≤ 4)
    (place : windowAt s (w.base + offset) = some w) (ram : memKind (w.base + offset) = some .ram)
    (data : Word) (lanes : Lanes) :
    statusWrite offset data lanes s = commandWord (writeCycle (w.base + offset) data lanes) s := by
  obtain ⟨base, has⟩ := windowOf_base window
  have substitute : classify true (w.base + offset) s = .substitute := by
    rw [classify_of_window (.inl ram) place]
    simp [classInWindow, kind, le]
  rw [statusWrite, if_pos has, base, busWord_ready ready, classWord_substitute (by exact substitute),
    if_pos (by rfl)]

theorem laneMask_bit (lanes : Lanes) : ∀ i < 16, (laneMask lanes).getLsbD i = laneHolds lanes i := by
  cases lanes <;> decide

theorem acknowledged_bit (flags : BitVec 12) (data : Word) (lanes : Lanes) {i : Nat} (lt : i < 12) :
    (acknowledged flags data lanes).getLsbD i =
      (flags.getLsbD i && !(laneHolds lanes i && data.getLsbD i)) := by
  have lane := laneMask_bit lanes i (by omega)
  simp only [acknowledged, BitVec.getLsbD_and, BitVec.getLsbD_not, BitVec.getLsbD_setWidth, lane, lt,
    decide_true, Bool.true_and, Bool.and_comm]

theorem newMask_bit (mask : BitVec 12) (data : Word) (lanes : Lanes) {i : Nat} (lt : i < 12) :
    (newMask mask data lanes).getLsbD i =
      if laneHolds lanes i then data.getLsbD i else mask.getLsbD i := by
  have lane := laneMask_bit lanes i (by omega)
  simp only [newMask, BitVec.getLsbD_or, BitVec.getLsbD_and, BitVec.getLsbD_not,
    BitVec.getLsbD_setWidth, lane, lt, decide_true, Bool.true_and]
  cases laneHolds lanes i <;> simp

section
variable {s : State} {w : Window} (data : Word) (lanes : Lanes)

theorem commandWord_acknowledge (place : windowAt s (w.base + 0) = some w) :
    commandWord (writeCycle (w.base + 0) data lanes) s =
      { s with rqu.flags := acknowledged s.rqu.flags data lanes } := by
  unfold windowAt at place
  simp only [commandWord, writeCycle, place, Nat.add_sub_cancel_left]

theorem commandWord_mask (place : windowAt s (w.base + 2) = some w) :
    commandWord (writeCycle (w.base + 2) data lanes) s =
      { s with rqu.mask := newMask s.rqu.mask data lanes } := by
  unfold windowAt at place
  simp only [commandWord, writeCycle, place, Nat.add_sub_cancel_left]

theorem commandWord_pop (place : windowAt s (w.base + 4) = some w) :
    commandWord (writeCycle (w.base + 4) data lanes) s = popIntercept s := by
  unfold windowAt at place
  simp only [commandWord, writeCycle, place, Nat.add_sub_cancel_left]

end

theorem statusWordsTaken : Clause.StatusWordsTaken := by
  intro s data lanes w stands ready window kind
  have commanded {offset : Nat} (le : offset ≤ 4) (h : stands offset) :
      onPower s (statusWrite offset data lanes) =
        .next (commandWord (writeCycle (w.base + offset) data lanes) s) := by
    rw [onPower_up ready.1, statusWrite_command ready window kind le h.1 h.2]
  refine ⟨fun h => ?_, fun h => ?_, fun h => ⟨fun empty => ?_, fun r rest e => ?_⟩⟩
  · exact ⟨_, (commanded (by decide) h).trans (congrArg _ (commandWord_acknowledge _ _ h.1)),
      fun i => acknowledged_bit _ _ _⟩
  · exact ⟨_, (commanded (by decide) h).trans (congrArg _ (commandWord_mask _ _ h.1)),
      fun i => newMask_bit _ _ _⟩
  · refine (commanded (by decide) h).trans (congrArg _ ((commandWord_pop _ _ h.1).trans ?_))
    simp [popIntercept, empty]
  · refine (commanded (by decide) h).trans (congrArg _ ((commandWord_pop _ _ h.1).trans ?_))
    simp [popIntercept, e]

theorem ne_zero_iff_bit {n : Nat} (x : BitVec n) : x ≠ 0 ↔ ∃ i, i < n ∧ x.getLsbD i = true := by
  constructor
  · intro ne
    by_contra none
    push Not at none
    exact ne (BitVec.eq_of_getLsbD_eq fun i lt => by simpa using none i lt)
  · rintro ⟨i, _, bit⟩ rfl
    simp at bit

theorem attentionFollowsFlags : Clause.AttentionFollowsFlags := by
  intro s e
  refine ⟨?_, fun b h => ?_, rfl, fun i lt => ?_⟩
  · simp only [attention, decide_eq_true_eq, ne_zero_iff_bit, BitVec.getLsbD_and, Bool.and_eq_true]
  · cases b <;> simp_all [Block.same, raise]
  · have bound : e.bit < 12 := by cases e <;> decide
    simp only [raise, setFlag, BitVec.getLsbD_or, BitVec.getLsbD_twoPow, bound, decide_true,
      Bool.true_and, eq_comm]

theorem latchesBar : Clause.LatchesBar := by
  intro s bars
  simp [bars, coinsBarred, paidBarred, outOfOrder, latched, IncKind.code]

/-- Settles O17. -/
theorem statusWordsAndAttention : Obligations.StatusWordsAndAttention :=
  ⟨statusWordsTaken, attentionFollowsFlags, latchesBar⟩

/-! ### The controller's reset (O18) -/

/-- Settles O18: the blocks' own parts of the reset go before the ACU's. -/
theorem controllerResetActs : Obligations.ControllerResetActs := by
  intro s powered r
  have reset : exec .controllerReset s =
      .next (if running s then resetAccess r else hold .accessReset r) := by
    unfold exec execControllerReset
    rw [onPower_up powered]
  refine ⟨fun run mode => ?_, fun run frozen => ?_, fun run service => ?_, fun stopped => ?_⟩
  · rw [reset]
    rcases mode with mode | mode <;> simp [running, run, resetAccess, mode, r]
  · rw [reset]
    simp [running, run, resetAccess, frozen, r, setMode, raise]
  · rw [reset]
    simp [running, run, resetAccess, service, r]
  · rw [reset]
    simp [running, stopped, hold, r]

/-! ### PROBE (O19) -/

theorem probeKindCode_eq (a : Nat) (s : State) :
    probeKindCode (probeKind a s) =
      if (memKind a).isNone then 10 else ((windowAt s a).map fun w => w.kind.code).getD 0 := by
  unfold probeKind windowAt
  cases memKind a with
  | none => rfl
  | some m => cases findWindow (s.bpu.table.getD []) a <;> rfl

/-- Settles O19. -/
theorem probeAnswers : Obligations.ProbeAnswers := by
  intro s v serving a e act
  obtain ⟨powered, service, phase, kind⟩ := serving
  have probe : exec .probe s = .next (probeRequest v.params s) :=
    (onPower_up powered _).trans (congrArg _ (onRequest_serving _ service phase kind))
  refine ⟨fun bad => ?_, fun addr dir => ?_⟩
  · rw [probe, probeRequest]
    simp only [answer0]
    rw [if_pos bad, answer_service service]
    rfl
  · rw [probe, probeRequest]
    simp only
    rw [if_neg (by simp only [a] at addr; omega), answer_service service, probeKindCode_eq]
    rfl

end Sys2Proof.Machine
end

section
/-! A slot's life after its posting: its taking, its completion and its abandoning (R35 to R37,
R40; O20). -/

namespace Sys2Proof.Machine

theorem exec_requestTake {s : State} (up : s.powered = true) :
    exec .requestTake s =
      .next
        (if portReaches .rqu s = false then s
         else if headUnread s then readRest (readHead s)
         else if slotReads s then readRest (readSlotWord s)
         else s) := by
  unfold exec execRequestTake
  rw [onPower_up up]
  cases portReaches .rqu s <;> rfl

theorem isKindCode_iff (n : Nat) : isKindCode n = true ↔ 1 ≤ n ∧ n ≤ 18 := by
  simp [isKindCode]

theorem Memory.words_eq_map (m : Memory) (a n : Nat) :
    m.words a n = (List.range n).map fun j => m.word (a + 2 * j) := by
  induction n generalizing a with
  | zero => rfl
  | succ n ih =>
    have shift (j : Nat) : a + 2 + 2 * j = a + 2 * (j + 1) := by omega
    simp [Memory.words, ih, List.range_succ_eq_map, Function.comp_def, shift]

/-- The parameter words of a slot from the `k`-th on (R36). -/
theorem words_params (m : Memory) (a k : Nat) :
    m.words (a + 12 + 2 * k) (26 - k) =
      (List.range (26 - k)).map fun j => m.word (a + (12 + 2 * (k + j))) := by
  have place (j : Nat) : a + 12 + 2 * k + 2 * j = a + (12 + 2 * (k + j)) := by omega
  simp [Memory.words_eq_map, place]

section
variable {s : State} {v : Service}

/-- The request in service is to be completed with STARTING (R29). -/
theorem readRest_refused (service : s.rqu.service = some v) (phase : v.phase = .seqWord true)
    (none : v.params = []) :
    readRest s =
      { s with
        rqu.service :=
          some
            { v with
              seq := s.mem.word (slotAddr s v.slot + 2)
              params := []
              phase := .answered ⟨4, 0, 0, 0⟩ 0 } } := by
  rw [readRest, service, Option.map_some, Service.readAll_seqWord _ _ phase none, if_pos rfl, ← none]
  rfl

/-- The request in service is handed to its owner with its 26 parameters (R36). -/
theorem readRest_kind (service : s.rqu.service = some v) (phase : v.phase = .seqWord false)
    (none : v.params = []) (kind : isKindCode v.kind.toNat = true) :
    readRest s =
      { s with
        rqu.service :=
          some
            { v with
              seq := s.mem.word (slotAddr s v.slot + 2)
              params :=
                (List.range (26 - 0)).map fun j =>
                  s.mem.word (slotAddr s v.slot + (12 + 2 * (0 + j)))
              phase := .handed } } := by
  rw [readRest, service, Option.map_some, Service.readAll_seqWord _ _ phase none, if_neg (by simp),
    if_pos kind, ← words_params]

/-- Any other kind word is answered UNKNOWN_KIND (R39). -/
theorem readRest_unknown (service : s.rqu.service = some v) (phase : v.phase = .seqWord false)
    (none : v.params = []) (kind : ¬ isKindCode v.kind.toNat = true) :
    readRest s =
      { s with
        rqu.service :=
          some
            { v with
              seq := s.mem.word (slotAddr s v.slot + 2)
              params := []
              phase := .answered ⟨22, v.kind, 0, 0⟩ 0 } } := by
  rw [readRest, service, Option.map_some, Service.readAll_seqWord _ _ phase none, if_neg (by simp),
    if_neg kind, ← none]
  rfl

/-- A slot whose parameters are being read is read to its end (R36). -/
theorem readRest_params (service : s.rqu.service = some v) (phase : v.phase = .paramWords)
    (lt : v.params.length < 26) :
    readRest s =
      { s with
        rqu.service :=
          some
            { v with
              params :=
                v.params ++ (List.range (26 - v.params.length)).map fun j =>
                  s.mem.word (slotAddr s v.slot + (12 + 2 * (v.params.length + j)))
              phase := .handed } } := by
  rw [readRest, service, Option.map_some, Service.readAll_paramWords _ _ phase lt, words_params]

theorem Service.readAll_readWord (m : Memory) (a : Nat) (done : (v.readAll m a).reads = false) :
    (v.readWord m a).readAll m a = v.readAll m a :=
  calc (v.readWord m a).readAll m a
    _ = Nat.repeat (Service.readWord m a) 28 v := (repeat_succ_comm _ 27 v).symm
    _ = (v.readAll m a).readWord m a := rfl
    _ = v.readAll m a := Service.readWord_of_read m a done

/-- One word of the slot in service and then the rest of them are all that are left of it. -/
theorem readRest_readSlotWord (service : s.rqu.service = some v)
    (done : (readRest s).rqu.service.any Service.reads = false) :
    readRest (readSlotWord s) = readRest s := by
  have next : readSlotWord s = readService s := by simp [readSlotWord, service]
  simp only [readRest, service, Option.map_some, Option.any_some] at done
  simp only [next, readRest, readService, service, Option.map_some, Service.readWord_slot]
  exact congrArg (fun w => ({ s with rqu.service := some w } : State))
    (Service.readAll_readWord _ _ done)

end

theorem requestTaken : Clause.RequestTaken := by
  intro s up place word params isKind unknown refused
  rw [exec_requestTake up]
  refine ⟨fun no => by rw [if_pos no], fun none waits => ?_, fun v service phase => ?_, fun reach => ?_⟩
  · have unread : headUnread s = false := by
      rcases waits with queue | ⟨_, unread⟩ <;> simp [headUnread, *]
    have reads : slotReads s = false := by
      rcases waits with queue | ⟨starts, _⟩ <;> simp [slotReads, *]
    simp [unread, reads]
  · have unread := headUnread_eq_false (s := s) (.inr (by simp [service]))
    have reads : slotReads s = false := by
      rcases phase with h | h | ⟨a, n, h⟩ <;> simp [slotReads, service, Service.reads, h]
    simp [unread, reads]
  rw [if_neg (by simp [reach])]
  refine ⟨fun i rest none down queue => ?_, fun v b service phase none => ?_,
    fun v service phase lt => ?_, fun i rest none queue starts unread => ?_⟩
  · have reads : slotReads s = true := by simp [slotReads, none, down, queue]
    have taken : readSlotWord s = takeIndex i rest false (freshAnalysis s) := by
      simp [readSlotWord, none, queue]
    rw [headUnread_eq_false (.inl down), if_neg (by simp), if_pos reads, taken]
    intro take
    refine ⟨fun kind => ?_, fun kind => ?_⟩
    · rw [readRest_kind (v := ⟨i, word i 0, 0, [], .seqWord false⟩) (by rfl) rfl rfl
        ((isKindCode_iff _).mpr kind)]
      rfl
    · rw [readRest_unknown (v := ⟨i, word i 0, 0, [], .seqWord false⟩) (by rfl) rfl rfl
        (mt (isKindCode_iff _).mp kind)]
      rfl
  · have reads : slotReads s = true := by simp [slotReads, service, Service.reads, phase]
    rw [headUnread_eq_false (.inr (by simp [service])), if_neg (by simp), if_pos reads]
    refine ⟨fun e => ?_, fun e kind => ?_, fun e kind => ?_⟩
    · subst e
      have rest := readRest_refused service phase none
      rw [readRest_readSlotWord service (by rw [rest]; rfl), rest]
      rfl
    · subst e
      have rest := readRest_kind service phase none ((isKindCode_iff _).mpr kind)
      rw [readRest_readSlotWord service (by rw [rest]; rfl), rest]
      rfl
    · subst e
      have rest := readRest_unknown service phase none (mt (isKindCode_iff _).mp kind)
      rw [readRest_readSlotWord service (by rw [rest]; rfl), rest]
      rfl
  · have reads : slotReads s = true := by simp [slotReads, service, Service.reads, phase]
    have rest := readRest_params service phase lt
    rw [headUnread_eq_false (.inr (by simp [service])), if_neg (by simp), if_pos reads,
      readRest_readSlotWord service (by rw [rest]; rfl), rest]
    rfl
  · have head : headUnread s = true := by simp [headUnread, starts, unread, none, queue]
    rw [if_pos head]
    refine ⟨fun other => ?_, fun dial => ?_⟩
    · rw [readHead_other queue none other]
    · rw [readHead_dial queue none dial]
      rfl

theorem completionLeft_answered {s : State} {v : Service} {a : Answer} {n : Nat}
    (service : s.rqu.service = some v) (phase : v.phase = .answered a n) :
    completionLeft s = (completionWords v a (slotAddr s v.slot)).drop n := by
  simp [completionLeft, service, phase]

theorem abandonLeft_marked {s : State} {x : Abandon} {rest : List Abandon}
    (marked : s.rqu.abandon = x :: rest) :
    abandonLeft s = (abandonWords (slotAddr s x.slot)).drop x.written := by
  simp [abandonLeft, marked]

theorem exec_requestComplete {s : State} (up : s.powered = true) (left : completionLeft s ≠ []) :
    exec .requestComplete s =
      .next
        (if portReaches .rqu s then
          judgeHead (endService { s with mem := s.mem.storeAll (completionLeft s) })
        else s) := by
  unfold exec execRequestComplete
  rw [onPower_up up]
  cases e : completionLeft s with
  | nil => exact absurd e left
  | cons x xs => simp only

theorem exec_abandonWriteDone {s : State} (up : s.powered = true) (left : abandonLeft s ≠ []) :
    exec .abandonWriteDone s =
      .next
        (if portReaches .rqu s then endAbandon { s with mem := s.mem.storeAll (abandonLeft s) }
        else s) := by
  unfold exec execAbandonWriteDone
  rw [onPower_up up]
  cases e : abandonLeft s with
  | nil => exact absurd e left
  | cons x xs => simp only

/-- The port still comes to the RQU once it has completed the request in service: with none in
service no
analysis is in hand. -/
theorem portReaches_completed {s : State} (reach : portReaches .rqu s = true) (m : Memory)
    (marks : Marks) (r : Rqu) (service : r.service = none) :
    portReaches .rqu { s with mem := m, bpu.busy := marks, rqu := r } = true := by
  rw [portReaches_rqu] at reach ⊢
  simp only [waits, Bool.and_eq_true, Bool.not_eq_true', Bool.or_eq_false_iff] at reach ⊢
  rw [analysisReads_of_none (by exact service)]
  exact ⟨reach.1, reach.2.1, rfl⟩

/-- The index that comes to the head in STARTING is judged where the port comes to the RQU (R29). -/
theorem judgeHead_reached {s : State} {i : Nat} {rest : List Nat} (up : starting s = true)
    (queue : s.rqu.queue = i :: rest) (service : s.rqu.service = none)
    (reach : portReaches .rqu { s with rqu.unread := true } = true) :
    judgeHead s = readRest (readHead { s with rqu.unread := true }) := by
  have unread : headUnread { s with rqu.unread := true } = true := by
    simp [headUnread, service, queue]
    exact up
  have cases := judgeHead_cases s
  dsimp only at cases
  rw [unread, reach] at cases
  simpa using cases

theorem judgeHead_of_empty {s : State} (queue : s.rqu.queue = []) : judgeHead s = s := by
  have unread : headUnread { s with rqu.unread := true } = false := by simp [headUnread, queue]
  have cases := judgeHead_cases s
  dsimp only at cases
  rw [unread] at cases
  simpa using cases

theorem slotsCompleted : Clause.SlotsCompleted := by
  intro s up
  refine ⟨fun no => ?_, fun v a n reach service phase lt => ?_, fun x rest reach marked lt => ?_⟩
  · constructor
    · by_cases left : completionLeft s = []
      · unfold exec execRequestComplete
        rw [onPower_up up, left]
      · rw [exec_requestComplete up left, if_neg (by simp [no])]
    · by_cases left : abandonLeft s = []
      · unfold exec execAbandonWriteDone
        rw [onPower_up up, left]
      · rw [exec_abandonWriteDone up left, if_neg (by simp [no])]
  · intro b done
    have words := completionLeft_answered service phase
    have left : completionLeft s ≠ [] := by
      rw [words, Ne, List.drop_eq_nil_iff, not_le]
      exact lt
    have ended : endService { s with mem := s.mem.storeAll (completionLeft s) } = done := by
      rw [words]
      simp only [endService, service]
      rfl
    rw [exec_requestComplete up left, if_pos reach, ended]
    refine ⟨fun idle => ?_, fun i rest starts queue => ?_⟩
    · rcases idle with down | empty
      · rw [judgeHead_of_idle (s := done) (.inl down)]
      · rw [judgeHead_of_empty (s := done) empty]
    · have reached : portReaches .rqu { done with rqu.unread := true } = true :=
        portReaches_completed reach _ _ _ rfl
      rw [judgeHead_reached (s := done) starts queue rfl reached]
      refine ⟨fun other => ?_, fun dial => ?_⟩
      · rw [readHead_other (s := { done with rqu.unread := true }) queue rfl other]
      · rw [readHead_dial (s := { done with rqu.unread := true }) queue rfl dial]
        rfl
  · have words := abandonLeft_marked marked
    have left : abandonLeft s ≠ [] := by
      rw [words, Ne, List.drop_eq_nil_iff, not_le]
      exact lt
    rw [exec_abandonWriteDone up left, if_pos reach, words]
    simp only [endAbandon, marked]
    rfl

/-- Settles O20. -/
theorem slotsTakenAndCompleted : Obligations.SlotsTakenAndCompleted := ⟨requestTaken, slotsCompleted⟩

end Sys2Proof.Machine
end

section
/-! The port's order, and the controller's word (R16, R17). -/

namespace Sys2Proof.Machine

/-! ### The order (R16) -/

theorem portReaches_controller (s : State) :
    portReaches .controller s = true ↔ (s.pfu.power = .saving → waits .pfu s = false) := by
  unfold portReaches
  cases s.pfu.power <;> simp [grantOrder, List.takeWhile]

theorem portReaches_pfu (s : State) :
    portReaches .pfu s = true ↔ (s.pfu.power ≠ .saving → waits .controller s = false) := by
  unfold portReaches
  cases s.pfu.power <;> simp [grantOrder, List.takeWhile]

theorem portReaches_adu (s : State) :
    portReaches .adu s = true ↔ waits .controller s = false ∧ waits .pfu s = false := by
  unfold portReaches
  cases s.pfu.power <;> simp [grantOrder, List.takeWhile, and_comm]

theorem portReaches_tru (s : State) :
    portReaches .tru s = true ↔
      waits .controller s = false ∧ waits .pfu s = false ∧ waits .adu s = false := by
  unfold portReaches
  cases s.pfu.power <;> simp [grantOrder, List.takeWhile, and_left_comm]

theorem portReaches_rqu_iff (s : State) :
    portReaches .rqu s = true ↔
      waits .controller s = false ∧ waits .pfu s = false ∧ waits .adu s = false ∧
        waits .tru s = false := by
  simp [portReaches_rqu, and_assoc]

theorem portReaches_cfl (s : State) :
    portReaches .cfl s = true ↔
      waits .controller s = false ∧ waits .pfu s = false ∧ waits .adu s = false ∧
        waits .tru s = false ∧ waits .rqu s = false := by
  unfold portReaches
  cases s.pfu.power <;> simp [grantOrder, List.takeWhile, and_left_comm]

/-- The party that waits and that the port reaches has its word. -/
theorem exec_portGrant {s : State} {p : Party} (up : s.powered = true) (wait : waits p s = true)
    (reach : portReaches p s = true) : exec .portGrant s = .next (grant p s) := by
  have first : winner s = some p := (winner_eq_some_iff p s).mpr ⟨wait, reach⟩
  unfold exec execPortGrant
  rw [onPower_up up, first]

theorem portReached : Clause.PortReached := by
  intro s up quiet
  refine ⟨fun none => ?_, portReaches_controller s, portReaches_pfu s, portReaches_adu s,
    portReaches_tru s, portReaches_rqu_iff s, portReaches_cfl s⟩
  have nobody : winner s = .none := by
    rw [winner, List.find?_eq_none]
    exact fun p _ => by simp [show waits p s = false from none p]
  unfold exec execPortGrant
  rw [onPower_up up, nobody]

/-! ### The controller's word -/

/-- A word of memory is of no matter to the parties before the RQU, as long as no analysis is in
hand. -/
theorem portReaches_stored {s : State} (service : s.rqu.service = none) (m : Memory) :
    portReaches .rqu { s with mem := m } = portReaches .rqu s := by
  simp only [portReaches_rqu, waits, analysisReads_of_none service]
  rw [analysisReads_of_none (by exact service)]
  rfl

theorem exec_portGrant_controller {s : State} {c : Cycle} {a : Nat} (up : s.powered = true)
    (cycle : s.bpu.cycle = some c) (route : c.route = some a)
    (first : s.pfu.power ≠ .saving ∨ waits .pfu s = false) :
    exec .portGrant s = .next (controllerAccess c { s with bpu.cycle := none }) := by
  rw [exec_portGrant (p := .controller) up (by simp [waits, cycle, route])
    ((portReaches_controller s).mpr fun saving => first.resolve_left fun h => h saving)]
  simp [grant, grantController, cycle]

theorem controllerWordGranted : Clause.ControllerWordGranted := by
  intro s c a up cycle route first mem posts
  rw [exec_portGrant_controller up cycle route first]
  have access : c.route.getD c.addr = a := by simp [route]
  refine ⟨fun read decoded => ?_, fun read undecoded => ?_, fun write none => ?_,
    fun w write e kind post => ?_⟩
  · simp [controllerAccess, access, read, decoded, answerRead]
  · exact ⟨_, by simp [controllerAccess, access, read, undecoded, answerRead]; rfl⟩
  · have stored : controllerAccess c { s with bpu.cycle := Option.none } =
        afterWrite c { s with mem := mem, bpu.cycle := Option.none } := by
      simp [controllerAccess, access, write, mem]
    rw [stored]
    cases e : windowAt s c.addr with
    | none => rw [afterWrite_outside (by exact e)]
    | some w =>
      rcases none w e with kind | ⟨kind, unposted⟩
      · rw [afterWrite_of_window (w := w) (by exact e) (by simp [kind]), kind]
        rfl
      · rw [afterWrite_request (w := w) (by exact e) kind]
        split
        · rename_i full
          obtain ⟨lt, slot, lanes, ne⟩ := full
          have busy : s.bpu.busy.get ((c.addr - w.base) / 0x40) = true := by
            by_contra free
            exact unposted ⟨lt, slot, lanes, ne, by simpa using free⟩
          simp [postSlot, busy]
        · rfl
  · intro i posted k
    obtain ⟨lt, slot, lanes, ne, free⟩ := post
    have written : controllerAccess c { s with bpu.cycle := none } =
        postSlot i { s with mem := mem, bpu.cycle := none } := by
      have stored : controllerAccess c { s with bpu.cycle := none } =
          afterWrite c { s with mem := mem, bpu.cycle := none } := by
        simp [controllerAccess, access, write, mem]
      rw [stored, afterWrite_request (w := w) (by exact e) kind, if_pos ⟨lt, slot, lanes, ne⟩]
    rw [written]
    refine ⟨fun idle => ?_, fun starts queue service => ?_⟩
    · rw [postSlot_free (by exact free)]
      split
      · rename_i queue
        rw [judgeHead_of_idle (by exact idle.imp id fun h => h.resolve_left (by simpa using queue))]
      · rfl
    · intro reached
      have reach : portReaches .rqu { s with mem := mem, bpu.cycle := none } =
          portReaches .rqu { s with bpu.cycle := none } :=
        portReaches_stored (s := { s with bpu.cycle := none }) service mem
      refine ⟨fun no => ?_, fun yes other => ?_, fun yes dial => ?_⟩
      · rw [postSlot_unreached (by exact free) (by exact starts) (by exact queue) (by exact service)
          (by rw [reach]; simpa [reached] using no)]
        simp [posted, queue]
      · rw [postSlot_other (by exact free) (by exact starts) (by exact queue) (by exact service)
          (by rw [reach]; exact yes) (by exact other)]
        simp [posted, queue]
      · rw [postSlot_dial (a := k) (kind := mem.word k) (by exact free) (by exact starts)
          (by exact queue) (by exact service) (by rw [reach]; exact yes) (by rfl) (by rfl) dial]

end Sys2Proof.Machine
end

section
/-! The words of the PFU, of the ADU and of the TRU (R16, R161, R175 to R177, R73, R78, R79). -/

namespace Sys2Proof.Machine

/-! ### The PFU's words -/

theorem invalidWaits_of_stage {s : State} {stage : WordStage} (h : invalidStage s = some stage)
    (ne : stage ≠ .compare) : invalidWaits s = true := by
  simp [invalidWaits, h, ne]

theorem exec_portGrant_pfu {s : State} (up : s.powered = true) (wait : waits .pfu s = true)
    (first : waits .controller s = false ∨ s.pfu.power = .saving) :
    exec .portGrant s = .next (grantPfu s) :=
  exec_portGrant (p := .pfu) up wait
    ((portReaches_pfu s).mpr fun h => first.resolve_right h)

section
variable {s : State} (save : s.pfu.save = []) (again : s.pfu.again = false)
include save again

theorem grantPfu_write (stage : invalidStage s = some .write) :
    grantPfu s = storeWord (validityAddr s) 0 (setInvalidStage .read s) := by
  unfold grantPfu
  simp only [save, again, stage]
  rfl

theorem grantPfu_read (stage : invalidStage s = some .read) :
    grantPfu s = setInvalidStage .compare s := by
  unfold grantPfu
  simp only [save, again, stage]
  rfl

theorem grantPfu_context (stage : invalidStage s = none) :
    grantPfu s = { s with pfu.contextRead := s.pfu.contextRead + 1 } := by
  unfold grantPfu
  simp only [save, again, stage]
  rfl

end

theorem powerWordsGranted : Clause.PowerWordsGranted := by
  intro s up validity
  refine ⟨fun a w rest saving save => ?_, fun save first => ⟨fun u again unsave => ?_,
    fun again unsave run => ⟨fun step5 => ?_, fun step5 => ?_, fun step5 tariff fault compared lt => ?_⟩,
    fun again warning => ?_, fun again warning wrote => ?_⟩⟩
  · intro stored
    have granted : exec .portGrant s = .next (if rest = [] then enterSaved stored else stored) := by
      rw [exec_portGrant_pfu up (by simp [waits, saving, save]) (.inr saving)]
      simp only [grantPfu, save]
      rfl
    rw [granted]
    refine ⟨fun more => by rw [if_neg more], fun last warning => ?_, fun last => ?_⟩
    · rw [if_pos last]
      simp [enterSaved, stored, warning, last]
    · rw [if_pos last]
      unfold exec execSaveDone
      rw [onPower_up up]
      simp only [saving, save, last]
      rfl
  · have stage : invalidStage s = some u.stage := by simp [invalidStage, unsave]
    refine ⟨fun write => ?_, fun read => ?_⟩
    · rw [exec_portGrant_pfu up
        (by simp [waits, invalidWaits_of_stage stage (by simp [write])]) first,
        grantPfu_write save again (by rw [stage, write])]
      simp [setInvalidStage, unsave, storeWord]
      rfl
    · rw [exec_portGrant_pfu up
        (by simp [waits, invalidWaits_of_stage stage (by simp [read])]) first,
        grantPfu_read save again (by rw [stage, read])]
      simp [setInvalidStage, unsave]
  · have stage : invalidStage s = some .write := by simp [invalidStage, unsave, step5, running, run]
    rw [exec_portGrant_pfu up (by simp [waits, invalidWaits_of_stage stage (by simp)]) first,
        grantPfu_write save again stage]
    simp [setInvalidStage, unsave, storeWord]
    rfl
  · have stage : invalidStage s = some .read := by simp [invalidStage, unsave, step5, running, run]
    rw [exec_portGrant_pfu up (by simp [waits, invalidWaits_of_stage stage (by simp)]) first,
        grantPfu_read save again stage]
    simp [setInvalidStage, unsave]
  · have stage : invalidStage s = none := by
      unfold invalidStage
      simp only [unsave]
    have compares : compareReads s = false := by
      rw [compareReads]
      cases e : s.tru.compare with
      | none => simp
      | some rev =>
        have := compared rev e
        simp only [Option.any_some, Bool.and_eq_false_iff, decide_eq_false_iff_not]
        omega
    have reads : contextReads s = true := by
      simp [contextReads, tariff, fault, running, run, compares, contextSize, lt]
    rw [exec_portGrant_pfu up (by simp [waits, reads]) first, grantPfu_context save again stage]
  · rw [exec_portGrant_pfu up (by simp [waits, invalidWaits, again]) first]
    simp [grantPfu, save, again, writeAgain, warning, storeWord]
    rfl
  · rw [exec_portGrant_pfu up (by simp [waits, invalidWaits, again]) first]
    simp [grantPfu, save, again, writeAgain, warning, storeWord, leaveSaved, wrote]
    rfl

/-! ### The ADU's words -/

theorem exec_portGrant_adu {s : State} (up : s.powered = true) (wait : waits .adu s = true)
    (controller : waits .controller s = false) (pfu : waits .pfu s = false) :
    exec .portGrant s = .next (grantAdu s) :=
  exec_portGrant (p := .adu) up wait ((portReaches_adu s).mpr ⟨controller, pfu⟩)

theorem writerWordGranted : Clause.WriterWordGranted := by
  intro s r a w rest up run todo controller pfu
  refine ⟨fun stage goes => ?_, fun stage => ?_⟩
  · have waiting : writerWaits s = true := by
      rcases goes with power | tries
      · simp [writerWaits, run, todo, stage, wordMayGoOn, running, power]
      · simp [writerWaits, run, todo, stage, wordMayGoOn, tries]
    rw [exec_portGrant_adu up (by simp [waits, waiting]) controller pfu, grantAdu, if_pos waiting]
    simp [writerWord, run, todo, stage, storeWord]
  · have waiting : writerWaits s = true := by simp [writerWaits, run, todo, stage, wordMayGoOn]
    rw [exec_portGrant_adu up (by simp [waits, waiting]) controller pfu, grantAdu, if_pos waiting]
    simp [writerWord, run, stage]

/-- The first reading of call-log slot `k` ends with this word of step 3. -/
theorem slotEnding_call {n k : Nat} (lt : k < 256) (e : n = 49 + 32 + 32 * (k + 1)) :
    slotEnding n = some (.call, k, 32) := by
  have before : ¬ n ≤ 81 := by omega
  have within : n ≤ 81 + 8192 := by omega
  have whole : (n - 81) % 32 = 0 := by omega
  have slot : (n - 81) / 32 - 1 = k := by omega
  simp [slotEnding, before, within, whole, slot]

theorem slotEnding_incident {n k : Nat} (_ : k < 64) (e : n = 49 + 32 + 8192 + 16 * (k + 1)) :
    slotEnding n = some (.incident, k, 16) := by
  have before : ¬ n ≤ 81 := by omega
  have beyond : ¬ n ≤ 81 + 8192 := by omega
  have whole : (n - 8273) % 16 = 0 := by omega
  have slot : (n - 8273) / 16 - 1 = k := by omega
  simp [slotEnding, before, beyond, whole, slot]

theorem slotEnding_none {n : Nat} (le : n ≤ 9297)
    (call : ∀ k, ¬ (k < 256 ∧ n = 49 + 32 + 32 * (k + 1)))
    (incident : ∀ k, ¬ (k < 64 ∧ n = 49 + 32 + 8192 + 16 * (k + 1))) : slotEnding n = none := by
  have noCall := call ((n - 81) / 32 - 1)
  have noIncident := incident ((n - 8273) / 16 - 1)
  unfold slotEnding
  dsimp only
  split
  · rfl
  split
  · exact if_neg (by omega)
  · exact if_neg (by omega)

theorem loadWordGranted : Clause.LoadWordGranted := by
  intro s up step fault run idle controller pfu good n read callEnds incidentEnds
  have noWriter : writerWaits s = false := by simp [writerWaits, idle]
  have granted (h : s.adu.loaded < 9297 ∨ s.adu.rereading ≠ 0) :
      exec .portGrant s = .next (loadWord s) := by
    have reads : loadReads s = true := by
      simp only [loadReads, step, fault, running, run, loadSize, Bool.and_eq_true, Bool.or_eq_true,
        decide_eq_true_eq]
      exact ⟨by simp, h.imp decide_eq_true id⟩
    rw [exec_portGrant_adu up (by simp [waits, reads]) controller pfu, grantAdu,
      if_neg (by simp [noWriter])]
  refine ⟨fun again => ?_, fun first le => ?_⟩
  · rw [granted (.inr again), loadWord, if_pos again]
  have word : exec .portGrant s =
      .next { s with adu.loaded := n, adu.rereading := secondReading n s } := by
    rw [granted (.inl le), loadWord, if_neg (by simp [first])]
  refine ⟨fun k ends => ⟨fun h => ?_, fun h => ?_⟩, fun k ends => ⟨fun h => ?_, fun h => ?_⟩,
    fun none => ?_⟩
  · simp only [read, word, secondReading, slotEnding_call ends.1 ends.2]
    rw [if_pos h]
  · simp only [read, word, secondReading, slotEnding_call ends.1 ends.2]
    rw [if_neg h]
  · simp only [read, word, secondReading, slotEnding_incident ends.1 ends.2]
    rw [if_pos h]
  · simp only [read, word, secondReading, slotEnding_incident ends.1 ends.2]
    rw [if_neg h]
  · simp only [read, word, secondReading,
      slotEnding_none le (fun k => (none k).1) (fun k => (none k).2)]

/-! ### The TRU's words -/

theorem exec_portGrant_tru {s : State} (up : s.powered = true) (wait : waits .tru s = true)
    (controller : waits .controller s = false) (pfu : waits .pfu s = false)
    (adu : waits .adu s = false) : exec .portGrant s = .next (grantTru s) :=
  exec_portGrant (p := .tru) up wait ((portReaches_tru s).mpr ⟨controller, pfu, adu⟩)

/-- An analysis whose words are being read has passed step 3 (R79). -/
theorem analyse_of_inHand {s : State} {number : List Nat} (h : numberInHand s = some number) :
    analyse number s = routeNumber (liveArea (baseOf .tariff s) s.mem) number := by
  unfold numberInHand at h
  split at h
  · dsimp only at h
    split at h
    · rename_i judged
      simp only [Bool.and_eq_true, Bool.not_eq_true', Option.isNone_iff_eq_none] at judged
      obtain ⟨⟨⟨_, lets⟩, edited⟩, outcome⟩ := judged
      have emergency : isEmergency number s = false := by
        have := (Option.filter_eq_some_iff.mp h).2
        simpa using this
      simp [analyse, emergency, outcome, lets, edited]
    · cases h
  · cases h

theorem tariffWordGranted : Clause.TariffWordGranted := by
  intro s up controller pfu adu wordAfter reads compares
  have checkReads_iff : checkReads s = true ↔ reads := by
    simp only [checkReads, reads, Option.any_eq_true, Bool.and_eq_true, Bool.not_eq_true',
      decide_eq_true_eq]
  have compareReads_iff : compareReads s = true ↔ compares := by
    simp only [compareReads, compares, running, Option.any_eq_true, Bool.and_eq_true,
      decide_eq_true_eq]
    grind
  refine ⟨fun k check writing lt => ?_, fun rev none run compare lt => ?_,
    fun number none none' inHand lt => ?_⟩
  · have reading := checkReads_iff.mpr ⟨k, check, writing, lt⟩
    rw [exec_portGrant_tru up (by simp [waits, reading]) controller pfu adu, grantTru]
    simp only [reading, if_true, check, Option.map_some]
    rfl
  · have checked : checkReads s = false := by simpa [← checkReads_iff] using none
    have reading := compareReads_iff.mpr ⟨rev, run, compare, lt⟩
    rw [exec_portGrant_tru up (by simp [waits, reading]) controller pfu adu, grantTru]
    simp only [checked, reading, if_true, compare, Option.map_some]
    rfl
  · have checked : checkReads s = false := by simpa [← checkReads_iff] using none
    have compared : compareReads s = false := by simpa [← compareReads_iff] using none'
    have reading : analysisReads s = true := by simp [analysisReads, inHand, lt]
    intro n
    rw [exec_portGrant_tru up (by simp [waits, reading]) controller pfu adu, grantTru]
    simp only [checked, compared, readAnalysisWord, inHand, Option.bind_some, analyse_of_inHand inHand]
    rfl

end Sys2Proof.Machine
end

section
/-! The words of the RQU and of the CFL (R16, R27, R36, R37, R40), and O22. -/

namespace Sys2Proof.Machine

/-! ### The RQU's words -/

section
variable {s : State} {v : Service}

theorem completionLeft_ne_nil :
    completionLeft s ≠ [] ↔
      ∃ v a n, s.rqu.service = some v ∧ v.phase = .answered a n ∧ n < 6 := by
  constructor
  · intro left
    cases service : s.rqu.service with
    | none => simp [completionLeft, service] at left
    | some v =>
      cases phase : v.phase with
      | answered a n =>
        rw [completionLeft_answered service phase, Ne, List.drop_eq_nil_iff, not_le] at left
        exact ⟨v, a, n, rfl, phase, left⟩
      | _ => simp [completionLeft, service, phase] at left
  · rintro ⟨v, a, n, service, phase, lt⟩
    rw [completionLeft_answered service phase, Ne, List.drop_eq_nil_iff, not_le]
    exact lt

theorem headComes_of_none (service : s.rqu.service = none) :
    headComes s =
      { s with
        rqu.unread := if starting s = true ∧ s.rqu.queue ≠ [] then true else s.rqu.unread } := by
  have unread : headUnread { s with rqu.unread := true } = true ↔
      starting s = true ∧ s.rqu.queue ≠ [] := by
    rw [show starting s = starting { s with rqu.unread := true } from rfl]
    simp [headUnread, service]
  unfold headComes
  dsimp only
  split
  · rename_i h
    rw [if_pos (unread.mp h)]
  · rename_i h
    rw [if_neg (mt unread.mpr h)]

/-- A word of a completion but its last is written (R37). -/
theorem writeCompletion_next {a : Answer} {n : Nat} (service : s.rqu.service = some v)
    (phase : v.phase = .answered a n) (lt : n < 5) :
    writeCompletion s =
      let base := slotAddr s v.slot
      let word :=
        [(base + 6, a.r1), (base + 8, a.r2), (base + 10, a.r3), (base + 4, a.code),
          (base + 2, v.seq)].getD n (0, 0)
      { s with
        mem := s.mem.store word.1 word.2 .both
        rqu.service := some { v with phase := .answered a (n + 1) } } := by
  have left := completionLeft_answered service phase
  interval_cases n <;>
    simp [writeCompletion, left, completionWords, countService, storeWord, service, phase]

/-- With the last word of a completion the slot is free, and the next index comes to the head
(R37, R29). -/
theorem writeCompletion_last {a : Answer} (service : s.rqu.service = some v)
    (phase : v.phase = .answered a 5) :
    writeCompletion s =
      { s with
        mem := s.mem.store (slotAddr s v.slot) 0 .both
        bpu.busy := s.bpu.busy.set v.slot false
        rqu.service := none
        rqu.flags := setFlag s.rqu.flags .request
        rqu.unread := if starting s = true ∧ s.rqu.queue ≠ [] then true else s.rqu.unread } := by
  have left := completionLeft_answered service phase
  simp only [writeCompletion, left, completionWords, List.drop_succ_cons, List.drop_zero, endService,
    storeWord, service, slotCleared, raise]
  rw [headComes_of_none (by rfl)]
  rfl

theorem writeAbandon_next {x : Abandon} {rest : List Abandon} (marked : s.rqu.abandon = x :: rest)
    (lt : x.written < 4) :
    writeAbandon s =
      let base := slotAddr s x.slot
      let word := [(base + 6, 0), (base + 8, 0), (base + 10, 0), (base + 4, 21)].getD x.written (0, 0)
      { s with
        mem := s.mem.store word.1 word.2 .both
        rqu.abandon := { x with written := x.written + 1 } :: rest } := by
  have left := abandonLeft_marked marked
  obtain ⟨slot, n⟩ := x
  simp only at lt left
  interval_cases n <;> simp [writeAbandon, left, abandonWords, marked, storeWord]; rfl

theorem writeAbandon_last {x : Abandon} {rest : List Abandon} (marked : s.rqu.abandon = x :: rest)
    (last : x.written = 4) :
    writeAbandon s =
      { s with
        mem := s.mem.store (slotAddr s x.slot) 0 .both
        bpu.busy := s.bpu.busy.set x.slot false
        rqu.abandon := rest
        rqu.flags := setFlag s.rqu.flags .request } := by
  have left := abandonLeft_marked marked
  rw [last] at left
  simp [writeAbandon, left, abandonWords, marked, storeWord, endAbandon, slotCleared, raise]

end

theorem exec_portGrant_rqu {s : State} (up : s.powered = true) (wait : waits .rqu s = true)
    (controller : waits .controller s = false) (pfu : waits .pfu s = false)
    (adu : waits .adu s = false) (tru : waits .tru s = false) :
    exec .portGrant s = .next (grantRqu s) :=
  exec_portGrant (p := .rqu) up wait ((portReaches_rqu_iff s).mpr ⟨controller, pfu, adu, tru⟩)

/-- The RQU waits for a word of an abandoning or for one that serves a request. -/
theorem waits_rqu (s : State) :
    waits .rqu s = true ↔ abandonLeft s ≠ [] ∨ serves s = true := by
  simp only [waits, serves, Bool.or_eq_true, decide_eq_true_eq]
  tauto

theorem serveWord_completes {s : State} (left : completionLeft s ≠ []) :
    serves s = true ∧ serveWord s = writeCompletion s := by
  simp [serves, serveWord, left]

theorem serveWord_judges {s : State} (left : completionLeft s = []) (unread : headUnread s = true) :
    serves s = true ∧ serveWord s = readHead s := by
  simp [serves, serveWord, left, unread]

theorem serveWord_reads {s : State} (left : completionLeft s = []) (unread : headUnread s = false)
    (reads : slotReads s = true) : serves s = true ∧ serveWord s = readSlotWord s := by
  simp [serves, serveWord, left, unread, reads]

theorem completionLeft_unanswered {s : State} {v : Service} (service : s.rqu.service = some v)
    (phase : ∀ a n, v.phase ≠ .answered a n) : completionLeft s = [] := by
  unfold completionLeft
  simp only [service]

theorem readHead_eq {s : State} {i : Nat} {rest : List Nat} (queue : s.rqu.queue = i :: rest)
    (service : s.rqu.service = none) :
    readHead s =
      if (s.mem.word (slotAddr s i)).toNat = 1 then
        { s with
          rqu.queue := rest
          rqu.unread := false
          rqu.service := some ⟨i, s.mem.word (slotAddr s i), 0, [], .seqWord true⟩ }
      else { s with rqu.unread := false } := by
  unfold readHead
  simp only [queue, service]
  rfl

theorem readSlotWord_takes {s : State} {i : Nat} {rest : List Nat} (queue : s.rqu.queue = i :: rest)
    (service : s.rqu.service = none) :
    readSlotWord s =
      { s with
        rqu.queue := rest
        rqu.service := some ⟨i, s.mem.word (slotAddr s i), 0, [], .seqWord false⟩
        tru.edited := false
        tru.analysed := 0
        tru.outcome := none } := by
  unfold readSlotWord
  simp only [queue, service]
  rfl

theorem readSlotWord_reads {s : State} {v : Service} (service : s.rqu.service = some v) :
    readSlotWord s =
      { s with rqu.service := some (v.readWord s.mem (slotAddr s v.slot)) } := by
  unfold readSlotWord
  simp only [service, readService, Option.map_some]

theorem Service.readWord_seqWord {v : Service} {refused : Bool} (m : Memory) (a : Nat)
    (phase : v.phase = .seqWord refused) :
    v.readWord m a =
      { v with
        seq := m.word (a + 2)
        phase :=
          if refused = true then .answered ⟨4, 0, 0, 0⟩ 0
          else if 1 ≤ v.kind.toNat ∧ v.kind.toNat ≤ 18 then .paramWords
          else .answered ⟨22, v.kind, 0, 0⟩ 0 } := by
  simp only [Service.readWord, Service.feed, Service.nextPlace, phase, isKindCode_iff]
  rfl

theorem Service.readWord_paramWords {v : Service} (m : Memory) (a : Nat)
    (phase : v.phase = .paramWords) (lt : v.params.length < 26) :
    v.readWord m a =
      { v with
        params := v.params ++ [m.word (a + (12 + 2 * v.params.length))]
        phase := if v.params.length = 25 then .handed else .paramWords } := by
  simp only [Service.readWord, Service.feed, Service.nextPlace, phase]
  by_cases last : v.params.length = 25
  · rw [if_neg (by omega), if_pos last]
  · rw [if_pos (by omega), if_neg last]

theorem requestWordGranted : Clause.RequestWordGranted := by
  intro s up controller pfu adu tru b word completed abandoned judged taken sequenceRead parameterRead
    idle served few
  have completionLeft_none (none : s.rqu.service = none) : completionLeft s = [] := by
    simp [completionLeft, none]
  have serving : ∀ f, served f →
      serves s = true ∧ ∀ n, serveWord { s with free := n } = f { s with free := n } := by
    rintro f (⟨v, a, n, service, phase, lt, rfl⟩ | ⟨i, rest, none, starts, unread, queue, rfl⟩ |
      ⟨i, rest, none, down, queue, rfl⟩ | ⟨v, r, service, phase, rfl⟩ | ⟨v, service, phase, lt, rfl⟩)
    · have left := completionLeft_ne_nil.mpr ⟨v, a, n, service, phase, lt⟩
      refine ⟨(serveWord_completes left).1, fun m => ?_⟩
      rw [(serveWord_completes (s := { s with free := m }) left).2]
      by_cases lt' : n < 5
      · rw [writeCompletion_next (s := { s with free := m }) service phase lt']
        simp only [completed, if_pos lt']
        rfl
      · obtain rfl : n = 5 := by omega
        rw [writeCompletion_last (s := { s with free := m }) service phase]
        rfl
    · have left := completionLeft_none none
      have head : headUnread s = true := by
        simp [headUnread, starts, unread, show s.rqu.service = .none from none, queue]
      refine ⟨(serveWord_judges left head).1, fun m => ?_⟩
      rw [(serveWord_judges (s := { s with free := m }) left head).2,
        readHead_eq (s := { s with free := m }) queue none]
      rfl
    · have reads : slotReads s = true := by
        simp [slotReads, down, show s.rqu.service = .none from none, queue]
      have left := completionLeft_none none
      have head := headUnread_eq_false (s := s) (.inl down)
      refine ⟨(serveWord_reads left head reads).1, fun m => ?_⟩
      rw [(serveWord_reads (s := { s with free := m }) left head reads).2,
        readSlotWord_takes (s := { s with free := m }) queue none]
      rfl
    · have reads : slotReads s = true := by simp [slotReads, service, Service.reads, phase]
      have left := completionLeft_unanswered service (by simp [phase])
      have head := headUnread_eq_false (s := s) (.inr (by simp [service]))
      refine ⟨(serveWord_reads left head reads).1, fun m => ?_⟩
      rw [(serveWord_reads (s := { s with free := m }) left head reads).2,
        readSlotWord_reads (s := { s with free := m }) service,
        Service.readWord_seqWord _ _ phase]
      rfl
    · have reads : slotReads s = true := by simp [slotReads, service, Service.reads, phase]
      have left := completionLeft_unanswered service (by simp [phase])
      have head := headUnread_eq_false (s := s) (.inr (by simp [service]))
      refine ⟨(serveWord_reads left head reads).1, fun m => ?_⟩
      rw [(serveWord_reads (s := { s with free := m }) left head reads).2,
        readSlotWord_reads (s := { s with free := m }) service,
        Service.readWord_paramWords _ _ phase lt]
      rfl
  have unserved : (∀ f, ¬ served f) → serves s = false := by
    intro none
    rw [← Bool.not_eq_true]
    simp only [serves, Bool.or_eq_true, decide_eq_true_eq]
    rintro ((left | head) | reads)
    · obtain ⟨v, a, n, service, phase, lt⟩ := completionLeft_ne_nil.mp left
      exact none _ (.inl ⟨v, a, n, service, phase, lt, rfl⟩)
    · simp only [headUnread, Bool.and_eq_true, Option.isNone_iff_eq_none, decide_eq_true_eq] at head
      obtain ⟨⟨⟨starts, unread⟩, service⟩, queue⟩ := head
      obtain ⟨i, rest, queue⟩ := List.exists_cons_of_ne_nil queue
      exact none _ (.inr (.inl ⟨i, rest, service, starts, unread, queue, rfl⟩))
    · unfold slotReads at reads
      split at reads
      · rename_i v service
        unfold Service.reads at reads
        split at reads
        · rename_i r phase
          exact none _ (.inr (.inr (.inr (.inl ⟨v, r, service, phase, rfl⟩))))
        · rename_i phase
          exact none _ (.inr (.inr (.inr (.inr ⟨v, service, phase, few v service phase, rfl⟩))))
        · cases reads
      · rename_i service
        simp only [Bool.and_eq_true, Bool.not_eq_true', decide_eq_true_eq] at reads
        obtain ⟨i, rest, queue⟩ := List.exists_cons_of_ne_nil reads.2
        exact none _ (.inr (.inr (.inl ⟨i, rest, service, reads.1, queue, rfl⟩)))
  have marking : ∀ x rest, s.rqu.abandon = x :: rest → x.written < 5 →
      abandonLeft s ≠ [] ∧ ∀ n, writeAbandon { s with free := n } = abandoned x rest { s with free := n } := by
    intro x rest marked lt
    refine ⟨?_, fun n => ?_⟩
    · rw [abandonLeft_marked marked, Ne, List.drop_eq_nil_iff, not_le]
      exact lt
    · by_cases lt' : x.written < 4
      · rw [writeAbandon_next (s := { s with free := n }) marked lt']
        simp only [abandoned, if_pos lt']
        rfl
      · rw [writeAbandon_last (s := { s with free := n }) marked (by omega)]
        simp only [abandoned, if_neg lt']
        rfl
  refine ⟨fun none f h => ?_, fun x rest marked lt => ⟨fun none => ?_, fun f h => ?_⟩⟩
  · obtain ⟨waiting, word⟩ := serving f h
    have left : abandonLeft s = [] := by simp [abandonLeft, none]
    rw [exec_portGrant_rqu up ((waits_rqu s).mpr (.inr waiting)) controller pfu adu tru, grantRqu,
      if_pos left]
    exact congrArg _ (word s.free)
  · obtain ⟨left, word⟩ := marking x rest marked lt
    rw [exec_portGrant_rqu up ((waits_rqu s).mpr (.inl left)) controller pfu adu tru, grantRqu,
      if_neg left, if_neg (by simp [unserved none])]
    exact congrArg _ (word s.free)
  · obtain ⟨waiting, serveWord_eq⟩ := serving f h
    obtain ⟨left, writeAbandon_eq⟩ := marking x rest marked lt
    rw [exec_portGrant_rqu up ((waits_rqu s).mpr (.inl left)) controller pfu adu tru, grantRqu,
      if_neg left, if_pos waiting]
    dsimp only
    split
    · exact .inl (congrArg _ (writeAbandon_eq _))
    · exact .inr (congrArg _ (serveWord_eq _))

/-! ### The CFL's words -/

theorem preloadSkipped_iff (a : Nat) (s : State) :
    preloadSkipped a s = true ↔
      a % 2 = 1 ∨ 0x40000 ≤ a ∨
        ∃ w, windowAt s a = some w ∧ w.kind ≠ .plain ∧ w.kind ≠ .request := by
  simp only [preloadSkipped, windowAt, Bool.or_eq_true, decide_eq_true_eq, Option.any_eq_true,
    Bool.and_eq_true, or_assoc, Nat.mod_two_ne_zero]

/-- The tuples to be skipped before the next one to be written are dropped (R27). -/
theorem preloadHead_eq {s : State} {before rest : List (Nat × Word)} {t : Nat × Word}
    (tuples : s.cfl.preload = some (before ++ t :: rest))
    (skipped : ∀ x ∈ before, preloadSkipped x.1 s = true) (written : preloadSkipped t.1 s = false) :
    preloadHead s = t :: rest := by
  rw [preloadHead, tuples, Option.getD_some, List.dropWhile_append_of_pos skipped,
    List.dropWhile_cons_of_neg (by simp [written])]

theorem exec_portGrant_cfl {s : State} (up : s.powered = true) (wait : waits .cfl s = true)
    (controller : waits .controller s = false) (pfu : waits .pfu s = false)
    (adu : waits .adu s = false) (tru : waits .tru s = false) (rqu : waits .rqu s = false) :
    exec .portGrant s = .next (grantCfl s) :=
  exec_portGrant (p := .cfl) up wait ((portReaches_cfl s).mpr ⟨controller, pfu, adu, tru, rqu⟩)

theorem configurationWordGranted : Clause.ConfigurationWordGranted := by
  intro s up goes controller pfu adu tru rqu skipped
  have going : cflGoesOn s = true := by
    rcases goes with h | h <;> simp [cflGoesOn, running, h]
  refine ⟨fun k walk stage => ?_, fun before t rest walk tuples skip write => ?_⟩
  · rw [exec_portGrant_cfl up (by simp [waits, going, walk, stage]) controller pfu adu tru rqu]
    simp only [grantCfl, walk]
  · have written : preloadSkipped t.1 s = false := by
      rw [← Bool.not_eq_true]
      exact mt (preloadSkipped_iff _ _).mp write
    have left := preloadHead_eq tuples (fun x mem => (preloadSkipped_iff _ _).mpr (skip x mem)) written
    have count : (before ++ t :: rest).length - (t :: rest).length = before.length := by
      simp
    rw [exec_portGrant_cfl up (by simp [waits, going, left]) controller pfu adu tru rqu]
    simp only [grantCfl, walk, left, tuples, Option.getD_some, count, preloadTuple]
    rw [if_neg (by exact Bool.not_eq_true _ ▸ written)]
    rfl

/-- Settles O22. -/
theorem portGrantOrder : Obligations.PortGrantOrder :=
  ⟨portReached, controllerWordGranted, powerWordsGranted, writerWordGranted, loadWordGranted,
    tariffWordGranted, requestWordGranted, configurationWordGranted⟩

end Sys2Proof.Machine
end

section
/-! The chain walk's anchor, the ranges of its fields, the windows of an image (R20 to R24). -/

namespace Sys2Proof.Machine

theorem Walk.run_ended (m : Memory) (n : Nat) {k : Walk} (h : k.stage = .ended) :
    k.run m n = k := by
  cases n <;> simp [Walk.run, h]

theorem Walk.run_succ (m : Memory) (n : Nat) {k : Walk} (h : k.stage ≠ .ended) :
    k.run m (n + 1) = (k.feed (m.word k.next)).run m n := by
  simp [Walk.run, h]

theorem Walk.run_add (m : Memory) (i j : Nat) (k : Walk) :
    k.run m (i + j) = (k.run m i).run m j := by
  induction i generalizing k with
  | zero => simp [Walk.run]
  | succ i ih =>
    by_cases h : k.stage = .ended
    · simp [Walk.run_ended, h]
    · rw [Nat.succ_add, Walk.run_succ _ _ h, Walk.run_succ _ _ h, ih]

/-- A walk that has ended within its first words is read no further. -/
theorem Walk.finish_eq_run {m : Memory} {k : Walk} {n : Nat} (hn : n ≤ 3300)
    (h : (k.run m n).stage = .ended) : k.finish m = k.run m n := by
  obtain ⟨j, hj⟩ := Nat.exists_eq_add_of_le hn
  rw [Walk.finish, hj, Walk.run_add, Walk.run_ended m j h]

theorem Walk.outcome_of_verdict {k : Walk} {v : WalkReason × Nat} (h : k.verdict = some v) :
    k.outcome = some v := by
  simp [Walk.outcome, h]

/-! #### The anchor -/

theorem Walk.run_anchor (m : Memory) (lo hi : Nat) (anchored : Bool)
    (hsig : m.word 0x80000 = 0x4B44) :
    (Walk.start lo hi anchored).run m 3 =
      Walk.anchorWord [0x4B44, m.word 0x80002, m.word 0x80004]
        { Walk.start lo hi anchored with
          unit := [0x4B44, m.word 0x80002], next := 0x80004 } := by
  simp [Walk.run, Walk.feed, Walk.anchorWord, Walk.start, hsig]

/-- The three words of an anchor whose signature is right: a first offset of 0 fails, another is
followed (R20, R21). -/
theorem Walk.outcome_anchor (m : Memory) (hsig : m.word 0x80000 = 0x4B44) {r : WalkReason} {i : Nat}
    (h : let k := Walk.anchorWord [0x4B44, m.word 0x80002, m.word 0x80004]
           { Walk.start 0x80000 0x80800 true with
             unit := [0x4B44, m.word 0x80002], next := 0x80004 }
         k.stage = .ended ∧ k.verdict = some (r, i)) :
    ((Walk.start 0x80000 0x80800 true).finish m).outcome = some (r, i) := by
  obtain ⟨hend, hv⟩ := h
  rw [← Walk.run_anchor m _ _ _ hsig] at hend hv
  rw [Walk.finish_eq_run (by omega) hend, Walk.outcome_of_verdict hv]

theorem anchorJudged : Clause.AnchorJudged := by
  intro m
  refine ⟨fun h => ?_, fun hsig => ⟨fun h => ?_, fun h => ?_, fun h => ?_⟩⟩
  · have hrun : (Walk.start 0x80000 0x80800 true).run m 1 =
        (Walk.start 0x80000 0x80800 true).fail .badAnchor 0xFF := by
      have hne : m.word (Walk.start 0x80000 0x80800 true).next ≠ 0x4B44 := h
      rw [Walk.run_succ _ _ (by decide)]
      exact if_neg hne
    rw [Walk.finish_eq_run (n := 1) (by omega) (by rw [hrun]; rfl), hrun]
    rfl
  · exact Walk.outcome_anchor m hsig (by simp [Walk.anchorWord, h, Walk.fail])
  · refine Walk.outcome_anchor m hsig ?_
    have h0 : value32 (m.word 0x80002) (m.word 0x80004) ≠ 0 := by omega
    have hout : value32 (m.word 0x80002) (m.word 0x80004) % 2 ≠ 0 ∨
        0x80800 ≤ 0x80000 + value32 (m.word 0x80002) (m.word 0x80004) := by omega
    rcases hout with hout | hout <;>
      simp [Walk.anchorWord, Walk.follow, h0, hout, Walk.fail, Walk.start]
  · refine Walk.outcome_anchor m hsig ?_
    rcases h with h | h <;>
      simp [Walk.anchorWord, Walk.follow, h, Walk.fail, Walk.start]

/-! #### The fields of a body -/

theorem fieldRanges : Clause.FieldRanges := by
  intro w
  refine ⟨?_, ⟨fun d hd => ?_, ?_⟩, ?_, ⟨?_, fun n hn => ⟨?_, fun p hp hp' => ?_⟩⟩,
    ⟨?_, fun i h h' => ?_, fun i h h' => ?_, fun i h h' => ?_, ?_, ?_⟩, fun a ha => ?_, ?_, ?_,
    ⟨?_, fun i h h' => ?_, ?_⟩, fun i => ?_⟩
  · simp [fieldGood, within]
  · have h1 : 2 * d ≠ 12 := by omega
    have h2 : 2 * d + 1 ≠ 12 := by omega
    have h3 : (2 * d + 1) % 2 = 1 := by omega
    simp [fieldGood, within, h1, h2, h3]
  · simp [fieldGood, within]
  · simp [fieldGood, within, lineRanges]
  · simp [fieldGood, emergencyField, within]
  · simp [fieldGood, emergencyField, within]
  · have h0 : 7 * n + 1 + p ≠ 0 := by omega
    have h1 : (7 * n + 1 + p - 1) / 7 = n := by omega
    have h2 : (7 * n + 1 + p - 1) % 7 = p := by omega
    have h3 : p ≠ 0 := by omega
    simp only [fieldGood, emergencyField, within, h0, h1, h2, h3]
    simp
  · simp [fieldGood, reportField, within]
  · have h0 : i ≠ 0 := by omega
    simp [fieldGood, reportField, within, h0, h']
  · have h0 : i ≠ 0 := by omega
    have h1 : ¬ i ≤ 16 := by omega
    simp [fieldGood, reportField, within, h0, h1, h']
  · have h0 : i ≠ 0 := by omega
    have h1 : ¬ i ≤ 16 := by omega
    have h2 : ¬ i ≤ 24 := by omega
    simp [fieldGood, reportField, within, h0, h1, h2, h']
  · simp [fieldGood, reportField, within]
  · simp [fieldGood, reportField, within]
  · have h3 : (2 * a + 1) % 2 = 1 := by omega
    simp [fieldGood, within, h3]
  · simp [fieldGood, within]
    omega
  · simp [fieldGood, within]
  · simp [fieldGood, serviceField, within]
  · have h0 : i ≠ 0 := by omega
    simp [fieldGood, serviceField, within, h0, h']
  · simp [fieldGood, serviceField, within]
  · simp [fieldGood]

/-! #### The windows of an image -/

theorem WindowKind.ofCode_code (k : WindowKind) : WindowKind.ofCode (wordOf k.code).toNat = some k := by
  cases k <;> rfl

theorem windowsCollected : Clause.WindowsCollected := by
  intro found f
  refine ⟨rfl, fun h => ?_, fun kind bh bl sh sl h hb => ?_⟩
  · simp [windowDescs, h]
  · simp [windowDescs, h, hb, WindowKind.ofCode_code, -wordOf_toNat]

end Sys2Proof.Machine
end

section
/-! A descriptor's header and body, word by word (R21, R22). -/

namespace Sys2Proof.Machine

/-! #### A descriptor's header -/

/-- The walk `k`, before a descriptor, once it has read the descriptor's four header words. -/
def Walk.headed (m : Memory) (k : Walk) : Walk :=
  let a := 0x80000 + k.off
  { k with
    unit := []
    link := value32 (m.word a) (m.word (a + 2))
    kind := (m.word (a + 4)).toNat
    len := (m.word (a + 6)).toNat
    next := a + 8 }

/-- A walk that stands before a descriptor. -/
structure Walk.AtHeader (k : Walk) : Prop where
  stage : k.stage = .header
  unit : k.unit = []
  verdict : k.verdict = none
  next : k.next = 0x80000 + k.off

theorem Walk.AtHeader.run_four {k : Walk} (hk : k.AtHeader) (m : Memory) :
    k.run m 4 = Walk.judgeHeader (k.headed m).link (k.headed m).kind (k.headed m).len
      { k with unit := [m.word (0x80000 + k.off), m.word (0x80000 + k.off + 2),
          m.word (0x80000 + k.off + 4)], next := 0x80000 + k.off + 6 } := by
  obtain ⟨hs, hu, -, hn⟩ := hk
  simp [Walk.run, Walk.feed, Walk.headerWord, Walk.headed, hs, hu, hn]

theorem lengthGood_true_iff {kind len : Nat} :
    lengthGood kind len = some true ↔
      (kind, len) ∈
          [(1, 5), (2, 13), (3, 8), (4, 29), (5, 33), (6, 10), (7, 2), (8, 1), (9, 10)] ∨
        (kind = 10 ∧ len % 3 = 0 ∧ len ≤ 96) := by
  unfold lengthGood
  split
  all_goals simp_all

theorem lengthGood_none_iff {kind len : Nat} :
    lengthGood kind len = none ↔ ¬(1 ≤ kind ∧ kind ≤ 10) := by
  unfold lengthGood
  split
  case h_11 => simp; grind
  all_goals simp

/-- The judgement of a header, in its four outcomes that end the header's reading with a failure or
with nothing left to read (R21, R22). -/
theorem Walk.AtHeader.run_outOfRange {k : Walk} (hk : k.AtHeader) {m : Memory}
    (h : ¬0x80000 + k.off + 8 + 2 * (k.headed m).len ≤ k.hi) :
    k.run m 4 = (k.headed m).fail .offsetRange k.idx := by
  have h' : k.hi < 0x80000 + k.off + 2 * (4 + (k.headed m).len) := by omega
  rw [hk.run_four]
  simp only [Walk.judgeHeader]
  rw [if_pos h']
  rfl

section
variable {k : Walk} (hk : k.AtHeader) {m : Memory}
  (hin : 0x80000 + k.off + 8 + 2 * (k.headed m).len ≤ k.hi)
include hk hin

theorem Walk.AtHeader.run_inRange :
    k.run m 4 =
      match lengthGood (k.headed m).kind (k.headed m).len with
      | none => (k.headed m).nextDescriptor
      | some false => (k.headed m).fail .length k.idx
      | some true =>
        if (k.headed m).kind ≠ 1 ∧ (k.found.any fun f => f.kind = (k.headed m).kind) then
          (k.headed m).fail .duplicate k.idx
        else if (k.headed m).len = 0 then (k.headed m).keep
        else { k.headed m with stage := .body } := by
  have h' : ¬k.hi < 0x80000 + k.off + 2 * (4 + (k.headed m).len) := by omega
  rw [hk.run_four]
  simp only [Walk.judgeHeader]
  rw [if_neg h']
  rfl

theorem Walk.AtHeader.run_unknown (h : ¬(1 ≤ (k.headed m).kind ∧ (k.headed m).kind ≤ 10)) :
    k.run m 4 = (k.headed m).nextDescriptor := by
  rw [hk.run_inRange hin, lengthGood_none_iff.mpr h]

theorem Walk.AtHeader.run_badLength (hknown : 1 ≤ (k.headed m).kind ∧ (k.headed m).kind ≤ 10)
    (h : lengthGood (k.headed m).kind (k.headed m).len ≠ some true) :
    k.run m 4 = (k.headed m).fail .length k.idx := by
  have hsome : lengthGood (k.headed m).kind (k.headed m).len ≠ none :=
    fun hnone => lengthGood_none_iff.mp hnone hknown
  rw [hk.run_inRange hin]
  revert h hsome
  rcases lengthGood (k.headed m).kind (k.headed m).len with _ | _ | _ <;> simp

theorem Walk.AtHeader.run_goodLength
    (h : lengthGood (k.headed m).kind (k.headed m).len = some true) :
    k.run m 4 =
      if (k.headed m).kind ≠ 1 ∧ (k.found.any fun f => f.kind = (k.headed m).kind) then
        (k.headed m).fail .duplicate k.idx
      else if (k.headed m).len = 0 then (k.headed m).keep
      else { k.headed m with stage := .body } := by
  rw [hk.run_inRange hin, h]

end

/-! #### A descriptor's body -/

/-- A field's range is judged by the words up to it. -/
theorem fieldGood_congr {kind : Nat} {v w : Body} {i : Nat} (h : ∀ j, j ≤ i → v j = w j) :
    fieldGood kind v i = fieldGood kind w i := by
  have h0 : v 0 = w 0 := h 0 (by omega)
  have hi : v i = w i := h i le_rfl
  have h1 : i ≠ 0 → v 1 = w 1 := fun hi => h 1 (by omega)
  unfold fieldGood
  split
  · simp [h0, hi]
  · split
    · subst i; simp [hi]
    · simp [hi]
  · simp [hi]
  · have hn : i ≠ 0 → v (7 * ((i - 1) / 7) + 1) = w (7 * ((i - 1) / 7) + 1) :=
      fun hi => h _ (by omega)
    unfold emergencyField
    split
    · rw [h0]
    · next hi0 => simp [h0, hi, hn hi0]
  · simp [reportField, h0, hi]
  · simp [hi]
  · split
    · rw [h0]
    · next hi0 => rw [h0, h1 hi0]
  · rw [h0]
  · simp [serviceField, h0, hi]
  · rfl

/-- The first `n` words from an address on. -/
def wordsFrom (m : Memory) (a n : Nat) : List Word := (List.range n).map fun i => m.word (a + 2 * i)

theorem wordsFrom_succ (m : Memory) (a n : Nat) :
    wordsFrom m a (n + 1) = wordsFrom m a n ++ [m.word (a + 2 * n)] := by
  simp [wordsFrom, List.range_succ]

@[simp] theorem wordsFrom_length (m : Memory) (a n : Nat) : (wordsFrom m a n).length = n := by
  simp [wordsFrom]

theorem fieldGood_wordsFrom (m : Memory) (a kind i : Nat) :
    fieldGood kind (fun j => ((wordsFrom m a (i + 1))[j]?.getD 0#16).toNat) i =
      fieldGood kind (fun j => (m.word (a + 2 * j)).toNat) i :=
  fieldGood_congr fun j hj => by simp [wordsFrom, show j < i + 1 by omega]

section
variable {k : Walk} (hs : k.stage = .body) (hu : k.unit = []) {m : Memory}
include hs hu

/-- A body whose first words pass is read on from there (R22). -/
theorem Walk.run_body {i : Nat} (hi : i < k.len)
    (hgood : ∀ j, j < i → fieldGood k.kind (fun j => (m.word (k.next + 2 * j)).toNat) j = true) :
    k.run m i = { k with unit := wordsFrom m k.next i, next := k.next + 2 * i } := by
  induction i with
  | zero => simp [Walk.run, wordsFrom, ← hu]
  | succ i ih =>
    have hg := hgood i (by omega)
    have hlen : ¬k.len ≤ i + 1 := by omega
    rw [Walk.run_add, ih (by omega) fun j hj => hgood j (by omega), Walk.run_succ _ _ (by simp [hs])]
    simp [Walk.run, Walk.feed, hs, Walk.bodyWord, ← wordsFrom_succ, fieldGood_wordsFrom, hg, hlen]
    omega

theorem Walk.run_body_fails {i : Nat} (hi : i < k.len)
    (hgood : ∀ j, j < i → fieldGood k.kind (fun j => (m.word (k.next + 2 * j)).toNat) j = true)
    (hbad : fieldGood k.kind (fun j => (m.word (k.next + 2 * j)).toNat) i = false) :
    (k.run m (i + 1)).stage = .ended ∧ (k.run m (i + 1)).verdict = some (.field, k.idx) := by
  rw [Walk.run_add, Walk.run_body hs hu hi hgood, Walk.run_succ _ _ (by simp [hs])]
  simp [Walk.run, Walk.feed, hs, Walk.bodyWord, ← wordsFrom_succ, fieldGood_wordsFrom, hbad, Walk.fail]

theorem Walk.run_body_whole (hlen : k.len ≠ 0)
    (hgood : ∀ j, j < k.len → fieldGood k.kind (fun j => (m.word (k.next + 2 * j)).toNat) j = true) :
    k.run m k.len =
      Walk.nextDescriptor
        { k with
          unit := wordsFrom m k.next k.len
          next := k.next + 2 * k.len
          found := k.found ++ [⟨k.kind, k.idx, wordsFrom m k.next k.len⟩] } := by
  obtain ⟨n, hn⟩ := Nat.exists_eq_add_one_of_ne_zero hlen
  have hg := hgood n (by omega)
  rw [hn, Walk.run_add, Walk.run_body hs hu (by omega) fun j hj => hgood j (by omega),
    Walk.run_succ _ _ (by simp [hs])]
  simp [Walk.run, Walk.feed, hs, Walk.bodyWord, ← wordsFrom_succ, fieldGood_wordsFrom, hg, hn,
    Walk.keep]
  rfl

end

/-! #### What follows a descriptor -/

section
variable {k : Walk}

theorem Walk.nextDescriptor_missing (hl : k.link = 0) (h : ∀ f ∈ k.found, f.kind ≠ 2) :
    k.nextDescriptor = k.fail .missing 0xFF := by
  have hnone : (k.found.any fun f => f.kind = 2) = false := by simpa using h
  simp [Walk.nextDescriptor, Walk.endChain, hl, hnone]

theorem Walk.nextDescriptor_ends (hl : k.link = 0) (h : ∃ f ∈ k.found, f.kind = 2) :
    k.nextDescriptor = { k with stage := .ended } := by
  have hsome : (k.found.any fun f => f.kind = 2) = true := by simpa using h
  simp [Walk.nextDescriptor, Walk.endChain, hl, hsome]

theorem Walk.nextDescriptor_tooMany (hl : k.link ≠ 0) (h : 31 ≤ k.idx) :
    k.nextDescriptor = k.fail .tooMany 32 := by
  simp [Walk.nextDescriptor, hl, h]

theorem Walk.nextDescriptor_follows (hl : k.link ≠ 0) (h : k.idx < 31) :
    k.nextDescriptor = k.follow k.link (k.idx + 1) (k.off + 1) := by
  simp [Walk.nextDescriptor, hl, h]

variable {off idx least : Nat}

theorem Walk.follow_outOfRange
    (h : ¬(off % 2 = 0 ∧ k.anchored = true ∧ k.lo ≤ 0x80000 + off ∧ 0x80000 + off < k.hi)) :
    k.follow off idx least = k.fail .offsetRange idx :=
  if_pos (by rw [Bool.not_eq_true']; grind)

theorem Walk.follow_inRange
    (h : off % 2 = 0 ∧ k.anchored = true ∧ k.lo ≤ 0x80000 + off ∧ 0x80000 + off < k.hi) :
    k.follow off idx least =
      if off < least then k.fail .offsetOrder idx
      else { k with stage := .header, next := 0x80000 + off, unit := [], off := off, idx := idx } :=
  if_neg (by rw [Bool.not_eq_true']; grind)

end

end Sys2Proof.Machine
end

section
/-! A descriptor judged whole (R21, R22). -/

namespace Sys2Proof.Machine

/-! #### A descriptor judged whole -/

/-- Whether a descriptor of this kind may stand beside those found (R22). -/
def SingleIn (found : List Found) (kind : Nat) : Prop := kind = 1 ∨ ∀ f ∈ found, f.kind ≠ kind

theorem not_singleIn_iff {found : List Found} {kind : Nat} :
    ¬SingleIn found kind ↔ kind ≠ 1 ∧ (found.any fun f => f.kind = kind) = true := by
  simp [SingleIn]

section
variable {k : Walk} (hk : k.AtHeader) {m : Memory}
  (hin : 0x80000 + k.off + 8 + 2 * (k.headed m).len ≤ k.hi)
  (hlen : lengthGood (k.headed m).kind (k.headed m).len = some true)
include hk hin hlen

theorem Walk.AtHeader.run_duplicate (h : ¬SingleIn k.found (k.headed m).kind) :
    k.run m 4 = (k.headed m).fail .duplicate k.idx := by
  rw [hk.run_goodLength hin hlen, if_pos (not_singleIn_iff.mp h)]

theorem Walk.AtHeader.run_empty (h : SingleIn k.found (k.headed m).kind)
    (h0 : (k.headed m).len = 0) : k.run m 4 = (k.headed m).keep := by
  rw [hk.run_goodLength hin hlen, if_neg (fun hd => not_singleIn_iff.mpr hd h), if_pos h0]

theorem Walk.AtHeader.run_opens (h : SingleIn k.found (k.headed m).kind)
    (h0 : (k.headed m).len ≠ 0) : k.run m 4 = { k.headed m with stage := .body } := by
  rw [hk.run_goodLength hin hlen, if_neg (fun hd => not_singleIn_iff.mpr hd h), if_neg h0]

end

theorem lengthGood_le {kind len : Nat} (h : lengthGood kind len = some true) : len ≤ 96 := by
  rw [lengthGood_true_iff] at h
  rcases h with h | ⟨-, -, h⟩
  · simp at h
    omega
  · exact h

/-- The walk `k'` that is about to follow the next offset of the descriptor that the walk `k` stood
before, with that descriptor kept if its kind is known. -/
structure Walk.Done (m : Memory) (k k' : Walk) : Prop where
  link : k'.link = (k.headed m).link
  idx : k'.idx = k.idx
  off : k'.off = k.off
  lo : k'.lo = k.lo
  hi : k'.hi = k.hi
  anchored : k'.anchored = k.anchored
  verdict : k'.verdict = none
  found : k'.found =
    if 1 ≤ (k.headed m).kind ∧ (k.headed m).kind ≤ 10 then
      k.found ++ [⟨(k.headed m).kind, k.idx,
        wordsFrom m (0x80000 + k.off + 8) (k.headed m).len⟩]
    else k.found

/-- A descriptor that passes is read whole, and its next offset is then followed (R21, R22). -/
theorem Walk.AtHeader.run_passes {k : Walk} (hk : k.AtHeader) {m : Memory}
    (hin : 0x80000 + k.off + 8 + 2 * (k.headed m).len ≤ k.hi)
    (hpass : 1 ≤ (k.headed m).kind ∧ (k.headed m).kind ≤ 10 →
      lengthGood (k.headed m).kind (k.headed m).len = some true ∧
      SingleIn k.found (k.headed m).kind ∧
      ∀ i, i < (k.headed m).len → fieldGood (k.headed m).kind
        (fun j => (m.word (0x80000 + k.off + 8 + 2 * j)).toNat) i = true) :
    ∃ k', Walk.Done m k k' ∧
      k.run m (if 1 ≤ (k.headed m).kind ∧ (k.headed m).kind ≤ 10 then 4 + (k.headed m).len else 4) =
        k'.nextDescriptor := by
  by_cases hknown : 1 ≤ (k.headed m).kind ∧ (k.headed m).kind ≤ 10
  · obtain ⟨hlen, hsingle, hgood⟩ := hpass hknown
    rw [if_pos hknown]
    by_cases h0 : (k.headed m).len = 0
    · refine ⟨{ k.headed m with found := k.found ++ [⟨(k.headed m).kind, k.idx, []⟩] },
        ⟨rfl, rfl, rfl, rfl, rfl, rfl, hk.verdict, ?_⟩, ?_⟩
      · rw [if_pos hknown, h0]
        rfl
      · rw [h0, Nat.add_zero, hk.run_empty hin hlen hsingle h0]
        rfl
    · refine ⟨{ k.headed m with
          stage := .body
          unit := wordsFrom m (0x80000 + k.off + 8) (k.headed m).len
          next := 0x80000 + k.off + 8 + 2 * (k.headed m).len
          found := k.found ++ [⟨(k.headed m).kind, k.idx,
            wordsFrom m (0x80000 + k.off + 8) (k.headed m).len⟩] },
        ⟨rfl, rfl, rfl, rfl, rfl, rfl, hk.verdict, (if_pos hknown).symm⟩, ?_⟩
      rw [Walk.run_add, hk.run_opens hin hlen hsingle h0]
      exact Walk.run_body_whole (k := { k.headed m with stage := .body }) rfl rfl h0 hgood
  · rw [if_neg hknown, hk.run_unknown hin hknown]
    exact ⟨k.headed m, ⟨rfl, rfl, rfl, rfl, rfl, rfl, hk.verdict, by rw [if_neg hknown]; rfl⟩, rfl⟩

/-- A walk that fails within its first words fails. -/
theorem Walk.outcome_of_run {m : Memory} {k : Walk} {n : Nat} (hn : n ≤ 3300) {v : WalkReason × Nat}
    (hend : (k.run m n).stage = .ended) (hv : (k.run m n).verdict = some v) :
    (k.finish m).outcome = some v := by
  rw [Walk.finish_eq_run hn hend, Walk.outcome_of_verdict hv]

theorem Walk.outcome_of_run_fail {m : Memory} {k k' : Walk} {n : Nat} (hn : n ≤ 3300)
    {r : WalkReason} {i : Nat} (h : k.run m n = k'.fail r i) :
    (k.finish m).outcome = some (r, i) :=
  Walk.outcome_of_run hn (by rw [h]; rfl) (by rw [h]; rfl)

theorem Walk.AtHeader.outcome_badField {k : Walk} (hk : k.AtHeader) {m : Memory}
    (hin : 0x80000 + k.off + 8 + 2 * (k.headed m).len ≤ k.hi)
    (hlen : lengthGood (k.headed m).kind (k.headed m).len = some true)
    (hsingle : SingleIn k.found (k.headed m).kind) {i : Nat} (hi : i < (k.headed m).len)
    (hgood : ∀ j, j < i → fieldGood (k.headed m).kind
        (fun j => (m.word (0x80000 + k.off + 8 + 2 * j)).toNat) j = true)
    (hbad : fieldGood (k.headed m).kind
        (fun j => (m.word (0x80000 + k.off + 8 + 2 * j)).toNat) i = false) :
    (k.finish m).outcome = some (.field, k.idx) := by
  have hle := lengthGood_le hlen
  obtain ⟨hend, hv⟩ := Walk.run_body_fails (k := { k.headed m with stage := .body }) (m := m)
    rfl rfl hi hgood hbad
  have hrun : k.run m (4 + (i + 1)) = Walk.run m (i + 1) { k.headed m with stage := .body } := by
    rw [Walk.run_add, hk.run_opens hin hlen hsingle (by omega)]
  exact Walk.outcome_of_run (n := 4 + (i + 1)) (by omega) (by rw [hrun]; exact hend)
    (by rw [hrun]; exact hv)

theorem descriptorsJudged : Clause.DescriptorsJudged := by
  intro m k hs hu hv hn a link kind len word good failed inRange known lengthOk single passes found
    start inChain
  have hk : k.AtHeader := ⟨hs, hu, hv, hn⟩
  have hlen : lengthOk ↔ lengthGood (k.headed m).kind (k.headed m).len = some true :=
    lengthGood_true_iff.symm
  have hread (h : passes) := hk.run_passes (m := m) h.1 fun hknown => by
    obtain ⟨hl, hsingle, hgood⟩ := h.2 hknown
    exact ⟨hlen.mp hl, hsingle, hgood⟩
  have hn : passes →
      (if 1 ≤ (k.headed m).kind ∧ (k.headed m).kind ≤ 10 then 4 + (k.headed m).len else 4) ≤ 3300 := by
    intro h
    split
    · next hknown =>
      have := lengthGood_le (hlen.mp (h.2 hknown).1)
      omega
    · omega
  refine ⟨fun h => ?_, fun hin hknown h => ?_, fun hin hknown hl h => ?_,
    fun i hin hknown hl hsingle hi hgood hbad => ?_, fun hp hl h => ?_, fun hp hl h => ?_,
    fun hp hl h => ?_, fun hp hl hidx h => ?_, fun hp hl hidx hin h => ?_,
    fun hp hl hidx hin h => ?_⟩
  · exact Walk.outcome_of_run_fail (by omega) (hk.run_outOfRange h)
  · exact Walk.outcome_of_run_fail (by omega) (hk.run_badLength hin hknown fun hg => h (hlen.mpr hg))
  · exact Walk.outcome_of_run_fail (by omega) (hk.run_duplicate hin (hlen.mp hl) h)
  · exact hk.outcome_badField hin (hlen.mp hl) hsingle hi hgood hbad
  all_goals obtain ⟨k', hd, hrun⟩ := hread hp
  · exact Walk.outcome_of_run_fail (hn hp)
      (hrun.trans (Walk.nextDescriptor_missing (hd.link.trans hl) (by rw [hd.found]; exact h)))
  · rw [Walk.nextDescriptor_ends (hd.link.trans hl) (by rw [hd.found]; exact h)] at hrun
    rw [Walk.finish_eq_run (hn hp) (by rw [hrun]), hrun]
    exact ⟨hd.verdict, hd.found⟩
  · exact Walk.outcome_of_run_fail (hn hp)
      (hrun.trans (Walk.nextDescriptor_tooMany (hd.link ▸ hl) (hd.idx ▸ h)))
  all_goals
    rw [Walk.nextDescriptor_follows (hd.link ▸ hl) (hd.idx ▸ hidx), hd.idx, hd.off, hd.link] at hrun
  · rw [Walk.follow_outOfRange (by rw [hd.anchored, hd.lo, hd.hi]; exact h)] at hrun
    exact Walk.outcome_of_run_fail (hn hp) hrun
  · rw [Walk.follow_inRange (by rw [hd.anchored, hd.lo, hd.hi]; exact hin),
      if_pos (show (k.headed m).link < k.off + 1 from Nat.lt_succ_of_le h)] at hrun
    exact Walk.outcome_of_run_fail (hn hp) hrun
  · rw [Walk.follow_inRange (by rw [hd.anchored, hd.lo, hd.hi]; exact hin),
      if_neg (show ¬(k.headed m).link < k.off + 1 from Nat.not_lt.mpr h)] at hrun
    exact (congrArg (fun n : Walk => n.stage = .header ∧ n.unit = [] ∧ n.verdict = none ∧
        n.off = link ∧ n.next = start ∧ n.idx = k.idx + 1 ∧ n.found = found ∧ n.lo = k.lo ∧
        n.hi = k.hi ∧ n.anchored = k.anchored) hrun).mpr
      ⟨rfl, rfl, hd.verdict, rfl, rfl, rfl, hd.found, hd.lo, hd.hi, hd.anchored⟩

end Sys2Proof.Machine
end

section
/-! The window set and the window table (R23). -/

namespace Sys2Proof.Machine

/-! #### The window set -/

section
variable {clash : WindowDesc → WindowDesc → Bool}

theorem firstClash_eq_none_iff {before ds : List WindowDesc} :
    firstClash clash before ds = none ↔
      (∀ d ∈ ds, ∀ e ∈ before, clash d e = false) ∧ ds.Pairwise fun d e => clash e d = false := by
  induction ds generalizing before with
  | nil => simp [firstClash]
  | cons d ds ih =>
    by_cases h : before.any (clash d)
    · simp only [firstClash, h, List.mem_cons, List.pairwise_cons]
      simp only [List.any_eq_true] at h
      grind
    · simp only [firstClash, h, List.mem_cons, List.pairwise_cons, Bool.false_eq_true, if_false, ih]
      simp only [List.any_eq_true] at h
      grind

theorem firstClash_append {before pre post : List WindowDesc} {d : WindowDesc}
    (hpre : firstClash clash before pre = none)
    (hd : ∃ e, (e ∈ before ∨ e ∈ pre) ∧ clash d e = true) :
    firstClash clash before (pre ++ d :: post) = some d := by
  induction pre generalizing before with
  | nil =>
    have hany : before.any (clash d) = true := by
      obtain ⟨e, he, hc⟩ := hd
      exact List.any_eq_true.mpr ⟨e, by simpa using he, hc⟩
    simp [firstClash, hany]
  | cons x pre ih =>
    by_cases h : before.any (clash x)
    · simp [firstClash, h] at hpre
    · simp only [firstClash, h, List.cons_append, Bool.false_eq_true, if_false] at hpre ⊢
      refine ih hpre ?_
      obtain ⟨e, he, hc⟩ := hd
      exact ⟨e, by grind, hc⟩

end

/-- Two windows that share an address. -/
def WindowDesc.Meet (d e : WindowDesc) : Prop := d.base < e.base + e.size ∧ e.base < d.base + d.size

/-- Two windows of one kind, of which a set may hold only one. -/
def WindowDesc.Same (d e : WindowDesc) : Prop := d.kind ≠ .plain ∧ d.kind = e.kind

theorem overlaps_eq_false {d e : WindowDesc} : d.overlaps e = false ↔ ¬e.Meet d := by
  simp [WindowDesc.overlaps, WindowDesc.Meet]
  omega

theorem overlaps_eq_true {d e : WindowDesc} : d.overlaps e = true ↔ e.Meet d := by
  simp [WindowDesc.overlaps, WindowDesc.Meet]
  omega

theorem sameKind_eq_true {d e : WindowDesc} :
    (d.kind ≠ .plain && d.kind = e.kind) = true ↔ e.Same d := by
  simp [WindowDesc.Same]
  grind

theorem sameKind_eq_false {d e : WindowDesc} :
    (d.kind ≠ .plain && d.kind = e.kind) = false ↔ ¬e.Same d := by
  rw [← sameKind_eq_true, Bool.not_eq_true]

theorem firstOverlap_none_iff {ds : List WindowDesc} :
    firstClash WindowDesc.overlaps [] ds = none ↔ ds.Pairwise fun d e => ¬d.Meet e := by
  simp [firstClash_eq_none_iff, overlaps_eq_false]

theorem firstSame_none_iff {ds : List WindowDesc} :
    firstClash (fun d e => d.kind ≠ .plain && d.kind = e.kind) [] ds = none ↔
      ds.Pairwise fun d e => ¬d.Same e := by
  simp only [firstClash_eq_none_iff, sameKind_eq_false]
  simp

/-- The window set's conditions in the order of R23's table. -/
theorem windowSetFault_none_iff {ds : List WindowDesc} :
    windowSetFault ds = none ↔
      ds.length ≤ 12 ∧ (∀ d ∈ ds, d.placed = true) ∧ (∀ d ∈ ds, d.kind.minimum ≤ d.size) ∧
      (ds.Pairwise fun d e => ¬d.Meet e) ∧ (ds.Pairwise fun d e => ¬d.Same e) ∧
      ∀ x ∈ requiredKinds, ∃ d ∈ ds, d.kind = x := by
  simp only [windowSetFault, Option.or_eq_none_iff, Option.map_eq_none_iff, firstOverlap_none_iff,
    firstSame_none_iff, List.getElem?_eq_none_iff]
  simp [List.find?_eq_none]

section
variable {ds before after : List WindowDesc} {d : WindowDesc}

theorem windowSetFault_many (h : ds[12]? = some d) : windowSetFault ds = some d.chain := by
  simp [windowSetFault, h]

variable (hds : ds = before ++ d :: after) (hfew : ds.length ≤ 12)
include hds hfew

theorem windowSetFault_misplaced (hb : ∀ e ∈ before, e.placed = true) (hd : d.placed ≠ true) :
    windowSetFault ds = some d.chain := by
  have h12 : ds[12]? = none := List.getElem?_eq_none (by omega)
  have hfind : ds.find? (fun d => !d.placed) = some d := by
    rw [hds]
    exact List.find?_eq_some_iff_append.mpr ⟨by simpa using hd, before, after, rfl, by simpa using hb⟩
  simp [windowSetFault, h12, hfind]

variable (hplaced : ∀ e ∈ ds, e.placed = true)
include hplaced

theorem windowSetFault_small (hb : ∀ e ∈ before, e.kind.minimum ≤ e.size)
    (hd : ¬d.kind.minimum ≤ d.size) : windowSetFault ds = some d.chain := by
  have h12 : ds[12]? = none := List.getElem?_eq_none (by omega)
  have hp : ds.find? (fun d => !d.placed) = none := by simpa [List.find?_eq_none] using hplaced
  have hfind : ds.find? (fun d => decide (d.size < d.kind.minimum)) = some d := by
    rw [hds]
    exact List.find?_eq_some_iff_append.mpr
      ⟨by simpa using hd, before, after, rfl, by simpa using hb⟩
  simp [windowSetFault, h12, hp, hfind]

variable (hlarge : ∀ e ∈ ds, e.kind.minimum ≤ e.size)
include hlarge

theorem windowSetFault_overlapping (hb : before.Pairwise fun d e => ¬d.Meet e)
    (hd : ∃ e ∈ before, e.Meet d) : windowSetFault ds = some d.chain := by
  have h12 : ds[12]? = none := List.getElem?_eq_none (by omega)
  have hp : ds.find? (fun d => !d.placed) = none := by simpa [List.find?_eq_none] using hplaced
  have hl : ds.find? (fun d => decide (d.size < d.kind.minimum)) = none := by
    simpa [List.find?_eq_none] using hlarge
  have hclash : firstClash WindowDesc.overlaps [] ds = some d := by
    obtain ⟨e, he, hm⟩ := hd
    rw [hds]
    exact firstClash_append (firstOverlap_none_iff.mpr hb) ⟨e, .inr he, overlaps_eq_true.mpr hm⟩
  simp [windowSetFault, h12, hp, hl, hclash]

variable (hapart : ds.Pairwise fun d e => ¬d.Meet e)
include hapart

theorem windowSetFault_double (hb : before.Pairwise fun d e => ¬d.Same e)
    (hd : ∃ e ∈ before, e.Same d) : windowSetFault ds = some d.chain := by
  have h12 : ds[12]? = none := List.getElem?_eq_none (by omega)
  have hp : ds.find? (fun d => !d.placed) = none := by simpa [List.find?_eq_none] using hplaced
  have hl : ds.find? (fun d => decide (d.size < d.kind.minimum)) = none := by
    simpa [List.find?_eq_none] using hlarge
  have hclash : firstClash (fun d e => d.kind ≠ .plain && d.kind = e.kind) [] ds = some d := by
    obtain ⟨e, he, hm⟩ := hd
    rw [hds]
    exact firstClash_append (firstSame_none_iff.mpr hb) ⟨e, .inr he, sameKind_eq_true.mpr hm⟩
  rw [windowSetFault, h12, hp, hl, firstOverlap_none_iff.mpr hapart, hclash]
  rfl

omit hds
variable (hsingle : ds.Pairwise fun d e => ¬d.Same e)
include hsingle

theorem windowSetFault_incomplete (h : ¬∀ x ∈ requiredKinds, ∃ d ∈ ds, d.kind = x) :
    windowSetFault ds = some 0xFF := by
  have h12 : ds[12]? = none := List.getElem?_eq_none (by omega)
  have hp : ds.find? (fun d => !d.placed) = none := by simpa [List.find?_eq_none] using hplaced
  have hl : ds.find? (fun d => decide (d.size < d.kind.minimum)) = none := by
    simpa [List.find?_eq_none] using hlarge
  have hall : ¬(requiredKinds.all fun k => ds.any fun d => d.kind = k) = true := by
    simpa using h
  rw [windowSetFault, h12, hp, hl, firstOverlap_none_iff.mpr hapart, firstSame_none_iff.mpr hsingle,
    if_neg hall]
  rfl

end

/-! #### The window table -/

theorem mem_insertWindow {w v : Window} {ws : List Window} :
    v ∈ insertWindow w ws ↔ v = w ∨ v ∈ ws := by
  induction ws with
  | nil => simp [insertWindow]
  | cons x ws ih => grind [insertWindow]

theorem insertWindow_sorted {w : Window} {ws : List Window}
    (h : ws.Pairwise fun v w => v.base ≤ w.base) :
    (insertWindow w ws).Pairwise fun v w => v.base ≤ w.base := by
  induction ws with
  | nil => simp [insertWindow]
  | cons x ws ih =>
    simp only [List.pairwise_cons] at h
    simp only [insertWindow]
    split
    · simp only [List.pairwise_cons, List.mem_cons]
      grind
    · simp only [List.pairwise_cons, mem_insertWindow]
      grind

theorem mem_foldr_insertWindow {w : Window} {ws : List Window} :
    w ∈ ws.foldr insertWindow [] ↔ w ∈ ws := by
  induction ws with
  | nil => simp
  | cons x ws ih => simp [mem_insertWindow, ih]

theorem tableOf_sorted (ds : List WindowDesc) :
    (tableOf ds).Pairwise fun v w => v.base ≤ w.base := by
  unfold tableOf
  generalize ds.zipIdx.map (fun p => (⟨p.1.kind, p.1.base, p.1.size, p.2⟩ : Window)) = ws
  induction ws with
  | nil => simp
  | cons w ws ih => exact insertWindow_sorted ih

theorem mem_tableOf {ds : List WindowDesc} {w : Window} :
    w ∈ tableOf ds ↔
      ∃ d, ds[w.index]? = some d ∧ d.kind = w.kind ∧ d.base = w.base ∧ d.size = w.size := by
  simp only [tableOf, mem_foldr_insertWindow, List.mem_map, List.mem_zipIdx_iff_getElem?, Prod.exists]
  constructor
  · rintro ⟨d, i, hd, rfl⟩
    exact ⟨d, hd, rfl, rfl, rfl⟩
  · rintro ⟨d, hd, hk, hb, hs⟩
    exact ⟨d, w.index, hd, by rw [hk, hb, hs]⟩

theorem windowSetJudged : Clause.WindowSetJudged := by
  intro k ds hv hds failed minimum inRam inNv placed large meet same required few allPlaced allLarge
    apart single complete
  have hout : k.outcome = (windowSetFault ds).map fun i => (.windowSet, i) := by
    simp [Walk.outcome, hv, hds]
  have hfailed {i : Nat} (h : windowSetFault ds = some i) : failed i := by
    simp only [failed, hout, h, Option.map_some]
  have hplaced (d : WindowDesc) : placed d ↔ d.placed = true := by
    obtain ⟨kind, base, size, chain⟩ := d
    cases kind <;> simp [placed, WindowDesc.placed, Machine.inRam, Machine.inNv, inRam, inNv]
  have hlarge (d : WindowDesc) : large d ↔ d.kind.minimum ≤ d.size := by
    obtain ⟨kind, base, size, chain⟩ := d
    cases kind <;> exact Iff.rfl
  have hap : allPlaced ↔ ∀ d ∈ ds, d.placed = true := by simp only [allPlaced, hplaced]
  have hal : allLarge ↔ ∀ d ∈ ds, d.kind.minimum ≤ d.size := by simp only [allLarge, hlarge]
  refine ⟨?_, fun d hd => hfailed (windowSetFault_many hd),
    fun before d after hsplit hfew => ⟨fun hb hd => ?_, fun hp hb hd => ?_, fun hp hl hb hd => ?_,
      fun hp hl ha hb hd => ?_⟩, fun hfew hp hl ha hs hc => ?_,
    fun _ => ⟨tableOf_sorted ds, fun w => mem_tableOf⟩⟩
  · rw [hout, Option.map_eq_none_iff, windowSetFault_none_iff, hap, hal]
    exact Iff.rfl
  · exact hfailed (windowSetFault_misplaced hsplit hfew (fun e he => (hplaced e).mp (hb e he))
      fun h => hd ((hplaced d).mpr h))
  · exact hfailed (windowSetFault_small hsplit hfew (hap.mp hp)
      (fun e he => (hlarge e).mp (hb e he)) fun h => hd ((hlarge d).mpr h))
  · exact hfailed (windowSetFault_overlapping hsplit hfew (hap.mp hp) (hal.mp hl) hb hd)
  · exact hfailed (windowSetFault_double hsplit hfew (hap.mp hp) (hal.mp hl) ha hb hd)
  · exact hfailed (windowSetFault_incomplete hfew (hap.mp hp) (hal.mp hl) ha hs hc)

end Sys2Proof.Machine
end

section
/-! The parameters of an image (R24). -/

namespace Sys2Proof.Machine

/-! #### The parameters -/

section
variable {found : List Found} {kind : Nat} {F : Body → Params → Params} {p : Params}

theorem applyBody_given {f : Found} (h : (found.find? fun f => f.kind = kind) = some f) :
    applyBody found kind F p = F (fun i => (f.body.getD i 0).toNat) p := by
  simp [applyBody, bodyOf, h]

theorem applyBody_absent (h : (found.find? fun f => f.kind = kind) = none) :
    applyBody found kind F p = p := by
  simp [applyBody, bodyOf, h]

/-- What a descriptor's values do not touch is as without it. -/
theorem applyBody_frame {α : Type} (g : Params → α) (h : ∀ w p, g (F w p) = g p) :
    g (applyBody found kind F p) = g p := by
  unfold applyBody
  split
  · exact h _ _
  · rfl

end

/-- The parameters a descriptor of each kind gives, in the order they are applied last to first. -/
def paramLayers : List (Nat × (Body → Params → Params)) :=
  [(9, serviceParams), (8, logParams), (7, cashboxParams), (6, attributeParams), (5, reportParams),
    (4, emergencyParams), (3, lineParams), (2, coinsParams)]

theorem paramsOf_eq_foldr (found : List Found) :
    paramsOf found = paramLayers.foldr (fun l p => applyBody found l.1 l.2 p) Params.absent := rfl

theorem foldr_applyBody_frame {α : Type} (g : Params → α) (found : List Found) (p : Params)
    {ls : List (Nat × (Body → Params → Params))} (h : ∀ l ∈ ls, ∀ w p, g (l.2 w p) = g p) :
    g (ls.foldr (fun l p => applyBody found l.1 l.2 p) p) = g p := by
  induction ls with
  | nil => rfl
  | cons l ls ih =>
    rw [List.foldr_cons, applyBody_frame g (h l (by simp)), ih fun l hl => h l (by simp [hl])]

section
variable {α : Type} (g : Params → α) {found : List Found} {kind : Nat} {F : Body → Params → Params}
  {outer inner : List (Nat × (Body → Params → Params))}

/-- What a descriptor's values say of the parameters, where no other descriptor touches these. -/
theorem paramsOf_part (hl : paramLayers = outer ++ (kind, F) :: inner)
    (h : ∀ l ∈ outer ++ inner, ∀ w p, g (l.2 w p) = g p) :
    (∀ f, (found.find? fun f => f.kind = kind) = some f →
      ∃ p, g (paramsOf found) = g (F (fun i => (f.body.getD i 0).toNat) p)) ∧
    ((found.find? fun f => f.kind = kind) = none → g (paramsOf found) = g Params.absent) := by
  have ho : ∀ l ∈ outer, ∀ w p, g (l.2 w p) = g p := fun l hl => h l (by simp [hl])
  have hi : ∀ l ∈ inner, ∀ w p, g (l.2 w p) = g p := fun l hl => h l (by simp [hl])
  rw [paramsOf_eq_foldr, hl, List.foldr_append, foldr_applyBody_frame g found _ ho, List.foldr_cons]
  refine ⟨fun f hf => ?_, fun hf => ?_⟩
  · rw [applyBody_given hf]
    exact ⟨_, rfl⟩
  · rw [applyBody_absent hf, foldr_applyBody_frame g found _ hi]

end

theorem parametersTaken : Clause.ParametersTaken := by
  intro found p given digits
  refine ⟨?_, ?_, ?_, ?_, ?_, ?_, ?_, ?_⟩
  · have h := paramsOf_part (found := found) (fun p => (p.denoms, p.pathWindow))
      (outer := paramLayers.take 7) rfl (by rintro l hl w p; fin_cases hl <;> rfl)
    refine ⟨fun f hf => ?_, fun hf => ?_⟩
    · obtain ⟨_, hw⟩ := h.1 f hf
      simpa [coinsParams] using hw
    · simpa [Params.absent] using h.2 hf
  · have h := paramsOf_part (found := found) (fun p => (p.dialDelay, p.toneOn, p.toneOff,
      p.answerTimeout, p.readyTimeout, p.followWindow, p.graceTime, p.maxDuration))
      (outer := paramLayers.take 6) rfl (by rintro l hl w p; fin_cases hl <;> rfl)
    refine ⟨fun f hf => ?_, fun hf => ?_⟩
    · obtain ⟨_, hw⟩ := h.1 f hf
      simpa [lineParams] using hw
    · simpa [Params.absent] using h.2 hf
  · have h := paramsOf_part (found := found) Params.emergency
      (outer := paramLayers.take 5) rfl (by rintro l hl w p; fin_cases hl <;> rfl)
    refine ⟨fun f hf => ?_, fun hf => ?_⟩
    · obtain ⟨_, hw⟩ := h.1 f hf
      simpa [emergencyParams, bodySlice] using hw
    · simpa [Params.absent] using h.2 hf
  · have h := paramsOf_part (found := found) (fun p => (p.report, p.hold2, p.hold1))
      (outer := paramLayers.take 4) rfl (by rintro l hl w p; fin_cases hl <;> rfl)
    refine ⟨fun f hf => ?_, fun hf => ?_⟩
    · obtain ⟨_, hw⟩ := h.1 f hf
      simpa [reportParams, bodySlice] using hw
    · simpa [Params.absent] using h.2 hf
  · have h := paramsOf_part (found := found) Params.attrs
      (outer := paramLayers.take 3) rfl (by rintro l hl w p; fin_cases hl <;> rfl)
    refine ⟨fun f hf => ?_, fun hf => ?_⟩
    · obtain ⟨_, hw⟩ := h.1 f hf
      simpa [attributeParams] using hw
    · simpa [Params.absent] using h.2 hf
  · have h := paramsOf_part (found := found) (fun p => (p.boxNearFull, p.boxFull))
      (outer := paramLayers.take 2) rfl (by rintro l hl w p; fin_cases hl <;> rfl)
    refine ⟨fun f hf => ?_, fun hf => ?_⟩
    · obtain ⟨_, hw⟩ := h.1 f hf
      simpa [cashboxParams] using hw
    · simpa [Params.absent] using h.2 hf
  · have h := paramsOf_part (found := found) Params.logNearFull
      (outer := paramLayers.take 1) rfl (by rintro l hl w p; fin_cases hl <;> rfl)
    refine ⟨fun f hf => ?_, fun hf => ?_⟩
    · obtain ⟨_, hw⟩ := h.1 f hf
      simpa [logParams] using hw
    · simpa [Params.absent] using h.2 hf
  · have h := paramsOf_part (found := found) (fun p => (p.code, p.lapse))
      (outer := paramLayers.take 0) rfl (by rintro l hl w p; fin_cases hl <;> rfl)
    refine ⟨fun f hf => ?_, fun hf => ?_⟩
    · obtain ⟨_, hw⟩ := h.1 f hf
      simpa [serviceParams, bodySlice] using hw
    · simpa [Params.absent] using h.2 hf

end Sys2Proof.Machine
end

section
/-! The walk's end (R1, R13, R25), and O23. -/

namespace Sys2Proof.Machine

/-! #### The walk's end -/

theorem reclassCycle_none {s : State} (h : s.bpu.cycle = none) : reclassCycle s = s := by
  simp [reclassCycle, h]

/-- With a table installed the held word is classed, free of the route it was held with (R1, R18).
-/
theorem reclassCycle_some {s : State} {c : Cycle} (h : s.bpu.cycle = some c)
    (ht : s.bpu.table ≠ none) :
    reclassCycle s = classWord { c with route := none } { s with bpu.cycle := none } := by
  have hready : ({ s with bpu.cycle := none } : State).bpu.table.isNone = false := by
    simpa [Option.isNone_eq_false_iff, Option.isSome_iff_ne_none] using ht
  simp [reclassCycle, h, busWord, hready]

/-- Before the rebuild has ended the INU holds an occurrence handed to it (R137). -/
theorem occur_held {s : State} (h : s.inu.rebuilt = false) (k : IncKind) (detail : Nat) :
    occur k detail s = { s with held := s.held ++ [.occurrence k detail] } := by
  simp [occur, inuActive, h, hold]

/-- The walk's end once the port has come to the CFL or no word is left (R16, R20 to R25). -/
theorem exec_chainWalkDone {s : State} {k : Walk} (hp : s.powered = true) (hs : s.cfl.step = .walk)
    (hk : s.cfl.walk = some k) (hr : s.pfu.power = .running) :
    (walkMayEnd k s = false → exec .chainWalkDone s = .next s) ∧
    (walkMayEnd k s = true → (k.finish s.mem).outcome = none →
      exec .chainWalkDone s = .next
        (installConfig (tableOf (windowDescs (k.finish s.mem).found))
          (paramsOf (k.finish s.mem).found) (preloadOf (k.finish s.mem).found) s)) ∧
    ∀ v, walkMayEnd k s = true → (k.finish s.mem).outcome = some v →
      exec .chainWalkDone s = .next
        (occur .configFault 0
          (installConfig defaultTable Params.absent [] { s with cfl.fault := some v })) := by
  have hrun : running s = true := by simp [running, hr]
  refine ⟨fun h => ?_, fun h ho => ?_, fun v h ho => ?_⟩ <;>
    rw [exec, execChainWalkDone, onPower_up hp] <;> simp only [hs, hk, hrun, h]
  · rfl
  · simp only [ho]
    rfl
  · simp only [ho]
    rfl

section
variable {s : State} (table : List Window) (p : Params) (tuples : List (Nat × Word))

theorem installConfig_idle (h : s.bpu.cycle = none) :
    installConfig table p tuples s =
      { s with
        bpu := { s.bpu with table := some table, cycle := none }
        cfl := { s.cfl with
          params := p, walk := none, preload := some tuples, skip := 0, step := .preload } } := by
  rw [installConfig, reclassCycle_none (by exact h)]
  simp only [h]

theorem installConfig_held {c : Cycle} (h : s.bpu.cycle = some c) :
    installConfig table p tuples s =
      classWord { c with route := none }
        { s with
          bpu := { s.bpu with table := some table, cycle := none }
          cfl := { s.cfl with
            params := p, walk := none, preload := some tuples, skip := 0, step := .preload } } :=
  reclassCycle_some h (by simp)

end

theorem configurationInstalled : Clause.ConfigurationInstalled := by
  intro s k hp hs hk hr reached e good bad
  have hreached : walkMayEnd k s = true ↔ reached := by simp [walkMayEnd, reached]
  obtain ⟨hwaits, hgood, hbad⟩ := exec_chainWalkDone hp hs hk hr
  refine ⟨fun h => hwaits (by rw [← Bool.not_eq_true, hreached]; exact h), fun h ho hc => ?_,
    fun c h ho hc => ?_, fun v h ho hc hb => ?_, ?_⟩
  · rw [hgood (hreached.mpr h) ho, installConfig_idle _ _ _ hc]
  · rw [hgood (hreached.mpr h) ho, installConfig_held _ _ _ hc]
  · rw [hbad v (hreached.mpr h) ho, occur_held (by simpa using hb),
      installConfig_idle _ _ _ (by exact hc)]
    rfl
  · intro v c h ho hc hb u
    rw [hbad v (hreached.mpr h) ho, occur_held (by simpa using hb),
      installConfig_held _ _ _ (by exact hc)]
    rfl

/-- Settles O23: anchor, descriptors, fields and window set are judged one by one along the walk,
and
its end installs what it found. -/
theorem chainWalkEnds : Obligations.ChainWalkEnds :=
  ⟨anchorJudged, descriptorsJudged, fieldRanges, windowsCollected, windowSetJudged, parametersTaken,
    configurationInstalled⟩

end Sys2Proof.Machine
end

section
/-! What an occurrence changes of the INU and of the flags (R125, R130, R136, R137). -/

namespace Sys2Proof.Machine

/-! #### What an occurrence leaves of the INU -/

/-- What of the INU an occurrence never changes: all but the index, its counter and the latches. -/
def Inu.core (i : Inu) : Inu := { i with records := [], counter := 0, latches := 0 }

theorem Inu.attrs_of_core {i j : Inu} (h : i.core = j.core) : i.attrs = j.attrs :=
  (congrArg Inu.attrs h : i.core.attrs = j.core.attrs)

theorem Inu.ms_of_core {i j : Inu} (h : i.core = j.core) : i.ms = j.ms :=
  (congrArg Inu.ms h : i.core.ms = j.core.ms)

theorem Inu.sensors_of_core {i j : Inu} (h : i.core = j.core) :
    i.doorOpen = j.doorOpen ∧ i.boxPresent = j.boxPresent ∧ i.cordWhole = j.cordWhole :=
  ⟨(congrArg Inu.doorOpen h : i.core.doorOpen = j.core.doorOpen),
    (congrArg Inu.boxPresent h : i.core.boxPresent = j.core.boxPresent),
    (congrArg Inu.cordWhole h : i.core.cordWhole = j.core.cordWhole)⟩

@[simp] theorem putRecord_core (r : IncRec) (s : State) : (putRecord r s).inu.core = s.inu.core := by
  simp [putRecord, Inu.core]

@[simp] theorem carryRecord_core (seq : Nat) (s : State) :
    (carryRecord seq s).inu.core = s.inu.core := by
  unfold carryRecord
  split <;> simp

@[simp] theorem forSeqs_core (f : Nat → State → State) (qs : List Nat) (s : State)
    (h : ∀ q u, (f q u).inu.core = u.inu.core) : (forSeqs f qs s).inu.core = s.inu.core := by
  induction qs generalizing s with
  | nil => rfl
  | cons q qs ih => exact (ih (f q s)).trans (h q s)

@[simp] theorem grantReport_core (s : State) : (grantReport s).inu.core = s.inu.core := by
  unfold grantReport
  simp

@[simp] theorem judgeStart_core (s : State) : (judgeStart s).inu.core = s.inu.core := by
  unfold judgeStart withdrawClockRequest
  dsimp only
  (repeat' split) <;> simp

@[simp] theorem createRecord_core (k : IncKind) (detail : Nat) (s : State) :
    (createRecord k detail s).inu.core = s.inu.core := by
  unfold createRecord
  split <;> simp [Inu.core]

@[simp] theorem setLatch_core (k : IncKind) (s : State) : (setLatch k s).inu.core = s.inu.core := by
  rcases setLatch_cases k s with ⟨-, h⟩ | ⟨-, -, h⟩ <;> rw [h]
  rfl

@[simp] theorem takeOccurrence_core (k : IncKind) (detail : Nat) (s : State) :
    (takeOccurrence k detail s).inu.core = s.inu.core := by
  unfold takeOccurrence
  dsimp only
  (repeat' split) <;> simp [raise]

@[simp] theorem occur_core (k : IncKind) (detail : Nat) (s : State) :
    (occur k detail s).inu.core = s.inu.core := by
  rcases occur_cases k detail s with ⟨-, h⟩ | ⟨-, h⟩ <;> simp [h]

/-! #### The latches and flags of an occurrence -/

/-- An occurrence sets the latch of its own kind, if that kind latches, and no other (R125, R130).
-/
theorem latched_takeOccurrence (k k' : IncKind) (detail : Nat) (s : State) :
    latched (takeOccurrence k detail s).inu.latches k' =
      (latched s.inu.latches k' || (k.latches && decide (k'.code = k.code))) := by
  have hset (u : State) : latched (setLatch k u).inu.latches k' =
      (latched u.inu.latches k' || (k.latches && decide (k'.code = k.code))) := by
    rcases setLatch_cases k u with ⟨h, e⟩ | ⟨h, h', e⟩
    · rw [e]
      rcases h with h | h
      · simp [h]
      · by_cases hk : k'.code = k.code
        · have : latched u.inu.latches k' = true := by simpa [latched, hk] using h
          simp [this]
        · simp [hk]
    · simp [e, raise, latched_setLatchBit, h]
  unfold takeOccurrence
  dsimp only
  (repeat' split) <;> simp [raise, hset]

/-- What a step does to the flags besides an acknowledgement: none is cleared. -/
def FlagsKept (s t : State) : Prop :=
  ∀ e, flagOf s.rqu.flags e = true → flagOf t.rqu.flags e = true

theorem FlagsKept.of_eq {s t : State} (h : t.rqu.flags = s.rqu.flags) : FlagsKept s t :=
  fun e he => by rw [h]; exact he

theorem FlagsKept.trans {s t u : State} (h : FlagsKept s t) (h' : FlagsKept t u) : FlagsKept s u :=
  fun e he => h' e (h e he)

theorem flagsKept_raise (e : Event) (s : State) : FlagsKept s (raise e s) :=
  fun e' he => by simp [he]

theorem flagsKept_setLine (st : LineState) (s : State) : FlagsKept s (setLine st s) := by
  unfold setLine
  split
  · exact .of_eq rfl
  · exact flagsKept_raise .line _

theorem flagsKept_beginSeizure (st : LineState) (s : State) : FlagsKept s (beginSeizure st s) := by
  unfold beginSeizure
  dsimp only
  split <;> exact flagsKept_setLine st { s with lnu.loopSeen := false }

theorem flagsKept_grantReport (s : State) : FlagsKept s (grantReport s) := by
  unfold grantReport
  refine FlagsKept.trans (.of_eq ?_) (flagsKept_beginSeizure _ _)
  simp [forSeqs_rqu]

theorem flagsKept_judgeStart (s : State) : FlagsKept s (judgeStart s) := by
  unfold judgeStart
  dsimp only
  split
  · have hw : FlagsKept s (withdrawClockRequest s) := by
      unfold withdrawClockRequest
      (repeat' split) <;> exact .of_eq rfl
    split
    · exact hw.trans (flagsKept_grantReport _)
    · exact hw
  · exact .of_eq rfl

theorem flagsKept_setLatch (k : IncKind) (s : State) : FlagsKept s (setLatch k s) := by
  rcases setLatch_cases k s with ⟨-, h⟩ | ⟨-, -, h⟩ <;> rw [h]
  · exact .of_eq rfl
  · exact flagsKept_raise .condition _

/-- An occurrence taken raises INCIDENT (R130). -/
theorem flagOf_takeOccurrence (k : IncKind) (detail : Nat) (s : State) :
    flagOf (takeOccurrence k detail s).rqu.flags .incident = true := by
  unfold takeOccurrence
  dsimp only
  (repeat' split)
  · simp
  · exact flagsKept_judgeStart _ _ (by simp)
  · simp

theorem flagsKept_takeOccurrence (k : IncKind) (detail : Nat) (s : State) :
    FlagsKept s (takeOccurrence k detail s) := by
  have hset (u : State) (h : u.rqu = s.rqu) : FlagsKept s (raise .incident (setLatch k u)) :=
    (FlagsKept.of_eq (by rw [h])).trans ((flagsKept_setLatch k u).trans (flagsKept_raise _ _))
  unfold takeOccurrence
  dsimp only
  (repeat' split)
  · exact hset _ (by simp)
  · exact (hset _ (by simp)).trans (flagsKept_judgeStart _)
  · exact hset _ (by simp)

theorem flagsKept_occur (k : IncKind) (detail : Nat) (s : State) :
    FlagsKept s (occur k detail s) := by
  rcases occur_cases k detail s with ⟨-, h⟩ | ⟨-, h⟩ <;> rw [h]
  · exact flagsKept_takeOccurrence k detail s
  · exact .of_eq rfl

/-- An occurrence handed reaches the INU, or what it holds (R130, R136, R137). -/
theorem occur_reached (k : IncKind) (detail : Nat) (s : State) :
    OccurrenceReached k detail s (occur k detail s) := by
  unfold OccurrenceReached
  rcases occur_cases k detail s with ⟨ha, h⟩ | ⟨ha, h⟩ <;> rw [h]
  · rw [if_pos (by simpa [inuActive, running] using ha)]
    exact ⟨fun hk => by simp [latched_takeOccurrence, hk], flagOf_takeOccurrence k detail s⟩
  · rw [if_neg (by simpa [inuActive, running] using ha)]
    simp

end Sys2Proof.Machine
end

section
/-! Preload and RELOAD_CONFIG (R27, R32 to R34, R65, R128), and O24. -/

namespace Sys2Proof.Machine

/-! #### Preload -/

theorem preloadSkipped_congr {s t : State} (h : t.bpu.table = s.bpu.table) (a : Nat) :
    preloadSkipped a t = preloadSkipped a s := by
  simp [preloadSkipped, h]

/-- The tuples' effect in order: those that are not skipped are stored, the others counted (R27). -/
theorem foldl_preloadTuple (ts : List (Nat × Word)) (s : State) :
    ts.foldl (fun s t => preloadTuple t s) s =
      { s with
        mem := s.mem.storeAll (ts.filter fun t => !preloadSkipped t.1 s)
        cfl.skip := s.cfl.skip + (ts.filter fun t => preloadSkipped t.1 s).length } := by
  induction ts generalizing s with
  | nil => rfl
  | cons t ts ih =>
    rw [List.foldl_cons, ih]
    have hskip : preloadSkipped t.1 s = true ∨ preloadSkipped t.1 s = false := by simp
    rcases hskip with h | h
    · have hc (a : Nat) : preloadSkipped a (preloadTuple t s) = preloadSkipped a s :=
        preloadSkipped_congr (by simp [preloadTuple, h]) a
      simp only [hc]
      simp [preloadTuple, h]
      omega
    · have hc (a : Nat) : preloadSkipped a (preloadTuple t s) = preloadSkipped a s :=
        preloadSkipped_congr (by simp [preloadTuple, h, storeWord]) a
      simp only [hc]
      simp [preloadTuple, h, storeWord]

theorem finishPreload_eq {s : State} {ts : List (Nat × Word)} (h : s.cfl.preload = some ts) :
    finishPreload s =
      { s with
        mem := s.mem.storeAll (ts.filter fun t => !preloadSkipped t.1 s)
        cfl := { s.cfl with
          preload := none
          skip := s.cfl.skip + (ts.filter fun t => preloadSkipped t.1 s).length } } := by
  simp only [finishPreload, h, Option.getD_some, foldl_preloadTuple]

theorem preloadMayEnd_iff {s : State} {ts : List (Nat × Word)} (h : s.cfl.preload = some ts) :
    preloadMayEnd s = true ↔
      portReaches .cfl s = true ∨ (ts.all fun t => preloadSkipped t.1 s) = true := by
  rw [preloadMayEnd, Bool.or_eq_true, decide_eq_true_eq, preloadHead, h, Option.getD_some,
    List.dropWhile_eq_nil_iff, List.all_eq_true, or_comm]

/-- The held request's answer (R38). -/
theorem answerHeld_of_held {k : Nat} {v : Service} {s : State} (h : s.rqu.service = some v)
    (hp : v.phase = .held) (hk : v.kind.toNat = k) (c : ResultCode) (r1 r2 r3 : Word) :
    answerHeld k c r1 r2 r3 s = { s with rqu.service := some (v.answered c r1 r2 r3) } := by
  simp [answerHeld, answer, h, hp, hk, Service.answered]

theorem preloadWritten : Clause.PreloadWritten := by
  intro s ts hp hts skipped mem skip ends
  have hskip (t : Nat × Word) : preloadSkipped t.1 s = skipped t := by
    simp [skipped, preloadSkipped, windowAt]
  have hends : preloadMayEnd s = true ↔ ends := by
    simp only [preloadMayEnd_iff hts, hskip, ends]
  refine ⟨fun h => ?_, fun h hstep hr => ?_, fun v h hrel hv hphase hkind => ?_⟩
  · have hno : preloadMayEnd s = false := by
      rw [← Bool.not_eq_true, hends]
      exact h
    constructor
    · simp only [exec, execPreloadDone, onPower, hp, hno, Bool.and_false, if_true]
      split <;> rfl
    · simp only [exec, execReloadPreloadDone, onPower, hp, hno, hts, if_true]
      split <;> rfl
  · simp only [exec, execPreloadDone, onPower, hp, hstep, running, hr, hends.mpr h,
      finishPreload_eq hts, hskip]
    rfl
  · simp only [exec, execReloadPreloadDone, onPower, hp, hrel, hts, hends.mpr h, hskip,
      finishPreload_eq hts, if_true, decide_eq_true_eq]
    rw [answerHeld_of_held (v := v) (by exact hv) hphase hkind]

/-! #### RELOAD_CONFIG -/

theorem reloadAsked {s : State} {v : Service} (h : InService kindReloadConfig v s) :
    let answered (c : ResultCode) : State := { s with rqu.service := some (v.answered c 0 0 0) }
    (s.acu.mode ≠ .service → exec .reloadConfig s = .next (answered .refusedMode)) ∧
    (s.acu.mode = .service →
      (s.pfu.power ≠ .running ∨ s.lnu.state ≠ .idle ∨ s.cnu.escrow ≠ []) →
      exec .reloadConfig s = .next (answered .refusedState)) ∧
    ∀ w, s.acu.mode = .service → s.pfu.power = .running → s.lnu.state = .idle →
      s.cnu.escrow = [] → windowOf .config s = some w →
      exec .reloadConfig s =
        .next
          { s with
            cfl.walk := some (Walk.start w.base (w.base + w.size) (w.base = 0x80000))
            cfl.reloading := true
            rqu.service := some v.accepted } := by
  obtain ⟨hp, hv, hphase, hkind⟩ := h
  have hexec : exec .reloadConfig s = .next (reloadConfigRequest v.params s) :=
    (onPower_up hp _).trans (congrArg _ (onRequest_serving _ hv hphase hkind))
  have hans (c : ResultCode) : answer0 c s = { s with rqu.service := some (v.answered c 0 0 0) } := by
    simp [answer0, answer, hv, Service.answered]
  intro answered
  rw [hexec]
  refine ⟨fun hm => ?_, fun hm h => ?_, fun w hm hr hl he hw => ?_⟩
  · rw [reloadConfigRequest, if_pos hm, hans]
  · rw [reloadConfigRequest, if_neg (not_not.mpr hm), hans]
    rcases h with h | h | h <;> simp [running, h, answered]
  · simp [reloadConfigRequest, hm, running, hr, hl, he, baseOf, hw, holdRequest, hv,
      Service.accepted]

/-! ##### The parameters given -/

theorem uncollected_congr {s t : State} (h : t.adu = s.adu) : uncollected t = uncollected s := by
  simp only [uncollected, h]

/-- The decay timer of one of the attributes, started if it is stopped and its period is not 0 (R128). -/
theorem startDecay_eq (c : AttrCfg) (v : Attr) (ms : Nat) :
    (if v.timer.isNone && c.decay ≠ 0 then { v with timer := some (ms + c.decay * 60000) } else v) =
      { v with
        timer := if v.timer = none ∧ c.decay ≠ 0 then some (ms + c.decay * 60000) else v.timer } := by
  by_cases h : v.timer = none ∧ c.decay ≠ 0
  · simp [h]
  · rw [if_neg h, if_neg (by simpa using h)]

theorem startStoppedDecays_get (s : State) (a : AttrId) :
    let v := s.inu.attrs.get a
    let decay := (s.cfl.params.attrs.get a).decay
    (startStoppedDecays s).inu.attrs.get a =
      { v with
        timer := if v.timer = none ∧ decay ≠ 0 then some (s.inu.ms + decay * 60000) else v.timer } := by
  cases a <;> exact startDecay_eq _ _ _

section
variable (s : State)

/-- Whether the fill check hands CASHBOX_NEAR_FULL (R65). -/
def nearHanded : Bool :=
  s.cfl.params.boxNearFull ≤ s.adu.cache.boxCoins && !latched s.inu.latches .cashboxNearFull

/-- Whether the fill check hands CASHBOX_FULL (R65). -/
def fullHanded : Bool :=
  s.cfl.params.boxFull ≤ s.adu.cache.boxCoins && !latched s.inu.latches .cashboxFull

theorem fillCheck_eq :
    fillCheck s =
      let u := if nearHanded s then occur .cashboxNearFull 0 s else s
      if fullHanded s then occur .cashboxFull 0 u else u := rfl

theorem fillCheck_core : (fillCheck s).inu.core = s.inu.core := by
  rw [fillCheck_eq]
  dsimp only
  (repeat' split) <;> simp

theorem flagsKept_fillCheck : FlagsKept s (fillCheck s) := by
  rw [fillCheck_eq]
  have h : FlagsKept s (if nearHanded s then occur .cashboxNearFull 0 s else s) := by
    split
    · exact flagsKept_occur _ _ _
    · exact .of_eq rfl
  dsimp only
  split
  · exact h.trans (flagsKept_occur _ _ _)
  · exact h

theorem fillCheck_idle (hn : nearHanded s = false) (hf : fullHanded s = false) :
    fillCheck s = s := by
  simp [fillCheck_eq, hn, hf]

/-- The fill check hands what it hands as R65 says, each on its own. -/
theorem fillCheck_reached :
    (nearHanded s = true → OccurrenceReached .cashboxNearFull 0 s (fillCheck s)) ∧
    (fullHanded s = true → OccurrenceReached .cashboxFull 0 s (fillCheck s)) := by
  rw [fillCheck_eq]
  dsimp only
  constructor
  · intro hn
    rw [if_pos hn]
    have h := occur_reached .cashboxNearFull 0 s
    split
    · unfold OccurrenceReached at h ⊢
      split at h
      · next ha =>
        rcases occur_cases .cashboxFull 0 (occur .cashboxNearFull 0 s) with ⟨-, e⟩ | ⟨-, e⟩ <;> rw [e]
        · rw [if_pos ha]
          exact ⟨fun hk => by simp [latched_takeOccurrence, h.1 hk], flagOf_takeOccurrence _ _ _⟩
        · rw [if_pos ha]
          exact h
      · next ha =>
        rw [if_neg ha]
        rcases occur_cases .cashboxFull 0 (occur .cashboxNearFull 0 s) with ⟨-, e⟩ | ⟨-, e⟩ <;> rw [e]
        · simpa using h
        · simp [h]
    · exact h
  · intro hf
    rw [if_pos hf]
    split
    · have h := occur_reached .cashboxFull 0 (occur .cashboxNearFull 0 s)
      simpa [OccurrenceReached] using h
    · exact occur_reached _ _ _

/-- Where occurrences are taken at once, the fill check sets the latches of what it hands. -/
theorem latched_fillCheck (ha : inuActive s = true) (k : IncKind) :
    latched (fillCheck s).inu.latches k =
      (latched s.inu.latches k || (decide (k = .cashboxNearFull) && nearHanded s) ||
        (decide (k = .cashboxFull) && fullHanded s)) := by
  have htake (k' : IncKind) (hk : k'.latches = true) {u : State} (hu : inuActive u = true) :
      latched (occur k' 0 u).inu.latches k = (latched u.inu.latches k || decide (k = k')) := by
    rcases occur_cases k' 0 u with ⟨-, e⟩ | ⟨h, -⟩
    · rw [e, latched_takeOccurrence, hk, Bool.true_and]
      congr 1
      cases k <;> cases k' <;> rfl
    · simp [h] at hu
  rw [fillCheck_eq]
  dsimp only
  cases hn : nearHanded s <;> cases hf : fullHanded s
  · simp
  · simp [htake .cashboxFull rfl ha]
  · simp [htake .cashboxNearFull rfl ha]
  · have hb : inuActive (occur .cashboxNearFull 0 s) = true := by simpa [inuActive, running] using ha
    simp [htake .cashboxFull rfl hb, htake .cashboxNearFull rfl ha]

end

/-- The reload's walk to its end, once the port has come to the CFL or no word is left (R16, R33).
-/
theorem exec_reloadWalkDone {s : State} {k : Walk} (hp : s.powered = true)
    (hrel : s.cfl.reloading = true) (hk : s.cfl.walk = some k) :
    (walkMayEnd k s = false → exec .reloadWalkDone s = .next s) ∧
    (∀ r i, walkMayEnd k s = true → (k.finish s.mem).outcome = some (r, i) →
      exec .reloadWalkDone s = .next
        (answerHeld kindReloadConfig .chainBad (wordOf i) (wordOf r.code) 0
          { s with cfl.walk := none, cfl.reloading := false })) ∧
    (walkMayEnd k s = true → (k.finish s.mem).outcome = none →
      exec .reloadWalkDone s = .next
        (let u := giveParams (paramsOf (k.finish s.mem).found) { s with cfl.walk := none }
        { u with
          cfl.image := windowDescs (k.finish s.mem).found
          cfl.preload := some (preloadOf (k.finish s.mem).found)
          cfl.skip := 0 })) := by
  refine ⟨fun h => ?_, fun r i h ho => ?_, fun h ho => ?_⟩ <;>
    rw [exec, execReloadWalkDone, onPower_up hp] <;> simp only [hrel, hk, h]
  · rfl
  · simp only [ho]
    rfl
  · simp only [ho]
    rfl

section
variable (p : Params) (s : State)

/-- Whether a good reload raises LOG (R33). -/
def reloadLogs : Bool :=
  p.logNearFull ≤ uncollected s && uncollected s < s.cfl.params.logNearFull

theorem giveParams_eq :
    giveParams p s =
      startStoppedDecays (raiseIf (reloadLogs p s) .log (fillCheck { s with cfl.params := p })) := rfl

/-- What a good reload changes: the parameters and the components of occurrences. -/
theorem giveParams_changes :
    OnlyChanges [.cfl, .rqu, .lnu, .inu, .rpu, .adu, .held] s (giveParams p s) := by
  intro b hb
  cases b <;> simp [Block.same, giveParams_eq, startStoppedDecays] at hb ⊢

theorem giveParams_parts :
    (giveParams p s).cfl = { s.cfl with params := p } ∧
    (giveParams p s).rqu.service = s.rqu.service ∧
    (giveParams p s).adu.cache = s.adu.cache ∧
    (giveParams p s).held = (fillCheck { s with cfl.params := p }).held ∧
    (giveParams p s).inu.latches = (fillCheck { s with cfl.params := p }).inu.latches ∧
    (giveParams p s).rqu = (raiseIf (reloadLogs p s) .log (fillCheck { s with cfl.params := p })).rqu := by
  simp [giveParams_eq, startStoppedDecays]

theorem flagOf_giveParams (e : Event) (h : flagOf (fillCheck { s with cfl.params := p }).rqu.flags e = true) :
    flagOf (giveParams p s).rqu.flags e = true := by
  obtain ⟨-, -, -, -, -, hrqu⟩ := giveParams_parts p s
  rw [hrqu, raiseIf]
  split
  · exact flagsKept_raise _ _ _ h
  · exact h

theorem giveParams_logs (h : reloadLogs p s = true) :
    flagOf (giveParams p s).rqu.flags .log = true := by
  obtain ⟨-, -, -, -, -, hrqu⟩ := giveParams_parts p s
  rw [hrqu, raiseIf, if_pos h]
  simp

/-- An occurrence that the fill check's new counts hand is one that the reload hands. -/
theorem giveParams_reached {k : IncKind}
    (h : OccurrenceReached k 0 { s with cfl.params := p } (fillCheck { s with cfl.params := p })) :
    OccurrenceReached k 0 s (giveParams p s) := by
  obtain ⟨-, -, -, hheld, hlatches, -⟩ := giveParams_parts p s
  unfold OccurrenceReached at h ⊢
  rw [hheld, hlatches]
  split
  · next ha =>
    rw [if_pos ha] at h
    exact ⟨h.1, flagOf_giveParams p s .incident h.2⟩
  · next ha =>
    rw [if_neg ha] at h
    exact h

theorem giveParams_attrs (a : AttrId) :
    let v := s.inu.attrs.get a
    let decay := (p.attrs.get a).decay
    (giveParams p s).inu.attrs.get a =
      { v with
        timer := if v.timer = none ∧ decay ≠ 0 then some (s.inu.ms + decay * 60000) else v.timer } := by
  have hcore : (raiseIf (reloadLogs p s) .log (fillCheck { s with cfl.params := p })).inu.core =
      s.inu.core := by
    simpa using fillCheck_core { s with cfl.params := p }
  have h := startStoppedDecays_get
    (raiseIf (reloadLogs p s) .log (fillCheck { s with cfl.params := p })) a
  rw [Inu.attrs_of_core hcore, Inu.ms_of_core hcore] at h
  simpa [giveParams_eq] using h

/-- A reload whose new fill counts hand nothing leaves the line, the report unit and the audit
unit. -/
theorem giveParams_idle (h : fillCheck { s with cfl.params := p } = { s with cfl.params := p }) :
    OnlyChanges [.cfl, .rqu, .inu] s (giveParams p s) ∧
    (giveParams p s).inu = { s.inu with attrs := (giveParams p s).inu.attrs } ∧
    (giveParams p s).rqu =
      { s.rqu with flags := if reloadLogs p s then setFlag s.rqu.flags .log else s.rqu.flags } := by
  rw [giveParams_eq, h]
  refine ⟨fun b hb => ?_, ?_, ?_⟩
  · cases b <;> simp [Block.same, startStoppedDecays] at hb ⊢
  · simp [startStoppedDecays]
  · simp only [startStoppedDecays, raiseIf]
    split <;> rfl

end

theorem OnlyChanges.trans {bs : List Block} {s t u : State} (h : OnlyChanges bs s t)
    (h' : OnlyChanges bs t u) : OnlyChanges bs s u := by
  intro b hb
  have hst := h b hb
  have htu := h' b hb
  cases b <;> exact htu.trans hst

theorem OnlyChanges.mono {bs cs : List Block} {s t : State} (h : OnlyChanges bs s t)
    (hsub : ∀ b ∈ bs, b ∈ cs) : OnlyChanges cs s t :=
  fun b hb => h b fun hmem => hb (hsub b hmem)

theorem onlyChanges_cfl (c : Cfl) (s : State) : OnlyChanges [.cfl] s { s with cfl := c } := by
  intro b hb
  cases b <;> simp [Block.same] at hb ⊢

/-- Changes of the CFL's registers before and after do not touch the other components. -/
theorem onlyChanges_of_cfl {bs : List Block} {s t : State} {c c' : Cfl} (hbs : .cfl ∈ bs)
    (h : OnlyChanges bs { s with cfl := c } t) : OnlyChanges bs s { t with cfl := c' } :=
  ((onlyChanges_cfl c s).mono (by simpa using hbs)).trans
    (h.trans ((onlyChanges_cfl c' t).mono (by simpa using hbs)))

theorem reloadJudged : Clause.ReloadJudged := by
  intro s v
  refine ⟨reloadAsked, ?_⟩
  intro k hp hrel hk e reached
  have hreached : walkMayEnd k s = true ↔ reached := by simp [walkMayEnd, reached]
  obtain ⟨hwaits, hbad, hgood⟩ := exec_reloadWalkDone hp hrel hk
  refine ⟨fun h => hwaits (by rw [← Bool.not_eq_true, hreached]; exact h),
    fun r i h ho hv hphase hkind => ?_, fun h ho => ⟨_, hgood (hreached.mpr h) ho, ?_⟩⟩
  · rw [hbad r i (hreached.mpr h) ho, answerHeld_of_held (v := v) (by exact hv) hphase hkind]
  let s₀ : State := { s with cfl.walk := none }
  obtain ⟨hcfl, hservice, hcache, -, hlatches, -⟩ := giveParams_parts (paramsOf e.found) s₀
  have hreach := fillCheck_reached { s₀ with cfl.params := paramsOf e.found }
  refine ⟨onlyChanges_of_cfl (by simp) (giveParams_changes (paramsOf e.found) s₀), ?_, hservice,
    hcache, ?_⟩
  · exact congrArg (fun c : Cfl => ({ c with
      image := windowDescs e.found, preload := some (preloadOf e.found), skip := 0 } : Cfl)) hcfl
  intro p was near full log
  have hlog : reloadLogs p s₀ = log := by
    rw [reloadLogs, uncollected_congr (s := s) (t := s₀) rfl]
  have hnear : nearHanded { s₀ with cfl.params := p } = (near && !was .cashboxNearFull) := rfl
  have hfull : fullHanded { s₀ with cfl.params := p } = (full && !was .cashboxFull) := rfl
  refine ⟨fun hn hw => giveParams_reached p s₀ (hreach.1 (by rw [hnear, hn, hw]; rfl)),
    fun hf hw => giveParams_reached p s₀ (hreach.2 (by rw [hfull, hf, hw]; rfl)),
    fun hr hb k => ?_, fun h => giveParams_logs p s₀ (hlog.trans h), fun hn hf => ?_,
    fun a => giveParams_attrs p s₀ a⟩
  · have ha : inuActive { s₀ with cfl.params := p } = true := by simp [inuActive, running, s₀, hr, hb]
    have h := latched_fillCheck _ ha k
    rw [← hlatches, hnear, hfull] at h
    refine Eq.trans (by exact h) ?_
    rcases Decidable.em (k = .cashboxNearFull) with rfl | hk
    · cases hw : was .cashboxNearFull <;> simp [was] at hw <;> simp [was, hw, s₀]
    · rcases Decidable.em (k = .cashboxFull) with rfl | hk'
      · cases hw : was .cashboxFull <;> simp [was] at hw <;> simp [was, hw, s₀]
      · simp [hk, hk', was, s₀]
  · have hidle := fillCheck_idle { s₀ with cfl.params := p } (by simpa [hnear] using hn)
      (by simpa [hfull] using hf)
    obtain ⟨hchanges, hinu, hrqu⟩ := giveParams_idle p s₀ hidle
    rw [hlog] at hrqu
    exact ⟨onlyChanges_of_cfl (by simp) hchanges, hinu, hrqu⟩

/-- Settles O24: the tuples written and counted, and RELOAD_CONFIG from its judgement to its
effects. -/
theorem preloadAndReload : Obligations.PreloadAndReload := ⟨preloadWritten, reloadJudged⟩

end Sys2Proof.Machine
end

section
/-! The CRC-16 (R71). -/

namespace Sys2Proof.Machine

/-- One shift of the CRC's register, as R71 has it. -/
def shiftWord (r : Word) : Word := if r.msb = true then (r <<< 1) ^^^ 0x1021 else r <<< 1

theorem wordOf_crcShift {r : Nat} (h : r < 65536) :
    crcShift r < 65536 ∧ wordOf (crcShift r) = shiftWord (wordOf r) := by
  have hmsb : (wordOf r).msb = decide (32768 ≤ r) := by
    simp [wordOf, BitVec.msb_eq_decide]
    omega
  unfold crcShift shiftWord
  rw [hmsb]
  by_cases hr : 32768 ≤ r
  · simp only [hr, if_true, decide_true]
    refine ⟨Nat.xor_lt_two_pow (n := 16) (by omega) (by omega), ?_⟩
    apply BitVec.eq_of_toNat_eq
    simp [wordOf, BitVec.toNat_xor, Nat.shiftLeft_eq]
  · simp only [hr, if_false, decide_false]
    refine ⟨by omega, ?_⟩
    apply BitVec.eq_of_toNat_eq
    simp [wordOf, Nat.shiftLeft_eq]

theorem wordOf_repeat_crcShift (n : Nat) {r : Nat} (h : r < 65536) :
    Nat.repeat crcShift n r < 65536 ∧ wordOf (Nat.repeat crcShift n r) = shiftWord^[n] (wordOf r) := by
  induction n with
  | zero => exact ⟨h, rfl⟩
  | succ n ih =>
    obtain ⟨hlt, heq⟩ := wordOf_crcShift ih.1
    refine ⟨hlt, ?_⟩
    rw [Function.iterate_succ_apply', ← ih.2]
    exact heq

theorem wordOf_crcByte {r b : Nat} (hr : r < 65536) (hb : b < 256) :
    crcByte r b < 65536 ∧
      wordOf (crcByte r b) = shiftWord^[8] (wordOf r ^^^ (wordOf b <<< 8)) := by
  have hx : r ^^^ (b * 256) < 65536 := Nat.xor_lt_two_pow (n := 16) hr (by omega)
  obtain ⟨hlt, heq⟩ := wordOf_repeat_crcShift 8 hx
  refine ⟨hlt, heq.trans (congrArg _ ?_)⟩
  apply BitVec.eq_of_toNat_eq
  simp [wordOf, BitVec.toNat_xor, Nat.shiftLeft_eq]

/-- One byte taken into the CRC's register, as R71 has it. -/
def byteWord (r b : Word) : Word := shiftWord^[8] (r ^^^ (b <<< 8))

theorem wordOf_crcWord {r : Nat} (hr : r < 65536) (w : Word) :
    crcWord r w < 65536 ∧
      wordOf (crcWord r w) = byteWord (byteWord (wordOf r) (w >>> 8)) (w &&& 0xFF) := by
  have hhi : wordOf w.hi.toNat = w >>> 8 := by
    have := w.isLt
    apply BitVec.eq_of_toNat_eq
    simp [wordOf, Word.hi, Nat.shiftRight_eq_div_pow]
    omega
  have hlo : wordOf w.lo.toNat = w &&& 0xFF := by
    have hand : w.toNat &&& 255 = w.toNat % 256 := Nat.and_two_pow_sub_one_eq_mod w.toNat 8
    apply BitVec.eq_of_toNat_eq
    simp [wordOf, Word.lo, hand]
    omega
  obtain ⟨hlt, heq⟩ := wordOf_crcByte hr w.hi.isLt
  obtain ⟨hlt', heq'⟩ := wordOf_crcByte hlt w.lo.isLt
  refine ⟨hlt', heq'.trans ?_⟩
  rw [heq, hhi, hlo]
  rfl

theorem foldl_crcWord_lt (ws : List Word) {r : Nat} (hr : r < 65536) : ws.foldl crcWord r < 65536 := by
  induction ws generalizing r with
  | nil => exact hr
  | cons w ws ih =>
    rw [List.foldl_cons]
    exact ih (wordOf_crcWord hr w).1

/-- A further word of a CRC. -/
theorem crc_append (ws : List Word) (w : Word) :
    crc (ws ++ [w]) = byteWord (byteWord (crc ws) (w >>> 8)) (w &&& 0xFF) := by
  rw [crc, List.foldl_append, List.foldl_cons, List.foldl_nil]
  exact (wordOf_crcWord (foldl_crcWord_lt ws (r := 0xFFFF) (by decide)) w).2

theorem crcGood_append (ws : List Word) (w : Word) : crcGood (ws ++ [w]) = true ↔ w = crc ws := by
  simp [crcGood]

theorem crcComputed : Clause.CrcComputed :=
  ⟨by decide, by decide, crc_append, crcGood_append⟩

end Sys2Proof.Machine
end

section
/-! The first failing item of a list; digit order (R69, R73). -/

namespace Sys2Proof.Machine

/-! #### The first failing item of a list -/

/-- The item standing with the first condition that holds. -/
def firstBad {α : Type} (items : List (Bool × α)) : Option α := (items.find? (·.1)).map (·.2)

section
variable {α : Type}

@[simp] theorem firstBad_nil : firstBad ([] : List (Bool × α)) = none := rfl

theorem firstBad_cons (b : Bool) (x : α) (items : List (Bool × α)) :
    firstBad ((b, x) :: items) = if b then some x else firstBad items := by
  cases b <;> simp [firstBad]

theorem firstBad_append (xs ys : List (Bool × α)) :
    firstBad (xs ++ ys) = (firstBad xs).or (firstBad ys) := by
  simp only [firstBad, List.find?_append]
  cases xs.find? (·.1) <;> simp

theorem firstBad_eq_none_iff {items : List (Bool × α)} :
    firstBad items = none ↔ ∀ x ∈ items, x.1 = false := by
  simp [firstBad]

theorem firstField_eq (l : List (Bool × Nat)) : firstField l = firstBad l := by
  induction l with
  | nil => rfl
  | cons x l ih =>
    obtain ⟨b, code⟩ := x
    rw [firstField, firstBad_cons, ih]

/-- A table's and an index's first failing field, as an item. -/
theorem firstBad_map (f : α → BadItem) (l : List (Bool × α)) :
    firstBad (l.map fun x => (x.1, f x.2)) = (firstBad l).map f := by
  induction l with
  | nil => rfl
  | cons x l ih =>
    obtain ⟨b, a⟩ := x
    cases b <;> simp [firstBad_cons, ih]

end

/-- A table's items in turn, each judged by its own conditions. -/
theorem firstItem_eq {table : Nat} {judge : Nat → Option Nat} {items : Nat → List (Bool × BadItem)}
    {i n : Nat} (h : ∀ k, i ≤ k → k < i + n → firstBad (items k) = (judge k).map (⟨table, k, ·⟩)) :
    firstItem table judge i n = firstBad ((List.range' i n).flatMap items) := by
  induction n generalizing i with
  | zero => rfl
  | succ n ih =>
    rw [List.range'_succ, List.flatMap_cons, firstBad_append, h i le_rfl (by omega),
      ← ih fun k hk hk' => h k (by omega) (by omega)]
    rw [firstItem]
    cases judge i <;> rfl

/-! #### The header and the entries -/

/-- A length's digits, one of which is above 9. -/
theorem any_range_map (n : Nat) (f : Nat → Nat) (p : Nat → Bool) :
    (((List.range n).map f).any p) = (List.range n).any fun k => p (f k) := by
  simp [Function.comp_def]

/-- Digit order, by the place of the first difference (R69). -/
theorem digitsBefore_range {n m : Nat} {f g : Nat → Nat} :
    digitsBefore ((List.range n).map f) ((List.range m).map g) = true ↔
      ∃ k, (∀ i, i < k → f i = g i) ∧ (k < n ∧ k < m ∧ f k < g k ∨ k = n ∧ k < m) := by
  induction n generalizing f g m with
  | zero =>
    cases m with
    | zero => simp [digitsBefore]
    | succ m =>
      simp only [List.range_zero, List.map_nil, List.range_succ_eq_map, List.map_cons, digitsBefore,
        true_iff]
      exact ⟨0, by simp⟩
  | succ n ih =>
    cases m with
    | zero => simp [List.range_succ_eq_map, digitsBefore]
    | succ m =>
      simp only [List.range_succ_eq_map, List.map_cons, List.map_map, digitsBefore, Bool.or_eq_true,
        Bool.and_eq_true, decide_eq_true_eq, ih, Function.comp_def, Nat.succ_eq_add_one]
      constructor
      · rintro (h | ⟨h0, k, heq, h⟩)
        · exact ⟨0, by simp, .inl ⟨by omega, by omega, h⟩⟩
        · refine ⟨k + 1, fun i hi => ?_, by omega⟩
          cases i with
          | zero => exact h0
          | succ i => exact heq i (by omega)
      · rintro ⟨k, heq, h⟩
        cases k with
        | zero => exact .inl (by omega)
        | succ k =>
          exact .inr ⟨heq 0 (by omega), k, fun i hi => heq (i + 1) (by omega), by omega⟩

/-- The digit order of two prefixes of at most eight places, place by place. -/
theorem digitsBefore_eq_any {n m : Nat} (hn : n ≤ 8) {f g : Nat → Nat} :
    digitsBefore ((List.range n).map f) ((List.range m).map g) =
      (List.range 9).any fun k =>
        ((List.range k).all fun i => f i = g i) &&
          ((k < n && k < m && f k < g k) || (k = n && k < m)) := by
  rw [Bool.eq_iff_iff, digitsBefore_range]
  simp only [List.any_eq_true, List.mem_range, Bool.and_eq_true, List.all_eq_true, Bool.or_eq_true,
    decide_eq_true_eq]
  constructor
  · rintro ⟨k, heq, h⟩
    exact ⟨k, by omega, heq, by omega⟩
  · rintro ⟨k, -, heq, h⟩
    exact ⟨k, heq, by omega⟩

end Sys2Proof.Machine
end

section
/-! The items of a tariff check (R68 to R70, R73, R75). -/

namespace Sys2Proof.Machine

section
variable (w : Area)

/-! #### The conditions of each table (R68 to R70, R75) -/

/-- The places of an entry's digits that the area holds. -/
def entryPlaces (i : Nat) : Nat := min (w (6 + 5 * i) / 256) 8

theorem entryPlaces_le (i : Nat) : entryPlaces w i ≤ 8 := min_le_right _ _

/-- A digit of an entry. -/
def entryDigit (i k : Nat) : Nat := w (4 + 5 * i + k / 4) / 16 ^ (3 - k % 4) % 16

theorem prefixOf_eq (i : Nat) :
    prefixOf w i =
      ⟨w (6 + 5 * i) / 256, (List.range (entryPlaces w i)).map (entryDigit w i),
        w (6 + 5 * i) % 256, w (7 + 5 * i), w (8 + 5 * i) / 256, w (8 + 5 * i) % 256⟩ := by
  have h2 : entryAt i + 2 = 6 + 5 * i := by unfold entryAt; omega
  have h3 : entryAt i + 3 = 7 + 5 * i := by unfold entryAt; omega
  have h4 : entryAt i + 4 = 8 + 5 * i := by unfold entryAt; omega
  simp only [prefixOf, h2, h3, h4]
  rfl

/-- An entry's conditions (R69). -/
def entryItems (i : Nat) : List (Bool × BadItem) :=
  let cls := w (6 + 5 * i) % 256
  let least := w (8 + 5 * i) / 256
  let most := w (8 + 5 * i) % 256
  let length := w (6 + 5 * i) / 256
  let follows : Bool :=
    (List.range 9).any fun k =>
      ((List.range k).all fun m => entryDigit w (i - 1) m = entryDigit w i m) &&
        ((k < entryPlaces w (i - 1) && k < entryPlaces w i &&
            entryDigit w (i - 1) k < entryDigit w i k) ||
          (k = entryPlaces w (i - 1) && k < entryPlaces w i))
  [((List.range (entryPlaces w i)).any fun k => 9 < entryDigit w i k, ⟨2, i, 2⟩),
    (length < 1 || 8 < length, ⟨2, i, 1⟩),
    (31 < cls, ⟨2, i, 3⟩),
    (1 < w (7 + 5 * i), ⟨2, i, 4⟩),
    (least < length || most < least || 20 < most, ⟨2, i, 5⟩),
    (i ≠ 0 && !follows, ⟨2, i, 6⟩),
    (cls ≠ 0 && w (1284 + 10 * cls) ≠ 1, ⟨2, i, 7⟩)]

theorem firstBad_entryItems (i : Nat) :
    firstBad (entryItems w i) = (prefixFault w i).map (⟨2, i, ·⟩) := by
  rw [prefixFault, firstField_eq, ← firstBad_map]
  simp only [prefixOf_eq, any_range_map, digitsBefore_eq_any (entryPlaces_le w (i - 1)),
    Nat.pos_iff_ne_zero]
  rfl

/-- A class row's conditions (R70). -/
def rowItems (c : Nat) : List (Bool × BadItem) :=
  let r := 1284 + 10 * c
  let used : Bool := w r = 1
  let lengths : List (Bool × BadItem) :=
    (List.range 4).map fun b =>
      (used && (w (r + 2 + 2 * b) < 1 || 600 < w (r + 2 + 2 * b)), ⟨3, c, 3 + b⟩)
  let charges : List (Bool × BadItem) :=
    (List.range 4).map fun b => (used && 9999 < w (r + 3 + 2 * b), ⟨3, c, 7 + b⟩)
  let flags : List (Bool × BadItem) :=
    [(1 < w r, ⟨3, c, 1⟩), (used && 9999 < w (r + 1), ⟨3, c, 2⟩)]
  flags ++ lengths ++ charges

theorem firstBad_rowItems (c : Nat) :
    firstBad (rowItems w c) = (rowFault w c).map (⟨3, c, ·⟩) := by
  have hitems : rowItems w c =
      [(decide (1 < w (rowAt c)), ⟨3, c, 1⟩)] ++
        (([9999 < w (rowAt c + 1),
          w (rowAt c + 2) < 1 || 600 < w (rowAt c + 2), w (rowAt c + 4) < 1 || 600 < w (rowAt c + 4),
          w (rowAt c + 6) < 1 || 600 < w (rowAt c + 6), w (rowAt c + 8) < 1 || 600 < w (rowAt c + 8),
          9999 < w (rowAt c + 3), 9999 < w (rowAt c + 5), 9999 < w (rowAt c + 7),
          9999 < w (rowAt c + 9)] : List Bool).zipIdx.map fun x =>
            (decide (w (rowAt c) = 1) && x.1, (⟨3, c, 2 + x.2⟩ : BadItem))) := rfl
  rw [hitems, rowFault]
  by_cases h1 : 1 < w (rowAt c)
  · simp [firstBad_cons, h1]
  by_cases h0 : w (rowAt c) = 0
  · simp [firstBad, h0]
  have hused : w (rowAt c) = 1 := by omega
  rw [if_neg h1, if_neg h0, firstField_eq, ← firstBad_map, firstBad_append, firstBad_cons,
    decide_eq_false h1, decide_eq_true hused]
  rfl

/-- A switch point's conditions (R75). -/
def pointItems (j k : Nat) : List (Bool × BadItem) :=
  let a := 1604 + 17 * j
  let minute := w (a + 1 + 2 * k)
  [(1439 < minute, ⟨4, j, 2⟩), (3 < w (a + 2 + 2 * k), ⟨4, j, 3⟩),
    (k = 0 && minute ≠ 0, ⟨4, j, 4⟩), (k ≠ 0 && minute ≤ w (a + 2 * k - 1), ⟨4, j, 5⟩)]

/-- The minute of the point before a switch point. -/
def minuteBefore (j k : Nat) : Option Nat :=
  if k = 0 then none else some (w (1604 + 17 * j + 2 * k - 1))

theorem firstBad_pointItems (j k n : Nat) :
    firstBad ((List.range' k n).flatMap (pointItems w j)) =
      (pointsFault (minuteBefore w j k)
        ((List.range' k n).map fun k =>
          ⟨w (scheduleAt j + 1 + 2 * k), w (scheduleAt j + 2 + 2 * k)⟩)).map (⟨4, j, ·⟩) := by
  induction n generalizing k with
  | zero => rfl
  | succ n ih =>
    have hnext : minuteBefore w j (k + 1) = some (w (scheduleAt j + 1 + 2 * k)) := by
      rw [minuteBefore, if_neg (by omega), scheduleAt]
      congr 2
      omega
    have hpoint : firstBad (pointItems w j k) =
        (firstField
          [(decide (1439 < w (scheduleAt j + 1 + 2 * k)), 2),
            (decide (3 < w (scheduleAt j + 2 + 2 * k)), 3),
            ((minuteBefore w j k).isNone && w (scheduleAt j + 1 + 2 * k) ≠ 0, 4),
            ((minuteBefore w j k).any fun m => w (scheduleAt j + 1 + 2 * k) ≤ m, 5)]).map
          (⟨4, j, ·⟩) := by
      rw [firstField_eq, ← firstBad_map]
      cases k <;> rfl
    rw [List.range'_succ, List.flatMap_cons, firstBad_append, ih, hnext, hpoint, List.map_cons,
      pointsFault]
    split
    · next h => rw [h]; rfl
    · next h => rw [h]; rfl

/-- A schedule's conditions (R70, R75). -/
def scheduleItems (j : Nat) : List (Bool × BadItem) :=
  (w (1604 + 17 * j) < 1 || 8 < w (1604 + 17 * j), ⟨4, j, 1⟩) ::
    (List.range (min (w (1604 + 17 * j)) 8)).flatMap (pointItems w j)

theorem firstBad_scheduleItems (j : Nat) :
    firstBad (scheduleItems w j) = (scheduleFault w j).map (⟨4, j, ·⟩) := by
  have h := firstBad_pointItems w j 0 (min (w (1604 + 17 * j)) 8)
  rw [← List.range_eq_range'] at h
  rw [scheduleItems, firstBad_cons, h, scheduleFault]
  by_cases hn : w (scheduleAt j) < 1 ∨ 8 < w (scheduleAt j)
  · rw [if_pos hn, if_pos (by simpa [scheduleAt] using hn)]
    rfl
  · rw [if_neg hn, if_neg (by simpa [scheduleAt] using hn)]
    rfl

/-- A holiday's conditions (R70). -/
def holidayItems (i : Nat) : List (Bool × BadItem) :=
  let month := w (1655 + i) / 256
  let day := w (1655 + i) % 256
  let longest := if month = 2 then 29 else if month ∈ [4, 6, 9, 11] then 30 else 31
  [(month < 1 || 12 < month, ⟨5, i, 1⟩), (day < 1 || longest < day, ⟨5, i, 2⟩)]

theorem monthLength_leap (m : Nat) :
    monthLength 0 m = if m = 2 then 29 else if m ∈ [4, 6, 9, 11] then 30 else 31 := by
  unfold monthLength
  split <;> simp_all [isLeap]

theorem firstBad_holidayItems (i : Nat) :
    firstBad (holidayItems w i) = (holidayFault w i).map (⟨5, i, ·⟩) := by
  rw [holidayFault, firstField_eq, ← firstBad_map]
  simp only [monthLength_leap]
  rfl

end

theorem firstBadItemFound : Clause.FirstBadItemFound := by
  intro w header length places digit follows entry row schedule holiday items
  have hentry : (List.range (w 1)).flatMap entry = (List.range' 0 (w 1)).flatMap (entryItems w) := by
    rw [List.range_eq_range']; rfl
  have hrow : (List.range 31).flatMap (fun c => row (c + 1)) =
      (List.range' 1 31).flatMap (rowItems w) := rfl
  have hschedule : (List.range 3).flatMap schedule = (List.range' 0 3).flatMap (scheduleItems w) := rfl
  have hholiday : (List.range (w 3)).flatMap holiday =
      (List.range' 0 (w 3)).flatMap (holidayItems w) := by
    rw [List.range_eq_range']; rfl
  have hheader : firstBad header = firstItem 1 (fun _ => headerFault w) 0 1 := by
    refine (firstItem_eq (i := 0) (n := 1) (items := fun _ => header) fun k _ hk => ?_).symm
    obtain rfl : k = 0 := by omega
    rw [headerFault, firstField_eq, ← firstBad_map]
    rfl
  have hall : (items.find? (·.1)).map (·.2) = firstBad items := rfl
  rw [hall, firstBad_append, firstBad_append, firstBad_append, firstBad_append, hentry, hrow, hschedule, hholiday,
    ← firstItem_eq fun k _ _ => firstBad_entryItems w k, ← firstItem_eq fun k _ _ => firstBad_rowItems w k,
    ← firstItem_eq fun k _ _ => firstBad_scheduleItems w k,
    ← firstItem_eq fun k _ _ => firstBad_holidayItems w k, hheader]
  simp only [judgeArea, Option.or_assoc]

end Sys2Proof.Machine
end

section
/-! TARIFF_CHECK asked for, and its items in order (R73). -/

namespace Sys2Proof.Machine

theorem judgeArea_header {w : Area} {f : Nat} (h : headerFault w = some f) :
    judgeArea w = some ⟨1, 0, f⟩ := by
  simp [judgeArea, firstItem, h]

theorem headerFault_none {w : Area} (h0 : w 0 ≤ 500) (h1 : w 1 ≤ 256) (h3 : w 3 ≤ 16) :
    headerFault w = none := by
  simp [headerFault, firstField, not_lt.mpr h0, not_lt.mpr h1, not_lt.mpr h3]

/-- With a good header and an entry in force, the first entry is judged next (R69). -/
theorem judgeArea_firstEntry {w : Area} (h0 : w 0 ≤ 500) (h1 : 1 ≤ w 1) (h1' : w 1 ≤ 256)
    (h3 : w 3 ≤ 16) {f : Nat} (h : prefixFault w 0 = some f) : judgeArea w = some ⟨2, 0, f⟩ := by
  obtain ⟨n, hn⟩ := Nat.exists_eq_add_one_of_ne_zero (show w 1 ≠ 0 by omega)
  simp [judgeArea, firstItem, headerFault_none h0 h1' h3, hn, h]

/-- An area without entries is judged by its rows next (R70). -/
theorem judgeArea_noEntry {w : Area} (h0 : w 0 ≤ 500) (h1 : w 1 = 0) (h3 : w 3 = 0) :
    judgeArea w = (firstItem 3 (rowFault w) 1 31).or (firstItem 4 (scheduleFault w) 0 3) := by
  simp [judgeArea, firstItem, headerFault_none h0 (by omega) (by omega), h1, h3]

theorem firstItem_eq_none {table : Nat} {judge : Nat → Option Nat} {i n : Nat}
    (h : ∀ k, i ≤ k → k < i + n → judge k = none) : firstItem table judge i n = none := by
  induction n generalizing i with
  | zero => rfl
  | succ n ih =>
    rw [firstItem, h i le_rfl (by omega)]
    exact ih fun k hk hk' => h k (by omega) (by omega)

theorem tariffItemsInOrder : Clause.TariffItemsInOrder := by
  intro w digit n entered
  have hdigit (i : Nat) : entryDigit w 0 i = digit i := rfl
  have hlength : w (6 + 5 * 0) / 256 = n := rfl
  refine ⟨fun h => ?_, fun h0 h => ?_, fun h0 h1 h => ?_, fun i he hi hi' h => ?_,
    fun he hd h => ?_, fun h0 h1 h3 hrows hsched => ?_, fun h0 h1 h3 h => ?_⟩
  · exact judgeArea_header (by simp [headerFault, firstField, h])
  · exact judgeArea_header (by simp [headerFault, firstField, not_lt.mpr h0, h])
  · exact judgeArea_header (by simp [headerFault, firstField, not_lt.mpr h0, not_lt.mpr h1, h])
  · obtain ⟨h0, h1, h1', h3⟩ := he
    refine judgeArea_firstEntry h0 h1 h1' h3 ?_
    have hany : ((List.range (entryPlaces w 0)).any fun k => decide (9 < entryDigit w 0 k)) = true :=
      List.any_eq_true.mpr ⟨i, by simp [entryPlaces]; omega, by simpa [hdigit] using h⟩
    simp only [prefixFault, prefixOf_eq, any_range_map, firstField, hany, if_true]
  · obtain ⟨h0, h1, h1', h3⟩ := he
    refine judgeArea_firstEntry h0 h1 h1' h3 ?_
    have hany : ((List.range (entryPlaces w 0)).any fun k => decide (9 < entryDigit w 0 k)) = false := by
      simp only [List.any_eq_false, List.mem_range, entryPlaces, hdigit, decide_eq_true_eq]
      intro k hk
      have := hd k (by omega) (by omega)
      omega
    have hbad : (decide (n < 1) || decide (8 < n)) = true := by simp; omega
    simp only [prefixFault, prefixOf_eq, any_range_map, firstField, hany, hlength, hbad, if_true,
      Bool.false_eq_true, if_false]
  · have hrow (c : Nat) (hc : 1 ≤ c) (hc' : c < 1 + 31) : rowFault w c = none := by
      simp [rowFault, rowAt, hrows c hc (by omega)]
    have hschedule (j : Nat) (_ : 0 ≤ j) (hj : j < 0 + 3) : scheduleFault w j = none := by
      obtain ⟨hn, hm, hb⟩ := hsched j (by omega)
      rw [show 1605 + 17 * j = 1604 + 17 * j + 1 by omega] at hm
      rw [show 1606 + 17 * j = 1604 + 17 * j + 2 by omega] at hb
      simp [scheduleFault, scheduleAt, hn, scheduleOf, pointsFault, firstField, hm, not_lt.mpr hb]
    rw [judgeArea_noEntry h0 h1 h3, firstItem_eq_none hrow, firstItem_eq_none hschedule]
    rfl
  · have hrow : rowFault w 1 = some 1 := by simp [rowFault, rowAt, h]
    rw [judgeArea_noEntry h0 h1 h3, firstItem, hrow]
    rfl

/-! #### TARIFF_CHECK and its check -/

theorem answered_eq (v : Service) (c : ResultCode) (s : State) (h : s.rqu.service = some v) :
    answer0 c s = { s with rqu.service := some (v.answered c 0 0 0) } := by
  simp [answer0, answer, h, Service.answered]

/-- The codes an owner may answer with. -/
theorem ownerCode_eq (i : Fin 19) :
    ∃ c : ResultCode, c ≠ .starting ∧ c ≠ .abandoned ∧ c ≠ .unknownKind ∧ ownerCode i = c.code := by
  have hall : ∀ i : Fin 19, ∃ c ∈ [ResultCode.ok, .okWindowsDeferred, .deferred, .refusedState,
      .refusedMode, .badParam, .noRoute, .barred, .tooShort, .tooLong, .insufficientCredit, .lineBusy,
      .paidBarred, .logFull, .tariffUnsettled, .tariffBad, .wrongCode, .lockedOut, .chainBad],
      ownerCode i = c.code := by decide
  obtain ⟨c, hc, h⟩ := hall i
  refine ⟨c, ?_, ?_, ?_, h⟩ <;> (rintro rfl; simp at hc)

theorem tariffCheckAsked : Clause.TariffCheckAsked := by
  rintro s v ⟨hp, hv, hphase, hkind⟩
  have hexec : exec .tariffCheck s = .next (tariffCheckRequest v.params s) :=
    (onPower_up hp _).trans (congrArg _ (onRequest_serving _ hv hphase hkind))
  rw [hexec]
  refine ⟨fun hm => ?_, fun hm hw hc => ?_, fun hm hw hc => ?_, fun hm hw => ?_⟩
  · rw [tariffCheckRequest, if_pos hm, answered_eq v _ s hv]
  · simp only [tariffCheckRequest, hm, hw, beginCheck, holdRequest, hv, hc]
    rfl
  · simp only [tariffCheckRequest, hm, hw, beginCheck, holdRequest, hv, hc]
    rfl
  · obtain ⟨c, h1, h2, h3, hc⟩ := ownerCode_eq (Config.noWindowCode s.free)
    refine ⟨c, h1, h2, h3, ?_⟩
    simp only [tariffCheckRequest, hm, hw, hv, hc]
    rfl

end Sys2Proof.Machine
end

section
/-! A tariff check's end (R73 to R77), and O34. -/

namespace Sys2Proof.Machine

/-- The check of a request that waits (R73) or of the end of SERVICE (R77), from its first word. -/
def newCheck (size : Nat) (forRequest : Bool) : Check := ⟨[], size, false, forRequest, false⟩

theorem endCheck_eq (s : State) :
    endCheck s =
      { s with
        tru.check := s.tru.waiting.head?.map (newCheck (checkedWords s))
        tru.waiting := s.tru.waiting.drop 1 } := by
  unfold endCheck
  dsimp only
  split
  · next h => simp [h]
  · next f rest h =>
    simp [h, beginCheck]
    rfl

theorem settleTariff_eq (overtaken : Bool) (s : State) :
    settleTariff overtaken s = { s with tru.unsettled := s.tru.unsettled && overtaken } := by
  cases overtaken <;> simp [settleTariff]

@[simp] theorem answerHeld_flags (k : Nat) (c : ResultCode) (r1 r2 r3 : Word) (s : State) :
    (answerHeld k c r1 r2 r3 s).rqu.flags = s.rqu.flags := by
  rcases answerHeld_cases k c r1 r2 r3 s with h | ⟨v, -, -, -, h⟩ <;> rw [h]

section
variable (k : Check) (s : State)

/-- A check's end, by its answer and the tariff unit's registers. -/
theorem failCheck_eq (b : BadItem) :
    failCheck k b s = endCheck
      (if k.forRequest then
        answerHeld kindTariffCheck .tariffBad (wordOf b.table) (wordOf b.index) (wordOf b.field)
          (settleTariff k.overtaken (occur .tariffInvalid 0 { s with tru.valid := false }))
      else settleTariff k.overtaken (occur .tariffInvalid 0 { s with tru.valid := false })) := rfl

theorem failCheck_parts (b : BadItem) :
    (failCheck k b s).mem = s.mem ∧ (failCheck k b s).adu.run = s.adu.run ∧
    (failCheck k b s).tru =
      { s.tru with
        valid := false
        unsettled := s.tru.unsettled && k.overtaken
        check := s.tru.waiting.head?.map (newCheck (checkedWords s))
        waiting := s.tru.waiting.drop 1 } := by
  rw [failCheck_eq, endCheck_eq, settleTariff_eq]
  cases k.forRequest <;> simp [checkedWords, windowOf]

theorem failCheck_reached (b : BadItem) : OccurrenceReached .tariffInvalid 0 s (failCheck k b s) := by
  have h := occur_reached .tariffInvalid 0 { s with tru.valid := false }
  rw [failCheck_eq, endCheck_eq, settleTariff_eq]
  cases k.forRequest <;> simpa [OccurrenceReached] using h

theorem failCheck_answered (b : BadItem) {v : Service} (hr : k.forRequest = true)
    (hv : s.rqu.service = some v) (hp : v.phase = .held) (hk : v.kind.toNat = kindTariffCheck) :
    (failCheck k b s).rqu.service =
      some (v.answered .tariffBad (wordOf b.table) (wordOf b.index) (wordOf b.field)) := by
  rw [failCheck_eq, endCheck_eq, settleTariff_eq, if_pos hr,
    answerHeld_of_held (v := v) (by simpa using hv) hp hk]

end

/-- A check's reads at their end: the words left are read, and its items judged (R73 to R75). -/
theorem exec_tariffCheckReadsDone {s : State} {k : Check} (hp : s.powered = true)
    (hk : s.tru.check = some k) (hw : k.writing = false) :
    let reached : Prop := k.size ≤ k.rev.length ∨ portReaches .tru s = true
    let ws := k.rev.reverse ++ restOfCheck k s
    (¬reached → exec .tariffCheckReadsDone s = .next s) ∧
    (reached → judgeArea (readArea ws) = none →
      exec .tariffCheckReadsDone s =
        .next (queueCheckWord (crc ws)
          { s with tru.check := some { k with rev := ws.reverse, writing := true } })) ∧
    ∀ b, reached → judgeArea (readArea ws) = some b →
      exec .tariffCheckReadsDone s = .next (failCheck { k with rev := ws.reverse } b s) := by
  intro reached ws
  have hrev : (restOfCheck k s).reverse ++ k.rev = ws.reverse := by simp [ws]
  have hreached : (k.writing || (checkReads s && !portReaches .tru s)) = true ↔ ¬reached := by
    simp [checkReads, hk, hw, reached]
  rw [exec, execTariffCheckReadsDone, onPower_up hp]
  simp only [hk, hrev, List.reverse_reverse]
  refine ⟨fun h => ?_, fun h hj => ?_, fun b h hj => ?_⟩
  · rw [if_pos (hreached.mpr h)]
  · rw [if_neg (fun hn => hreached.mp hn h), hj]
  · rw [if_neg (fun hn => hreached.mp hn h), hj]

theorem tariffReadsJudged : Clause.TariffReadsJudged := by
  intro s k hp hk hw reached ws
  obtain ⟨hwaits, hpasses, hfails⟩ := exec_tariffCheckReadsDone hp hk hw
  refine ⟨hwaits, hpasses, fun b h hj => ⟨_, hfails b h hj, ?_⟩⟩
  let k' : Check := { k with rev := ws.reverse }
  obtain ⟨hmem, -, htru⟩ := failCheck_parts k' s b
  exact ⟨hmem, congrArg (·.valid) htru, congrArg (·.calendar) htru, congrArg (·.unsettled) htru,
    congrArg (·.check) htru, congrArg (·.waiting) htru, failCheck_reached k' s b,
    fun v hr hv hphase hkind => failCheck_answered k' s b hr hv hphase hkind⟩

/-! #### The check word -/

section
variable (k : Check) (s : State)

theorem passCheck_eq :
    passCheck k s =
      let u := settleTariff k.overtaken (clearLatch .tariffInvalid
        { s with tru.valid := true, tru.calendar := some (calendarOf (readArea k.rev.reverse)) })
      endCheck (if k.forRequest then answerHeld kindTariffCheck .ok 0 0 0 u else u) := rfl

theorem passCheck_parts :
    (passCheck k s).mem = s.mem ∧ (passCheck k s).adu.run = s.adu.run ∧
    (passCheck k s).tru =
      { s.tru with
        valid := true
        calendar := some (calendarOf (readArea k.rev.reverse))
        unsettled := s.tru.unsettled && k.overtaken
        check := s.tru.waiting.head?.map (newCheck (checkedWords s))
        waiting := s.tru.waiting.drop 1 } := by
  rw [passCheck_eq]
  dsimp only
  rw [endCheck_eq, settleTariff_eq]
  cases k.forRequest <;> simp [checkedWords, windowOf]

theorem passCheck_answered {v : Service} (hr : k.forRequest = true)
    (hv : s.rqu.service = some v) (hp : v.phase = .held) (hk : v.kind.toNat = kindTariffCheck) :
    (passCheck k s).rqu.service = some (v.answered .ok 0 0 0) := by
  rw [passCheck_eq]
  dsimp only
  rw [endCheck_eq, settleTariff_eq, if_pos hr,
    answerHeld_of_held (v := v) (by simpa using hv) hp hk]

/-- A notice that clears a latch, taken at once, clears it (R125). -/
theorem latched_clearLatch {kind : IncKind} (ha : inuActive s = true) :
    latched (clearLatch kind s).inu.latches kind = false := by
  rcases clearLatch_cases kind s with ⟨-, h⟩ | ⟨h, -⟩
  · rw [h, takeClearLatch]
    split
    · simp [raise, latched_clearLatchBit]
    · next hl => simpa using hl
  · simp [h] at ha

theorem passCheck_unlatched (ha : inuActive s = true) :
    latched (passCheck k s).inu.latches .tariffInvalid = false := by
  have h := latched_clearLatch { s with
    tru.valid := true, tru.calendar := some (calendarOf (readArea k.rev.reverse)) }
    (kind := .tariffInvalid) ha
  rw [passCheck_eq]
  dsimp only
  rw [endCheck_eq, settleTariff_eq]
  cases k.forRequest <;> simpa using h

end

theorem checkWordEnds : Clause.CheckWordEnds := by
  intro s r w k hp hr hjob hk ends next
  have hends : runMayEnd s r = true ↔ ends := by simp [runMayEnd, running, ends]
  have hexec : exec .checkWordWriteDone s = .next
      (if runMayEnd s r then
        let u : State := { s with mem := s.mem.storeAll r.todo, adu.run := none }
        if r.failed = 0 then passCheck k u else failCheck k ⟨6, 0, 1⟩ u
      else s) := by
    rw [exec, execCheckWordWriteDone, onPower_up hp]
    simp only [hr, hk, hjob, finishRun]
  rw [hexec]
  refine ⟨fun h => by rw [if_neg (fun hn => h (hends.mp hn))], fun h => ?_⟩
  rw [if_pos (hends.mpr h)]
  dsimp only
  let u : State := { s with mem := s.mem.storeAll r.todo, adu.run := none }
  by_cases hf : r.failed = 0
  · rw [if_pos hf]
    obtain ⟨hmem, hrun, htru⟩ := passCheck_parts k u
    refine ⟨_, rfl, hmem, hrun, congrArg (·.unsettled) htru, congrArg (·.check) htru,
      congrArg (·.waiting) htru, fun _ => ⟨congrArg (·.valid) htru, congrArg (·.calendar) htru,
        fun hb hpow => passCheck_unlatched k u (by simp [inuActive, running, u, hb, hpow])⟩,
      fun hn => absurd hf hn, fun v hreq hv hphase hkind => ?_⟩
    rw [if_pos hf]
    exact passCheck_answered k u hreq hv hphase hkind
  · rw [if_neg hf]
    obtain ⟨hmem, hrun, htru⟩ := failCheck_parts k u ⟨6, 0, 1⟩
    refine ⟨_, rfl, hmem, hrun, congrArg (·.unsettled) htru, congrArg (·.check) htru,
      congrArg (·.waiting) htru, fun h0 => absurd h0 hf,
      fun _ => ⟨congrArg (·.valid) htru, congrArg (·.calendar) htru, failCheck_reached k u _⟩,
      fun v hreq hv hphase hkind => ?_⟩
    rw [if_neg hf]
    exact failCheck_answered k u _ hreq hv hphase hkind

/-- Settles O34: a tariff check asked for, its items in order, and its check word. -/
theorem tariffChecked : Obligations.TariffChecked :=
  ⟨tariffCheckAsked, tariffReadsJudged, firstBadItemFound, tariffItemsInOrder, checkWordEnds,
    crcComputed⟩

end Sys2Proof.Machine
end

section
/-! The end of STARTING over nothing held, and of a write-back (R28, R154, R156, R177), and O54. -/

namespace Sys2Proof.Machine

/-! #### The end of STARTING over nothing held (R28) -/

theorem judgeStart_busy {s : State} (h : s.lnu.quiet = false) : judgeStart s = s := by
  simp [judgeStart, h]

/-- Over a line that is not quiet an occurrence starts no report call. -/
theorem takeOccurrence_busy (k : IncKind) (detail : Nat) {s : State} (h : s.lnu.quiet = false) :
    (takeOccurrence k detail s).lnu = s.lnu ∧ (takeOccurrence k detail s).rpu = s.rpu := by
  unfold takeOccurrence
  dsimp only
  (repeat' split)
  · simp [raise]
  · rw [judgeStart_busy (by simpa [raise] using h)]
    simp [raise]
  · simp [raise]

theorem occur_busy (k : IncKind) (detail : Nat) {s : State} (h : s.lnu.quiet = false) :
    (occur k detail s).lnu = s.lnu ∧ (occur k detail s).rpu = s.rpu := by
  rcases occur_cases k detail s with ⟨-, e⟩ | ⟨-, e⟩ <;> rw [e]
  · exact takeOccurrence_busy k detail h
  · exact ⟨rfl, rfl⟩

theorem occur_active (k : IncKind) (detail : Nat) {s : State} (h : inuActive s = true) :
    occur k detail s = takeOccurrence k detail s := by
  simp [occur, h]

theorem replayHeld_nil {s : State} (h : s.held = []) : replayHeld s = s := by
  simp only [replayHeld, replayIncidents, h, List.filter_nil, List.foldl_nil]
  rw [← h]

/-- The line's state at the end of STARTING, from its voltage watch and hook switch (R28, R119). -/
theorem startLine_state (s : State) :
    (startLine s).lnu.state =
      if s.lnu.timers.absent.any (fun p => p ≤ s.lnu.ms) then .down
      else if s.lnu.offHook then .ready else s.lnu.state := by
  unfold startLine voltageGone
  split
  · exact setLine_state _ _
  · split
    · exact setLine_state _ _
    · rfl

theorem startLine_held {s : State} (ha : inuActive s = true) : (startLine s).held = s.held := by
  unfold startLine
  rw [occur_active _ _ ha]
  (repeat' split) <;> simp [goDown]

/-- The end of STARTING where nothing is held and occurrences are taken at once. -/
theorem endStarting_idle {s : State} (hh : s.held = []) (ha : inuActive s = true) :
    endStarting s =
      startDrop (startTimeRequest (startLine { s with cfl.step := .done, pfu.step5 := .idle })) := by
  have hheld := startLine_held (s := { s with cfl.step := .done, pfu.step5 := .idle }) ha
  rw [endStarting, replayHeld_nil (by simpa [hh] using hheld)]

/-- What the end of STARTING leaves of the terminal and makes of its line. -/
theorem endStarting_parts {s : State} (hh : s.held = []) (ha : inuActive s = true) :
    (endStarting s).mem = s.mem ∧ (endStarting s).bpu = s.bpu ∧ (endStarting s).acu = s.acu ∧
    (endStarting s).tru = s.tru ∧ (endStarting s).cfl = { s.cfl with step := .done } ∧
    (endStarting s).pfu = { s.pfu with step5 := .idle } ∧
    (endStarting s).adu.run = s.adu.run ∧ (endStarting s).adu.cache = s.adu.cache ∧
    (endStarting s).lnu.state =
      if s.lnu.timers.absent.any (fun p => p ≤ s.lnu.ms) then .down
      else if s.lnu.offHook then .ready else s.lnu.state := by
  rw [endStarting_idle hh ha]
  refine ⟨by simp, by simp, by simp, by simp, by simp, by simp, by simp, by simp, ?_⟩
  simpa using startLine_state { s with cfl.step := .done, pfu.step5 := .idle }

/-! #### A write-back's end (R154, R156) -/

/-- The end of a write-back up to the triggers that waited for it. -/
def writeBackOver (r : Run) (f d : Bool) (s : State) : State :=
  let s : State := { s with mem := s.mem.storeAll r.todo, adu.run := none }
  let s := if f then answerHeld kindFlush .ok (wordOf r.failed) 0 0 s else s
  let s := if d then raise .tally { s with adu.flushPending := false } else s
  triggerWriteBack s

theorem exec_writeBackDone {s : State} {r : Run} {f d : Bool} (hp : s.powered = true)
    (hr : s.adu.run = some r) (hjob : r.job = .writeBack f d) :
    exec .writeBackDone s = .next
      (if runMayEnd s r && (running s || !starting s) then step5WriteBack (writeBackOver r f d s)
      else s) := by
  rw [exec, execWriteBackDone, onPower_up hp]
  simp only [hr, hjob, finishRun, writeBackOver]

@[simp] theorem triggerWriteBack_flushPending (s : State) :
    (triggerWriteBack s).adu.flushPending = s.adu.flushPending := by
  unfold triggerWriteBack
  split <;> rfl

theorem triggerWriteBack_jobs (s : State) (h : s.adu.run = none) :
    (s.adu.dirty = true → (triggerWriteBack s).adu.jobs.any Job.isWriteBack = true) ∧
    (s.adu.dirty = false → triggerWriteBack s = s) := by
  unfold triggerWriteBack
  constructor
  · intro hd
    split
    · next hw => simpa [hd, writeBackRunning, h, writeBackWaiting] using hw
    · simp [Job.isWriteBack]
  · intro hd
    simp [hd]

section
variable (r : Run) (f d : Bool) (s : State)

theorem writeBackOver_changes : OnlyChanges [.mem, .rqu, .adu] s (writeBackOver r f d s) := by
  intro b hb
  unfold writeBackOver
  cases f <;> cases d <;> cases b <;> simp [Block.same] at hb ⊢

theorem writeBackOver_parts :
    (writeBackOver r f d s).mem = s.mem.storeAll r.todo ∧ (writeBackOver r f d s).adu.run = none ∧
    (writeBackOver r f d s).adu.cache = s.adu.cache ∧
    (f = false → (writeBackOver r f d s).rqu.service = s.rqu.service) ∧
    (d = true → (writeBackOver r f d s).adu.flushPending = false ∧
      flagOf (writeBackOver r f d s).rqu.flags .tally = true) ∧
    (d = false → (writeBackOver r f d s).adu.flushPending = s.adu.flushPending ∧
      (writeBackOver r f d s).rqu.flags = s.rqu.flags) := by
  unfold writeBackOver
  cases f <;> cases d <;> simp

theorem writeBackOver_answered {v : Service} (hf : f = true) (hv : s.rqu.service = some v)
    (hp : v.phase = .held) (hk : v.kind.toNat = kindFlush) :
    (writeBackOver r f d s).rqu.service = some (v.answered .ok (wordOf r.failed) 0 0) := by
  subst hf
  unfold writeBackOver
  simp only [if_true]
  rw [answerHeld_of_held (v := v) (by exact hv) hp hk]
  cases d <;> simp

theorem writeBackOver_jobs :
    (s.adu.dirty = true → (writeBackOver r f d s).adu.jobs.any Job.isWriteBack = true) ∧
    (s.adu.dirty = false → (writeBackOver r f d s).adu.jobs = s.adu.jobs) := by
  unfold writeBackOver
  dsimp only
  constructor
  · intro hd
    refine (triggerWriteBack_jobs _ ?_).1 ?_ <;> cases f <;> cases d <;> simp [hd]
  · intro hd
    rw [(triggerWriteBack_jobs _ ?_).2 ?_] <;> cases f <;> cases d <;> simp [hd]

end

theorem writeBackEnded : Clause.WriteBackEnded := by
  intro s r f d hp hr hjob hs h5 ends
  have hends : (runMayEnd s r && (running s || !starting s)) = true ↔ ends := by
    simp [runMayEnd, running, ends, hs]
  have hidle : step5WriteBack (writeBackOver r f d s) = writeBackOver r f d s := by
    have hpfu : (writeBackOver r f d s).pfu = s.pfu := writeBackOver_changes r f d s .pfu (by simp)
    simp [step5WriteBack, hpfu, h5]
  rw [exec_writeBackDone hp hr hjob, hidle]
  refine ⟨fun h => by rw [if_neg (fun hn => h (hends.mp hn))], fun h => ?_⟩
  rw [if_pos (hends.mpr h)]
  obtain ⟨hmem, hrun, hcache, hservice, hd, hd'⟩ := writeBackOver_parts r f d s
  obtain ⟨hdirty, hclean⟩ := writeBackOver_jobs r f d s
  exact ⟨_, rfl, writeBackOver_changes r f d s, hmem, hrun, hcache,
    fun v hf hv hphase hkind => writeBackOver_answered r f d s hf hv hphase hkind, hservice, hd, hd',
    hdirty, hclean⟩

theorem step5WriteBackEnded : Clause.Step5WriteBackEnded := by
  intro s r f d hp hr hjob hs
  rw [exec_writeBackDone hp hr hjob]
  refine ⟨fun h => by simp [running, h, hs], fun hpow hends => ?_⟩
  have hends' : (runMayEnd s r && (running s || !starting s)) = true := by
    simpa [runMayEnd, running, hpow] using hends
  rw [if_pos hends']
  have hchanges := writeBackOver_changes r f d s
  obtain ⟨hmem, hrun, hcache, -⟩ := writeBackOver_parts r f d s
  have hpfu : (writeBackOver r f d s).pfu = s.pfu := hchanges .pfu (by simp)
  refine ⟨fun h5 => ?_, fun h5 hh hb hq => ?_, fun h5 => ?_⟩
  · refine ⟨{ writeBackOver r f d s with pfu.step5 := .invalidate .write }, ?_, fun b hb => ?_, hmem,
      hrun, hcache, congrArg (fun p : Pfu => ({ p with step5 := .invalidate .write } : Pfu)) hpfu⟩
    · simp [step5WriteBack, hpfu, h5]
    · have h := hchanges b
      cases b <;> simp [Block.same] at hb h ⊢ <;> exact h
  · have hend : step5WriteBack (writeBackOver r f d s) = endStarting (writeBackOver r f d s) := by
      simp [step5WriteBack, hpfu, h5]
    have hheld : (writeBackOver r f d s).held = [] := (hchanges .held (by simp)).trans hh
    have hinu : (writeBackOver r f d s).inu = s.inu := hchanges .inu (by simp)
    have hlnu : (writeBackOver r f d s).lnu = s.lnu := hchanges .lnu (by simp)
    have ha : inuActive (writeBackOver r f d s) = true := by
      simp [inuActive, running, hinu, hb, hpfu, hpow]
    obtain ⟨emem, -, -, -, ecfl, epfu, erun, ecache, eline⟩ :=
      endStarting_parts hheld ha
    refine ⟨_, rfl, ?_, ?_, ?_, ?_, ?_, ?_⟩ <;> rw [hend]
    · simp [starting, ecfl]
    · exact emem.trans hmem
    · exact erun.trans hrun
    · exact ecache.trans hcache
    · rw [epfu, hpfu]
    · rw [eline, hlnu]
  · refine ⟨_, rfl, ?_⟩
    have hidle : step5WriteBack (writeBackOver r f d s) = writeBackOver r f d s := by
      rw [step5WriteBack, hpfu]
      split
      · next h => exact absurd h (h5 true)
      · next h => exact absurd h (h5 false)
      · rfl
    rw [hidle]
    exact ⟨hchanges, hmem, hrun⟩

/-- Settles O54: a write-back's end, for those who wait for it. -/
theorem writeBackEnds : Obligations.WriteBackEnds := ⟨writeBackEnded, step5WriteBackEnded⟩

end Sys2Proof.Machine
end

section
/-! The analysis of a number (R67, R79, R80). -/

namespace Sys2Proof.Machine

/-! #### The analysis of a number (R67, R79, R80) -/

theorem isEmergency_iff {number : List Nat} {s : State} :
    isEmergency number s = true ↔ number ∈ s.cfl.params.emergency := by
  simp [isEmergency]

theorem isPrefixOf_range_map {n : Nat} {f : Nat → Nat} {l : List Nat} :
    ((List.range n).map f).isPrefixOf l = true ↔ ∀ k, k < n → l[k]? = some (f k) := by
  simp [List.isPrefixOf_iff_prefix, List.prefix_iff_getElem?]

/-- Whether an entry fits a number (R80). -/
theorem prefixOf_matches {w : Area} {i : Nat} {number : List Nat} :
    (prefixOf w i).matches number = true ↔
      1 ≤ w (6 + 5 * i) / 256 ∧ w (6 + 5 * i) / 256 ≤ 8 ∧
        ∀ k, k < w (6 + 5 * i) / 256 → entryDigit w i k ≤ 9 ∧ number[k]? = some (entryDigit w i k) := by
  rw [prefixOf_eq, Prefix.matches]
  simp only [Bool.and_eq_true, decide_eq_true_eq, isPrefixOf_range_map, List.all_eq_true, List.mem_map,
    List.mem_range, entryPlaces]
  constructor
  · rintro ⟨⟨⟨h1, h8⟩, h9⟩, hp⟩
    rw [min_eq_left h8] at h9 hp
    exact ⟨h1, h8, fun k hk => ⟨h9 _ ⟨k, hk, rfl⟩, hp k hk⟩⟩
  · rintro ⟨h1, h8, h⟩
    rw [min_eq_left h8]
    refine ⟨⟨⟨h1, h8⟩, ?_⟩, fun k hk => (h k hk).2⟩
    rintro _ ⟨k, hk, rfl⟩
    exact (h k hk).1

/-- The better of two fitting entries: the one with more places (R80). -/
def longerMatch (number : List Nat) (best : Option Prefix) (p : Prefix) : Option Prefix :=
  if p.matches number then
    match best with
    | some b => if b.length < p.length then some p else best
    | none => some p
  else best

theorem matchedEntry_eq (w : Area) (number : List Nat) :
    matchedEntry w number =
      ((List.range (min (w 1) 256)).map (prefixOf w)).foldl (longerMatch number) none := rfl

section
variable {number : List Nat}

theorem longerMatch_misfit {best : Option Prefix} {p : Prefix} (h : p.matches number = false) :
    longerMatch number best p = best := by
  simp [longerMatch, h]

theorem foldl_longerMatch_misfits {ps : List Prefix} (h : ∀ p ∈ ps, p.matches number = false)
    (best : Option Prefix) : ps.foldl (longerMatch number) best = best := by
  induction ps with
  | nil => rfl
  | cons p ps ih =>
    rw [List.foldl_cons, longerMatch_misfit (h p (by simp)), ih fun q hq => h q (by simp [hq])]

theorem foldl_longerMatch_keeps {ps : List Prefix} {b : Prefix}
    (h : ∀ p ∈ ps, p.matches number = true → p.length ≤ b.length) :
    ps.foldl (longerMatch number) (some b) = some b := by
  induction ps with
  | nil => rfl
  | cons p ps ih =>
    have hp : longerMatch number (some b) p = some b := by
      by_cases hm : p.matches number = true
      · have := h p (by simp) hm
        simp [longerMatch, not_lt.mpr this]
      · exact longerMatch_misfit (by simpa using hm)
    rw [List.foldl_cons, hp, ih fun q hq => h q (by simp [hq])]

/-- The best of some entries is one of them that fits. -/
theorem foldl_longerMatch_mem (ps : List Prefix) {best b : Prefix}
    (h : ps.foldl (longerMatch number) (some best) = some b) :
    b = best ∨ b ∈ ps ∧ b.matches number = true := by
  induction ps generalizing best with
  | nil => exact .inl (by simpa using h.symm)
  | cons p ps ih =>
    rw [List.foldl_cons] at h
    have hp : longerMatch number (some best) p = some best ∨
        p.matches number = true ∧ longerMatch number (some best) p = some p := by
      by_cases hm : p.matches number = true
      · simp only [longerMatch, hm, if_true]
        split
        · exact .inr ⟨trivial, rfl⟩
        · exact .inl rfl
      · exact .inl (longerMatch_misfit (by simpa using hm))
    rcases hp with hp | ⟨hm, hp⟩ <;> rw [hp] at h <;> rcases ih h with rfl | ⟨hb, hbm⟩
    · exact .inl rfl
    · exact .inr ⟨by simp [hb], hbm⟩
    · exact .inr ⟨by simp, hm⟩
    · exact .inr ⟨by simp [hb], hbm⟩

theorem foldl_longerMatch_shorter {ps : List Prefix} {p : Prefix}
    (h : ∀ q ∈ ps, q.matches number = true → q.length < p.length) (hm : p.matches number = true) :
    longerMatch number (ps.foldl (longerMatch number) none) p = some p := by
  suffices hbest : ∀ best : Option Prefix, (∀ b, best = some b → b.length < p.length) →
      longerMatch number (ps.foldl (longerMatch number) best) p = some p from hbest none (by simp)
  induction ps with
  | nil =>
    rintro (_ | b) hb
    · simp [longerMatch, hm]
    · simp [longerMatch, hm, hb b rfl]
  | cons q ps ih =>
    intro best hb
    rw [List.foldl_cons]
    refine ih (fun r hr => h r (by simp [hr])) _ fun b hq => ?_
    by_cases hqm : q.matches number = true
    · have hlt := h q (by simp) hqm
      rcases best with _ | c
      · simp only [longerMatch, hqm, if_true, Option.some.injEq] at hq
        exact hq ▸ hlt
      · simp only [longerMatch, hqm, if_true] at hq
        split at hq
        · simp only [Option.some.injEq] at hq
          exact hq ▸ hlt
        · exact hb b hq
    · rw [longerMatch_misfit (by simpa using hqm)] at hq
      exact hb b hq

end

/-- The fitting entry with the most places, if there is one such (R80). -/
theorem matchedEntry_unique {w : Area} {number : List Nat} (hw : w 1 ≤ 256) {i : Nat} (hi : i < w 1)
    (hm : (prefixOf w i).matches number = true)
    (hlong : ∀ j, j < w 1 → (prefixOf w j).matches number = true → j ≠ i →
      (prefixOf w j).length < (prefixOf w i).length) :
    matchedEntry w number = some (prefixOf w i) := by
  obtain ⟨xs, ys, hsplit⟩ := List.append_of_mem (List.mem_range.mpr hi)
  have hnodup : (xs ++ i :: ys).Nodup := hsplit ▸ List.nodup_range
  have hmem (j : Nat) (hj : j ∈ xs ∨ j ∈ ys) : j < w 1 ∧ j ≠ i := by
    constructor
    · rw [← List.mem_range, hsplit]
      rcases hj with hj | hj <;> simp [hj]
    · rintro rfl
      rcases hj with hj | hj <;> grind
  rw [matchedEntry_eq, min_eq_left hw, hsplit, List.map_append, List.map_cons, List.foldl_append,
    List.foldl_cons, foldl_longerMatch_shorter _ hm, foldl_longerMatch_keeps]
  · intro p hp hpm
    obtain ⟨j, hj, rfl⟩ := List.mem_map.mp hp
    obtain ⟨hlt, hne⟩ := hmem j (.inr hj)
    exact (hlong j hlt hpm hne).le
  · intro p hp hpm
    obtain ⟨j, hj, rfl⟩ := List.mem_map.mp hp
    obtain ⟨hlt, hne⟩ := hmem j (.inl hj)
    exact hlong j hlt hpm hne

theorem matchedEntry_none {w : Area} {number : List Nat} (hw : w 1 ≤ 256)
    (h : ∀ i, i < w 1 → (prefixOf w i).matches number = false) : matchedEntry w number = none := by
  rw [matchedEntry_eq, min_eq_left hw, foldl_longerMatch_misfits]
  intro p hp
  obtain ⟨j, hj, rfl⟩ := List.mem_map.mp hp
  exact h j (List.mem_range.mp hj)

/-! ##### Its outcome -/

section
variable {number : List Nat} {s : State}

theorem analyse_outcome {a : Analysis} (he : number ∉ s.cfl.params.emergency)
    (h : s.tru.outcome = some a) : analyse number s = a := by
  have hem : isEmergency number s = false := by rwa [← Bool.not_eq_true, isEmergency_iff]
  simp [analyse, hem, h]

theorem analyse_first (he : number ∉ s.cfl.params.emergency) (h : s.tru.outcome = none)
    (h0 : s.tru.analysed = 0) (hbad : ¬(s.tru.unsettled = false ∧ s.tru.valid = true)) :
    analyse number s = .refused (if s.tru.unsettled then .tariffUnsettled else .paidBarred) := by
  have hem : isEmergency number s = false := by rwa [← Bool.not_eq_true, isEmergency_iff]
  have hlets : tariffLetsThrough s = false := by
    simpa [tariffLetsThrough, h0] using hbad
  simp [analyse, hem, h, hlets]

theorem tariffLetsThrough_iff :
    tariffLetsThrough s = true ↔
      s.tru.analysed ≠ 0 ∨ (s.tru.unsettled = false ∧ s.tru.valid = true) := by
  simp [tariffLetsThrough]

theorem analyse_settled (he : number ∉ s.cfl.params.emergency) (h : s.tru.outcome = none)
    (hlets : s.tru.analysed ≠ 0 ∨ (s.tru.unsettled = false ∧ s.tru.valid = true)) :
    analyse number s =
      if s.tru.edited then .refused .tariffUnsettled
      else routeNumber (liveArea (baseOf .tariff s) s.mem) number := by
  have hem : isEmergency number s = false := by rwa [← Bool.not_eq_true, isEmergency_iff]
  simp [analyse, hem, h, tariffLetsThrough_iff.mpr hlets]

end

theorem numberAnalysed : Clause.NumberAnalysed := by
  intro number s w len digit fits row plain first settled read
  have hfits (i : Nat) : fits i ↔ i < w 1 ∧ (prefixOf w i).matches number = true := by
    rw [prefixOf_matches]
    exact Iff.rfl
  have hread (h : read) : analyse number s = routeNumber w number := by
    obtain ⟨⟨he, ho, hl⟩, hedit, -⟩ := h
    rw [analyse_settled he ho hl, hedit]
    rfl
  refine ⟨fun h => ?_, fun a he h => analyse_outcome he h, fun h hu => ?_, fun h hu hv => ?_,
    fun h hedit => ?_, fun h => ?_, fun h hno => ?_, fun i h hi hlong => ?_⟩
  · have hem : isEmergency number s = true := isEmergency_iff.mpr (not_not.mp h)
    simp [analyse, hem]
  · rw [analyse_first h.1 h.2.1 h.2.2 (by simp [hu]), hu, if_pos rfl]
  · rw [analyse_first h.1 h.2.1 h.2.2 (by simp [hv]), hu]
    rfl
  · rw [analyse_settled h.1 h.2.1 h.2.2, hedit, if_pos rfl]
  · rw [hread h, analysisSize, min_eq_left (show liveArea (baseOf .tariff s) s.mem 1 ≤ 256 from h.2.2)]
    rfl
  · have hnone : matchedEntry w number = none := matchedEntry_none h.2.2 fun j hj => by
      rw [← Bool.not_eq_true]
      exact fun hm => hno j ((hfits j).mpr ⟨hj, hm⟩)
    rw [hread h, routeNumber, hnone]
  · have hentry : matchedEntry w number = some (prefixOf w i) :=
      matchedEntry_unique h.2.2 ((hfits i).mp hi).1 ((hfits i).mp hi).2 fun j hj hm hne => by
        simpa [prefixOf_eq] using hlong j ((hfits j).mpr ⟨hj, hm⟩) hne
    intro cls barred least most
    have hroute : analyse number s =
        if barred then .refused .barred
        else if number.length < least then .refused .tooShort
        else if most < number.length then .refused .tooLong
        else .route cls false (if cls = 0 then none else some (row cls)) := by
      rw [hread h, routeNumber, hentry]
      simp only [prefixOf_eq]
      rfl
    rw [hroute]
    refine ⟨fun hb => if_pos hb, fun hb hl => ?_, fun hb hl hm => ?_, fun hb hl hm => ?_⟩
    · rw [if_neg hb, if_pos hl]
    · rw [if_neg hb, if_neg (by omega), if_pos hm]
    · rw [if_neg hb, if_neg (by omega), if_neg (by omega)]

end Sys2Proof.Machine
end

section
/-! DIAL refused (R109). -/

namespace Sys2Proof.Machine

/-! #### DIAL refused (R109) -/

/-- The digits of a number of good form (R79, R109). -/
theorem digitsOf_eq {n most first : Nat} {ps : List Word}
    (h : 1 ≤ n ∧ n ≤ most ∧ ∀ d ∈ (List.range n).map (fun i => param ps (first + i)), d ≤ 11) :
    digitsOf n most first ps = some ((List.range n).map fun i => param ps (first + i)) := by
  obtain ⟨h1, h2, hd⟩ := h
  have hall : ((List.range n).map fun i => param ps (first + i)).all isDialDigit = true :=
    List.all_eq_true.mpr fun d hmem => by simpa [isDialDigit] using hd d hmem
  simp only [digitsOf, h1, h2, and_self, if_true, hall]

theorem digitsOf_none {n most first : Nat} {ps : List Word}
    (h : ¬(1 ≤ n ∧ n ≤ most ∧ ∀ d ∈ (List.range n).map (fun i => param ps (first + i)), d ≤ 11)) :
    digitsOf n most first ps = none := by
  unfold digitsOf
  dsimp only
  split
  · next hn =>
    rw [if_neg]
    intro hall
    refine h ⟨hn.1, hn.2, fun d hmem => ?_⟩
    simpa [isDialDigit] using List.all_eq_true.mp hall d hmem
  · rfl

/-- DIAL is judged but while words of its analysis wait for the port (R16, R109). -/
theorem exec_dial {s : State} {v : Service} (h : InService kindDial v s) :
    exec .dial s =
      .next (if analysisReads s && !portReaches .tru s then s else dialRequest v.params s) := by
  obtain ⟨hp, hv, hphase, hkind⟩ := h
  rw [exec, execDial, onPower_up hp, onRequest_serving _ hv hphase hkind]

theorem numberInHand_eq {s : State} {v : Service} (h : InService kindDial v s) :
    numberInHand s =
      if running s && (s.lnu.state = .ready || s.lnu.state = .followOn) && !outOfOrder s &&
          tariffLetsThrough s && !s.tru.edited && s.tru.outcome.isNone then
        (digitsOf (param v.params 1) 20 2 v.params).filter fun number => !isEmergency number s
      else none := by
  obtain ⟨-, hv, hphase, hkind⟩ := h
  have hserving : serving kindDial s = some v.params := by simp [serving, hv, hphase, hkind]
  simp [numberInHand, hserving]

/-- No analysis reads the TARIFF window for a DIAL refused before it, for a listed number, or once
the
outcome stands (R79, R109). -/
theorem numberInHand_none {s : State} {v : Service} (h : InService kindDial v s)
    (hno : s.pfu.power ≠ .running ∨ ¬(s.lnu.state = .ready ∨ s.lnu.state = .followOn) ∨
      outOfOrder s = true ∨ tariffLetsThrough s = false ∨ s.tru.edited = true ∨
      s.tru.outcome.isSome = true ∨
      ∀ number, digitsOf (param v.params 1) 20 2 v.params = some number →
        number ∈ s.cfl.params.emergency) :
    numberInHand s = none := by
  rw [numberInHand_eq h]
  rcases hno with hno | hno | hno | hno | hno | hno | hno
  · simp [running, hno]
  · simp only [not_or] at hno
    simp [hno]
  · simp [hno]
  · simp [hno]
  · simp [hno]
  · simp [Option.isNone_eq_false_iff.mpr hno]
  · split
    · rw [Option.filter_eq_none_iff]
      exact fun number hn => by simp [isEmergency_iff.mpr (hno number hn)]
    · rfl

/-- A DIAL whose analysis has nothing to read is judged at once. -/
theorem exec_dial_judged {s : State} {v : Service} (h : InService kindDial v s)
    (hn : numberInHand s = none) : exec .dial s = .next (dialRequest v.params s) := by
  have hno : analysisReads s = false := by simp [analysisReads, hn]
  rw [exec_dial h, hno]
  rfl

section
variable {s : State} {v : Service} {number : List Nat}
  (hnum : digitsOf (param v.params 1) 20 2 v.params = some number)
include hnum

/-- A DIAL whose analysis has been read, or can be now, is judged (R16, R79). -/
theorem exec_dial_carried (h : InService kindDial v s)
    (hc : portReaches .tru s = true ∨ s.tru.outcome.isSome = true ∨
      analysisSize number s ≤ s.tru.analysed) :
    exec .dial s = .next (dialRequest v.params s) := by
  rcases hc with hc | hc | hc
  · rw [exec_dial h, hc, Bool.not_true, Bool.and_false]
    rfl
  · exact exec_dial_judged h (numberInHand_none h (by simp [hc]))
  · have hno : analysisReads s = false := by
      rw [analysisReads, Option.any_eq_false]
      intro x hx
      rw [numberInHand_eq h] at hx
      split at hx
      · rw [hnum] at hx
        obtain rfl : number = x := by simpa using (Option.filter_eq_some_iff.mp hx).1
        simpa using hc
      · cases hx
    rw [exec_dial h, hno]
    rfl

/-- With words of its analysis left and the port another's a DIAL is not judged (R16). -/
theorem exec_dial_waits (h : InService kindDial v s) (hr : s.pfu.power = .running)
    (hcall : s.lnu.state = .ready ∨ s.lnu.state = .followOn) (hord : outOfOrder s = false)
    (hlets : tariffLetsThrough s = true) (hedit : s.tru.edited = false) (hout : s.tru.outcome = none)
    (hem : number ∉ s.cfl.params.emergency) (hport : portReaches .tru s = false)
    (hleft : s.tru.analysed < analysisSize number s) : exec .dial s = .next s := by
  have hem' : isEmergency number s = false := by rwa [← Bool.not_eq_true, isEmergency_iff]
  have hin : numberInHand s = some number := by
    rw [numberInHand_eq h, hnum]
    rcases hcall with hcall | hcall <;>
      simp [running, hr, hcall, hord, hlets, hedit, hout, hem', Option.filter]
  have hreads : analysisReads s = true := by simp [analysisReads, hin, hleft]
  rw [exec_dial h, hreads, hport]
  rfl

variable (hup : s.pfu.power = .running ∧ s.lnu.state ≠ .down) (hem : number ∉ s.cfl.params.emergency)
  (hcall : s.lnu.state = .ready ∨ s.lnu.state = .followOn) (hord : outOfOrder s = false)
include hup hem hcall hord

/-- Steps 1 to 6 of R109, which an unlisted number of good form passes on a callable line. -/
theorem dialRequest_refused {c : ResultCode} (ha : analyse number s = .refused c) :
    dialRequest v.params s = answer0 c s := by
  have hem' : isEmergency number s = false := by rwa [← Bool.not_eq_true, isEmergency_iff]
  rcases hcall with hcall | hcall <;>
    simp [dialRequest, running, hup.1, hnum, hem', hcall, LineState.isReport, hord, ha]

theorem dialRequest_route {cls : Nat} {e : Bool} {row : Option Row}
    (ha : analyse number s = .route cls e row) :
    dialRequest v.params s = judgeClass number cls row s := by
  have hem' : isEmergency number s = false := by rwa [← Bool.not_eq_true, isEmergency_iff]
  rcases hcall with hcall | hcall <;>
    simp [dialRequest, running, hup.1, hnum, hem', hcall, LineState.isReport, hord, ha]

end

theorem judgeClass_logFull {number : List Nat} {cls : Nat} {row : Option Row} {s : State}
    (hc : cls ≠ 0) (h : 248 ≤ uncollected s) : judgeClass number cls row s = answer0 .logFull s := by
  rw [judgeClass, if_pos ⟨hc, h⟩]

theorem judgeClass_paidBarred {number : List Nat} {cls : Nat} {row : Option Row} {s : State}
    (hc : cls ≠ 0) (h : uncollected s < 248) (hp : paidBarred s = true) :
    judgeClass number cls row s = answer0 .paidBarred s := by
  rw [judgeClass, if_neg (by omega), if_pos ⟨hc, hp⟩]

theorem judgeClass_charged {number : List Nat} {cls : Nat} {r : Row} {s : State}
    (h : uncollected s < 248) (hp : paidBarred s = false) :
    judgeClass number cls (some r) s =
      if creditInHand s < deposit r s then answer0 .insufficientCredit s
      else acceptDial number cls false (some r) s := by
  rw [judgeClass, if_neg (by omega), if_neg (by simp [hp])]
  simp

theorem dialRefusals : Clause.DialRefusals := by
  intro s v hserv refused n number up formed listed callable open' fresh through carried
  have hv : s.rqu.service = some v := hserv.2.1
  have hnum (hf : formed) : digitsOf (param v.params 1) 20 2 v.params = some number := digitsOf_eq hf
  have hbad (hf : ¬formed) : digitsOf (param v.params 1) 20 2 v.params = none := digitsOf_none hf
  have hans {c : ResultCode} (hexec : exec .dial s = .next (dialRequest v.params s))
      (hreq : dialRequest v.params s = answer0 c s) : refused c := by
    rw [hreq, answered_eq v c s hv] at hexec
    exact hexec
  have hlisted (hl : listed) : isEmergency number s = true := isEmergency_iff.mpr hl
  have hplain (hl : ¬listed) : isEmergency number s = false := by rwa [← Bool.not_eq_true, isEmergency_iff]
  have hrun (hu : up) : running s = true := by simp [running, hu.1]
  have hrefused (hc : carried) (ho : open') {c : ResultCode} (ha : analyse number s = .refused c) :
      refused c := by
    obtain ⟨hu, hf, hl, hcall, hord⟩ := ho
    exact hans (exec_dial_carried (hnum hf) hserv hc)
      (dialRequest_refused (hnum hf) hu hl hcall hord ha)
  have hfirst (ho : open') (hin : numberInHand s = none) {c : ResultCode}
      (ha : analyse number s = .refused c) : refused c := by
    obtain ⟨hu, hf, hl, hcall, hord⟩ := ho
    exact hans (exec_dial_judged hserv hin) (dialRequest_refused (hnum hf) hu hl hcall hord ha)
  refine ⟨fun hu => ?_, fun hu hf => ?_, fun hu hf hl hrep hcall hpark => ?_,
    fun hu hf hl hrep hoff => ?_, fun hu hf hl hrep => ?_, fun hu hf hl hrep hcall => ?_,
    fun hu hf hl hcall hord => ?_, fun h hu => ?_, fun h hu hval => ?_, fun h hedit => ?_,
    fun h hedit hcar => ?_, fun c ho hcar ha => hrefused hcar ho ha, fun cls e row ho hcar ha hc => ?_⟩
  · refine hans (exec_dial_judged hserv (numberInHand_none hserv ?_)) ?_
    · by_cases hr : s.pfu.power = .running
      · have hdown : s.lnu.state = .down := by simpa [up, hr] using hu
        simp [hdown]
      · exact .inl hr
    · by_cases hr : s.pfu.power = .running
      · have hdown : s.lnu.state = .down := by simpa [up, hr] using hu
        simp [dialRequest, running, hr, hdown]
      · simp [dialRequest, running, hr]
  · refine hans (exec_dial_judged hserv (numberInHand_none hserv ?_)) ?_
    · simp [hbad hf]
    · simp [dialRequest, hrun hu, hu.2, hbad hf]
  · refine hans (exec_dial_judged hserv (numberInHand_none hserv (.inr (.inl hcall)))) ?_
    have hno : emergencyState s = false := by
      unfold emergencyState
      simp only [callable, not_or] at hcall
      split <;> simp_all
    simp [dialRequest, hrun hu, hu.2, hnum hf, hlisted hl, hno]
  · have hcall : ¬callable := by
      rintro (h | h) <;> simp [h, LineState.isReport] at hrep
    refine hans (exec_dial_judged hserv (numberInHand_none hserv (.inr (.inl hcall)))) ?_
    have hno : emergencyState s = false := by
      unfold emergencyState
      split <;> simp_all [LineState.isReport]
    simp [dialRequest, hrun hu, hu.2, hnum hf, hlisted hl, hno]
  · have hcall : ¬callable := by
      rintro (h | h) <;> simp [h, LineState.isReport] at hrep
    refine hans (exec_dial_judged hserv (numberInHand_none hserv (.inr (.inl hcall)))) ?_
    simp [dialRequest, hrun hu, hu.2, hnum hf, hplain hl, hrep]
  · refine hans (exec_dial_judged hserv (numberInHand_none hserv (.inr (.inl hcall)))) ?_
    simp only [callable, not_or] at hcall
    simp [dialRequest, hrun hu, hu.2, hnum hf, hplain hl, hrep, hcall]
  · refine hans (exec_dial_judged hserv (numberInHand_none hserv (by simp [hord]))) ?_
    rcases hcall with hcall | hcall <;>
      simp [dialRequest, hrun hu, hnum hf, hplain hl, hcall, LineState.isReport, hord]
  · obtain ⟨ho, hout, h0⟩ := h
    refine hfirst ho (numberInHand_none hserv (by simp [tariffLetsThrough, h0, hu])) ?_
    rw [analyse_first ho.2.2.1 hout h0 (by simp [hu]), hu, if_pos rfl]
  · obtain ⟨ho, hout, h0⟩ := h
    refine hfirst ho (numberInHand_none hserv (by simp [tariffLetsThrough, h0, hval])) ?_
    rw [analyse_first ho.2.2.1 hout h0 (by simp [hval]), hu]
    rfl
  · obtain ⟨ho, hout, hlets⟩ := h
    refine hfirst ho (numberInHand_none hserv (by simp [hedit])) ?_
    rw [analyse_settled ho.2.2.1 hout hlets, hedit, if_pos rfl]
  · obtain ⟨⟨hu, hf, hl, hcall, hord⟩, hout, hlets⟩ := h
    simp only [carried, not_or, not_le, Bool.not_eq_true] at hcar
    exact exec_dial_waits (hnum hf) hserv hu.1 hcall hord (tariffLetsThrough_iff.mpr hlets) hedit hout hl
      hcar.1 hcar.2.2
  · obtain ⟨hu, hf, hl, hcall, hord⟩ := ho
    have hexec := exec_dial_carried (hnum hf) hserv hcar
    have hroute := dialRequest_route (hnum hf) hu hl hcall hord ha
    refine ⟨fun hfull => hans hexec ?_, fun hfree hbar => hans hexec ?_, ?_⟩
    · rw [hroute, judgeClass_logFull hc hfull]
    · rw [hroute, judgeClass_paidBarred hc hfree hbar]
    · intro r hfree hbar hrow figure deposit hless
      refine hans hexec ?_
      rw [hroute, hrow, judgeClass_charged hfree hbar, if_pos (by exact hless)]

end Sys2Proof.Machine
end

section
/-! DIAL accepted (R110), and O40. -/

namespace Sys2Proof.Machine

/-! #### DIAL accepted (R110) -/

theorem setLine_lnu (st : LineState) (s : State) :
    (setLine st s).lnu.relay = s.lnu.relay ∧ (setLine st s).lnu.relayOpened = s.lnu.relayOpened ∧
    (setLine st s).lnu.ms = s.lnu.ms ∧ (setLine st s).lnu.number = s.lnu.number ∧
    (setLine st s).lnu.buffer = s.lnu.buffer ∧ (setLine st s).lnu.followOn = s.lnu.followOn ∧
    (setLine st s).lnu.timers.window = s.lnu.timers.window := by
  unfold setLine
  split <;> simp [raise]

theorem guardPassed_eq (s : State) :
    guardPassed s = !(s.lnu.relayOpened.any fun p => s.lnu.ms < p + 1000) := by
  unfold guardPassed
  split
  · next p h => simp only [h, Option.any_some, ← decide_not, not_lt]
  · next h => simp [h]

/-- A seizure's line (R107, R111). -/
theorem beginSeizure_lnu (st : LineState) (s : State) :
    (beginSeizure st s).lnu.state = st ∧ (beginSeizure st s).lnu.number = s.lnu.number ∧
    (beginSeizure st s).lnu.buffer = s.lnu.buffer ∧
    (beginSeizure st s).lnu.followOn = s.lnu.followOn ∧
    (beginSeizure st s).lnu.timers.window = s.lnu.timers.window ∧
    (beginSeizure st s).lnu.relay = (s.lnu.relay || guardPassed s) ∧
    (guardPassed s = true → (beginSeizure st s).lnu.timers.loop = some (s.lnu.ms + 1000)) ∧
    (guardPassed s = false →
      (beginSeizure st s).lnu.timers.guard = some (s.lnu.relayOpened.getD 0 + 1000)) := by
  obtain ⟨hrelay, hopened, hms, hnumber, hbuffer, hfollow, hwindow⟩ :=
    setLine_lnu st { s with lnu.loopSeen := false }
  have hguard : guardPassed (setLine st { s with lnu.loopSeen := false }) = guardPassed s := by
    simp only [guardPassed, hopened, hms]
  unfold beginSeizure
  dsimp only
  rw [hguard]
  cases hg : guardPassed s
  · simp [hrelay, hopened, hnumber, hfollow, hwindow]
  · simp [closeRelay, hms, hnumber, hfollow, hwindow]

/-- A call of which the uncollected count is judged over a line that is not quiet: the line, the
report
unit and the rest are as they were. -/
theorem judgeCount_busy (old : Nat) {s : State} (h : s.lnu.quiet = false) :
    (judgeCount old s).lnu = s.lnu := by
  unfold judgeCount
  dsimp only
  (repeat' split)
  · simpa using (occur_busy .logFull 0 (s := raiseIf _ .log s) (by simpa using h)).1
  · simp
  · simp

theorem openCall_fst (s : State) :
    (openCall s).1 = ⟨s.adu.nextCall, !decide (uncollected s < 256)⟩ := by
  unfold openCall
  by_cases h : uncollected s < 256 <;> simp [h]

/-- What the giving of a call's sequence leaves, over a line that is not quiet (R157). -/
theorem openCall_parts {s : State} (h : s.lnu.quiet = false) :
    (openCall s).2.lnu = s.lnu ∧ (openCall s).2.rtu = s.rtu ∧ (openCall s).2.cnu = s.cnu ∧
    (openCall s).2.adu.cache = s.adu.cache ∧ (openCall s).2.rqu.service = s.rqu.service ∧
    (openCall s).2.adu.nextCall =
      if uncollected s < 256 then (s.adu.nextCall + 1) % 0x100000000 else s.adu.nextCall := by
  rw [openCall_snd]
  split
  · refine ⟨?_, ?_, ?_, ?_, ?_, ?_⟩
    · exact judgeCount_busy _ h
    all_goals simp only [judgeCount_frame]
  · exact ⟨rfl, rfl, rfl, rfl, rfl, rfl⟩

/-- The context of a call that is opened (R91). -/
theorem openContext_parts (o : Owner) (cls : Nat) (emergency : Bool) (row : Option Row) (s : State) :
    (∃ c, (openContext o cls emergency row s).rtu.ctx = some c ∧ c.owner = o ∧ c.cls = cls ∧
      c.emergency = emergency ∧ c.row = row ∧ c.phase = .dialled ∧ c.roll = s.rtu.waiting ∧
      c.cin = s.rtu.carry ∧ c.consumed = 0) ∧
    (openContext o cls emergency row s).rtu.waiting = [] ∧
    (openContext o cls emergency row s).rtu.carry = 0 ∧
    (openContext o cls emergency row s).cnu.openCall = some o ∧
    (openContext o cls emergency row s).cnu.escrow =
      (if o.unlogged then transferOrder ⟨o.seq, false⟩ o s else s).cnu.escrow := by
  unfold openContext
  dsimp only
  refine ⟨⟨_, rfl, rfl, rfl, rfl, rfl, rfl, ?_, ?_, rfl⟩, rfl, rfl, rfl, rfl⟩ <;> split <;> simp

theorem yieldToDial_caller {s : State} (h : s.lnu.state.isReport = false) : yieldToDial s = s := by
  simp [yieldToDial, h]

/-- Coins of an unlogged call take its owner (R86, R157; log 26). -/
theorem transferOrder_escrow (old new : Owner) (s : State) :
    (transferOrder old new s).cnu.escrow =
      s.cnu.escrow.map fun x => if x ∈ freeCoins old s then { x with owner := some new } else x := by
  unfold transferOrder
  refine List.map_congr_left fun x hx => ?_
  simp [freeCoins, hx]

/-- The line of an accepted DIAL (R107, R110, R111). -/
theorem dialOpened_line (number : List Nat) (cls : Nat) (emergency : Bool) (row : Option Row)
    (o : Owner) (s : State) :
    let t := dialOpened number cls emergency row o s
    let guarded : Bool := s.lnu.relayOpened.any fun p => s.lnu.ms < p + 1000
    t.lnu.state = .seizing ∧ t.lnu.buffer = number ∧ t.lnu.number = number ∧
    t.lnu.followOn = false ∧ t.lnu.relay = (s.lnu.relay || !guarded) ∧ t.lnu.timers.window = none ∧
    (guarded = false → t.lnu.timers.loop = some (s.lnu.ms + 1000)) ∧
    (guarded = true → t.lnu.timers.guard = s.lnu.relayOpened.map fun p => p + 1000) := by
  intro t guarded
  let w : State :=
    { openContext o cls emergency row s with
      lnu.buffer := number, lnu.number := number, lnu.followOn := false, lnu.timers.window := none }
  obtain ⟨hstate, hnumber, hbuffer, hfollow, hwindow, hrelay, hloop, hguard⟩ :=
    beginSeizure_lnu .seizing w
  have hlnu : (openContext o cls emergency row s).lnu = s.lnu := by simp
  have hms : w.lnu.ms = s.lnu.ms := congrArg (·.ms) hlnu
  have hopened : w.lnu.relayOpened = s.lnu.relayOpened := congrArg (·.relayOpened) hlnu
  have hrel : w.lnu.relay = s.lnu.relay := congrArg (·.relay) hlnu
  have hg : guardPassed w = !guarded := by rw [guardPassed_eq, hopened, hms]
  have ht : t.lnu = (beginSeizure .seizing w).lnu := by simp [t, dialOpened, w]
  rw [ht]
  refine ⟨hstate, hbuffer, hnumber, hfollow, ?_, hwindow, fun h => ?_, fun h => ?_⟩
  · rw [hrelay, hrel, hg]
  · rw [hloop (by rw [hg, h]; rfl), hms]
  · rw [hguard (by rw [hg, h]; rfl), hopened]
    cases hr : s.lnu.relayOpened with
    | none => simp [guarded, hr] at h
    | some p => rfl

/-- The rating context, the coins and the answer of an accepted DIAL (R91, R110). -/
theorem dialOpened_rest {v : Service} (number : List Nat) (cls : Nat) (emergency : Bool)
    (row : Option Row) (o : Owner) {s : State} (hv : s.rqu.service = some v) :
    let t := dialOpened number cls emergency row o s
    (∃ c, t.rtu.ctx = some c ∧ c.owner = o ∧ c.cls = cls ∧ c.emergency = emergency ∧ c.row = row ∧
      c.phase = .dialled ∧ c.roll = s.rtu.waiting ∧ c.cin = s.rtu.carry ∧ c.consumed = 0) ∧
    t.rtu.waiting = [] ∧ t.rtu.carry = 0 ∧ t.cnu.openCall = some o ∧ t.adu = s.adu ∧
    t.cnu.escrow = (if o.unlogged then transferOrder ⟨o.seq, false⟩ o s else s).cnu.escrow ∧
    t.rqu.service =
      some
        (v.answered .ok (bytePair cls (if emergency then 1 else 0)) (wordOf (o.seq / 65536))
          (wordOf o.seq)) := by
  intro t
  obtain ⟨hctx, hwaiting, hcarry, hopen, hescrow⟩ := openContext_parts o cls emergency row s
  have hrtu : t.rtu = (openContext o cls emergency row s).rtu := by simp [t, dialOpened]
  have hcnu : t.cnu = (openContext o cls emergency row s).cnu := by simp [t, dialOpened]
  rw [hrtu, hcnu]
  refine ⟨hctx, hwaiting, hcarry, hopen, by simp [t, dialOpened], hescrow, ?_⟩
  simp only [t, dialOpened]
  rw [answer_service (v := v) (by simpa using hv)]
  rfl

theorem acceptDial_opened {s : State} (number : List Nat) (cls : Nat) (emergency : Bool)
    (row : Option Row) (hrep : s.lnu.state.isReport = false) :
    acceptDial number cls emergency row s =
      dialOpened number cls emergency row ⟨s.adu.nextCall, !decide (uncollected s < 256)⟩
        (openCall s).2 := by
  rw [acceptDial_eq, yieldToDial_caller hrep, openCall_fst]

/-- The coins of an accepted DIAL: those of an unlogged one take its owner (R157; log 26). -/
theorem dial_escrow (logged : Bool) (n : Nat) {s u : State} (h : u.cnu = s.cnu) :
    (if (!logged) = true then transferOrder ⟨n, false⟩ ⟨n, !logged⟩ u else u).cnu.escrow =
      s.cnu.escrow.map fun x =>
        if logged = false ∧ x ∈ freeCoins ⟨n, false⟩ s then { x with owner := some ⟨n, true⟩ }
        else x := by
  cases logged
  · simp only [Bool.not_false, if_true, transferOrder_escrow, freeCoins, hasDrop, h, true_and]
  · simp [h]

theorem dialAccepted : Clause.DialAccepted := by
  intro s v hserv n number listed accepted hpow hq h1 h20 hd
  have hv : s.rqu.service = some v := hserv.2.1
  have hup : s.lnu.state = .ready ∨ s.lnu.state = .followOn ∨ s.lnu.state = .parked →
      s.lnu.state ≠ .down ∧ s.lnu.state.isReport = false := by
    rintro (h | h | h) <;> simp [h, LineState.isReport]
  have hnum : digitsOf (param v.params 1) 20 2 v.params = some number := digitsOf_eq ⟨h1, h20, hd⟩
  have haccept (cls : Nat) (emergency : Bool) (row : Option Row)
      (hrep : s.lnu.state.isReport = false)
      (hexec : exec .dial s = .next (acceptDial number cls emergency row s)) :
      accepted cls emergency row := by
    show accepted cls emergency row
    unfold accepted
    intro logged guarded
    obtain ⟨hlnu, hrtu, hcnu, hcache, hservice, hnext⟩ := openCall_parts hq
    rw [acceptDial_opened _ _ _ _ hrep] at hexec
    obtain ⟨lstate, lbuffer, lnumber, lfollow, lrelay, lwindow, lloop, lguard⟩ :=
      dialOpened_line number cls emergency row ⟨s.adu.nextCall, !logged⟩ (openCall s).2
    obtain ⟨⟨c, hctx, howner, hcls, hem, hrow, hphase, hroll, hcin, hconsumed⟩, hwaiting, hcarry,
      hopen, hadu, hescrow, hans⟩ := dialOpened_rest number cls emergency row
        ⟨s.adu.nextCall, !logged⟩ (hservice.trans hv)
    rw [hlnu] at lrelay lloop lguard
    refine ⟨_, c, hexec, lstate, lbuffer, lnumber, lfollow, lrelay, lwindow, lloop, lguard, hctx,
      howner, hcls, hem, hrow, hphase, hroll.trans (by rw [hrtu]), hcin.trans (by rw [hrtu]), hconsumed,
      hwaiting, hcarry, ?_, ?_, ?_, ?_, hans⟩
    · rw [howner]
      exact hopen
    · exact (congrArg (·.cache) hadu).trans hcache
    · exact hescrow.trans (dial_escrow logged s.adu.nextCall hcnu)
    · refine ((congrArg (·.nextCall) hadu).trans hnext).trans ?_
      simp [logged]
  refine ⟨fun hl hstate => ?_, fun hl hstate hord hcar cls e row ha => ?_⟩
  · obtain ⟨hdown, hrep⟩ := hup hstate
    refine haccept 0 true none hrep ?_
    have hem : isEmergency number s = true := isEmergency_iff.mpr hl
    have hlisted (x : List Nat) (hx : digitsOf (param v.params 1) 20 2 v.params = some x) :
        x ∈ s.cfl.params.emergency := by
      rw [hnum, Option.some.injEq] at hx
      exact hx ▸ hl
    have hin : numberInHand s = none :=
      numberInHand_none hserv (.inr (.inr (.inr (.inr (.inr (.inr hlisted))))))
    have hes : emergencyState s = true := by
      rcases hstate with h | h | h <;> simp [emergencyState, h]
    rw [exec_dial_judged hserv hin]
    simp [dialRequest, running, hpow, hdown, hnum, hem, hes]
  · obtain ⟨hdown, hrep⟩ := hup (hstate.imp_right .inl)
    have hexec := exec_dial_carried hnum hserv hcar
    rw [dialRequest_route hnum ⟨hpow, hdown⟩ hl hstate hord ha] at hexec
    refine ⟨fun hc hrow => haccept 0 false none hrep ?_, ?_⟩
    · rw [hexec, hc, hrow]
      simp [judgeClass]
    · intro r hc hrow hfree hbar figure deposit hcredit
      refine haccept cls false (some r) hrep ?_
      rw [hexec, hrow, judgeClass_charged hfree hbar, if_neg (by exact not_lt.mpr hcredit)]

/-- Settles O40: the analysis of a number, DIAL refused in the order of R109, and DIAL accepted. -/
theorem dialJudged : Obligations.DialJudged := ⟨numberAnalysed, dialRefusals, dialAccepted⟩

end Sys2Proof.Machine
end

section
/-! The ADU's writer (R74, R154, R155, R161 to R163), and O53. -/

namespace Sys2Proof.Machine

/-! ### What the writer does, in equations -/

theorem exec_writerJobStart_down {s : State} {j : Job} {rest : List Job} (hp : s.powered = true)
    (hr : s.adu.run = none) (hj : s.adu.jobs = j :: rest) (hd : s.pfu.power ≠ .running) :
    exec .writerJobStart s = .next s := by
  rw [exec, execWriterJobStart, onPower_up hp]
  simp only [hr, hj]
  rw [if_neg (by simpa [running] using hd)]

theorem exec_writerJobStart_running {s : State} {j : Job} {rest : List Job} (hp : s.powered = true)
    (hr : s.adu.run = none) (hj : s.adu.jobs = j :: rest) (hd : s.pfu.power = .running) :
    exec .writerJobStart s = .next (beginJob j { s with adu.jobs := rest }) := by
  rw [exec, execWriterJobStart, onPower_up hp]
  simp only [hr, hj]
  rw [if_pos (by simpa [running] using hd)]

/-- A read-back stands for its word only while the word may go on and, until the port has carried
it,
the port comes to the ADU (R16, R165). -/
theorem exec_nvReadbackDone {s : State} {r : Run} {a : Nat} {w : Word} {rest : List (Nat × Word)}
    (read : Word) (hp : s.powered = true) (hr : s.adu.run = some r) (ht : r.todo = (a, w) :: rest) :
    exec (.nvReadbackDone read) s =
      .next
        (if wordMayGoOn r s && (r.stage = .compare || portReaches .adu s) then
          compareWord read r { s with mem := s.mem.store a read .both }
        else s) := by
  rw [exec, execNvReadbackDone, onPower_up hp]
  simp only [hr, ht, storeWord]

theorem nextWord_of_rest {r : Run} (s : State) (h : r.todo.drop 1 ≠ [] ∨ ∀ log slot ws,
    r.job ≠ .record log slot ws) :
    nextWord r s =
      { s with
        adu.run :=
          some { r with todo := r.todo.drop 1, stage := .write, tries := 0, begun := true } } := by
  unfold nextWord
  dsimp only
  split
  · next log slot ws hj he =>
    rcases h with h | h
    · exact absurd he h
    · exact absurd hj (h log slot ws)
  · rfl

theorem nextWord_of_last {r : Run} {log : LogId} {slot : Nat} {ws : List Word} (s : State)
    (hj : r.job = .record log slot ws) (ht : r.todo.drop 1 = []) :
    nextWord r s =
      recordPhaseDone log slot ws
        { r with todo := r.todo.drop 1, stage := .write, tries := 0, begun := true } s := by
  unfold nextWord
  simp only [hj, ht]

theorem moveRecord_spare {log : LogId} {slot : Nat} {ws : List Word} {r : Run} {s : State} {j : Nat}
    (h : (s.adu.remap.findIdx? fun e => e = .free) = some j) :
    moveRecord log slot ws r s = beginWords (.spare j) (placed (spareAddr j s) ws) r s := by
  unfold moveRecord
  rw [h]

theorem moveRecord_none {log : LogId} {slot : Nat} {ws : List Word} {r : Run} {s : State}
    (h : (s.adu.remap.findIdx? fun e => e = .free) = none) :
    moveRecord log slot ws r s = beginFinal log slot ws r s := by
  unfold moveRecord
  rw [h]

theorem compareWord_match {r : Run} {a : Nat} {w : Word} {rest : List (Nat × Word)} (s : State)
    (ht : r.todo = (a, w) :: rest) : compareWord w r s = nextWord r s := by
  simp only [compareWord, ht, if_true]

theorem compareWord_retry {r : Run} {a : Nat} {w read : Word} {rest : List (Nat × Word)} (s : State)
    (ht : r.todo = (a, w) :: rest) (hw : read ≠ w) (hr : r.tries < 2) :
    compareWord read r s =
      attrEvent .nvRetries
        { s with adu.run := some { r with stage := .write, tries := r.tries + 1, begun := true } } := by
  simp only [compareWord, ht, if_neg hw, if_pos hr]

theorem compareWord_failed {r : Run} {a : Nat} {w read : Word} {rest : List (Nat × Word)} (s : State)
    (ht : r.todo = (a, w) :: rest) (hw : read ≠ w) (hr : 2 ≤ r.tries) :
    compareWord read r s = wordFailed r s := by
  simp only [compareWord, ht, if_neg hw, if_neg (Nat.not_lt.2 hr)]

theorem wordFailed_record {r : Run} {log : LogId} {slot : Nat} {ws : List Word} (s : State)
    (hj : r.job = .record log slot ws) :
    wordFailed r s = recordWordFailed log slot ws { r with begun := true } s := by
  unfold wordFailed
  simp only [hj]

theorem wordFailed_other {r : Run} (s : State) (hj : ∀ log slot ws, r.job ≠ .record log slot ws) :
    wordFailed r s = nextWord { r with begun := true, failed := r.failed + 1 } s := by
  unfold wordFailed
  dsimp only
  split
  · next log slot ws h => exact absurd h (hj log slot ws)
  · rfl

/-! ### The clauses -/

theorem writerTakesJob : Clause.WriterTakesJob := by
  intro s j rest hp hr hj
  refine ⟨exec_writerJobStart_down hp hr hj, fun hrun => ⟨?_, ?_, ?_⟩⟩
  · rintro log slot ws rfl
    exact exec_writerJobStart_running hp hr hj hrun
  · rintro f d w rfl hw
    intro check
    rw [exec_writerJobStart_running hp hr hj hrun]
    have hw' : windowOf .tally { s with adu.jobs := rest } = some w := hw
    simp only [beginJob, beginWriteBack, hasWindow, baseOf, hw', Option.isSome_some, if_true,
      Option.map_some, Option.getD_some]
    rfl
  · rintro w rfl
    exact exec_writerJobStart_running hp hr hj hrun

theorem wordVerified : Clause.WordVerified := by
  intro s r a w rest read hp hr ht stored next isRecord again reached
  have hx := exec_nvReadbackDone read hp hr ht
  have hyes (h : reached) : exec (.nvReadbackDone read) s =
      .next (compareWord read r { s with mem := stored }) := by
    rw [hx, if_pos (by simpa [wordMayGoOn, running, or_assoc] using h)]
  have hrest (h : rest ≠ []) : r.todo.drop 1 ≠ [] := by simpa [ht] using h
  have hother (h : ¬isRecord) (log : LogId) (slot : Nat) (ws : List Word) :
      r.job ≠ .record log slot ws := fun hj => h ⟨log, slot, ws, hj⟩
  refine ⟨?_, ?_, ?_, ?_, ?_, ?_⟩
  · intro h
    rw [hx, if_neg fun hc => h (by simpa [wordMayGoOn, running, or_assoc] using hc)]
  · rintro h rfl hc
    rw [hyes h, compareWord_match _ ht, nextWord_of_rest _ (hc.imp hrest hother)]
    simp only [ht, List.drop_succ_cons, List.drop_zero, next]
  · intro h hw hlt
    rw [hyes h, compareWord_retry _ ht hw hlt]
  · intro h hw hge hrec
    rw [hyes h, compareWord_failed _ ht hw hge, wordFailed_other _ (hother hrec),
      nextWord_of_rest (r := { r with begun := true, failed := r.failed + 1 }) _
        (.inr (hother hrec))]
    simp only [ht, List.drop_succ_cons, List.drop_zero, next]
  · intro log slot ws h hw hge hj hph
    have hfail : exec (.nvReadbackDone read) s =
        .next
          (recordWordFailed log slot ws { r with begun := true } { s with mem := stored }) := by
      rw [hyes h, compareWord_failed _ ht hw hge, wordFailed_record _ hj]
    refine ⟨fun j hm hf => ?_, fun hf => ?_⟩
    · rw [hfail]
      simp only [recordWordFailed, hph]
      have hm' : ¬(mappedSpare log slot { s with mem := stored }).isSome = true := by
        rw [show mappedSpare log slot { s with mem := stored } = none from hm]
        exact Bool.false_ne_true
      rw [if_neg hm', moveRecord_spare (by exact hf)]
      rfl
    · rw [hfail]
      simp only [recordWordFailed, hph]
      rcases hf with hf | hm
      · rw [moveRecord_none (by exact hf), ite_self]
        rfl
      · rw [if_pos (by exact hm)]
        rfl
  · intro log slot ws j h hw hge hj remap final
    have hfail : exec (.nvReadbackDone read) s =
        .next
          (recordWordFailed log slot ws { r with begun := true } { s with mem := stored }) := by
      rw [hyes h, compareWord_failed _ ht hw hge, wordFailed_record _ hj]
    refine ⟨fun hph => ?_, fun i hph hf => ?_, fun hph hf => ?_, fun hph hne => ?_⟩
    · rw [hfail]
      simp only [recordWordFailed, hph]
      rfl
    · rw [hfail]
      simp only [recordWordFailed, hph]
      rw [moveRecord_spare (by exact hf)]
      rfl
    · rw [hfail]
      simp only [recordWordFailed, hph]
      rw [moveRecord_none (by exact hf)]
      rfl
    · have hnext : recordWordFailed log slot ws { r with begun := true } { s with mem := stored } =
          nextWord { r with begun := true } { s with mem := stored } := by
        rcases hph with hph | hph <;> simp only [recordWordFailed, hph]
      rw [hfail, hnext,
        nextWord_of_rest (r := { r with begun := true }) _ (.inl (hrest hne))]
      simp only [ht, List.drop_succ_cons, List.drop_zero, next]

/-- A record job that has ended, over an occurrence handed before. -/
theorem recordJobOver_reached (log : LogId) (ws : List Word) (s : State) :
    let t := endRecordJob log ws (occur .auditSuspect 3 s)
    t.adu.run = none ∧
      t.adu.greatest =
        (if log = .call then max s.adu.greatest (value32 (ws.getD 0 0) (ws.getD 1 0))
          else s.adu.greatest) ∧
      t.mem = s.mem ∧ OccurrenceReached .auditSuspect 3 s t := by
  intro t
  refine ⟨rfl, ?_, ?_, ?_⟩
  · simp [t, endRecordJob]
  · simp [t, endRecordJob]
  · exact occur_reached .auditSuspect 3 s

theorem recordJobEnds : Clause.RecordJobEnds := by
  intro s r a w log slot ws hp hr ht hj hgo seq greatest stored again hport
  have hyes (read : Word) : exec (.nvReadbackDone read) s =
      .next (compareWord read r { s with mem := s.mem.store a read .both }) := by
    rw [exec_nvReadbackDone read hp hr ht,
      if_pos (by
        simpa [wordMayGoOn, running, or_assoc] using And.intro hgo hport)]
  have hdrop : r.todo.drop 1 = [] := by simp [ht]
  have hdone : exec (.nvReadbackDone w) s =
      .next (recordPhaseDone log slot ws
        { r with todo := r.todo.drop 1, stage := .write, tries := 0, begun := true }
        { s with mem := stored }) := by
    rw [hyes, compareWord_match _ ht, nextWord_of_last _ hj hdrop]
  have hleft (read : Word) (hph : (∃ j, r.phase = .entryBad j) ∨ r.phase = .final)
      (h : read = w ∨ 2 ≤ r.tries) : exec (.nvReadbackDone read) s =
      .next (recordPhaseDone log slot ws
        { r with todo := r.todo.drop 1, stage := .write, tries := 0, begun := true }
        { s with mem := s.mem.store a read .both }) := by
    by_cases hw : read = w
    · subst hw; exact hdone
    · rw [hyes, compareWord_failed _ ht hw (h.resolve_left hw), wordFailed_record _ hj]
      have hnext (u : State) : recordWordFailed log slot ws { r with begun := true } u =
          nextWord { r with begun := true } u := by
        rcases hph with ⟨j, hph⟩ | hph <;> simp only [recordWordFailed, hph]
      rw [hnext, nextWord_of_last (r := { r with begun := true }) _ hj hdrop]
  refine ⟨fun hph => ?_, fun j hph => ?_, fun j hph => ?_, fun j read hph h => ⟨fun i hf => ?_,
    fun hf => ?_⟩, fun read hph h => ?_⟩
  · rw [hdone]
    simp only [recordPhaseDone, hph]
    rfl
  · rw [hdone]
    simp only [recordPhaseDone, hph]
    rfl
  · rw [hdone]
    simp only [recordPhaseDone, hph]
    rfl
  · rw [hleft read (.inl ⟨j, hph⟩) h]
    simp only [recordPhaseDone, hph]
    rw [moveRecord_spare (by exact hf)]
    rfl
  · rw [hleft read (.inl ⟨j, hph⟩) h]
    simp only [recordPhaseDone, hph]
    rw [moveRecord_none (by exact hf)]
    rfl
  · rw [hleft read (.inr hph) h]
    simp only [recordPhaseDone, hph]
    exact ⟨_, rfl, recordJobOver_reached log ws { s with mem := s.mem.store a read .both }⟩

/-- Settles O53: the writer's jobs, each word's verification by its phase, and the ends of a
record's
job, each from the equations of its part of the writer. -/
theorem writerWorks : Obligations.WriterWorks :=
  ⟨writerTakesJob, wordVerified, recordJobEnds, crcComputed⟩

end Sys2Proof.Machine
end

section
/-! Words of a list, and the parts of the context block (3.6, R45, R174). -/

namespace Sys2Proof.Machine

/-! ### Words of a list -/

theorem wordAt_append_right {A : List Word} {n : Nat} (h : A.length = n) (B : List Word) (i : Nat) :
    wordAt (A ++ B) (n + i) = wordAt B i := by
  subst h
  simp [wordAt, List.getD_eq_getElem?_getD, List.getElem?_append_right]

theorem wordAt_append_left {A : List Word} {i : Nat} (h : i < A.length) (B : List Word) :
    wordAt (A ++ B) i = wordAt A i := by
  simp [wordAt, List.getD_eq_getElem?_getD, List.getElem?_append_left h]

theorem wordAt_replicate {n i : Nat} (w : Word) (h : i < n) : wordAt (List.replicate n w) i = w := by
  simp [wordAt, List.getD, h]

theorem wordAt_drop_take (ws : List Word) {n k i : Nat} (h : i < k) :
    wordAt ((ws.drop n).take k) i = wordAt ws (n + i) := by
  simp [wordAt, List.getD, h]

theorem wordAt_map {α : Type} (f : α → Word) {l : List α} {i : Nat} {x : α} (h : l[i]? = some x) :
    wordAt (l.map f) i = f x := by
  simp [wordAt, List.getD, h]

theorem length_flatMap_const {α : Type} {f : α → List Word} {n : Nat} (hf : ∀ x, (f x).length = n)
    (l : List α) : (l.flatMap f).length = n * l.length := by
  induction l with
  | nil => simp
  | cons x l ih => simp [hf, ih]; ring

/-- The words of entries of one size stand behind one another. -/
theorem wordAt_flatMap {α : Type} {f : α → List Word} {n : Nat} (hf : ∀ x, (f x).length = n)
    {l : List α} {i j : Nat} {x : α} (hx : l[i]? = some x) (hj : j < n) :
    wordAt (l.flatMap f) (n * i + j) = wordAt (f x) j := by
  induction l generalizing i with
  | nil => simp at hx
  | cons y l ih =>
    rw [List.flatMap_cons]
    cases i with
    | zero =>
      obtain rfl : y = x := by simpa using hx
      rw [Nat.mul_zero, Nat.zero_add, wordAt_append_left (by rw [hf]; exact hj)]
    | succ i =>
      rw [show n * (i + 1) + j = n + (n * i + j) by ring, wordAt_append_right (hf y)]
      exact ih (by simpa using hx)

/-! ### Values of words -/

theorem toNat_wordOf (n : Nat) : (wordOf n).toNat = n % 65536 := by simp [wordOf]

theorem toNat_wordOf_lt {n : Nat} (h : n < 65536) : (wordOf n).toNat = n := by
  rw [toNat_wordOf, Nat.mod_eq_of_lt h]

theorem value32_words32 {n : Nat} (h : n < 0x100000000) :
    value32 (wordOf (n / 65536)) (wordOf n) = n := by
  rw [value32, toNat_wordOf, toNat_wordOf]
  omega

theorem toNat_bytePair {a b : Nat} (ha : a < 256) (hb : b < 256) :
    (bytePair a b).toNat = a * 256 + b := by
  rw [bytePair, toNat_wordOf]
  omega

theorem firstByte_bytePair {a : Nat} (b : Nat) (ha : a < 256) : firstByte (bytePair a b) = a := by
  rw [firstByte, bytePair, toNat_wordOf]
  omega

theorem secondByte_bytePair (a : Nat) {b : Nat} (hb : b < 256) : secondByte (bytePair a b) = b := by
  rw [secondByte, bytePair, toNat_wordOf]
  omega

/-- The place of a digit in the packed words. -/
theorem digit_packDigits (ds : List Nat) {i : Nat} (hi : i < 20) :
    (wordAt (packDigits ds) (i / 4)).toNat / 16 ^ (3 - i % 4) % 16 = ds.getD i 15 % 16 := by
  have hk : i / 4 < 5 := by omega
  have hw : wordAt (packDigits ds) (i / 4) = wordOf
      (ds.getD (4 * (i / 4)) 15 % 16 * 4096 + ds.getD (4 * (i / 4) + 1) 15 % 16 * 256 +
        ds.getD (4 * (i / 4) + 2) 15 % 16 * 16 + ds.getD (4 * (i / 4) + 3) 15 % 16) :=
    wordAt_map _ (x := i / 4) (by simp [hk])
  rw [hw, toNat_wordOf]
  have hr : i % 4 = 0 ∨ i % 4 = 1 ∨ i % 4 = 2 ∨ i % 4 = 3 := by omega
  have hi' := Nat.div_add_mod i 4
  rcases hr with hr | hr | hr | hr
  · rw [show ds.getD i 15 = ds.getD (4 * (i / 4)) 15 by congr 1; omega, hr]
    norm_num
    omega
  · rw [show ds.getD i 15 = ds.getD (4 * (i / 4) + 1) 15 by congr 1; omega, hr]
    norm_num
    omega
  · rw [show ds.getD i 15 = ds.getD (4 * (i / 4) + 2) 15 by congr 1; omega, hr]
    norm_num
    omega
  · rw [show ds.getD i 15 = ds.getD (4 * (i / 4) + 3) 15 by congr 1; omega, hr]
    norm_num
    omega

/-! ### The block's parts -/

/-- The call and rating parts, or absent words in their place. -/
def contextCall (s : State) : List Word :=
  match s.rtu.ctx with
  | some c => callPart c s
  | none => absentWords 38

/-- The 8 places of the escrow entries. -/
def contextCoins (s : State) : List Word :=
  ((s.cnu.escrow.take 8).flatMap fun c => coinWords c s) ++
    absentWords (6 * (8 - (s.cnu.escrow.take 8).length))

/-- The 4 places of the REPORTING sequences. -/
def contextSeqs (s : State) : List Word :=
  (reportingSeqs s).map wordOf ++ absentWords (4 - (reportingSeqs s).length)

/-- The carry saved. -/
def contextCarry (s : State) : Nat := if s.rtu.ctx.isSome then 0 else s.rtu.carry

theorem withCrc_contextBody (check : Word) (s : State) :
    withCrc (contextBody check s) =
      ((stampNow s).words ++ [check]) ++ (contextCall s ++ ([wordOf (s.cnu.escrow.take 8).length] ++
        (contextCoins s ++ (words32 (contextCarry s) ++ ([wordOf (reportingSeqs s).length] ++
          (contextSeqs s ++ [crc (contextBody check s)])))))) := by
  rw [withCrc]
  simp only [contextCall, contextCoins, contextSeqs, contextCarry]
  conv => lhs; arg 1; rw [contextBody]
  simp only [List.append_assoc] <;> rfl

theorem rowWords_length (r : Option Row) : (rowWords r).length = 10 := by
  cases r <;> rfl

theorem callPart_length (c : Ctx) (s : State) : (callPart c s).length = 38 := by
  unfold callPart
  cases c.answerPoint <;>
    simp [words32, packDigits, Stamp.words, rowWords_length, absent32]

theorem contextCall_length (s : State) : (contextCall s).length = 38 := by
  unfold contextCall
  split
  · exact callPart_length _ s
  · exact List.length_replicate

theorem coinWords_length (s : State) (c : Coin) : (coinWords c s).length = 6 := by
  unfold coinWords
  cases c.owner <;> rfl

theorem contextCoins_length (s : State) : (contextCoins s).length = 48 := by
  have h : (s.cnu.escrow.take 8).length ≤ 8 := by simp
  rw [contextCoins, List.length_append, length_flatMap_const (coinWords_length s), absentWords,
    List.length_replicate]
  omega

theorem reportingSeqs_length (s : State) : (reportingSeqs s).length ≤ 4 := by simp [reportingSeqs]

theorem contextSeqs_length (s : State) : (contextSeqs s).length = 4 := by
  have h := reportingSeqs_length s
  rw [contextSeqs, List.length_append, absentWords, List.length_replicate, List.length_map]
  omega

section Places

variable (check : Word) (s : State)

theorem context_head_length : ((stampNow s).words ++ [check]).length = 4 := rfl

theorem words32_length (n : Nat) : (words32 n).length = 2 := rfl

theorem context_length : (withCrc (contextBody check s)).length = 99 := by
  rw [withCrc_contextBody]
  simp only [List.length_append, contextCall_length, contextCoins_length, contextSeqs_length]
  rfl

theorem context_head {i : Nat} (h : i < 4) :
    wordAt (withCrc (contextBody check s)) i = wordAt ((stampNow s).words ++ [check]) i := by
  rw [withCrc_contextBody, wordAt_append_left h]

theorem context_call {i : Nat} (h : i < 38) :
    wordAt (withCrc (contextBody check s)) (4 + i) = wordAt (contextCall s) i := by
  rw [withCrc_contextBody, wordAt_append_right (context_head_length check s),
    wordAt_append_left (by rw [contextCall_length]; exact h)]

/-- The words behind the call part. -/
theorem context_behind (i : Nat) :
    wordAt (withCrc (contextBody check s)) (42 + i) =
      wordAt ([wordOf (s.cnu.escrow.take 8).length] ++
        (contextCoins s ++ (words32 (contextCarry s) ++ ([wordOf (reportingSeqs s).length] ++
          (contextSeqs s ++ [crc (contextBody check s)]))))) i := by
  rw [withCrc_contextBody, show 42 + i = 4 + (38 + i) by omega,
    wordAt_append_right (context_head_length check s),
    wordAt_append_right (contextCall_length s)]

theorem context_count :
    wordAt (withCrc (contextBody check s)) 42 = wordOf (min 8 s.cnu.escrow.length) := by
  rw [← List.length_take]
  exact context_behind check s 0

theorem context_coin {i : Nat} (h : i < 48) :
    wordAt (withCrc (contextBody check s)) (43 + i) = wordAt (contextCoins s) i := by
  rw [show 43 + i = 42 + (1 + i) by omega, context_behind,
    wordAt_append_right List.length_singleton,
    wordAt_append_left (by rw [contextCoins_length]; exact h)]

/-- The words behind the coins. -/
theorem context_rest (i : Nat) :
    wordAt (withCrc (contextBody check s)) (91 + i) =
      wordAt (words32 (contextCarry s) ++ ([wordOf (reportingSeqs s).length] ++
          (contextSeqs s ++ [crc (contextBody check s)]))) i := by
  rw [show 91 + i = 42 + (1 + (48 + i)) by omega, context_behind,
    wordAt_append_right List.length_singleton,
    wordAt_append_right (contextCoins_length s)]

theorem context_carry :
    wordAt (withCrc (contextBody check s)) 91 = wordOf (contextCarry s / 65536) ∧
      wordAt (withCrc (contextBody check s)) 92 = wordOf (contextCarry s) :=
  ⟨context_rest check s 0, context_rest check s 1⟩

theorem context_seqCount :
    wordAt (withCrc (contextBody check s)) 93 = wordOf (reportingSeqs s).length :=
  context_rest check s 2

theorem context_seq {i : Nat} (h : i < 4) :
    wordAt (withCrc (contextBody check s)) (94 + i) = wordAt (contextSeqs s) i := by
  rw [show 94 + i = 91 + (2 + (1 + i)) by omega, context_rest,
    wordAt_append_right (words32_length _), wordAt_append_right List.length_singleton,
    wordAt_append_left (by rw [contextSeqs_length]; exact h)]

theorem context_crc :
    wordAt (withCrc (contextBody check s)) 98 = crc (contextBody check s) := by
  rw [show 98 = 91 + (2 + (1 + (4 + 0))) from rfl, context_rest,
    wordAt_append_right (words32_length _), wordAt_append_right List.length_singleton,
    wordAt_append_right (contextSeqs_length s)]
  rfl

theorem context_take : (withCrc (contextBody check s)).take 98 = contextBody check s := by
  have h := context_length check s
  rw [withCrc, List.length_append] at h
  exact List.take_left' (by simpa using h)

end Places

/-! ### The words of an open call -/

section Call

variable (c : Ctx) (s : State)

/-- The words before the digits. -/
def callFront : List Word :=
  [wordOf (c.owner.seq / 65536), wordOf c.owner.seq, wordOf s.lnu.number.length]

/-- The words from the digits to the row. -/
def callSeizure : List Word :=
  [c.seizeStamp.w0, c.seizeStamp.w1, c.seizeStamp.w2, wordOf ((rtuNow s - c.seizePoint) / 65536),
    wordOf (rtuNow s - c.seizePoint), bytePair c.cls (if c.emergency then 1 else 0)]

/-- The words from the row to the answer. -/
def callCredit : List Word :=
  [bytePair c.phase.code (c.band.getD 0xFF), wordOf (c.cin / 65536), wordOf c.cin,
    wordOf (c.consumed / 65536), wordOf c.consumed, wordOf (c.committed / 65536), wordOf c.committed,
    wordOf (sat16 c.intervals), wordOf c.roll.length, wordOf (rollValue c.roll / 65536),
    wordOf (rollValue c.roll)]

/-- The two words of the answer. -/
def callAnswer : List Word :=
  match c.answerPoint with
  | some a => words32 (rtuNow s - a)
  | none => absent32

theorem callPart_eq :
    callPart c s =
      callFront c s ++ (packDigits s.lnu.number ++ (callSeizure c s ++ (rowWords c.row ++
        (callCredit c ++ (callAnswer c s ++
          [wordOf (bitIf c.graceUsed 0 + bitIf c.owner.unlogged 1)]))))) := by
  unfold callPart callFront callSeizure callCredit callAnswer
  simp only [List.append_assoc, List.cons_append, List.nil_append, words32, Stamp.words] <;> rfl

theorem callFront_length : (callFront c s).length = 3 := rfl

theorem packDigits_length (ds : List Nat) : (packDigits ds).length = 5 := rfl

theorem callSeizure_length : (callSeizure c s).length = 6 := rfl

theorem callCredit_length : (callCredit c).length = 11 := rfl

theorem callAnswer_length : (callAnswer c s).length = 2 := by
  unfold callAnswer
  cases c.answerPoint <;> rfl

theorem callPart_front {i : Nat} (h : i < 3) :
    wordAt (callPart c s) i = wordAt (callFront c s) i := by
  rw [callPart_eq, wordAt_append_left h]

theorem callPart_digits {i : Nat} (h : i < 5) :
    wordAt (callPart c s) (3 + i) = wordAt (packDigits s.lnu.number) i := by
  rw [callPart_eq, wordAt_append_right (callFront_length c s),
    wordAt_append_left (by rw [packDigits_length]; exact h)]

theorem callPart_seizure {i : Nat} (h : i < 6) :
    wordAt (callPart c s) (8 + i) = wordAt (callSeizure c s) i := by
  rw [callPart_eq, show 8 + i = 3 + (5 + i) by omega, wordAt_append_right (callFront_length c s),
    wordAt_append_right (packDigits_length _), wordAt_append_left h]

/-- The words from the row on. -/
theorem callPart_behind (i : Nat) :
    wordAt (callPart c s) (14 + i) = wordAt (rowWords c.row ++ (callCredit c ++ (callAnswer c s ++
      [wordOf (bitIf c.graceUsed 0 + bitIf c.owner.unlogged 1)]))) i := by
  rw [callPart_eq, show 14 + i = 3 + (5 + (6 + i)) by omega,
    wordAt_append_right (callFront_length c s), wordAt_append_right (packDigits_length _),
    wordAt_append_right (callSeizure_length c s)]

theorem callPart_rowWord {i : Nat} (h : i < 10) :
    wordAt (callPart c s) (14 + i) = wordAt (rowWords c.row) i := by
  rw [callPart_behind, wordAt_append_left (by rw [rowWords_length]; exact h)]

theorem callPart_credit {i : Nat} (h : i < 11) :
    wordAt (callPart c s) (24 + i) = wordAt (callCredit c) i := by
  rw [show 24 + i = 14 + (10 + i) by omega, callPart_behind, wordAt_append_right (rowWords_length _),
    wordAt_append_left h]

theorem callPart_answer {i : Nat} (h : i < 2) :
    wordAt (callPart c s) (35 + i) = wordAt (callAnswer c s) i := by
  rw [show 35 + i = 14 + (10 + (11 + i)) by omega, callPart_behind,
    wordAt_append_right (rowWords_length _), wordAt_append_right (callCredit_length c),
    wordAt_append_left (by rw [callAnswer_length]; exact h)]

theorem callPart_flags :
    wordAt (callPart c s) 37 = wordOf (bitIf c.graceUsed 0 + bitIf c.owner.unlogged 1) := by
  rw [show 37 = 14 + (10 + (11 + (2 + 0))) from rfl, callPart_behind,
    wordAt_append_right (rowWords_length _), wordAt_append_right (callCredit_length c),
    wordAt_append_right (callAnswer_length c s)]
  rfl

end Call

/-! ### The words of a coin -/

section CoinWords

variable (x : Coin) (s : State)

/-- The code of a DROPPING coin's direction. -/
def droppingCode (s : State) : Nat := ((droppingDir s).map Dir.code).getD 0

theorem coinWords_fixed :
    wordAt (coinWords x s) 0 = wordOf x.seq ∧
    wordAt (coinWords x s) 1 = bytePair x.denom x.status.code ∧
    wordAt (coinWords x s) 2 = wordOf x.value ∧
    wordAt (coinWords x s) 5 =
      wordOf (bitIf x.isForeign 0 + bitIf (x.owner.any (·.unlogged)) 1 +
        (if x.status = .dropping then droppingCode s else 0) * 256) := by
  unfold coinWords
  cases x.owner <;> exact ⟨rfl, rfl, rfl, rfl⟩

theorem coinWords_unowned (h : x.owner = none) :
    wordAt (coinWords x s) 3 = 0xFFFF ∧ wordAt (coinWords x s) 4 = 0xFFFF := by
  unfold coinWords
  rw [h]
  exact ⟨rfl, rfl⟩

theorem coinWords_owned {o : Owner} (h : x.owner = some o) :
    wordAt (coinWords x s) 3 = wordOf (o.seq / 65536) ∧
      wordAt (coinWords x s) 4 = wordOf o.seq := by
  unfold coinWords
  rw [h]
  exact ⟨rfl, rfl⟩

theorem contextCoins_coin {i : Nat} {x : Coin} (hi : i < 8) (hx : s.cnu.escrow[i]? = some x)
    {j : Nat} (hj : j < 6) : wordAt (contextCoins s) (6 * i + j) = wordAt (coinWords x s) j := by
  have hx' : (s.cnu.escrow.take 8)[i]? = some x := by simpa [List.getElem?_take, hi] using hx
  have hlen : i < (s.cnu.escrow.take 8).length := (List.getElem?_eq_some_iff.1 hx').1
  rw [contextCoins, wordAt_append_left (by
    rw [length_flatMap_const (coinWords_length s)]; omega)]
  exact wordAt_flatMap (coinWords_length s) hx' hj

theorem contextCoins_free {i : Nat} (hi : i < 8) (hl : s.cnu.escrow.length ≤ i)
    {j : Nat} (hj : j < 6) : wordAt (contextCoins s) (6 * i + j) = 0xFFFF := by
  have hlen : (s.cnu.escrow.take 8).length = s.cnu.escrow.length := by simp; omega
  rw [contextCoins, show 6 * i + j = 6 * s.cnu.escrow.length +
    (6 * (i - s.cnu.escrow.length) + j) by omega,
    wordAt_append_right (by rw [length_flatMap_const (coinWords_length s), hlen])]
  exact wordAt_replicate absent16 (by omega)

end CoinWords

theorem contextSeqs_seq {i q : Nat} {s : State} (h : (reportingSeqs s)[i]? = some q) :
    wordAt (contextSeqs s) i = wordOf q := by
  rw [contextSeqs, wordAt_append_left (by
    rw [List.length_map]; exact (List.getElem?_eq_some_iff.1 h).1)]
  exact wordAt_map wordOf h

theorem contextSeqs_free {i : Nat} {s : State} (h : (reportingSeqs s).length ≤ i) (hi : i < 4) :
    wordAt (contextSeqs s) i = 0xFFFF := by
  rw [contextSeqs, show i = (reportingSeqs s).length + (i - (reportingSeqs s).length) by omega,
    wordAt_append_right (List.length_map ..)]
  exact wordAt_replicate absent16 (by omega)

end Sys2Proof.Machine
end

section
/-! The context block's words by their places. -/

namespace Sys2Proof.Machine

/-! ### The layout of the context block -/

theorem holds_of_eq {u w : Word} {v : Nat} (h : u = w) (hw : w = wordOf v) :
    v < 65536 → u.toNat = v := fun hv => by rw [h, hw, toNat_wordOf_lt hv]

theorem shows_of_eq {u u' : Word} {v : Nat} (h : u = wordOf (v / 65536)) (h' : u' = wordOf v) :
    v < 0x100000000 → u.toNat * 65536 + u'.toNat = v := fun hv => by
  rw [h, h']
  exact value32_words32 hv

/-- A flag word of two flags. -/
theorem toNat_flags (p q : Bool) :
    (wordOf (bitIf p 0 + bitIf q 1)).toNat = (if p then 1 else 0) + (if q then 2 else 0) := by
  cases p <;> cases q <;> rfl

theorem phase_code_lt (p : Phase) : p.code < 256 := by cases p <;> decide

theorem status_code_lt (x : CoinStatus) : x.code < 256 := by cases x <;> decide

theorem droppingCode_le (s : State) : droppingCode s ≤ 2 := by
  unfold droppingCode
  cases droppingDir s with
  | none => exact Nat.zero_le _
  | some d => cases d <;> decide

/-- The flag word of a coin. -/
theorem toNat_coinFlags (x : Coin) (s : State) :
    (wordAt (coinWords x s) 5).toNat =
      (if x.isForeign then 1 else 0) + (if x.owner.any (·.unlogged) then 2 else 0) +
        256 * (if x.status = .dropping then droppingCode s else 0) := by
  have hd := droppingCode_le s
  have hb (p : Bool) (i : Nat) : bitIf p i = if p then 2 ^ i else 0 := rfl
  rw [(coinWords_fixed x s).2.2.2, toNat_wordOf, hb, hb]
  split <;> split <;> split <;> norm_num <;> omega

section Layout

variable (check : Word) (s : State)

theorem context_callWord {c : Ctx} (hc : s.rtu.ctx = some c) {i : Nat} (h : i < 38) :
    wordAt (withCrc (contextBody check s)) (4 + i) = wordAt (callPart c s) i := by
  rw [context_call check s h, contextCall, hc]

theorem context_noCall (hc : s.rtu.ctx = none) {i : Nat} (h : i < 38) :
    wordAt (withCrc (contextBody check s)) (4 + i) = 0xFFFF := by
  rw [context_call check s h, contextCall, hc]
  exact wordAt_replicate absent16 h

theorem context_front {c : Ctx} (hc : s.rtu.ctx = some c) {i : Nat} (h : i < 3) :
    wordAt (withCrc (contextBody check s)) (4 + i) = wordAt (callFront c s) i := by
  rw [context_callWord check s hc (by omega), callPart_front c s h]

theorem context_digits {c : Ctx} (hc : s.rtu.ctx = some c) {i : Nat} (h : i < 5) :
    wordAt (withCrc (contextBody check s)) (7 + i) = wordAt (packDigits s.lnu.number) i := by
  rw [show 7 + i = 4 + (3 + i) by omega, context_callWord check s hc (by omega),
    callPart_digits c s h]

theorem context_seizure {c : Ctx} (hc : s.rtu.ctx = some c) {i : Nat} (h : i < 6) :
    wordAt (withCrc (contextBody check s)) (12 + i) = wordAt (callSeizure c s) i := by
  rw [show 12 + i = 4 + (8 + i) by omega, context_callWord check s hc (by omega),
    callPart_seizure c s h]

theorem context_row {c : Ctx} (hc : s.rtu.ctx = some c) {i : Nat} (h : i < 10) :
    wordAt (withCrc (contextBody check s)) (18 + i) = wordAt (rowWords c.row) i := by
  rw [show 18 + i = 4 + (14 + i) by omega, context_callWord check s hc (by omega),
    callPart_rowWord c s h]

theorem context_credit {c : Ctx} (hc : s.rtu.ctx = some c) {i : Nat} (h : i < 11) :
    wordAt (withCrc (contextBody check s)) (28 + i) = wordAt (callCredit c) i := by
  rw [show 28 + i = 4 + (24 + i) by omega, context_callWord check s hc (by omega),
    callPart_credit c s h]

theorem context_answer {c : Ctx} (hc : s.rtu.ctx = some c) {i : Nat} (h : i < 2) :
    wordAt (withCrc (contextBody check s)) (39 + i) = wordAt (callAnswer c s) i := by
  rw [show 39 + i = 4 + (35 + i) by omega, context_callWord check s hc (by omega),
    callPart_answer c s h]

theorem context_callFlags {c : Ctx} (hc : s.rtu.ctx = some c) :
    wordAt (withCrc (contextBody check s)) 41 =
      wordOf (bitIf c.graceUsed 0 + bitIf c.owner.unlogged 1) := by
  rw [show 41 = 4 + 37 from rfl, context_callWord check s hc (by omega), callPart_flags]

theorem context_coinWord {i : Nat} {x : Coin} (hi : i < 8) (hx : s.cnu.escrow[i]? = some x)
    {j : Nat} (hj : j < 6) :
    wordAt (withCrc (contextBody check s)) (43 + 6 * i + j) = wordAt (coinWords x s) j := by
  rw [Nat.add_assoc, context_coin check s (by omega), contextCoins_coin s hi hx hj]

theorem context_noCoin {i : Nat} (hi : i < 8) (hl : s.cnu.escrow.length ≤ i) {j : Nat} (hj : j < 6) :
    wordAt (withCrc (contextBody check s)) (43 + 6 * i + j) = 0xFFFF := by
  rw [Nat.add_assoc, context_coin check s (by omega), contextCoins_free s hi hl hj]

end Layout

theorem contextBlockLayout : Clause.ContextBlockLayout := by
  intro check s ws w holds shows now digit dropping reporting
  have hw {i k : Nat} (h : i / 2 = k) : w i = wordAt ws k := by rw [← h]; rfl
  have hholds {i k v : Nat} (hi : i / 2 = k) (h : wordAt ws k = wordOf v) : holds i v :=
    holds_of_eq (hw hi) h
  have hshows {i k v : Nat} (hi : i / 2 = k) (h : wordAt ws k = wordOf (v / 65536))
      (h' : wordAt ws (k + 1) = wordOf v) : shows i v :=
    shows_of_eq ((hw hi).trans h) ((hw (k := k + 1) (by omega)).trans h')
  refine ⟨context_length check s, ?_, ?_, context_head check s (i := 3) (by decide), ?_, ?_, ?_, ?_,
    ?_, ?_, ?_, ?_, ?_, ?_⟩
  · intro h
    have hz : stampNow s = Stamp.zero := by rw [stampNow, h]; rfl
    have hi {i : Nat} (hi : i < 3) : wordAt ws i = wordAt (Stamp.zero.words ++ [check]) i := by
      rw [← hz]
      exact context_head check s (by omega)
    exact ⟨hi (i := 0) (by decide), hi (i := 1) (by decide), hi (i := 2) (by decide)⟩
  · intro x hx hy hmo hd hh hmi hs
    have hz : stampNow s = ⟨bytePair x.year x.month, bytePair x.day x.hour,
        bytePair x.minute x.second⟩ := by rw [stampNow, hx]; rfl
    have hi {i : Nat} (hi : i < 3) : wordAt ws i = wordAt ((stampNow s).words ++ [check]) i :=
      context_head check s (by omega)
    rw [hz] at hi
    refine ⟨?_, ?_, ?_⟩
    · rw [hw (k := 0) rfl, hi (i := 0) (by decide)]
      exact toNat_bytePair hy hmo
    · rw [hw (k := 1) rfl, hi (i := 1) (by decide)]
      exact toNat_bytePair hd hh
    · rw [hw (k := 2) rfl, hi (i := 2) (by decide)]
      exact toNat_bytePair hmi hs
  · intro hc i hlo hhi
    rw [hw (k := 4 + (i / 2 - 4)) (by omega)]
    exact context_noCall check s hc (by omega)
  · intro c hc
    have hfront {i : Nat} (h : i < 3) : wordAt ws (4 + i) = wordAt (callFront c s) i :=
      context_front check s hc h
    have hseize {i : Nat} (h : i < 6) : wordAt ws (12 + i) = wordAt (callSeizure c s) i :=
      context_seizure check s hc h
    have hrow {i : Nat} (h : i < 10) : wordAt ws (18 + i) = wordAt (rowWords c.row) i :=
      context_row check s hc h
    have hcredit {i : Nat} (h : i < 11) : wordAt ws (28 + i) = wordAt (callCredit c) i :=
      context_credit check s hc h
    have hans {i : Nat} (h : i < 2) : wordAt ws (39 + i) = wordAt (callAnswer c s) i :=
      context_answer check s hc h
    have hdigit {i : Nat} (h : i < 20) : digit i = s.lnu.number.getD i 15 % 16 := by
      have h7 : w (0x0E + i / 4 * 2) = wordAt (packDigits s.lnu.number) (i / 4) := by
        rw [hw (k := 7 + i / 4) (by omega)]
        exact context_digits check s hc (by omega)
      show (w (0x0E + i / 4 * 2)).toNat / 16 ^ (3 - i % 4) % 16 = _
      rw [h7, digit_packDigits _ h]
    have hphase : w 0x38 = bytePair c.phase.code (c.band.getD 0xFF) :=
      (hw (k := 28) rfl).trans (hcredit (i := 0) (by decide))
    refine ⟨hshows (k := 4) rfl (hfront (i := 0) (by decide)) (hfront (i := 1) (by decide)),
      hholds (k := 6) rfl (hfront (i := 2) (by decide)), ?_,
      (hw (k := 12) rfl).trans (hseize (i := 0) (by decide)),
      (hw (k := 13) rfl).trans (hseize (i := 1) (by decide)),
      (hw (k := 14) rfl).trans (hseize (i := 2) (by decide)),
      hshows (k := 15) rfl (hseize (i := 3) (by decide)) (hseize (i := 4) (by decide)),
      ?_, ?_, ?_, ?_, ?_, ?_,
      hshows (k := 29) rfl (hcredit (i := 1) (by decide)) (hcredit (i := 2) (by decide)),
      hshows (k := 31) rfl (hcredit (i := 3) (by decide)) (hcredit (i := 4) (by decide)),
      hshows (k := 33) rfl (hcredit (i := 5) (by decide)) (hcredit (i := 6) (by decide)),
      ?_, hholds (k := 36) rfl (hcredit (i := 8) (by decide)),
      hshows (k := 37) rfl (hcredit (i := 9) (by decide)) (hcredit (i := 10) (by decide)),
      ?_, ?_, ?_⟩
    · intro i hi
      refine ⟨fun d hd hd16 => ?_, fun hlen => ?_⟩
      · rw [hdigit hi, List.getD_eq_getElem?_getD, hd]
        exact Nat.mod_eq_of_lt hd16
      · rw [hdigit hi, List.getD_eq_getElem?_getD, List.getElem?_eq_none hlen]
        rfl
    · intro hcls
      rw [hw (k := 17) rfl, hseize (i := 5) (by decide)]
      refine toNat_bytePair hcls ?_
      split <;> decide
    · intro hr i hlo hhi
      rw [hw (k := 18 + (i / 2 - 18)) (by omega), hrow (by omega), hr]
      exact wordAt_replicate absent16 (by omega)
    · intro r hr
      rw [hr] at hrow
      exact ⟨hholds (k := 18) rfl (hrow (i := 0) (by decide)),
        hholds (k := 19) rfl (hrow (i := 1) (by decide)),
        hholds (k := 20) rfl (hrow (i := 2) (by decide)),
        hholds (k := 21) rfl (hrow (i := 3) (by decide)),
        hholds (k := 22) rfl (hrow (i := 4) (by decide)),
        hholds (k := 23) rfl (hrow (i := 5) (by decide)),
        hholds (k := 24) rfl (hrow (i := 6) (by decide)),
        hholds (k := 25) rfl (hrow (i := 7) (by decide)),
        hholds (k := 26) rfl (hrow (i := 8) (by decide)),
        hholds (k := 27) rfl (hrow (i := 9) (by decide))⟩
    · rw [hphase]
      have hp := phase_code_lt c.phase
      have hv : firstByte (bytePair c.phase.code (c.band.getD 0xFF)) = c.phase.code :=
        firstByte_bytePair _ hp
      rw [firstByte] at hv
      rw [hv]
      cases c.phase <;> rfl
    · intro hb
      rw [hphase, hb]
      exact secondByte_bytePair _ (by decide)
    · intro b hb hlt
      rw [hphase, hb]
      exact secondByte_bytePair _ hlt
    · rw [hw (k := 35) rfl, hcredit (i := 7) (by decide)]
      exact toNat_wordOf_lt (lt_of_le_of_lt (Nat.min_le_right _ _) (by decide))
    · intro ha
      have hx : callAnswer c s = absent32 := by rw [callAnswer, ha]
      rw [hx] at hans
      exact ⟨(hw (k := 39) rfl).trans (hans (i := 0) (by decide)),
        (hw (k := 40) rfl).trans (hans (i := 1) (by decide))⟩
    · intro a ha
      have hx : callAnswer c s = words32 (rtuNow s - a) := by rw [callAnswer, ha]
      rw [hx] at hans
      exact hshows (k := 39) rfl (hans (i := 0) (by decide)) (hans (i := 1) (by decide))
    · rw [hw (k := 41) rfl, show wordAt ws 41 = _ from context_callFlags check s hc]
      exact toNat_flags _ _
  · rw [hw (k := 42) rfl, show wordAt ws 42 = _ from context_count check s, toNat_wordOf_lt (by omega),
      Nat.min_comm]
  · intro i x hi hx a
    have hcoin {j : Nat} (hj : j < 6) : wordAt ws (43 + 6 * i + j) = wordAt (coinWords x s) j :=
      context_coinWord check s hi hx hj
    have hat {j : Nat} (hj : j < 6) : w (a + 2 * j) = wordAt (coinWords x s) j :=
      (hw (k := 43 + 6 * i + j) (by omega)).trans (hcoin hj)
    obtain ⟨hseq, hden, hval, -⟩ := coinWords_fixed x s
    refine ⟨holds_of_eq (hat (j := 0) (by decide)) hseq, fun hlt => ?_,
      holds_of_eq (hat (j := 2) (by decide)) hval, fun ho => ?_, fun o ho => ?_, ?_⟩
    · rw [hat (j := 1) (by decide), hden, toNat_bytePair hlt (status_code_lt _)]
      cases x.status <;> rfl
    · obtain ⟨h3, h4⟩ := coinWords_unowned x s ho
      exact ⟨(hat (j := 3) (by decide)).trans h3, (hat (j := 4) (by decide)).trans h4⟩
    · obtain ⟨h3, h4⟩ := coinWords_owned x s ho
      exact shows_of_eq ((hat (j := 3) (by decide)).trans h3) ((hat (j := 4) (by decide)).trans h4)
    · have hdir : droppingCode s = dropping := by
        unfold droppingCode droppingDir dropping
        cases s.cnu.motion with
        | some m =>
          obtain ⟨d, p⟩ := m
          cases d <;> rfl
        | none =>
          cases s.cnu.stuck with
          | none => rfl
          | some d => cases d <;> rfl
      rw [hat (j := 5) (by decide), toNat_coinFlags, hdir]
  · intro i hl hi j hj
    rw [hw (k := 43 + 6 * i + j / 2) (by omega)]
    exact context_noCoin check s hi hl (by omega)
  · exact hshows (k := 91) rfl (context_carry check s).1 (context_carry check s).2
  · rw [hw (k := 93) rfl, show wordAt ws 93 = _ from context_seqCount check s]
    have hle := reportingSeqs_length s
    exact toNat_wordOf_lt (by omega)
  · intro i q hq
    have hle := reportingSeqs_length s
    have hi : i < (reportingSeqs s).length := (List.getElem?_eq_some_iff.1 hq).1
    exact hholds (k := 94 + i) (by omega)
      ((context_seq check s (by omega)).trans (contextSeqs_seq hq))
  · intro i hl hi
    rw [hw (k := 94 + i) (by omega)]
    exact (context_seq check s hi).trans (contextSeqs_free hl hi)
  · rw [hw (k := 98) rfl, show ws.take 98 = contextBody check s from context_take check s]
    exact context_crc check s

end Sys2Proof.Machine
end

section
/-! The context block read back (R176, R177). -/

namespace Sys2Proof.Machine

/-! ### The block read back -/

theorem value32_absent : value32 0xFFFF 0xFFFF = 0xFFFFFFFF := by decide

theorem savedCoin_congr {us vs : List Word} (h : ∀ j, j < 6 → wordAt us j = wordAt vs j) :
    savedCoin us = savedCoin vs := by
  unfold savedCoin
  simp only [h 0 (by decide), h 1 (by decide), h 2 (by decide), h 3 (by decide), h 4 (by decide),
    h 5 (by decide)]

/-- The two bits and the direction of a coin's flag word. -/
theorem coinFlags_parts {p q : Bool} {d n : Nat}
    (h : n = (if p then 1 else 0) + (if q then 2 else 0) + 256 * d) (hd : d ≤ 2) :
    decide (n % 2 = 1) = p ∧ decide (n / 2 % 2 = 1) = q ∧ n / 256 % 4 = d := by
  cases p <;> cases q <;> simp at h ⊢ <;> omega

/-- The fields of a saved coin, each within its width (R174, R177). -/
theorem savedCoin_coin (s : State) (x : Coin) (hseq : x.seq < 65536) (hden : x.denom < 256)
    (hval : x.value < 65536) (ho : ∀ o, x.owner = some o → o.seq < 0xFFFFFFFF) :
    (savedCoin (coinWords x s)).coin = x := by
  obtain ⟨h0, h1, h2, -⟩ := coinWords_fixed x s
  have hle : (if x.status = .dropping then droppingCode s else 0) ≤ 2 := by
    split
    · exact droppingCode_le s
    · exact Nat.zero_le _
  obtain ⟨hf, hu, -⟩ := coinFlags_parts (toNat_coinFlags x s) hle
  have howner : (if value32 (wordAt (coinWords x s) 3) (wordAt (coinWords x s) 4) = 0xFFFFFFFF then none
      else some (⟨value32 (wordAt (coinWords x s) 3) (wordAt (coinWords x s) 4),
        decide ((wordAt (coinWords x s) 5).toNat / 2 % 2 = 1)⟩ : Owner)) = x.owner := by
    rw [hu]
    cases hx : x.owner with
    | none =>
      obtain ⟨h3, h4⟩ := coinWords_unowned x s hx
      rw [h3, h4, value32_absent, if_pos rfl]
    | some o =>
      obtain ⟨h3, h4⟩ := coinWords_owned x s hx
      have hlt := ho o hx
      rw [h3, h4, value32_words32 (by omega), if_neg (by omega)]
      rfl
  have hstatus : (match secondByte (bytePair x.denom x.status.code) with
      | 0 => CoinStatus.held
      | 1 => .committed
      | _ => .dropping) = x.status := by
    rw [secondByte_bytePair _ (status_code_lt _)]
    cases x.status <;> rfl
  unfold savedCoin
  simp only [h0, h1, h2, toNat_wordOf_lt hseq, toNat_wordOf_lt hval, firstByte_bytePair _ hden, hf,
    howner]
  exact congrArg (fun st => (⟨x.seq, x.denom, x.value, x.isForeign, x.owner, st⟩ : Coin)) hstatus

/-- The direction of a coin saved DROPPING. -/
theorem savedCoin_dir {s : State} {x : Coin} {d : Dir} (hx : x.status = .dropping)
    (hd : droppingDir s = some d) : (savedCoin (coinWords x s)).dir = d := by
  have hcode : droppingCode s = d.code := by rw [droppingCode, hd]; rfl
  have hn := toNat_coinFlags x s
  rw [if_pos hx, hcode] at hn
  obtain ⟨-, -, hdir⟩ := coinFlags_parts hn (by cases d <;> decide)
  unfold savedCoin
  simp only [hdir]
  cases d <;> rfl

/-- The entries of a saved list that the block holds whole. -/
theorem savedCoins_context (check : Word) (s : State) (h : s.cnu.escrow.length ≤ 8) :
    savedCoins (withCrc (contextBody check s)) =
      s.cnu.escrow.map fun x => savedCoin (coinWords x s) := by
  unfold savedCoins
  rw [context_count, toNat_wordOf_lt (by omega),
    show min (min 8 s.cnu.escrow.length) 8 = s.cnu.escrow.length by omega]
  refine List.ext_getElem (by simp) fun i hi hi' => ?_
  have hlen : i < s.cnu.escrow.length := by simpa using hi'
  rw [List.getElem_map, List.getElem_map, List.getElem_range]
  refine savedCoin_congr fun j hj => ?_
  rw [wordAt_drop_take _ hj]
  exact context_coinWord check s (by omega) (List.getElem?_eq_getElem hlen) hj

theorem savedSeqs_context (check : Word) (s : State) (h : ∀ q ∈ reportingSeqs s, q < 65536) :
    savedSeqs (withCrc (contextBody check s)) = reportingSeqs s := by
  have hle := reportingSeqs_length s
  unfold savedSeqs
  rw [context_seqCount, toNat_wordOf_lt (by omega), Nat.min_eq_left hle]
  refine List.ext_getElem (by simp) fun i hi hi' => ?_
  rw [List.getElem_map, List.getElem_range, context_seq check s (by omega),
    contextSeqs_seq (List.getElem?_eq_getElem hi')]
  exact toNat_wordOf_lt (h _ (List.getElem_mem hi'))

/-! ### An open call read back -/

section OpenCall

variable {check : Word} {s : State} {c : Ctx} (hc : s.rtu.ctx = some c)

include hc

theorem context_credit32 {i v : Nat} (h : i + 1 < 11) (hv : v < 0x100000000)
    (h' : wordAt (callCredit c) i = wordOf (v / 65536) ∧ wordAt (callCredit c) (i + 1) = wordOf v) :
    valueAt (withCrc (contextBody check s)) (28 + i) = v := by
  rw [valueAt, Nat.add_assoc, context_credit check s hc (by omega), context_credit check s hc h, h'.1,
    h'.2, value32_words32 hv]

theorem savedOwner_context (h : c.owner.seq < 0x100000000) :
    savedOwner (withCrc (contextBody check s)) = c.owner := by
  have h4 := context_front check s hc (i := 0) (by decide)
  have h5 := context_front check s hc (i := 1) (by decide)
  have hu : decide ((wordAt (withCrc (contextBody check s)) 41).toNat / 2 % 2 = 1) =
      c.owner.unlogged := by
    rw [context_callFlags check s hc, toNat_flags]
    cases c.graceUsed <;> cases c.owner.unlogged <;> rfl
  rw [savedOwner, hu, h4, h5]
  exact congrArg (fun n => (⟨n, c.owner.unlogged⟩ : Owner)) (value32_words32 h)

theorem callSaved_context (h : s.lnu.number.length ≤ 20) :
    callSaved (withCrc (contextBody check s)) = true := by
  have h6 : wordAt (withCrc (contextBody check s)) 6 = wordOf s.lnu.number.length :=
    context_front check s hc (i := 2) (by decide)
  rw [callSaved, h6]
  refine decide_eq_true fun he => ?_
  have h' := congrArg BitVec.toNat he
  rw [toNat_wordOf_lt (by omega)] at h'
  rw [h'] at h
  exact absurd h (by decide)

theorem savedCredit_context (h : s.lnu.number.length ≤ 20) (hcin : c.cin < 0x100000000)
    (hcon : c.consumed < 0x100000000) (hcom : c.committed < 0x100000000) :
    savedCredit (withCrc (contextBody check s)) = c.cin + c.committed - c.consumed := by
  rw [savedCredit, if_pos (callSaved_context hc h),
    context_credit32 hc (i := 1) (by decide) hcin ⟨rfl, rfl⟩,
    context_credit32 hc (i := 5) (by decide) hcom ⟨rfl, rfl⟩,
    context_credit32 hc (i := 3) (by decide) hcon ⟨rfl, rfl⟩]

/-- The digits of a number that the block holds whole. -/
theorem unpackDigits_context (h : s.lnu.number.length ≤ 20) (hd : ∀ d ∈ s.lnu.number, d < 16) :
    unpackDigits (((withCrc (contextBody check s)).drop 7).take 5)
        (min (wordAt (withCrc (contextBody check s)) 6).toNat 20) = s.lnu.number := by
  have h6 : wordAt (withCrc (contextBody check s)) 6 = wordOf s.lnu.number.length :=
    context_front check s hc (i := 2) (by decide)
  rw [h6, toNat_wordOf_lt (by omega), Nat.min_eq_left h, unpackDigits]
  refine List.ext_getElem (by simp) fun i hi hi' => ?_
  rw [List.getElem_map, List.getElem_range, wordAt_drop_take _ (by omega),
    context_digits check s hc (by omega), digit_packDigits _ (by omega),
    List.getD_eq_getElem?_getD, List.getElem?_eq_getElem hi']
  exact Nat.mod_eq_of_lt (hd _ (List.getElem_mem hi'))

/-- Seconds from answer to the warning, as they are read back. -/
theorem savedAnswer_context (h : ∀ a, c.answerPoint = some a → rtuNow s - a < 0xFFFFFFFF) :
    savedAnswer (withCrc (contextBody check s)) = c.answerPoint.map fun a => rtuNow s - a := by
  have h39 := context_answer check s hc (i := 0) (by decide)
  have h40 := context_answer check s hc (i := 1) (by decide)
  have hv : valueAt (withCrc (contextBody check s)) 39 =
      value32 (wordAt (callAnswer c s) 0) (wordAt (callAnswer c s) 1) := by
    rw [valueAt, ← h39, ← h40]
  rw [savedAnswer, hv]
  cases ha : c.answerPoint with
  | none =>
    rw [callAnswer, ha]
    exact if_pos value32_absent
  | some a =>
    have hlt := h a ha
    have hx : value32 (wordAt (callAnswer c s) 0) (wordAt (callAnswer c s) 1) = rtuNow s - a := by
      rw [callAnswer, ha]
      exact value32_words32 (by omega)
    rw [hx, if_neg (by omega)]
    rfl

end OpenCall

theorem decide_stamp_zero {check : Word} {s : State}
    (h : ∀ x, s.tru.clock = some x → 0 < x.month ∧ x.month < 256) :
    decide (stampAt (withCrc (contextBody check s)) 0 = Stamp.zero) = s.tru.clock.isNone := by
  have hst : stampAt (withCrc (contextBody check s)) 0 = stampNow s := by
    rw [stampAt, context_head check s (i := 0) (by decide),
      context_head check s (i := 0 + 1) (by decide), context_head check s (i := 0 + 2) (by decide)]
    rfl
  rw [hst, stampNow]
  cases hx : s.tru.clock with
  | none => exact decide_eq_true rfl
  | some x =>
    obtain ⟨hpos, hlt⟩ := h x hx
    refine decide_eq_false fun he => ?_
    have hw : secondByte (bytePair x.year x.month) = 0 :=
      congrArg (fun z : Stamp => secondByte z.w0) he
    rw [secondByte_bytePair _ hlt] at hw
    omega

theorem savedContextReadBack : Clause.SavedContextReadBack := by
  intro check s ws now reporting value hlen hcoins hrep hseqs
  have hrs : reportingSeqs s = reporting := List.take_of_length_le hrep
  have hsaved : savedCoins ws = s.cnu.escrow.map fun x => savedCoin (coinWords x s) :=
    savedCoins_context check s hlen
  have hcoin : (savedCoins ws).map (·.coin) = s.cnu.escrow := by
    rw [hsaved, List.map_map]
    refine (List.map_congr_left fun x hx => ?_).trans (List.map_id' _)
    obtain ⟨hs, hd, hv, ho⟩ := hcoins x hx
    exact savedCoin_coin s x hs hd hv ho
  refine ⟨(crcGood_append _ _).2 rfl, context_head check s (i := 3) (by decide), hcoin, ?_, ?_, ?_, ?_⟩
  · intro d hd x hx hdrop
    rw [hsaved, List.mem_map] at hx
    obtain ⟨y, hy, rfl⟩ := hx
    obtain ⟨hs, hden, hv, ho⟩ := hcoins y hy
    rw [savedCoin_coin s y hs hden hv ho] at hdrop
    refine savedCoin_dir hdrop ?_
    rw [droppingDir]
    rcases hd with hd | ⟨hm, hst⟩
    · rw [hd]
      rfl
    · rw [hm, hst]
      rfl
  · rw [← hrs]
    exact savedSeqs_context check s (fun q hq => hseqs q (by rw [← hrs]; exact hq))
  · intro hc hcarry
    have h6 : wordAt ws 6 = 0xFFFF := context_noCall check s hc (i := 2) (by decide)
    have hno : callSaved ws = false := by rw [callSaved, h6]; rfl
    obtain ⟨h91, h92⟩ := context_carry check s
    have hcar : contextCarry s = s.rtu.carry := by rw [contextCarry, hc]; rfl
    refine ⟨hno, ?_⟩
    rw [savedCredit, if_neg (by simp [hno]), valueAt, h91, h92, hcar, value32_words32 hcarry]
  · intro c hc hseq hcls hnum hdig hseize hdur hans hint hcon hroll hrv hcom hcin hclock
    have howner := savedOwner_context (check := check) hc hseq
    refine ⟨callSaved_context hc hnum, howner, savedCredit_context hc hnum hcin hcon hcom,
      fun o => ?_⟩
    have hsa : savedAnswer ws = c.answerPoint.map fun a => now - a :=
      savedAnswer_context hc fun a ha => (hans a ha).2
    have h17 : wordAt ws 17 = bytePair c.cls (if c.emergency then 1 else 0) :=
      context_seizure check s hc (i := 5) (by decide)
    have h15 : valueAt ws 15 = now - c.seizePoint := by
      rw [valueAt, show wordAt ws 15 = _ from context_seizure check s hc (i := 3) (by decide),
        show wordAt ws (15 + 1) = _ from context_seizure check s hc (i := 4) (by decide)]
      exact value32_words32 hdur
    have hstamp : stampAt ws 12 = c.seizeStamp := by
      rw [stampAt, show wordAt ws 12 = _ from context_seizure check s hc (i := 0) (by decide),
        show wordAt ws (12 + 1) = _ from context_seizure check s hc (i := 1) (by decide),
        show wordAt ws (12 + 2) = _ from context_seizure check s hc (i := 2) (by decide)]
      rfl
    have hheld : savedHeld ws =
        ((s.cnu.escrow.filter fun x => x.status = .held && x.owner = some c.owner).map
          (·.value)).sum := by
      rw [savedHeld, howner, ← hcoin, List.filter_map, List.map_map]
      rfl
    have hflag : decide ((wordAt ws 41).toNat % 2 = 1) = c.graceUsed := by
      rw [show wordAt ws 41 = _ from context_callFlags check s hc, toNat_flags]
      cases c.graceUsed <;> cases c.owner.unlogged <;> rfl
    have hemer : decide (secondByte (bytePair c.cls (if c.emergency then 1 else 0)) = 1) =
        c.emergency := by
      rw [secondByte_bytePair _ (by split <;> decide)]
      cases c.emergency <;> rfl
    have hoff : ((c.answerPoint.map fun a => now - a).map fun a => valueAt ws 15 - a) =
        c.answerPoint.map fun a => a - c.seizePoint := by
      rw [h15, Option.map_map]
      cases ha : c.answerPoint with
      | none => rfl
      | some a =>
        obtain ⟨hle, -⟩ := hans a ha
        exact congrArg some (by show now - c.seizePoint - (now - a) = a - c.seizePoint; omega)
    have hlong : (c.answerPoint.map fun a => now - a).getD 0 =
        (endRecord c .powerLoss false s).duration := by
      unfold endRecord
      cases c.answerPoint <;> rfl
    unfold savedRecord
    rw [CallRecord.mk.injEq]
    refine ⟨rfl, ?_, unpackDigits_context hc hnum hdig, hstamp, ?_, ?_, ?_, ?_, ?_, ?_, ?_, hheld, ?_,
      rfl, rfl, rfl, hflag, rfl, ?_, ?_⟩
    · rw [h17]
      exact firstByte_bytePair _ hcls
    · rw [hsa]
      exact hoff
    · rw [hsa]
      exact hlong
    · rw [show wordAt ws 35 = _ from context_credit check s hc (i := 7) (by decide)]
      refine (toNat_wordOf_lt (lt_of_le_of_lt (Nat.min_le_right _ _) (by decide))).trans ?_
      exact Nat.min_eq_left (by omega)
    · exact context_credit32 hc (i := 3) (by decide) hcon ⟨rfl, rfl⟩
    · rw [show wordAt ws 36 = _ from context_credit check s hc (i := 8) (by decide)]
      exact toNat_wordOf_lt hroll
    · exact context_credit32 hc (i := 9) (by decide) hrv ⟨rfl, rfl⟩
    · exact context_credit32 hc (i := 5) (by decide) hcom ⟨rfl, rfl⟩
    · exact context_credit32 hc (i := 1) (by decide) hcin ⟨rfl, rfl⟩
    · rw [hstamp, show decide (stampAt ws 0 = Stamp.zero) = _ from decide_stamp_zero hclock]
      rfl
    · rw [h17]
      exact hemer

end Sys2Proof.Machine
end

section
/-! The save (R173 to R175), and O59. -/

namespace Sys2Proof.Machine

/-! ### The save -/

/-- The state in which a save is laid out: SAVING, the warning asserted, no tone. -/
def warned (s : State) : State :=
  { s with pfu.power := .saving, pfu.warning := true, lnu.tone := none }

theorem contextBody_warned (check : Word) (s : State) :
    contextBody check (warned s) = contextBody check s := rfl

theorem saveKind_warned (s : State) : saveKind (warned s) = saveKind s := rfl

theorem beginSave_full {s : State} (h : saveKind s = .full) :
    beginSave (warned s) =
      { s with
        lnu.tone := none
        adu.check := crc (tallyWords s.adu.cache)
        pfu.power := .saving
        pfu.warning := true
        pfu.wroteValidity := true
        pfu.save := tallySave s ++ contextSave s } := by
  have hk : saveKind (warned s) = .full := h
  rw [beginSave, hk]
  rfl

theorem beginSave_tallies {s : State} (h : saveKind s = .tallies) :
    beginSave (warned s) =
      { s with
        lnu.tone := none
        adu.check := crc (tallyWords s.adu.cache)
        pfu.power := .saving
        pfu.warning := true
        pfu.wroteValidity := false
        pfu.save := tallySave s } := by
  have hk : saveKind (warned s) = .tallies := h
  rw [beginSave, hk]
  rfl

theorem beginSave_nothing {s : State} (h : saveKind s = .nothing) :
    beginSave (warned s) =
      { s with
        lnu.tone := none
        pfu.power := .saving
        pfu.warning := true
        pfu.wroteValidity := false
        pfu.save := [] } := by
  have hk : saveKind (warned s) = .nothing := h
  rw [beginSave, hk]
  rfl

theorem beginSave_warning (s : State) : (beginSave (warned s)).pfu.warning = true := by
  unfold beginSave
  split <;> rfl

theorem beginSave_power (s : State) : (beginSave (warned s)).pfu.power = .saving := by
  unfold beginSave
  split <;> rfl

theorem beginSave_cycle (s : State) : (beginSave (warned s)).bpu = s.bpu := by
  unfold beginSave
  split <;> rfl

theorem beginSave_powered (s : State) : (beginSave (warned s)).powered = s.powered := by
  unfold beginSave
  split <;> rfl

/-- What a save writes does not depend on the word on the wait line. -/
theorem beginSave_dropped (s : State) :
    beginSave (warned { s with bpu.cycle := none }) =
      { beginSave (warned s) with bpu.cycle := none } := by
  cases h : saveKind s with
  | full =>
    rw [beginSave_full h, beginSave_full (s := { s with bpu.cycle := none }) (by exact h)]
    rfl
  | tallies =>
    rw [beginSave_tallies h, beginSave_tallies (s := { s with bpu.cycle := none }) (by exact h)]
    rfl
  | nothing =>
    rw [beginSave_nothing h, beginSave_nothing (s := { s with bpu.cycle := none }) (by exact h)]

theorem saveKind_full {s : State} (ht : hasWindow .tally s = true) (hc : hasWindow .context s = true)
    (h : starting s = false) : saveKind s = .full := by
  simp [saveKind, ht, hc, h]

theorem saveKind_tallies {s : State} (ht : hasWindow .tally s = true)
    (hc : hasWindow .context s = true) (h : starting s = true)
    (h5 : s.pfu.step5 = .writeBack false ∨ ∃ b, s.pfu.step5 = .invalidate b) :
    saveKind s = .tallies := by
  rcases h5 with h5 | ⟨b, h5⟩ <;> simp [saveKind, ht, hc, h, h5]

theorem saveKind_nothing {s : State}
    (h : windowOf .tally s = none ∨ windowOf .context s = none ∨
      (starting s = true ∧ ¬(s.pfu.step5 = .writeBack false ∨ ∃ b, s.pfu.step5 = .invalidate b))) :
    saveKind s = .nothing := by
  rcases h with h | h | ⟨hs, h5⟩
  · simp [saveKind, hasWindow, h]
  · simp [saveKind, hasWindow, h]
  · unfold saveKind
    split
    · rfl
    · rw [hs]
      simp only [Bool.not_true, Bool.false_eq_true, if_false]
      split
      · next hw => exact absurd (.inl hw) h5
      · next b hi => exact absurd (.inr ⟨b, hi⟩) h5
      · rfl

theorem placed_ne_nil (a : Nat) (ws : List Word) (w : Word) : placed a (ws ++ [w]) ≠ [] := by
  cases ws <;> exact List.cons_ne_nil _ _

theorem tallySave_ne_nil (s : State) : tallySave s ≠ [] := placed_ne_nil _ _ _

/-- The warning in RUNNING. -/
theorem exec_powerWarning_running {s : State} (hp : s.powered = true) (hw : s.pfu.warning = false)
    (hr : s.pfu.power = .running) : exec .powerWarning s = .next (enterSaving s) := by
  rw [exec, execPowerWarning, onPower_up hp]
  simp only [hw, hr, Bool.false_eq_true, if_false]

theorem enterSaving_some {s : State} (h : (reclassCycle (beginSave (warned s))).pfu.save ≠ []) :
    enterSaving s = reclassCycle (beginSave (warned s)) := if_neg h

/-- A save with nothing to write is over at once, the warning being still asserted. -/
theorem enterSaving_empty {s : State} (h : (reclassCycle (beginSave (warned s))).pfu.save = []) :
    enterSaving s =
      { reclassCycle (beginSave (warned s)) with pfu.power := .saved } := by
  have hw : (reclassCycle (beginSave (warned s))).pfu.warning = true := by
    simp [beginSave_warning]
  have he : enterSaving s = enterSaved (reclassCycle (beginSave (warned s))) := if_pos h
  generalize reclassCycle (beginSave (warned s)) = t at h hw he
  rw [he, enterSaved]
  simp only [hw, if_true, ← h]

theorem saveBegins : Clause.SaveBegins := by
  intro s hp words settled
  refine ⟨fun hw => ?_, fun hw hr hcy => ⟨?_, ?_, ?_⟩, fun hw hs => ?_, fun hw hs => ?_⟩
  · rw [exec, execPowerWarning, onPower_up hp, if_pos hw]
  · intro w x hst htw hcw
    have hk : saveKind s = .full :=
      saveKind_full (by simp [hasWindow, htw]) (by simp [hasWindow, hcw]) hst
    have hre : reclassCycle (beginSave (warned s)) = beginSave (warned s) :=
      reclassCycle_none (by rw [beginSave_cycle]; exact hcy)
    have hsave : (beginSave (warned s)).pfu.save ≠ [] := by
      rw [beginSave_full hk]
      exact List.append_ne_nil_of_left_ne_nil (tallySave_ne_nil s) _
    rw [exec_powerWarning_running hp hw hr, enterSaving_some (by rw [hre]; exact hsave), hre,
      beginSave_full hk]
    simp only [tallySave, contextSave, validityAddr, baseOf, htw, hcw, Option.map_some, Option.getD_some]
    rfl
  · intro w hst hset htw hcw
    have hk : saveKind s = .tallies := saveKind_tallies (by simp [hasWindow, htw]) hcw hst hset
    have hre : reclassCycle (beginSave (warned s)) = beginSave (warned s) :=
      reclassCycle_none (by rw [beginSave_cycle]; exact hcy)
    have hsave : (beginSave (warned s)).pfu.save ≠ [] := by
      rw [beginSave_tallies hk]
      exact tallySave_ne_nil s
    rw [exec_powerWarning_running hp hw hr, enterSaving_some (by rw [hre]; exact hsave), hre,
      beginSave_tallies hk]
    simp only [tallySave, baseOf, htw, Option.map_some, Option.getD_some]
    rfl
  · intro h
    have hk : saveKind s = .nothing := saveKind_nothing h
    have hre : reclassCycle (beginSave (warned s)) = beginSave (warned s) :=
      reclassCycle_none (by rw [beginSave_cycle]; exact hcy)
    have hsave : (beginSave (warned s)).pfu.save = [] := by rw [beginSave_nothing hk]
    rw [exec_powerWarning_running hp hw hr, enterSaving_empty (by rw [hre]; exact hsave), hre,
      beginSave_nothing hk]
  · rw [exec, execPowerWarning, onPower_up hp]
    simp only [hw, hs, Bool.false_eq_true, if_false]
  · rw [exec, execSaveDone, onPower_up hp]
    simp only [hs, enterSaved, hw, if_true]

/-- The word on the wait line once the save is laid out. -/
theorem reclassCycle_beginSave {s : State} {c : Cycle} (hc : s.bpu.cycle = some c) :
    reclassCycle (beginSave (warned s)) =
      busWord { c with route := none } (beginSave (warned { s with bpu.cycle := none })) := by
  have h : (beginSave (warned s)).bpu.cycle = some c := by rw [beginSave_cycle]; exact hc
  rw [reclassCycle, h, beginSave_dropped]

theorem heldWordClassedAgain : Clause.HeldWordClassedAgain := by
  intro s c addr hp hw hr htab hc ha heven hread word
  let laid := beginSave (warned { s with bpu.cycle := none })
  have hpow : laid.powered = true := (beginSave_powered _).trans hp
  have hbpu : laid.bpu = { s.bpu with cycle := none } := beginSave_cycle _
  have hre : reclassCycle laid = laid := reclassCycle_none (by rw [hbpu])
  let t := busWord { c with route := none } laid
  have hword : exec word laid = .next t := by
    obtain ⟨wr, ad, da, la, ro⟩ := c
    obtain rfl : ad = addr.toNat := ha
    have hready : BusReady laid := ⟨hpow, by rw [hbpu]; exact htab, by rw [hbpu]⟩
    cases wr with
    | true =>
      rw [show word = .controllerWrite addr da la from rfl, exec_controllerWrite_ready hready heven,
        ← busWord_ready hready]
    | false =>
      obtain ⟨hd, hans⟩ := hread rfl
      obtain rfl : da = 0 := hd
      have hbegin : beginRead false laid = laid := by
        have hans' : laid.bpu.answer = none := by rw [hbpu]; exact hans
        rw [beginRead, ← hans']
        rfl
      rw [show word = .controllerRead addr la false from rfl,
        exec_controllerRead_ready hready heven, hbegin, ← busWord_ready hready]
  have hpfu : t.pfu = laid.pfu := by simp [t]
  have hacts : reclassCycle (beginSave (warned s)) = t := reclassCycle_beginSave hc
  by_cases hs : laid.pfu.save = []
  · refine ⟨{ laid with pfu.power := .saved }, ?_, t, ?_, ?_⟩
    · rw [exec_powerWarning_running (s := { s with bpu.cycle := none }) hp hw hr,
        enterSaving_empty (by rw [hre]; exact hs), hre]
    · rw [show ({ laid with pfu.power := .saving } : State) = laid by
        rw [← show laid.pfu.power = .saving from beginSave_power _]]
      exact hword
    · rw [exec_powerWarning_running hp hw hr,
        enterSaving_empty (by rw [hacts, hpfu]; exact hs), hacts]
  · refine ⟨laid, ?_, t, ?_, ?_⟩
    · rw [exec_powerWarning_running (s := { s with bpu.cycle := none }) hp hw hr,
        enterSaving_some (by rw [hre]; exact hs), hre]
    · rw [show ({ laid with pfu.power := .saving } : State) = laid by
        rw [← show laid.pfu.power = .saving from beginSave_power _]]
      exact hword
    · rw [exec_powerWarning_running hp hw hr,
        enterSaving_some (by rw [hacts, hpfu]; exact hs), hacts, ← hpfu]

/-- Settles O59: the save's words laid out part by part and read back field by field, and the
controller's
word classed over the save that has been laid out. -/
theorem powerSaved : Obligations.PowerSaved :=
  ⟨saveBegins, contextBlockLayout, savedContextReadBack, heldWordClassedAgain⟩

end Sys2Proof.Machine
end

section
/-! The tallies and an incident slot read back (R46, R129, R137, R153). -/

namespace Sys2Proof.Machine

/-! ### The tallies read back -/

/-- The two words of one of the attributes. -/
theorem attrWord_parts {armed : Bool} {level : Nat} (h : level < 256) :
    (wordOf (bitIf armed 15 + level % 256)).toNat % 256 = level ∧
      decide (32768 ≤ (wordOf (bitIf armed 15 + level % 256)).toNat) = armed := by
  have hb : bitIf armed 15 = if armed then 32768 else 0 := rfl
  rw [hb, toNat_wordOf]
  cases armed <;> simp <;> omega

/-- What of the attributes two words give back. -/
def attrReadBack (a : CacheAttr) : CacheAttr :=
  ⟨(wordOf a.total).toNat, (wordOf (bitIf a.armed 15 + a.level % 256)).toNat % 256,
    decide (32768 ≤ (wordOf (bitIf a.armed 15 + a.level % 256)).toNat)⟩

theorem attrReadBack_eq {a : CacheAttr} (ht : a.total < 65536) (hl : a.level < 256) :
    attrReadBack a = a := by
  obtain ⟨h1, h2⟩ := attrWord_parts (armed := a.armed) hl
  rw [attrReadBack, toNat_wordOf_lt ht, h1, h2]

/-- The words of a tally area as one list. -/
theorem talliesOf_tallyWords (t : Tallies) :
    talliesOf (tallyWords t) =
      let v (n : Nat) : Nat := value32 (wordOf (n / 65536)) (wordOf n)
      { credited := v t.credited, collected := v t.collected, returned := v t.returned,
        consumed := v t.consumed, excess := v t.excess, escrow := v t.escrow,
        boxValue := v t.boxValue, boxCoins := v t.boxCoins, coins1 := v t.coins1,
        coins2 := v t.coins2, coins3 := v t.coins3, coins4 := v t.coins4, coins5 := v t.coins5,
        coins6 := v t.coins6, paidAnswered := v t.paidAnswered, free := v t.free,
        unanswered := v t.unanswered, unlogged := v t.unlogged,
        collectedThrough := v t.collectedThrough,
        attrs := ⟨attrReadBack (t.attrs.get .shockPulses), attrReadBack (t.attrs.get .coinRejects),
          attrReadBack (t.attrs.get .coinPathErrors), attrReadBack (t.attrs.get .blockedWrites),
          attrReadBack (t.attrs.get .nvRetries)⟩ } := rfl

theorem talliesReadBack : Clause.TalliesReadBack := by
  intro t hn ha
  have hv (n : Nat) (h : n ∈ [t.credited, t.collected, t.returned, t.consumed, t.excess, t.escrow,
      t.boxValue, t.boxCoins, t.coins1, t.coins2, t.coins3, t.coins4, t.coins5, t.coins6,
      t.paidAnswered, t.free, t.unanswered, t.unlogged, t.collectedThrough]) :
      value32 (wordOf (n / 65536)) (wordOf n) = n := value32_words32 (hn n h)
  have hx (a : AttrId) := attrReadBack_eq (ha a).1 (ha a).2
  simp only [List.forall_mem_cons] at hv
  rw [talliesOf_tallyWords]
  obtain ⟨h1, h2, h3, h4, h5, h6, h7, h8, h9, h10, h11, h12, h13, h14, h15, h16, h17, h18, h19, -⟩ := hv
  simp only [h1, h2, h3, h4, h5, h6, h7, h8, h9, h10, h11, h12, h13, h14, h15, h16, h17, h18, h19]
  rw [hx .shockPulses, hx .coinRejects, hx .coinPathErrors, hx .blockedWrites, hx .nvRetries]
  rfl

/-! ### An incident slot read -/

theorem slotWords_length (log : LogId) (k : Nat) (s : State) :
    (slotWords log k s).length = recordSize log / 2 := by
  rw [slotWords, Memory.words_eq_map, List.length_map, List.length_range]

theorem incKind_ofCode_code (k : IncKind) : IncKind.ofCode k.code = some k := by cases k <;> rfl

theorem incKind_code_lt (k : IncKind) : k.code < 256 := by cases k <;> decide

theorem recState_ofCode_code (x : RecState) : RecState.ofCode x.code = x := by cases x <;> rfl

theorem incKind_ofCode_none {n : Nat} (h : n = 0 ∨ 17 < n) : IncKind.ofCode n = none := by
  rcases h with rfl | h
  · rfl
  · obtain ⟨m, rfl⟩ : ∃ m, n = m + 18 := ⟨n - 18, by omega⟩
    rfl

/-- The words of a record, one by one. -/
theorem incidentWords_eq (r : IncRec) :
    ∃ sh sl c, incidentWords r =
      [wordOf r.seq, bytePair r.kind.code r.kind.severity, bytePair r.detail r.count,
        bytePair r.attempts (r.state.code + bitIf r.cleared 4), r.first.w0, r.first.w1, r.first.w2,
        r.last.w0, r.last.w1, r.last.w2, r.nextAttempt.w0, r.nextAttempt.w1, r.nextAttempt.w2,
        sh, sl, c] ∧
      (r.snapshot = none → sh = absent16 ∧ sl = absent16) ∧
      ∀ v, r.snapshot = some v → sh = wordOf (v / 65536) ∧ sl = wordOf v := by
  unfold incidentWords
  cases hs : r.snapshot with
  | none =>
    refine ⟨absent16, absent16, _, rfl, fun _ => ⟨rfl, rfl⟩, fun v h => ?_⟩
    exact absurd h (by simp)
  | some v =>
    refine ⟨wordOf (v / 65536), wordOf v, _, rfl, fun h => ?_, fun u h => ?_⟩
    · exact absurd h (by simp)
    · obtain rfl : v = u := Option.some.inj h
      exact ⟨rfl, rfl⟩

/-- What sixteen words of a slot give. -/
theorem heldIncident_words {slot : Nat} {s : State}
    {seq kind detail state f0 f1 f2 l0 l1 l2 n0 n1 n2 sh sl c : Word}
    (h : slotWords .incident slot s =
      [seq, kind, detail, state, f0, f1, f2, l0, l1, l2, n0, n1, n2, sh, sl, c]) :
    heldIncident slot s =
      if crcGood (slotWords .incident slot s) then
        (IncKind.ofCode (firstByte kind)).map fun k =>
          { slot := slot
            seq := seq.toNat
            kind := k
            detail := firstByte detail
            count := secondByte detail
            state := RecState.ofCode (secondByte state % 16)
            attempts := firstByte state
            cleared := decide (secondByte state / 16 % 2 = 1)
            first := ⟨f0, f1, f2⟩
            last := ⟨l0, l1, l2⟩
            nextAttempt := ⟨n0, n1, n2⟩
            snapshot := if value32 sh sl = 0xFFFFFFFF then none else some (value32 sh sl)
            due := 0 }
      else none := by
  unfold heldIncident
  rw [h]

theorem slotWords_incident (slot : Nat) (s : State) :
    ∃ seq kind detail state f0 f1 f2 l0 l1 l2 n0 n1 n2 sh sl c, slotWords .incident slot s =
      [seq, kind, detail, state, f0, f1, f2, l0, l1, l2, n0, n1, n2, sh, sl, c] := by
  have hl : (slotWords .incident slot s).length = 16 := slotWords_length .incident slot s
  match slotWords .incident slot s, hl with
  | [seq, kind, detail, state, f0, f1, f2, l0, l1, l2, n0, n1, n2, sh, sl, c], _ =>
    exact ⟨seq, kind, detail, state, f0, f1, f2, l0, l1, l2, n0, n1, n2, sh, sl, c, rfl⟩

theorem incidentSlotRead : Clause.IncidentSlotRead := by
  intro s k ws
  obtain ⟨seq, kind, detail, state, f0, f1, f2, l0, l1, l2, n0, n1, n2, sh, sl, c, hws⟩ :=
    slotWords_incident k s
  refine ⟨fun h => ?_, fun h => ?_, fun r hr hseq hdet hcount hatt hsnap => ?_⟩
  · rw [heldIncident_words hws, if_neg (by rw [show slotWords .incident k s = ws from rfl, h]; decide)]
  · have hk : firstByte kind = 0 ∨ 17 < firstByte kind := by
      have hd : ws.getD 1 0 = kind := by rw [show ws = _ from hws]; rfl
      rw [hd] at h
      exact h
    rw [heldIncident_words hws, incKind_ofCode_none hk, Option.map_none, ite_self]
  · obtain ⟨ah, al, ac, hwords, hnone, hsome⟩ := incidentWords_eq r
    have hst : r.state.code + bitIf r.cleared 4 < 256 := by
      cases r.state <;> cases r.cleared <;> decide
    have hstate : RecState.ofCode ((r.state.code + bitIf r.cleared 4) % 16) = r.state ∧
        decide ((r.state.code + bitIf r.cleared 4) / 16 % 2 = 1) = r.cleared := by
      cases r.state <;> cases r.cleared <;> exact ⟨rfl, rfl⟩
    have hshot : (if value32 ah al = 0xFFFFFFFF then none else some (value32 ah al)) =
        r.snapshot := by
      cases hs : r.snapshot with
      | none =>
        obtain ⟨rfl, rfl⟩ := hnone hs
        exact if_pos value32_absent
      | some v =>
        obtain ⟨rfl, rfl⟩ := hsome v hs
        have hv := hsnap v hs
        rw [value32_words32 (by omega), if_neg (by omega)]
    rw [heldIncident_words (hr.trans hwords), if_pos (by
        rw [show slotWords .incident k s = _ from hr]
        exact crcGood_withCrc _),
      firstByte_bytePair _ (incKind_code_lt _), incKind_ofCode_code, toNat_wordOf_lt hseq,
      firstByte_bytePair _ hdet, secondByte_bytePair _ hcount, firstByte_bytePair _ hatt,
      secondByte_bytePair _ hst, hstate.1, hstate.2, hshot]
    rfl

end Sys2Proof.Machine
end

section
/-! Creation order of the loaded records (R137 step 3). -/

namespace Sys2Proof.Machine

/-! ### Records sorted by sequence -/

theorem insertRecord_sorted (r : IncRec) {l : List IncRec}
    (h : l.Pairwise fun a b => a.seq ≤ b.seq) :
    (insertRecord r l).Pairwise fun a b => a.seq ≤ b.seq := by
  induction l with
  | nil => exact List.pairwise_singleton _ _
  | cons x xs ih =>
    obtain ⟨hx, hxs⟩ := List.pairwise_cons.1 h
    unfold insertRecord
    split
    · next hlt =>
      refine List.pairwise_cons.2 ⟨fun y hy => ?_, h⟩
      rcases List.mem_cons.1 hy with rfl | hy
      · exact hlt.le
      · exact hlt.le.trans (hx y hy)
    · next hge =>
      refine List.pairwise_cons.2 ⟨fun y hy => ?_, ih hxs⟩
      rcases List.mem_cons.1 ((insertRecord_perm r xs).mem_iff.1 hy) with rfl | hy
      · exact Nat.le_of_not_lt hge
      · exact hx y hy

/-- The loaded records, rising by sequence. -/
def sortedRecords (rs : List IncRec) : List IncRec := rs.foldr insertRecord []

theorem sortedRecords_perm (rs : List IncRec) : (sortedRecords rs).Perm rs := by
  induction rs with
  | nil => exact .refl _
  | cons r rs ih => exact (insertRecord_perm r _).trans (ih.cons r)

theorem sortedRecords_sorted (rs : List IncRec) :
    (sortedRecords rs).Pairwise fun a b => a.seq ≤ b.seq := by
  induction rs with
  | nil => exact .nil
  | cons r rs ih => exact insertRecord_sorted r ih

theorem sortedRecords_rising {rs : List IncRec} (h : (rs.map (·.seq)).Nodup) :
    ((sortedRecords rs).map (·.seq)).Pairwise (· < ·) := by
  have hn : ((sortedRecords rs).map (·.seq)).Nodup := ((sortedRecords_perm rs).map _).nodup_iff.2 h
  have hs : ((sortedRecords rs).map (·.seq)).Pairwise (· ≤ ·) :=
    List.pairwise_map.2 (sortedRecords_sorted rs)
  exact (hs.and hn).imp fun ⟨hle, hne⟩ => lt_of_le_of_ne hle hne

/-! ### The largest gap -/

theorem foldl_max_ge (l : List Nat) (n : Nat) : n ≤ l.foldl max n ∧ ∀ g ∈ l, g ≤ l.foldl max n := by
  induction l generalizing n with
  | nil => exact ⟨le_rfl, fun g h => absurd h (by simp)⟩
  | cons x l ih =>
    obtain ⟨h1, h2⟩ := ih (max n x)
    refine ⟨(Nat.le_max_left n x).trans h1, fun g hg => ?_⟩
    rcases List.mem_cons.1 hg with rfl | hg
    · exact (Nat.le_max_right n g).trans h1
    · exact h2 g hg

theorem foldl_max_mem (l : List Nat) (n : Nat) : l.foldl max n = n ∨ l.foldl max n ∈ l := by
  induction l generalizing n with
  | nil => exact .inl rfl
  | cons x l ih =>
    rw [List.foldl_cons]
    rcases ih (max n x) with h | h
    · rw [h]
      rcases Nat.le_total n x with hle | hle
      · rw [Nat.max_eq_right hle]
        exact .inr (List.mem_cons_self ..)
      · rw [Nat.max_eq_left hle]
        exact .inl rfl
    · exact .inr (List.mem_cons_of_mem _ h)

/-- The newest place holds the largest gap, and of equal ones the last. -/
theorem newestPlace_spec {gaps : List Nat} (hne : gaps ≠ []) :
    ∃ g, gaps[newestPlace gaps]? = some g ∧
      ∀ j x, gaps[j]? = some x → x ≤ g ∧ (x = g → j ≤ newestPlace gaps) := by
  have hge := (foldl_max_ge gaps 0).2
  have hmem : gaps.foldl max 0 ∈ gaps := by
    rcases foldl_max_mem gaps 0 with h | h
    · obtain ⟨x, xs, rfl⟩ := List.exists_cons_of_ne_nil hne
      have hx := hge x (List.mem_cons_self ..)
      rw [h] at hx ⊢
      rw [show (0 : Nat) = x by omega]
      exact List.mem_cons_self ..
    · exact h
  let best := gaps.foldl max 0
  let places := gaps.zipIdx.filter fun g => g.1 = best
  have hplaces (p : Nat × Nat) : p ∈ places ↔ gaps[p.2]? = some p.1 ∧ p.1 = best := by
    simp [places, List.mem_zipIdx_iff_getElem?]
  have hrising : places.Pairwise fun p q => p.2 < q.2 := by
    refine List.Pairwise.filter _ ?_
    rw [List.pairwise_iff_getElem]
    intro i j hi hj hij
    simpa using hij
  obtain ⟨i, hi⟩ := List.getElem?_of_mem hmem
  have hin : ((best, i) : Nat × Nat) ∈ places := (hplaces _).2 ⟨hi, rfl⟩
  obtain ⟨last, hlast⟩ : ∃ p, places.getLast? = some p := by
    rw [← Option.isSome_iff_exists, List.getLast?_isSome]
    exact List.ne_nil_of_mem hin
  have hnew : newestPlace gaps = last.2 := by
    show ((places.getLast?.map (·.2)).getD 0) = last.2
    rw [hlast]
    rfl
  obtain ⟨hat, hbest⟩ := (hplaces last).1 (List.mem_of_getLast? hlast)
  refine ⟨best, by rw [hnew, ← hbest]; exact hat, fun j x hx => ⟨hge x (List.mem_of_getElem? hx),
    fun he => ?_⟩⟩
  have hj : ((x, j) : Nat × Nat) ∈ places := (hplaces _).2 ⟨hx, he⟩
  obtain ⟨l, hl⟩ : ∃ l, places = l ++ [last] := List.getLast?_eq_some_iff.1 hlast
  rw [hl] at hj hrising
  rw [hnew]
  rcases List.mem_append.1 hj with hj | hj
  · exact ((List.pairwise_append.1 hrising).2.2 _ hj _ (List.mem_singleton_self _)).le
  · rw [← List.mem_singleton.1 hj]

theorem gapsAfter_length (first : Nat) (seqs : List Nat) :
    (gapsAfter first seqs).length = seqs.length := by
  induction seqs with
  | nil => rfl
  | cons a l ih =>
    cases l with
    | nil => rfl
    | cons b l => simpa [gapsAfter] using ih

/-- The gap after each sequence, the last one around the circle. -/
theorem gapsAfter_get (first : Nat) (seqs : List Nat) {j : Nat} (h : j < seqs.length) :
    (gapsAfter first seqs)[j]? =
      some (if j + 1 < seqs.length then seqs.getD (j + 1) 0 - seqs.getD j 0
        else first + 65536 - seqs.getD j 0) := by
  induction seqs generalizing j with
  | nil => exact absurd h (Nat.not_lt_zero _)
  | cons a l ih =>
    cases l with
    | nil =>
      obtain rfl : j = 0 := by simpa using h
      rfl
    | cons b l =>
      cases j with
      | zero => simp [gapsAfter]
      | succ j =>
        have := ih (j := j) (by simpa using h)
        simpa [gapsAfter] using this

/-! ### Creation order -/

section Order

variable {rs : List IncRec} (hn : (rs.map (·.seq)).Nodup) (hb : ∀ r ∈ rs, r.seq < 65536)

/-- The sequence in a place of the sorted records. -/
def seqAt (rs : List IncRec) (i : Nat) : Nat := ((sortedRecords rs).map (·.seq)).getD i 0

/-- The place of the newest record among the sorted ones. -/
def newestOf (rs : List IncRec) : Nat :=
  newestPlace (gapsAfter (seqAt rs 0) ((sortedRecords rs).map (·.seq)))

theorem creationOrder_eq (rs : List IncRec) :
    creationOrder rs =
      (sortedRecords rs).drop (newestOf rs + 1) ++ (sortedRecords rs).take (newestOf rs + 1) := by
  have h0 : seqAt rs 0 = ((sortedRecords rs).map (·.seq)).headD 0 := by
    unfold seqAt
    cases sortedRecords rs <;> rfl
  rw [newestOf, h0]
  rfl

include hn in
theorem seqAt_lt {i j : Nat} (hij : i < j) (hj : j < rs.length) : seqAt rs i < seqAt rs j := by
  have hl : ((sortedRecords rs).map (·.seq)).length = rs.length := by
    rw [List.length_map, (sortedRecords_perm rs).length_eq]
  have h := List.pairwise_iff_getElem.1 (sortedRecords_rising hn) i j (by omega) (by omega) hij
  rw [seqAt, seqAt, List.getD_eq_getElem _ _ (by omega), List.getD_eq_getElem _ _ (by omega)]
  exact h

include hb in
theorem seqAt_bound {i : Nat} (hi : i < rs.length) : seqAt rs i < 65536 := by
  have hl : i < ((sortedRecords rs).map (·.seq)).length := by
    rw [List.length_map, (sortedRecords_perm rs).length_eq]
    exact hi
  rw [seqAt, List.getD_eq_getElem _ _ hl, List.getElem_map]
  exact hb _ ((sortedRecords_perm rs).mem_iff.1 (List.getElem_mem _))

/-- The place of an ordered record among the sorted ones. -/
def placeOf (rs : List IncRec) (i : Nat) : Nat :=
  if i + newestOf rs + 1 < rs.length then i + newestOf rs + 1
  else i + newestOf rs + 1 - rs.length

/-- The gap after the newest place is the largest, of equal ones the last. -/
theorem newestOf_spec (h : 0 < rs.length) :
    let gap (i : Nat) : Nat :=
      if i + 1 < rs.length then seqAt rs (i + 1) - seqAt rs i
      else seqAt rs 0 + 65536 - seqAt rs i
    newestOf rs < rs.length ∧
      ∀ i, i < rs.length → gap i ≤ gap (newestOf rs) ∧ (gap i = gap (newestOf rs) → i ≤ newestOf rs) := by
  intro gap
  have hl : ((sortedRecords rs).map (·.seq)).length = rs.length := by
    rw [List.length_map, (sortedRecords_perm rs).length_eq]
  let gaps := gapsAfter (seqAt rs 0) ((sortedRecords rs).map (·.seq))
  have hlen : gaps.length = rs.length := (gapsAfter_length _ _).trans hl
  have hget {i : Nat} (hi : i < rs.length) : gaps[i]? = some (gap i) := by
    have h' := gapsAfter_get (seqAt rs 0) ((sortedRecords rs).map (·.seq)) (j := i) (by omega)
    rw [hl] at h'
    exact h'
  obtain ⟨g, hg, hmax⟩ := newestPlace_spec (gaps := gaps) (by
    intro he
    rw [he, List.length_nil] at hlen
    omega)
  have hlt : newestOf rs < rs.length := by
    rw [← hlen]
    exact (List.getElem?_eq_some_iff.1 hg).1
  have hg' : gap (newestOf rs) = g := Option.some.inj ((hget hlt).symm.trans hg)
  refine ⟨hlt, fun i hi => ?_⟩
  rw [hg']
  exact hmax i (gap i) (hget hi)

/-- The sequence of an ordered record. -/
theorem creationOrder_seq {i : Nat} {r : IncRec} (hk : newestOf rs < rs.length)
    (h : (creationOrder rs)[i]? = some r) : i < rs.length ∧ r.seq = seqAt rs (placeOf rs i) := by
  have hl : (sortedRecords rs).length = rs.length := (sortedRecords_perm rs).length_eq
  have hi : i < rs.length := by
    rw [← (creationOrder_perm rs).length_eq]
    exact (List.getElem?_eq_some_iff.1 h).1
  have hat {p : Nat} (hp : (sortedRecords rs)[p]? = some r) : r.seq = seqAt rs p := by
    rw [seqAt, List.getD_eq_getElem?_getD, List.getElem?_map, hp]
    rfl
  refine ⟨hi, hat ?_⟩
  rw [creationOrder_eq, List.getElem?_append] at h
  rw [placeOf]
  split at h
  · next hlt =>
    rw [List.length_drop, hl] at hlt
    rw [List.getElem?_drop] at h
    rw [if_pos (by omega), show i + newestOf rs + 1 = newestOf rs + 1 + i by omega]
    exact h
  · next hge =>
    rw [List.length_drop, hl] at hge
    rw [List.length_drop, hl, List.getElem?_take] at h
    split at h
    · rw [if_neg (by omega),
        show i + newestOf rs + 1 - rs.length = i - (rs.length - (newestOf rs + 1)) by omega]
      exact h
    · exact absurd h (by simp)

end Order

theorem creationOrdered : Clause.CreationOrdered := by
  intro rs hn hb ordered gap
  have hlen : ordered.length = rs.length := (creationOrder_perm rs).length_eq
  refine ⟨creationOrder_perm rs, fun first hfirst => ?_⟩
  have hfirst0 : ordered[0]? = some first := by rw [← List.head?_eq_getElem?]; exact hfirst
  have hpos : 0 < rs.length := by
    rw [← hlen]
    exact (List.getElem?_eq_some_iff.1 hfirst0).1
  obtain ⟨hk, hbest⟩ := newestOf_spec (rs := rs) hpos
  obtain ⟨-, hf⟩ := creationOrder_seq hk hfirst0
  have hmono {i j : Nat} (hij : i < j) (hj : j < rs.length) := seqAt_lt hn hij hj
  have hbound {i : Nat} (hi : i < rs.length) := seqAt_bound hb hi
  have hpl {n : Nat} (h : n < rs.length) : placeOf rs n < rs.length := by
    unfold placeOf
    split <;> omega
  have hbf := hbound (hpl hpos)
  refine ⟨?_, fun last hlast hne before a b after heq => ?_⟩
  · rw [List.pairwise_iff_getElem]
    intro i j hi hj hij
    obtain ⟨hi', hsi⟩ := creationOrder_seq hk (List.getElem?_eq_getElem hi)
    obtain ⟨hj', hsj⟩ := creationOrder_seq hk (List.getElem?_eq_getElem hj)
    show (ordered[i].seq + 65536 - first.seq) % 65536 < (ordered[j].seq + 65536 - first.seq) % 65536
    rw [show ordered[i].seq = _ from hsi, show ordered[j].seq = _ from hsj, hf]
    have hbi := hbound (hpl hi')
    have hbj := hbound (hpl hj')
    -- Behind the newest place the sequences rise, before it they rise again, all below the first.
    rcases Nat.lt_or_ge (j + newestOf rs + 1) rs.length with hj1 | hj1
    · have hpi : placeOf rs i = i + newestOf rs + 1 := if_pos (by omega)
      have hpj : placeOf rs j = j + newestOf rs + 1 := if_pos hj1
      have hp0 : placeOf rs 0 = 0 + newestOf rs + 1 := if_pos (by omega)
      have hlt : seqAt rs (placeOf rs i) < seqAt rs (placeOf rs j) := hmono (by omega) (by omega)
      have hle : seqAt rs (placeOf rs 0) ≤ seqAt rs (placeOf rs i) := by
        rcases Nat.eq_zero_or_pos i with rfl | hpos'
        · exact le_rfl
        · exact (hmono (by omega) (by omega)).le
      omega
    · have hpj : placeOf rs j = j + newestOf rs + 1 - rs.length := if_neg (by omega)
      rcases Nat.lt_or_ge (i + newestOf rs + 1) rs.length with hi1 | hi1
      · have hpi : placeOf rs i = i + newestOf rs + 1 := if_pos hi1
        have hp0 : placeOf rs 0 = 0 + newestOf rs + 1 := if_pos (by omega)
        have hlt : seqAt rs (placeOf rs j) < seqAt rs (placeOf rs 0) := hmono (by omega) (by omega)
        have hle : seqAt rs (placeOf rs 0) ≤ seqAt rs (placeOf rs i) := by
          rcases Nat.eq_zero_or_pos i with rfl | hpos'
          · exact le_rfl
          · exact (hmono (by omega) (by omega)).le
        omega
      · have hpi : placeOf rs i = i + newestOf rs + 1 - rs.length := if_neg (by omega)
        have hlt : seqAt rs (placeOf rs i) < seqAt rs (placeOf rs j) := hmono (by omega) (by omega)
        rcases Nat.lt_or_ge (0 + newestOf rs + 1) rs.length with h1 | h1
        · have hp0 : placeOf rs 0 = 0 + newestOf rs + 1 := if_pos h1
          have hlt' : seqAt rs (placeOf rs j) < seqAt rs (placeOf rs 0) :=
            hmono (by omega) (by omega)
          omega
        · have hp0 : placeOf rs 0 = 0 + newestOf rs + 1 - rs.length := if_neg (by omega)
          have hle : seqAt rs (placeOf rs 0) ≤ seqAt rs (placeOf rs i) := by
            rcases Nat.eq_zero_or_pos i with rfl | hpos'
            · exact le_rfl
            · exact (hmono (by omega) (by omega)).le
          omega
  · have hlast' : ordered[rs.length - 1]? = some last := by
      rw [← hlen, ← List.getLast?_eq_getElem?]
      exact hlast
    have ha : ordered[before.length]? = some a := by rw [heq]; simp
    have hb' : ordered[before.length + 1]? = some b := by rw [heq]; simp
    obtain ⟨-, hsl⟩ := creationOrder_seq hk hlast'
    obtain ⟨-, hsa⟩ := creationOrder_seq hk ha
    obtain ⟨hib, hsb⟩ := creationOrder_seq hk hb'
    have htwo : 2 ≤ rs.length := by omega
    have hpl' : placeOf rs (rs.length - 1) = newestOf rs := (if_neg (by omega)).trans (by omega)
    rw [hpl'] at hsl
    show (b.seq + 65536 - a.seq) % 65536 < (first.seq + 65536 - last.seq) % 65536 ∨
      ((b.seq + 65536 - a.seq) % 65536 = (first.seq + 65536 - last.seq) % 65536 ∧
        a.seq < last.seq)
    -- The gap from one place to the next is the one that the newest place is chosen by.
    have hgap {p q : Nat} (hp : p < rs.length) (hq : q = if p + 1 < rs.length then p + 1 else 0) :
        (seqAt rs q + 65536 - seqAt rs p) % 65536 =
          if p + 1 < rs.length then seqAt rs (p + 1) - seqAt rs p
          else seqAt rs 0 + 65536 - seqAt rs p := by
      have h1 := hbound hp
      have h0 := hbound hpos
      subst hq
      split
      · next h =>
        have := hmono (i := p) (j := p + 1) (by omega) h
        have := hbound (i := p + 1) h
        omega
      · have := hmono (i := 0) (j := p) (by omega) hp
        omega
    have hnext : placeOf rs (before.length + 1) =
        if placeOf rs before.length + 1 < rs.length then placeOf rs before.length + 1 else 0 := by
      unfold placeOf
      split <;> split <;> split <;> omega
    have hfirstPlace : placeOf rs 0 =
        if newestOf rs + 1 < rs.length then newestOf rs + 1 else 0 := by
      unfold placeOf
      split <;> split <;> omega
    have hap : placeOf rs before.length < rs.length := hpl (by omega)
    have hne' : placeOf rs before.length ≠ newestOf rs := by
      unfold placeOf
      split <;> omega
    obtain ⟨hle, heq'⟩ := hbest _ hap
    rw [hsa, hsb, hsl, hf, hgap hap hnext, hgap hk hfirstPlace]
    rcases Nat.lt_or_eq_of_le hle with hlt | he
    · exact .inl hlt
    · exact .inr ⟨he, hmono (lt_of_le_of_ne (heq' he) hne') hk⟩

end Sys2Proof.Machine
end

section
/-! The remap table's entries (R164), and what the INU's acts leave beside its incidents. -/

namespace Sys2Proof.Machine

/-! ### The remap table read (R164) -/

/-- The four words name a slot, in a MAPPED entry with a good CRC. -/
def EntryNames (ws : List Word) (log : LogId) (slot : Nat) : Prop :=
  (ws.getD 0 0).toNat = 1 ∧ ws.getD 3 0 = crc (ws.take 3) ∧ (ws.getD 2 0).toNat = slot ∧
    (ws.getD 1 0).toNat = log.code ∧ slot < slotCount log

theorem entryOf_free {a b c d : Word} (h : a.toNat = 0 ∨ a.toNat = 0xFFFF) :
    entryOf [a, b, c, d] = .free := by
  have h' : a = 0 ∨ a = 0xFFFF :=
    h.imp (fun h => BitVec.eq_of_toNat_eq h) (fun h => BitVec.eq_of_toNat_eq h)
  simp only [entryOf, if_pos h']

theorem entryOf_names {a b c d : Word} {log : LogId} {slot : Nat}
    (h : EntryNames [a, b, c, d] log slot) : entryOf [a, b, c, d] = .mapped log slot := by
  obtain ⟨h0, h3, h2, h1, hs⟩ := h
  obtain rfl : a = 1 := BitVec.eq_of_toNat_eq h0
  have hg : crcGood [1, b, c, d] = true := (crcGood_append [1, b, c] d).2 h3
  have h2' : c.toNat = slot := h2
  have h1' : b.toNat = log.code := h1
  rw [entryOf, if_neg (by decide), if_pos ⟨rfl, hg⟩]
  cases log with
  | call =>
    simp only [h1', LogId.code, h2']
    exact if_pos hs
  | incident =>
    simp only [h1', LogId.code, h2']
    exact if_pos hs

theorem entryOf_mapped {a b c d : Word} {log : LogId} {slot : Nat}
    (h : entryOf [a, b, c, d] = .mapped log slot) : EntryNames [a, b, c, d] log slot := by
  simp only [entryOf] at h
  split at h
  · exact nomatch h
  · split at h
    · next hg =>
      have hcrc : d = crc [a, b, c] := (crcGood_append [a, b, c] d).1 hg.2
      have h0 : a.toNat = 1 := congrArg BitVec.toNat hg.1
      split at h
      · next hb =>
        split at h
        · next hs =>
          obtain ⟨rfl, rfl⟩ : LogId.call = log ∧ c.toNat = slot := by simpa using h
          exact ⟨h0, hcrc, rfl, hb, hs⟩
        · exact nomatch h
      · next hb =>
        split at h
        · next hs =>
          obtain ⟨rfl, rfl⟩ : LogId.incident = log ∧ c.toNat = slot := by simpa using h
          exact ⟨h0, hcrc, rfl, hb, hs⟩
        · exact nomatch h
      · exact nomatch h
    · exact nomatch h

theorem entryOf_bad {a b c d : Word} (hf : ¬(a.toNat = 0 ∨ a.toNat = 0xFFFF))
    (hn : ∀ log slot, ¬EntryNames [a, b, c, d] log slot) : entryOf [a, b, c, d] = .bad := by
  cases he : entryOf [a, b, c, d] with
  | free =>
    simp only [entryOf] at he
    split at he
    · next h =>
      exact absurd (h.imp (fun h => congrArg BitVec.toNat h) fun h => congrArg BitVec.toNat h) hf
    · (repeat' split at he) <;> exact nomatch he
  | mapped log slot => exact absurd (entryOf_mapped he) (hn log slot)
  | bad => rfl

/-- Whether an entry names a slot that one before it names. -/
def isTwin (before : List RemapEntry) : RemapEntry → Bool
  | .mapped log slot => decide (.mapped log slot ∈ before)
  | _ => false

theorem dropTwins_cons (before : List RemapEntry) (e : RemapEntry) (es : List RemapEntry) :
    dropTwins before (e :: es) = (if isTwin before e then .bad else e) :: dropTwins (before ++ [e]) es := by
  cases e <;> simp [dropTwins, isTwin]

theorem dropTwins_length (before es : List RemapEntry) : (dropTwins before es).length = es.length := by
  induction es generalizing before with
  | nil => rfl
  | cons e es ih => rw [dropTwins_cons, List.length_cons, ih, List.length_cons]

theorem dropTwins_get (before : List RemapEntry) {es : List RemapEntry} {j : Nat} {e : RemapEntry}
    (h : es[j]? = some e) :
    (dropTwins before es)[j]? = some (if isTwin (before ++ es.take j) e then .bad else e) := by
  induction es generalizing before j with
  | nil => simp at h
  | cons x es ih =>
    rw [dropTwins_cons]
    cases j with
    | zero =>
      obtain rfl : x = e := by simpa using h
      simp
    | succ j =>
      have hj := ih (before ++ [x]) (j := j) (by simpa using h)
      rw [List.append_assoc] at hj
      exact hj

/-! ### What the INU's acts leave of the rest -/

/-- The state but for what occurrences, events of attributes and latches change while no report call can start:
index, latches and attributes of the INU (their timers stand), the cached attributes, the writer's jobs, the
flags, and the held events. -/
def besidesIncidents (s : State) : State :=
  { s with
    rqu.flags := 0
    inu.records := []
    inu.counter := 0
    inu.latches := 0
    inu.attrs := s.inu.attrs.map fun v => ⟨0, 0, false, v.timer⟩
    adu.cache.attrs := s.adu.cache.attrs.map fun _ => ⟨0, 0, false⟩
    adu.dirty := false
    adu.jobs := []
    held := [] }

@[simp] theorem besidesIncidents_queueRecord (log : LogId) (slot : Nat) (ws : List Word)
    (s : State) :
    besidesIncidents (queueRecord log slot ws s) = besidesIncidents s := by
  unfold queueRecord
  split <;> rfl

@[simp] theorem besidesIncidents_rewrite (r : IncRec) (s : State) :
    besidesIncidents (rewrite r s) = besidesIncidents s := by
  unfold rewrite
  split
  · exact besidesIncidents_queueRecord ..
  · rfl

@[simp] theorem besidesIncidents_putRecord (r : IncRec) (s : State) :
    besidesIncidents (putRecord r s) = besidesIncidents s :=
  (besidesIncidents_rewrite r _).trans rfl

@[simp] theorem besidesIncidents_raise (e : Event) (s : State) :
    besidesIncidents (raise e s) = besidesIncidents s := rfl

@[simp] theorem besidesIncidents_setLatch (k : IncKind) (s : State) :
    besidesIncidents (setLatch k s) = besidesIncidents s := by
  unfold setLatch
  split <;> rfl

@[simp] theorem besidesIncidents_createRecord (k : IncKind) (detail : Nat) (s : State) :
    besidesIncidents (createRecord k detail s) = besidesIncidents s := by
  unfold createRecord
  split
  · rfl
  · exact (besidesIncidents_rewrite _ _).trans rfl

@[simp] theorem besidesIncidents_hold (h : Held) (s : State) :
    besidesIncidents (hold h s) = besidesIncidents s := rfl

theorem besidesIncidents_takeOccurrence (k : IncKind) (detail : Nat) {s : State}
    (h : s.lnu.quiet = false) :
    besidesIncidents (takeOccurrence k detail s) = besidesIncidents s := by
  unfold takeOccurrence
  dsimp only
  (repeat' split)
  · simp
  · rw [judgeStart_busy (by simpa [raise] using h)]
    simp
  · simp

theorem besidesIncidents_occur (k : IncKind) (detail : Nat) {s : State} (h : s.lnu.quiet = false) :
    besidesIncidents (occur k detail s) = besidesIncidents s := by
  unfold occur
  split
  · exact besidesIncidents_takeOccurrence k detail h
  · rfl

theorem besidesIncidents_putAttr (a : AttrId) (v : Attr) (s : State)
    (h : v.timer = (s.inu.attrs.get a).timer) :
    besidesIncidents (putAttr a v s) = besidesIncidents s := by
  have hattrs : (s.inu.attrs.set a v).map (fun v => (⟨0, 0, false, v.timer⟩ : Attr)) =
      s.inu.attrs.map fun v => ⟨0, 0, false, v.timer⟩ := by
    cases a <;> simp [PerAttr.set, PerAttr.map, h, PerAttr.get]
  unfold putAttr handAttr moveTally besidesIncidents
  simp only [hattrs]
  cases a <;> rfl

theorem besidesIncidents_attrEvent (a : AttrId) {s : State} (h : s.lnu.quiet = false) :
    besidesIncidents (attrEvent a s) = besidesIncidents s := by
  unfold attrEvent
  split
  · unfold takeAttrEvent
    dsimp only
    split
    · exact (besidesIncidents_takeOccurrence _ _ (by exact h)).trans (besidesIncidents_putAttr a _ s rfl)
    · exact besidesIncidents_putAttr a _ s rfl
  · rfl

@[simp] theorem besidesIncidents_markCleared (k : IncKind) (s : State) :
    besidesIncidents (markCleared k s) = besidesIncidents s := by
  unfold markCleared
  split
  · exact besidesIncidents_putRecord ..
  · rfl

@[simp] theorem besidesIncidents_clearLatch (k : IncKind) (s : State) :
    besidesIncidents (clearLatch k s) = besidesIncidents s := by
  unfold clearLatch takeClearLatch
  (repeat' split)
  · exact (besidesIncidents_markCleared k _).trans rfl
  · rfl
  · rfl

/-- What two states that agree beside incidents have in common. -/
theorem lnu_of_besides {s t : State} (h : besidesIncidents t = besidesIncidents s) : t.lnu = s.lnu :=
  (congrArg State.lnu h : (besidesIncidents t).lnu = (besidesIncidents s).lnu)

theorem besidesIncidents_attrEvents (a : AttrId) (n : Nat) {s : State} (h : s.lnu.quiet = false) :
    besidesIncidents (attrEvents a n s) = besidesIncidents s := by
  induction n generalizing s with
  | zero => rfl
  | succ n ih =>
    have he := besidesIncidents_attrEvent a h
    exact (ih (by rw [lnu_of_besides he]; exact h)).trans he

@[simp] theorem besidesIncidents_countLatch (c : Bool) (k : IncKind) (s : State) :
    besidesIncidents (countLatch c k s) = besidesIncidents s := by
  unfold countLatch
  split
  · exact besidesIncidents_setLatch k s
  · rfl

@[simp] theorem besidesIncidents_rebuildLatch (k : IncKind) (s : State) :
    besidesIncidents (rebuildLatch k s) = besidesIncidents s := by
  unfold rebuildLatch
  (repeat' split)
  · rfl
  · exact besidesIncidents_setLatch k s
  · rfl

@[simp] theorem besidesIncidents_yieldRecord (seq : Nat) (s : State) :
    besidesIncidents (yieldRecord seq s) = besidesIncidents s := by
  unfold yieldRecord returnRecord
  dsimp only
  (repeat' split) <;> simp

theorem besidesIncidents_foldl {α : Type} (f : State → α → State) (l : List α) (s : State)
    (h : ∀ u x, besidesIncidents (f u x) = besidesIncidents u) :
    besidesIncidents (l.foldl f s) = besidesIncidents s := by
  induction l generalizing s with
  | nil => rfl
  | cons x l ih => exact (ih (f s x)).trans (h s x)

@[simp] theorem besidesIncidents_rebuildIndex (s : State) :
    besidesIncidents (rebuildIndex s) = besidesIncidents s := rfl

@[simp] theorem besidesIncidents_rebuildQueue (s : State) :
    besidesIncidents (rebuildQueue s) = besidesIncidents s :=
  (besidesIncidents_foldl (fun s q => yieldRecord q s) _ s
    fun u q => besidesIncidents_yieldRecord q u)

@[simp] theorem besidesIncidents_rebuildRecords (s : State) :
    besidesIncidents (rebuildRecords s) = besidesIncidents s := by
  unfold rebuildRecords
  split
  · rfl
  · exact (besidesIncidents_foldl _ _ _ fun u k => besidesIncidents_rebuildLatch k u).trans
      (by simp)

@[simp] theorem besidesIncidents_rebuildCounts (s : State) :
    besidesIncidents (rebuildCounts s) = besidesIncidents s := by
  unfold rebuildCounts
  simp

/-- An occurrence of a sensor at the rebuild. -/
def sensedAtRebuild (c : Bool) (k : IncKind) (s : State) : State := if c then takeOccurrence k 0 s else s

theorem rebuildSensors_eq (s : State) :
    rebuildSensors s =
      let u := sensedAtRebuild s.inu.doorOpen .cashDoorOpen s
      let v := sensedAtRebuild (!u.inu.boxPresent) .cashboxRemoved u
      sensedAtRebuild (!v.inu.cordWhole) .cordCut v := by
  unfold rebuildSensors sensedAtRebuild
  cases s.inu.doorOpen <;> simp only [Bool.false_eq_true, if_false, if_true] <;>
    (repeat' split) <;> simp_all

theorem besidesIncidents_sensed (c : Bool) (k : IncKind) {s : State} (h : s.lnu.quiet = false) :
    besidesIncidents (sensedAtRebuild c k s) = besidesIncidents s := by
  unfold sensedAtRebuild
  split
  · exact besidesIncidents_takeOccurrence k 0 h
  · rfl

end Sys2Proof.Machine
end

section
/-! Latches and held items at the rebuild (R137). -/

namespace Sys2Proof.Machine

/-! ### Latches at the rebuild -/

theorem incKind_code_inj {k k' : IncKind} : k.code = k'.code ↔ k = k' := by
  refine ⟨fun h => ?_, fun h => by rw [h]⟩
  have := incKind_ofCode_code k
  rw [h, incKind_ofCode_code] at this
  exact (Option.some.inj this).symm

theorem latched_after_setLatch (k k' : IncKind) (s : State) :
    latched (setLatch k s).inu.latches k' =
      (latched s.inu.latches k' || (k.latches && decide (k' = k))) := by
  rcases setLatch_cases k s with ⟨h, e⟩ | ⟨h, -, e⟩
  · rw [e]
    rcases h with h | h
    · simp [h]
    · by_cases hk : k' = k
      · simp [hk, h]
      · simp [hk]
  · simp [e, raise, latched_setLatchBit, h, incKind_code_inj]

theorem latched_countLatch (c : Bool) (k k' : IncKind) (s : State) :
    latched (countLatch c k s).inu.latches k' =
      (latched s.inu.latches k' || (c && k.latches && decide (k' = k))) := by
  unfold countLatch
  cases c
  · simp
  · simp [latched_after_setLatch]

/-- No latch is lost, and no held event. -/
def Grown (s t : State) : Prop :=
  (∀ k, latched s.inu.latches k = true → latched t.inu.latches k = true) ∧ ∀ h ∈ s.held, h ∈ t.held

theorem Grown.refl (s : State) : Grown s s := ⟨fun _ h => h, fun _ h => h⟩

theorem Grown.trans {s t u : State} (h : Grown s t) (h' : Grown t u) : Grown s u :=
  ⟨fun k hk => h'.1 k (h.1 k hk), fun x hx => h'.2 x (h.2 x hx)⟩

theorem Grown.of_eq {s t : State} (hl : t.inu.latches = s.inu.latches) (hh : t.held = s.held) :
    Grown s t := ⟨fun k h => by rw [hl]; exact h, fun x hx => by rw [hh]; exact hx⟩

theorem grown_setLatch (k : IncKind) (s : State) : Grown s (setLatch k s) :=
  ⟨fun k' h => by rw [latched_after_setLatch, h, Bool.true_or], fun x hx => by simpa using hx⟩

theorem grown_countLatch (c : Bool) (k : IncKind) (s : State) : Grown s (countLatch c k s) := by
  unfold countLatch
  split
  · exact grown_setLatch k s
  · exact .refl s

theorem grown_takeOccurrence (k : IncKind) (detail : Nat) (s : State) :
    Grown s (takeOccurrence k detail s) :=
  ⟨fun k' h => by rw [latched_takeOccurrence, h, Bool.true_or], fun x hx => by simpa using hx⟩

theorem grown_hold (h : Held) (s : State) : Grown s (hold h s) :=
  ⟨fun _ h => h, fun _ hx => List.mem_append_left _ hx⟩

theorem grown_occur (k : IncKind) (detail : Nat) (s : State) : Grown s (occur k detail s) := by
  unfold occur
  split
  · exact grown_takeOccurrence k detail s
  · exact grown_hold _ s

theorem grown_attrEvent (a : AttrId) (s : State) : Grown s (attrEvent a s) := by
  unfold attrEvent takeAttrEvent
  dsimp only
  (repeat' split)
  · exact Grown.trans (.of_eq (by simp) (by simp)) (grown_takeOccurrence _ _ _)
  · exact .of_eq (by simp) (by simp)
  · exact grown_hold _ s

theorem grown_attrEvents (a : AttrId) (n : Nat) (s : State) : Grown s (attrEvents a n s) := by
  induction n generalizing s with
  | zero => exact .refl s
  | succ n ih => exact (grown_attrEvent a s).trans (ih _)

theorem grown_rebuildLatch (k : IncKind) (s : State) : Grown s (rebuildLatch k s) := by
  unfold rebuildLatch
  (repeat' split)
  · exact .refl s
  · exact grown_setLatch k s
  · exact .refl s

theorem grown_foldl {α : Type} (f : State → α → State) (l : List α) (s : State)
    (h : ∀ u x, Grown u (f u x)) : Grown s (l.foldl f s) := by
  induction l generalizing s with
  | nil => exact .refl s
  | cons x l ih => exact (h s x).trans (ih _)

theorem grown_rebuildRecords (s : State) : Grown s (rebuildRecords s) := by
  unfold rebuildRecords
  split
  · exact .refl s
  · exact Grown.trans (.of_eq (by simp) (by simp))
      (grown_foldl _ _ _ fun u k => grown_rebuildLatch k u)

theorem grown_rebuildCounts (s : State) : Grown s (rebuildCounts s) :=
  (grown_countLatch _ _ s).trans ((grown_countLatch _ _ _).trans (grown_countLatch _ _ _))

theorem grown_sensed (c : Bool) (k : IncKind) (s : State) : Grown s (sensedAtRebuild c k s) := by
  unfold sensedAtRebuild
  split
  · exact grown_takeOccurrence k 0 s
  · exact .refl s

theorem latched_sensed {c : Bool} {k : IncKind} (hc : c = true) (hk : k.latches = true) (s : State) :
    latched (sensedAtRebuild c k s).inu.latches k = true := by
  rw [sensedAtRebuild, if_pos hc, latched_takeOccurrence, hk, decide_eq_true rfl, Bool.and_true,
    Bool.or_true]

/-! ### The held items applied -/

section Items

variable {s : State} (hq : s.lnu.quiet = false) (ha : inuActive s = true)

include hq in
theorem besidesIncidents_takeItem (h : Held) :
    besidesIncidents (takeIncidentItem h s) = besidesIncidents s := by
  cases h with
  | occurrence k d => exact besidesIncidents_occur k d hq
  | attrEvent a => exact besidesIncidents_attrEvent a hq
  | clearLatch k => exact besidesIncidents_clearLatch k s
  | _ => rfl

include ha in
theorem takeItem_held (h : Held) : (takeIncidentItem h s).held = s.held := by
  cases h with
  | occurrence k d =>
    show (occur k d s).held = s.held
    rw [occur_active k d ha]
    simp
  | attrEvent a =>
    show (attrEvent a s).held = s.held
    rw [attrEvent, if_pos ha, takeAttrEvent]
    split <;> simp
  | clearLatch k =>
    show (clearLatch k s).held = s.held
    rw [clearLatch, if_pos ha]
    simp
  | _ => rfl

/-- A latch is lost to a notice that clears it, and to nothing else. -/
theorem takeItem_latched {k : IncKind} {h : Held} (hk : latched s.inu.latches k = true)
    (hne : h ≠ .clearLatch k) : latched (takeIncidentItem h s).inu.latches k = true := by
  cases h with
  | occurrence k' d => exact (grown_occur k' d s).1 k hk
  | attrEvent a => exact (grown_attrEvent a s).1 k hk
  | clearLatch k' =>
    have hkk : k ≠ k' := fun e => hne (by rw [e])
    show latched (clearLatch k' s).inu.latches k = true
    unfold clearLatch takeClearLatch
    split
    · split
      · have hm (u : State) : (markCleared k' u).inu.latches = u.inu.latches := by
          unfold markCleared
          split <;> simp
        rw [hm]
        show latched (clearLatchBit s.inu.latches k') k = true
        rw [latched_clearLatchBit]
        simpa [incKind_code_inj, hkk] using hk
      · exact hk
    · exact hk
  | _ => exact hk

include ha in
theorem takeItem_occurrence {k : IncKind} (d : Nat) (hk : k.latches = true) :
    latched (takeIncidentItem (.occurrence k d) s).inu.latches k = true := by
  show latched (occur k d s).inu.latches k = true
  rw [occur_active k d ha, latched_takeOccurrence, hk, decide_eq_true rfl, Bool.and_true,
    Bool.or_true]

end Items

/-- Whether the INU applies what it is handed does not depend on its incidents. -/
theorem inuActive_of_besides {s t : State} (h : besidesIncidents t = besidesIncidents s) :
    inuActive t = inuActive s :=
  (congrArg inuActive h : inuActive (besidesIncidents t) = inuActive (besidesIncidents s))

theorem takeItems_kept (items : List Held) {s : State} (hq : s.lnu.quiet = false)
    (ha : inuActive s = true) :
    let t := items.foldl (fun s h => takeIncidentItem h s) s
    besidesIncidents t = besidesIncidents s ∧ t.held = s.held := by
  induction items generalizing s with
  | nil => exact ⟨rfl, rfl⟩
  | cons h items ih =>
    have hb := besidesIncidents_takeItem hq h
    obtain ⟨h1, h2⟩ := ih (s := takeIncidentItem h s) (by rw [lnu_of_besides hb]; exact hq)
      (by rw [inuActive_of_besides hb]; exact ha)
    exact ⟨h1.trans hb, h2.trans (takeItem_held ha h)⟩

/-- A latch set before the items, or by an occurrence among them, stands if no item clears it. -/
theorem takeItems_latched (items : List Held) {s : State} {k : IncKind} (hq : s.lnu.quiet = false)
    (ha : inuActive s = true) (hkl : k.latches = true)
    (hk : latched s.inu.latches k = true ∨ ∃ d, .occurrence k d ∈ items)
    (hno : .clearLatch k ∉ items) :
    latched (items.foldl (fun s h => takeIncidentItem h s) s).inu.latches k = true := by
  induction items generalizing s with
  | nil =>
    rcases hk with hk | ⟨d, hd⟩
    · exact hk
    · exact absurd hd (by simp)
  | cons h items ih =>
    have hb := besidesIncidents_takeItem hq h
    refine ih (s := takeIncidentItem h s) (by rw [lnu_of_besides hb]; exact hq)
      (by rw [inuActive_of_besides hb]; exact ha) ?_ fun hm => hno (List.mem_cons_of_mem _ hm)
    rcases hk with hk | ⟨d, hd⟩
    · exact .inl (takeItem_latched hk fun e => hno (by rw [e]; exact List.mem_cons_self ..))
    · rcases List.mem_cons.1 hd with rfl | hd
      · exact .inl (takeItem_occurrence ha d hkl)
      · exact .inr ⟨d, hd⟩

/-- The state with the INU's rebuild over and what it has held set apart. -/
def rebuilt (s : State) : State :=
  { s with inu.rebuilt := true, held := s.held.filter fun h => !h.isIncident }

theorem rebuildApplied_eq (s : State) :
    rebuildApplied s =
      (s.held.filter Held.isIncident).foldl (fun s h => takeIncidentItem h s)
        (rebuilt (rebuildSensors s)) := by
  unfold rebuildApplied replayIncidents rebuilt
  simp only [rebuildSensors_frame]

/-! ### The rebuild's outcome -/

/-- The attributes at the rebuild, their timers stopped (R137 step 1). -/
def rebuiltAttrs (s : State) : State := allAttrs.foldl (fun s a => rebuildAttr a s) s

/-- One of the attributes as it is loaded. -/
def loadedAttr (c : CacheAttr) : Attr := ⟨c.total, c.level, c.armed || decide (c.level = 0), none⟩

/-- One of the attributes as the cache takes it back at the rebuild. -/
def recachedAttr (c : CacheAttr) : CacheAttr :=
  ⟨(loadedAttr c).total, (loadedAttr c).level, (loadedAttr c).armed⟩

theorem rebuildAttr_attrs (a : AttrId) (s : State) :
    (rebuildAttr a s).inu.attrs = s.inu.attrs.set a (loadedAttr (s.adu.cache.attrs.get a)) ∧
    (rebuildAttr a s).adu.cache =
      { s.adu.cache with
        attrs := s.adu.cache.attrs.set a (recachedAttr (s.adu.cache.attrs.get a)) } := by
  cases a <;> exact ⟨rfl, rfl⟩

theorem besidesIncidents_rebuildAttr (a : AttrId) (s : State) :
    besidesIncidents (rebuildAttr a s) =
      { besidesIncidents s with
        inu.attrs := (besidesIncidents s).inu.attrs.set a ⟨0, 0, false, none⟩ } := by
  cases a <;> rfl

theorem rebuiltAttrs_attrs (s : State) :
    (rebuiltAttrs s).inu.attrs = s.adu.cache.attrs.map loadedAttr ∧
    (rebuiltAttrs s).adu.cache = { s.adu.cache with attrs := s.adu.cache.attrs.map recachedAttr } := by
  simp only [rebuiltAttrs, allAttrs, List.foldl_cons, List.foldl_nil, rebuildAttr_attrs, PerAttr.set,
    PerAttr.get, PerAttr.map, and_self]

theorem besidesIncidents_rebuiltAttrs (s : State) :
    besidesIncidents (rebuiltAttrs s) =
      { besidesIncidents s with
        inu.attrs :=
          ⟨⟨0, 0, false, none⟩, ⟨0, 0, false, none⟩, ⟨0, 0, false, none⟩, ⟨0, 0, false, none⟩,
            ⟨0, 0, false, none⟩⟩ } := by
  simp only [rebuiltAttrs, allAttrs, List.foldl_cons, List.foldl_nil, besidesIncidents_rebuildAttr,
    PerAttr.set]

end Sys2Proof.Machine
end

section
/-! The rebuild and the loads, as they change the state beside its incidents. -/

namespace Sys2Proof.Machine

/-- The remap table as the SPARE area has it. -/
def remapRead (s : State) : List RemapEntry :=
  dropTwins [] ((List.range 8).map fun j => entryOf (s.mem.words (entryAddr j s) 4))

/-- The greatest call sequence that a slot holds. -/
def greatestHeld (s : State) : Nat := ((List.range 256).filterMap fun k => heldCall k s).foldl max 0

/-! ### The rebuild as a whole -/

/-- What the rebuild makes of the timers of the attributes. -/
def timersStopped (s : State) : State :=
  { s with
    inu.attrs :=
      ⟨⟨0, 0, false, none⟩, ⟨0, 0, false, none⟩, ⟨0, 0, false, none⟩, ⟨0, 0, false, none⟩,
        ⟨0, 0, false, none⟩⟩ }

theorem timersStopped_lnu (s : State) : (timersStopped s).lnu = s.lnu := rfl

theorem inuActive_timersStopped (s : State) :
    inuActive { timersStopped s with inu.rebuilt := true } = running s := rfl

section Projections

variable (s : State)

theorem besidesIncidents_lnu : (besidesIncidents s).lnu = s.lnu := rfl

theorem running_besidesIncidents : running (besidesIncidents s) = running s := rfl

theorem rebuilt_parts :
    (rebuilt s).lnu = s.lnu ∧ (rebuilt s).inu.latches = s.inu.latches ∧
      (rebuilt s).held = s.held.filter fun h => !h.isIncident := ⟨rfl, rfl, rfl⟩

theorem inuActive_besidesIncidents : inuActive (besidesIncidents s) = inuActive s := rfl

theorem besidesIncidents_rebuilt :
    besidesIncidents (rebuilt s) = { besidesIncidents s with inu.rebuilt := true } := rfl

theorem remapRead_besidesIncidents : remapRead (besidesIncidents s) = remapRead s := rfl

theorem remapRead_adu (a : Adu) : remapRead { s with adu := a } = remapRead s := rfl

theorem greatestHeld_besidesIncidents : greatestHeld (besidesIncidents s) = greatestHeld s := rfl

theorem besidesIncidents_setRemap (l : List RemapEntry) :
    besidesIncidents { s with adu.remap := l } = { besidesIncidents s with adu.remap := l } := rfl

/-- The positions in the call log that the scan gives. -/
def scanned : State :=
  { s with
    adu.greatest := greatestHeld s
    adu.nextCall := (max (greatestHeld s) s.adu.cache.collectedThrough + 1) % 0x100000000 }

theorem besidesIncidents_scanned :
    besidesIncidents (scanned s) = scanned (besidesIncidents s) := rfl

theorem besidesIncidents_raiseIf (c : Bool) (e : Event) :
    besidesIncidents (raiseIf c e s) = besidesIncidents s := by
  unfold raiseIf
  split <;> rfl

end Projections

theorem quiet_of_besides {s t : State} (h : besidesIncidents t = besidesIncidents s)
    (hq : s.lnu.quiet = false) : t.lnu.quiet = false := by rw [lnu_of_besides h]; exact hq

theorem sensors_of_besides {s t : State} (h : besidesIncidents t = besidesIncidents s) :
    t.inu.doorOpen = s.inu.doorOpen ∧ t.inu.boxPresent = s.inu.boxPresent ∧
      t.inu.cordWhole = s.inu.cordWhole := by
  have hi : (besidesIncidents t).inu = (besidesIncidents s).inu := congrArg State.inu h
  exact ⟨(congrArg Inu.doorOpen hi : (besidesIncidents t).inu.doorOpen = (besidesIncidents s).inu.doorOpen),
    (congrArg Inu.boxPresent hi :
      (besidesIncidents t).inu.boxPresent = (besidesIncidents s).inu.boxPresent),
    (congrArg Inu.cordWhole hi :
      (besidesIncidents t).inu.cordWhole = (besidesIncidents s).inu.cordWhole)⟩

/-- The sensors' occurrences, of a state whose sensors they are (R137 step 8). -/
def sensorsTaken (s : State) : State :=
  sensedAtRebuild (!s.inu.cordWhole) .cordCut
    (sensedAtRebuild (!s.inu.boxPresent) .cashboxRemoved (sensedAtRebuild s.inu.doorOpen .cashDoorOpen s))

theorem rebuildSensors_taken {s : State} (hq : s.lnu.quiet = false) :
    rebuildSensors s = sensorsTaken s := by
  have h1 := besidesIncidents_sensed s.inu.doorOpen .cashDoorOpen hq
  have h2 := besidesIncidents_sensed (!s.inu.boxPresent) .cashboxRemoved (quiet_of_besides h1 hq)
  rw [rebuildSensors_eq, sensorsTaken]
  dsimp only
  rw [(sensors_of_besides h1).2.1, (sensors_of_besides (h2.trans h1)).2.2]

theorem besidesIncidents_sensorsTaken {s : State} (hq : s.lnu.quiet = false) :
    besidesIncidents (sensorsTaken s) = besidesIncidents s := by
  have h1 := besidesIncidents_sensed s.inu.doorOpen .cashDoorOpen hq
  have h2 := besidesIncidents_sensed (!s.inu.boxPresent) .cashboxRemoved (quiet_of_besides h1 hq)
  have h3 := besidesIncidents_sensed (!s.inu.cordWhole) .cordCut
    (quiet_of_besides (h2.trans h1) hq)
  exact h3.trans (h2.trans h1)

theorem grown_sensorsTaken (s : State) : Grown s (sensorsTaken s) :=
  (grown_sensed _ _ _).trans ((grown_sensed _ _ _).trans (grown_sensed _ _ _))

/-- The state from which the sensors are taken: attributes, index and latches rebuilt. -/
def rebuiltCounts (s : State) : State := rebuildCounts (rebuildRecords (rebuiltAttrs s))

theorem besidesIncidents_rebuiltCounts (s : State) :
    besidesIncidents (rebuiltCounts s) = timersStopped (besidesIncidents s) := by
  rw [rebuiltCounts, besidesIncidents_rebuildCounts, besidesIncidents_rebuildRecords,
    besidesIncidents_rebuiltAttrs]
  rfl

theorem grown_rebuiltCounts (s : State) : Grown s (rebuiltCounts s) := by
  have hattrs : Grown s (rebuiltAttrs s) := by
    unfold rebuiltAttrs
    exact grown_foldl _ _ _ fun u a => .of_eq (by simp) (by simp)
  exact hattrs.trans ((grown_rebuildRecords _).trans (grown_rebuildCounts _))

theorem rebuiltCounts_held (s : State) : (rebuiltCounts s).held = s.held := by
  simp [rebuiltCounts, rebuildCounts, rebuildRecords, rebuiltAttrs]
  split <;> simp

theorem rebuiltIndex_counts (s : State) : rebuiltIndex s = rebuildApplied (rebuiltCounts s) := rfl

section Rebuild

variable {s : State} (hq : s.lnu.quiet = false) (hr : s.pfu.power = .running)

include hq

theorem rebuiltCounts_quiet : (rebuiltCounts s).lnu.quiet = false := by
  rw [← besidesIncidents_lnu, besidesIncidents_rebuiltCounts, timersStopped_lnu,
    besidesIncidents_lnu]
  exact hq

theorem rebuiltIndex_items :
    rebuiltIndex s =
      (s.held.filter Held.isIncident).foldl (fun s h => takeIncidentItem h s)
        (rebuilt (sensorsTaken (rebuiltCounts s))) := by
  rw [rebuiltIndex_counts, rebuildApplied_eq, rebuildSensors_taken (rebuiltCounts_quiet hq), rebuiltCounts_held]

theorem besidesIncidents_beforeItems :
    besidesIncidents (rebuilt (sensorsTaken (rebuiltCounts s))) =
      { timersStopped (besidesIncidents s) with inu.rebuilt := true } := by
  rw [besidesIncidents_rebuilt, besidesIncidents_sensorsTaken (rebuiltCounts_quiet hq),
    besidesIncidents_rebuiltCounts]

omit hq in
theorem beforeItems_held :
    (rebuilt (sensorsTaken (rebuiltCounts s))).held = s.held.filter fun h => !h.isIncident := by
  have h : (sensorsTaken (rebuiltCounts s)).held = s.held := by
    unfold sensorsTaken sensedAtRebuild
    (repeat' split) <;> simp [rebuiltCounts_held]
  rw [(rebuilt_parts _).2.2, h]

theorem beforeItems_quiet : (rebuilt (sensorsTaken (rebuiltCounts s))).lnu.quiet = false := by
  have h := quiet_of_besides (besidesIncidents_sensorsTaken (rebuiltCounts_quiet hq))
    (rebuiltCounts_quiet hq)
  rw [(rebuilt_parts _).1]
  exact h

include hr

theorem beforeItems_active : inuActive (rebuilt (sensorsTaken (rebuiltCounts s))) = true := by
  rw [← inuActive_besidesIncidents, besidesIncidents_beforeItems hq, inuActive_timersStopped,
    running_besidesIncidents, running, hr]
  rfl

/-- The rebuild changes the incidents, stops the timers, and applies what the INU holds. -/
theorem rebuiltIndex_kept :
    besidesIncidents (rebuiltIndex s) =
        { timersStopped (besidesIncidents s) with inu.rebuilt := true } ∧
      (rebuiltIndex s).held = s.held.filter fun h => !h.isIncident := by
  obtain ⟨h1, h2⟩ := takeItems_kept (s.held.filter Held.isIncident) (beforeItems_quiet hq)
    (beforeItems_active hq hr)
  rw [rebuiltIndex_items hq]
  exact ⟨h1.trans (besidesIncidents_beforeItems hq), h2.trans (beforeItems_held (s := s))⟩

/-- A latch set before the held items, or by an occurrence among them, stands at the end. -/
theorem rebuiltIndex_latched {k : IncKind} (hkl : k.latches = true)
    (hk : latched (sensorsTaken (rebuiltCounts s)).inu.latches k = true ∨
      ∃ d, .occurrence k d ∈ s.held) (hno : .clearLatch k ∉ s.held) :
    latched (rebuiltIndex s).inu.latches k = true := by
  rw [rebuiltIndex_items hq]
  refine takeItems_latched _ (beforeItems_quiet hq) (beforeItems_active hq hr) hkl ?_
    fun h => hno (List.mem_filter.1 h).1
  rw [(rebuilt_parts _).2.1]
  exact hk.imp_right fun ⟨d, hd⟩ => ⟨d, List.mem_filter.2 ⟨hd, rfl⟩⟩

end Rebuild

/-! ### The loads (R153, R160, R164) -/

/-- The tallies that the area gives. -/
def talliesLoaded (s : State) : Tallies :=
  let ws := s.mem.words (baseOf .tally s) 48
  let check := s.mem.word (baseOf .tally s + 96)
  if crc ws = check ∨ ∃ w ∈ ws ++ [check], w ≠ 0xFFFF then talliesOf ws else Tallies.zero

/-- The cache as `loadTallies` fills it, before it tells of a bad CRC. -/
def talliesIn (s : State) : State :=
  { s with
    adu.cache := talliesLoaded s
    adu.check := s.mem.word (baseOf .tally s + 96)
    adu.suspect :=
      decide (crc (s.mem.words (baseOf .tally s) 48) ≠ s.mem.word (baseOf .tally s + 96)) }

/-- The ADU once cache and remap table are loaded. -/
def tablesLoaded (s : State) : State := { talliesIn s with adu.remap := remapRead s }

/-- The ADU once all its loads are done. -/
def auditLoads (s : State) : State := scanned (tablesLoaded s)

theorem talliesIn_parts (s : State) :
    (talliesIn s).inu = s.inu ∧ (talliesIn s).held = s.held ∧ (talliesIn s).lnu = s.lnu ∧
      remapRead (talliesIn s) = remapRead s := by
  unfold talliesIn
  exact ⟨rfl, rfl, rfl, remapRead_adu s _⟩

theorem loadTallies_cases (s : State) :
    loadTallies s =
      if crc (s.mem.words (baseOf .tally s) 48) = s.mem.word (baseOf .tally s + 96) then talliesIn s
      else occur .auditSuspect 1 (talliesIn s) := by
  have hcache : (if (decide (crc (s.mem.words (baseOf .tally s) 48) =
        s.mem.word (baseOf .tally s + 96)) ||
      !((s.mem.words (baseOf .tally s) 48 ++ [s.mem.word (baseOf .tally s + 96)]).all
        fun w => w = 0xFFFF)) = true then talliesOf (s.mem.words (baseOf .tally s) 48)
      else Tallies.zero) = talliesLoaded s := by
    unfold talliesLoaded
    congr 1
    simp
  unfold loadTallies
  simp only [hcache, decide_eq_true_eq]
  by_cases h : crc (s.mem.words (baseOf .tally s) 48) = s.mem.word (baseOf .tally s + 96)
  · simp only [h, if_true, talliesIn, decide_true, Bool.not_true, ne_eq, not_true_eq_false, decide_false]
  · simp only [h, if_false, talliesIn, decide_false, Bool.not_false, ne_eq, not_false_eq_true, decide_true]

theorem loadRemap_eq (s : State) : loadRemap s = { s with adu.remap := remapRead s } := rfl

section Loads

variable {s : State} (calls incidents : List Nat) (hq : s.lnu.quiet = false)

include hq

theorem besidesIncidents_loadTallies :
    besidesIncidents (loadRemap (loadTallies s)) = besidesIncidents (tablesLoaded s) := by
  have ht := loadTallies_cases s
  have hb : besidesIncidents (loadTallies s) = besidesIncidents (talliesIn s) := by
    rw [ht]
    split
    · rfl
    · exact besidesIncidents_occur _ _ (by rw [(talliesIn_parts s).2.2.1]; exact hq)
  have hremap : remapRead (loadTallies s) = remapRead s := by
    rw [← remapRead_besidesIncidents, hb, remapRead_besidesIncidents, (talliesIn_parts s).2.2.2]
  rw [loadRemap_eq, besidesIncidents_setRemap, hremap, hb, ← besidesIncidents_setRemap, tablesLoaded]

theorem besidesIncidents_scanCalls :
    besidesIncidents (scanCalls calls (loadRemap (loadTallies s))) = besidesIncidents (auditLoads s) := by
  have hb := besidesIncidents_loadTallies hq
  generalize loadRemap (loadTallies s) = u at hb
  have hqu : u.lnu.quiet = false := by rw [lnu_of_besides hb]; exact hq
  have he := (besidesIncidents_attrEvents .nvRetries (rereads .call calls u) hqu).trans hb
  unfold scanCalls
  generalize attrEvents .nvRetries (rereads .call calls u) u = v at he
  dsimp only
  rw [besidesIncidents_raiseIf]
  show besidesIncidents (scanned v) = besidesIncidents (scanned (tablesLoaded s))
  rw [besidesIncidents_scanned, he, besidesIncidents_scanned]

theorem besidesIncidents_startupLoads (hf : s.cfl.fault = none) :
    besidesIncidents (startupLoads calls incidents s) = besidesIncidents (auditLoads s) := by
  have hb := besidesIncidents_scanCalls calls hq
  rw [startupLoads, if_neg (by simp [hf])]
  exact (besidesIncidents_attrEvents _ _ (by rw [lnu_of_besides hb]; exact hq)).trans hb

omit hq in
theorem grown_scanCalls (u : State) : Grown u (scanCalls calls u) := by
  unfold scanCalls
  refine (grown_attrEvents .nvRetries (rereads .call calls u) u).trans ?_
  generalize attrEvents .nvRetries (rereads .call calls u) u = v
  show Grown v (raiseIf _ .log (scanned v))
  refine Grown.trans (t := scanned v) (.of_eq rfl rfl) ?_
  generalize scanned v = w
  unfold raiseIf
  split
  · exact .of_eq rfl rfl
  · exact .refl w

omit hq in
theorem grown_loadTallies : Grown s (loadTallies s) := by
  have h : Grown s (talliesIn s) :=
    .of_eq (by rw [(talliesIn_parts s).1]) (talliesIn_parts s).2.1
  rw [loadTallies_cases]
  generalize talliesIn s = u at h
  split
  · exact h
  · exact h.trans (grown_occur _ _ _)

omit hq in
theorem grown_startupLoads (hf : s.cfl.fault = none) : Grown s (startupLoads calls incidents s) := by
  rw [startupLoads, if_neg (by simp [hf])]
  refine grown_loadTallies.trans ?_
  generalize loadTallies s = u
  refine Grown.trans (t := loadRemap u) (.of_eq rfl rfl) ?_
  exact (grown_scanCalls calls _).trans (grown_attrEvents _ _ _)

end Loads

end Sys2Proof.Machine
end

section
/-! Step 3 of the start-up as a whole. -/

namespace Sys2Proof.Machine

/-! ### The start-up's step 3 as a whole -/

/-- The ADU after its loads: loaded, or in config fault with nothing loaded (R26). -/
def loadBase (s : State) : State := if s.cfl.fault.isSome then faultLoads s else auditLoads s

theorem loadBase_parts (s : State) :
    loadBase s = { s with adu := (loadBase s).adu } := by
  unfold loadBase
  split
  · rfl
  · unfold auditLoads scanned tablesLoaded talliesIn
    rfl

/-- The state that the held items are applied to has been `s` but for its incidents and the ADU's
loads. -/
theorem besidesIncidents_startup (calls incidents : List Nat) {s : State} (hq : s.lnu.quiet = false) :
    besidesIncidents (startupLoads calls incidents s) = besidesIncidents (loadBase s) := by
  unfold loadBase
  cases hf : s.cfl.fault with
  | none =>
    rw [if_neg (by simp)]
    exact besidesIncidents_startupLoads calls incidents hq hf
  | some c =>
    rw [if_pos (by simp), startupLoads, if_pos (by simp [hf])]

theorem startupLoads_grown (calls incidents : List Nat) (s : State) :
    Grown s (startupLoads calls incidents s) := by
  cases hf : s.cfl.fault with
  | none => exact grown_startupLoads calls incidents hf
  | some c =>
    rw [startupLoads, if_pos (by simp [hf])]
    exact .of_eq rfl rfl

theorem startupLoads_quiet (calls incidents : List Nat) {s : State} (hq : s.lnu.quiet = false) :
    (startupLoads calls incidents s).lnu.quiet = false := by
  refine quiet_of_besides (besidesIncidents_startup calls incidents hq) ?_
  rw [loadBase_parts]
  exact hq

/-- What the loads hand the INU while it holds: AUDIT_SUSPECT, and events of the retries. -/
def HandsOnly (s t : State) : Prop :=
  ∃ items, t.held = s.held ++ items ∧
    ∀ h ∈ items, h = .occurrence .auditSuspect 1 ∨ h = .attrEvent .nvRetries

theorem HandsOnly.refl (s : State) : HandsOnly s s := ⟨[], by simp, fun h hm => by simp at hm⟩

theorem HandsOnly.of_eq {s t : State} (h : t.held = s.held) : HandsOnly s t :=
  ⟨[], by simp [h], fun h hm => by simp at hm⟩

theorem HandsOnly.trans {s t u : State} (h : HandsOnly s t) (h' : HandsOnly t u) : HandsOnly s u := by
  obtain ⟨xs, hx, px⟩ := h
  obtain ⟨ys, hy, py⟩ := h'
  refine ⟨xs ++ ys, by rw [hy, hx, List.append_assoc], fun i hi => ?_⟩
  rcases List.mem_append.1 hi with hi | hi
  · exact px i hi
  · exact py i hi

theorem handsOnly_occur (s : State) : HandsOnly s (occur .auditSuspect 1 s) := by
  unfold occur
  split
  · exact .of_eq (by simp)
  · exact ⟨[_], rfl, fun h hm => .inl (by simpa using hm)⟩

theorem handsOnly_attrEvents (n : Nat) (s : State) : HandsOnly s (attrEvents .nvRetries n s) := by
  induction n generalizing s with
  | zero => exact .refl s
  | succ n ih =>
    refine HandsOnly.trans ?_ (ih _)
    cases ha : inuActive s with
    | true => exact .of_eq (takeItem_held ha (.attrEvent .nvRetries))
    | false =>
      rw [attrEvent, if_neg (by simp [ha])]
      exact ⟨[_], rfl, fun h hm => .inr (by simpa using hm)⟩

theorem handsOnly_scanCalls (calls : List Nat) (u : State) : HandsOnly u (scanCalls calls u) := by
  unfold scanCalls
  refine (handsOnly_attrEvents (rereads .call calls u) u).trans ?_
  generalize attrEvents .nvRetries (rereads .call calls u) u = v
  show HandsOnly v (raiseIf _ .log (scanned v))
  refine HandsOnly.trans (t := scanned v) (.of_eq rfl) ?_
  generalize scanned v = w
  unfold raiseIf
  split
  · exact .of_eq rfl
  · exact .refl w

theorem handsOnly_loadTallies (s : State) : HandsOnly s (loadTallies s) := by
  have h : HandsOnly s (talliesIn s) := .of_eq (talliesIn_parts s).2.1
  rw [loadTallies_cases]
  generalize talliesIn s = u at h
  split
  · exact h
  · exact h.trans (handsOnly_occur _)

theorem handsOnly_startupLoads (calls incidents : List Nat) (s : State) :
    HandsOnly s (startupLoads calls incidents s) := by
  unfold startupLoads
  split
  · exact .of_eq rfl
  · refine (handsOnly_loadTallies s).trans ?_
    generalize loadTallies s = u
    refine HandsOnly.trans (t := loadRemap u) (.of_eq rfl) ?_
    exact (handsOnly_scanCalls calls _).trans (handsOnly_attrEvents _ _)

theorem HandsOnly.filter {s t : State} (h : HandsOnly s t) :
    (t.held.filter fun h => !h.isIncident) = s.held.filter fun h => !h.isIncident := by
  obtain ⟨items, ht, hi⟩ := h
  have hnone : (items.filter fun h => !h.isIncident) = [] := by
    rw [List.filter_eq_nil_iff]
    intro h hm
    rcases hi h hm with rfl | rfl <;> simp [Held.isIncident]
  rw [ht, List.filter_append, hnone, List.append_nil]

theorem HandsOnly.clear {s t : State} (h : HandsOnly s t) {k : IncKind}
    (hk : .clearLatch k ∉ s.held) : .clearLatch k ∉ t.held := by
  obtain ⟨items, ht, hi⟩ := h
  rw [ht]
  intro hm
  rcases List.mem_append.1 hm with hm | hm
  · exact hk hm
  · rcases hi _ hm with h | h <;> exact nomatch h

/-! ### What the rebuilt state reads -/

/-- What is read of a state through what it is beside its incidents. -/
theorem besides_reads {t x : State} (h : besidesIncidents t = x) :
    OnlyChanges [.rqu, .inu, .adu, .held] x t ∧ t.inu.ms = x.inu.ms ∧
      t.inu.rebuilt = x.inu.rebuilt ∧ t.adu.suspect = x.adu.suspect ∧ t.adu.check = x.adu.check ∧
      t.adu.remap = x.adu.remap ∧ t.adu.greatest = x.adu.greatest ∧ t.adu.nextCall = x.adu.nextCall ∧
      risingTallies t.adu.cache = risingTallies x.adu.cache ∧
      t.adu.cache.escrow = x.adu.cache.escrow ∧ t.adu.cache.boxValue = x.adu.cache.boxValue ∧
      t.adu.cache.boxCoins = x.adu.cache.boxCoins ∧
      ∀ a, (t.inu.attrs.get a).timer = (x.inu.attrs.get a).timer := by
  subst h
  refine ⟨fun b hb => ?_, rfl, rfl, rfl, rfl, rfl, rfl, rfl, rfl, rfl, rfl, rfl, fun a => ?_⟩
  · cases b <;> simp at hb <;> rfl
  · cases a <;> rfl

/-- What is read of a state whose step 3 is over, of a start from `s` and an ADU loaded as `a`. -/
def RebuiltReads (s : State) (a : Adu) (t : State) : Prop :=
  OnlyChanges [.rqu, .inu, .adu, .held] s t ∧ t.inu.ms = s.inu.ms ∧ t.inu.rebuilt = true ∧
    t.adu.suspect = a.suspect ∧ t.adu.check = a.check ∧ t.adu.remap = a.remap ∧
    t.adu.greatest = a.greatest ∧ t.adu.nextCall = a.nextCall ∧
    risingTallies t.adu.cache = risingTallies a.cache ∧ t.adu.cache.escrow = a.cache.escrow ∧
    t.adu.cache.boxValue = a.cache.boxValue ∧ t.adu.cache.boxCoins = a.cache.boxCoins ∧
    ∀ i, (t.inu.attrs.get i).timer = none

theorem rebuiltReads_of_besides {s t : State} {a : Adu}
    (h : besidesIncidents t =
      { timersStopped (besidesIncidents { s with adu := a }) with inu.rebuilt := true }) :
    RebuiltReads s a t := by
  obtain ⟨hc, hms, hreb, hsus, hch, hrem, hgr, hnx, hris, hesc, hval, hcoin, htim⟩ :=
    besides_reads h
  refine ⟨fun b hb => ?_, hms, hreb, hsus, hch, hrem, hgr, hnx, hris, hesc, hval, hcoin,
    fun i => ?_⟩
  · have h := hc b hb
    cases b <;> simp at hb <;> exact h
  · rw [htim]
    cases i <;> rfl

/-- The start-up's step 3, its sensors taken and what the INU holds applied, up to its decay
timers. -/
def auditApplied (calls incidents : List Nat) (s : State) : State :=
  rebuiltIndex (startupLoads calls incidents s)

section Audited

variable (calls incidents : List Nat) {s : State} (hq : s.lnu.quiet = false)
  (hr : s.pfu.power = .running)

include hq hr

theorem auditApplied_kept :
    besidesIncidents (auditApplied calls incidents s) =
        { timersStopped (besidesIncidents (loadBase s)) with inu.rebuilt := true } ∧
      (auditApplied calls incidents s).held = s.held.filter fun h => !h.isIncident := by
  obtain ⟨h1, h2⟩ := rebuiltIndex_kept (startupLoads_quiet calls incidents hq)
    (by simpa using hr)
  rw [besidesIncidents_startup calls incidents hq] at h1
  exact ⟨h1, h2.trans (handsOnly_startupLoads calls incidents s).filter⟩

theorem auditApplied_reads :
    RebuiltReads s (loadBase s).adu (auditApplied calls incidents s) := by
  have h := (auditApplied_kept calls incidents hq hr).1
  rw [loadBase_parts s] at h
  exact rebuiltReads_of_besides h

theorem auditApplied_latched {k : IncKind} (hkl : k.latches = true)
    (hk : latched (sensorsTaken (rebuiltCounts (startupLoads calls incidents s))).inu.latches k = true ∨
      ∃ d, .occurrence k d ∈ (startupLoads calls incidents s).held) (hno : .clearLatch k ∉ s.held) :
    latched (auditApplied calls incidents s).inu.latches k = true :=
  rebuiltIndex_latched (startupLoads_quiet calls incidents hq) (by simpa using hr) hkl hk
    ((handsOnly_startupLoads calls incidents s).clear hno)

end Audited

end Sys2Proof.Machine
end

section
/-! The loads of step 3: O25's first clause. -/

namespace Sys2Proof.Machine

/-! ### The latches of the counts and sensors -/

theorem uncollected_of_reads {s t : State} (hn : t.adu.nextCall = s.adu.nextCall)
    (hc : t.adu.cache.collectedThrough = s.adu.cache.collectedThrough) :
    uncollected t = uncollected s := by
  rw [uncollected, uncollected, hn, hc]

theorem latched_rebuildCounts (k : IncKind) (s : State) :
    latched (rebuildCounts s).inu.latches k =
      (latched s.inu.latches k ||
        (decide (s.cfl.params.boxNearFull ≤ s.adu.cache.boxCoins) && decide (k = .cashboxNearFull)) ||
        (decide (s.cfl.params.boxFull ≤ s.adu.cache.boxCoins) && decide (k = .cashboxFull)) ||
        (decide (248 ≤ uncollected s) && decide (k = .logFull))) := by
  have hu (c c' : Bool) : uncollected (countLatch c' .cashboxFull (countLatch c .cashboxNearFull s)) =
      uncollected s := uncollected_congr (by simp)
  unfold rebuildCounts
  simp only [latched_countLatch, hu, countLatch_frame, IncKind.latches, Bool.and_true]

/-- What is read of the state between the records and the counts. -/
theorem rebuildRecords_reads {L s : State} {a : Adu}
    (h : besidesIncidents L = besidesIncidents { s with adu := a }) :
    let t := rebuildRecords (rebuiltAttrs L)
    t.cfl = s.cfl ∧ t.adu.cache.boxCoins = a.cache.boxCoins ∧ t.adu.nextCall = a.nextCall ∧
      t.adu.cache.collectedThrough = a.cache.collectedThrough ∧
      t.inu.doorOpen = s.inu.doorOpen ∧ t.inu.boxPresent = s.inu.boxPresent ∧
      t.inu.cordWhole = s.inu.cordWhole := by
  intro t
  have hb : besidesIncidents t = timersStopped (besidesIncidents { s with adu := a }) := by
    show besidesIncidents (rebuildRecords (rebuiltAttrs L)) = _
    rw [besidesIncidents_rebuildRecords, besidesIncidents_rebuiltAttrs, h]
    rfl
  generalize t = t at hb
  have hi : (besidesIncidents t).inu = _ := congrArg State.inu hb
  exact ⟨(congrArg State.cfl hb : (besidesIncidents t).cfl = _),
    (congrArg (fun u : State => u.adu.cache.boxCoins) hb : (besidesIncidents t).adu.cache.boxCoins = _),
    (congrArg (fun u : State => u.adu.nextCall) hb : (besidesIncidents t).adu.nextCall = _),
    (congrArg (fun u : State => u.adu.cache.collectedThrough) hb :
      (besidesIncidents t).adu.cache.collectedThrough = _),
    (congrArg Inu.doorOpen hi : (besidesIncidents t).inu.doorOpen = _),
    (congrArg Inu.boxPresent hi : (besidesIncidents t).inu.boxPresent = _),
    (congrArg Inu.cordWhole hi : (besidesIncidents t).inu.cordWhole = _)⟩

theorem rebuildCounts_sensors (s : State) :
    (rebuildCounts s).inu.doorOpen = s.inu.doorOpen ∧
      (rebuildCounts s).inu.boxPresent = s.inu.boxPresent ∧
      (rebuildCounts s).inu.cordWhole = s.inu.cordWhole :=
  sensors_of_besides (besidesIncidents_rebuildCounts s)

/-- A sensor's latch is set once its occurrence has been taken. -/
theorem latched_sensorsTaken (s : State) :
    (s.inu.doorOpen = true → latched (sensorsTaken s).inu.latches .cashDoorOpen = true) ∧
    (s.inu.boxPresent = false → latched (sensorsTaken s).inu.latches .cashboxRemoved = true) ∧
    (s.inu.cordWhole = false → latched (sensorsTaken s).inu.latches .cordCut = true) := by
  unfold sensorsTaken
  refine ⟨fun h => ?_, fun h => ?_, fun h => ?_⟩
  · exact (grown_sensed _ _ _).1 _ ((grown_sensed _ _ _).1 _ (latched_sensed h rfl s))
  · exact (grown_sensed _ _ _).1 _ (latched_sensed (by simp [h]) rfl _)
  · exact latched_sensed (by simp [h]) rfl _

/-! ### The slots read at the end -/

theorem slotWords_congr {s t : State} (log : LogId) (k : Nat) (hm : t.mem = s.mem) (hb : t.bpu = s.bpu)
    (hr : t.adu.remap = s.adu.remap) : slotWords log k t = slotWords log k s := by
  simp only [slotWords, recordAddr, mappedSpare, spareAddr, baseOf, windowOf, hm, hb, hr]

theorem heldCall_congr {s t : State} (k : Nat) (hm : t.mem = s.mem) (hb : t.bpu = s.bpu)
    (hr : t.adu.remap = s.adu.remap) : heldCall k t = heldCall k s := by
  simp only [heldCall, slotWords_congr .call k hm hb hr]

theorem greatestHeld_spec (s : State) :
    (∀ k q, k < 256 → heldCall k s = some q → q ≤ greatestHeld s) ∧
      (greatestHeld s = 0 ∨ ∃ k, k < 256 ∧ heldCall k s = some (greatestHeld s)) := by
  refine ⟨fun k q hk hq => ?_, ?_⟩
  · exact (foldl_max_ge _ 0).2 q (List.mem_filterMap.2 ⟨k, List.mem_range.2 hk, hq⟩)
  · refine (foldl_max_mem _ 0).imp (fun h => h) fun h => ?_
    obtain ⟨k, hk, hq⟩ := List.mem_filterMap.1 h
    exact ⟨k, List.mem_range.1 hk, hq⟩

theorem grown_afterTallies (calls incidents : List Nat) {s : State} (hf : s.cfl.fault = none) :
    Grown (loadTallies s) (startupLoads calls incidents s) := by
  rw [startupLoads, if_neg (by simp [hf])]
  generalize loadTallies s = u
  refine Grown.trans (t := loadRemap u) (.of_eq rfl rfl) ?_
  exact (grown_scanCalls calls _).trans (grown_attrEvents _ _ _)

/-- A latch of a kind is set, or an occurrence of it held. -/
def SetOrHeld (k : IncKind) (s : State) : Prop :=
  latched s.inu.latches k = true ∨ ∃ d, .occurrence k d ∈ s.held

theorem SetOrHeld.grown {k : IncKind} {s t : State} (h : SetOrHeld k s) (hg : Grown s t) :
    SetOrHeld k t := h.imp (hg.1 k) fun ⟨d, hd⟩ => ⟨d, hg.2 _ hd⟩

theorem setOrHeld_occur (k : IncKind) (d : Nat) (s : State) (hk : k.latches = true) :
    SetOrHeld k (occur k d s) := by
  unfold occur
  split
  · exact .inl (by rw [latched_takeOccurrence, hk, decide_eq_true rfl, Bool.and_true, Bool.or_true])
  · exact .inr ⟨d, by simp [hold]⟩

/-- A tally area that fails its CRC brings AUDIT_SUSPECT (R153). -/
theorem setOrHeld_startupLoads (calls incidents : List Nat) {s : State} (hf : s.cfl.fault = none)
    (h : crc (s.mem.words (baseOf .tally s) 48) ≠ s.mem.word (baseOf .tally s + 96)) :
    SetOrHeld .auditSuspect (startupLoads calls incidents s) := by
  have hg := grown_afterTallies calls incidents hf
  rw [loadTallies_cases, if_neg h] at hg
  exact (setOrHeld_occur .auditSuspect 1 _ rfl).grown hg

/-! ### The clauses -/

theorem rebuild_applied (calls incidents : List Nat) (s : State) :
    rebuild (startupLoads calls incidents s) =
      if (auditApplied calls incidents s).cfl.fault.isSome then auditApplied calls incidents s
      else startStoppedDecays (auditApplied calls incidents s) := rebuild_eq _

theorem exec_audit_waits (calls incidents : List Nat) {s : State} (hp : s.powered = true)
    (hst : s.cfl.step = .audit)
    (hw : ¬(s.cfl.fault.isSome = true ∨ portReaches .adu s = true)) :
    exec (.startupAuditLoadDone calls incidents) s = .next s := by
  rw [exec_startupAuditLoadDone, onPower_up hp]
  simp only [hst]
  have hw' : (s.cfl.fault.isSome || portReaches .adu s) = false := by simpa using hw
  rw [hw', Bool.and_false, if_neg Bool.false_ne_true]

theorem exec_audit_reached (calls incidents : List Nat) {s : State} (hp : s.powered = true)
    (hst : s.cfl.step = .audit) (hr : s.pfu.power = .running)
    (hw : s.cfl.fault.isSome = true ∨ portReaches .adu s = true) :
    exec (.startupAuditLoadDone calls incidents) s = .next (startupAudit calls incidents s) := by
  rw [exec_startupAuditLoadDone, onPower_up hp]
  simp only [hst]
  rw [if_pos (by simpa [running, hr] using hw)]

/-- What step 3 leaves: the state of the applied items, with the timers started out of config
fault. -/
theorem startupAudit_eq (calls incidents : List Nat) (s : State) :
    startupAudit calls incidents s =
      enterTariffStep (if hasWindow .tariff s then some [] else none)
        (if (auditApplied calls incidents s).cfl.fault.isSome then auditApplied calls incidents s
          else startStoppedDecays (auditApplied calls incidents s)) := by
  have hw : hasWindow .tariff (startupLoads calls incidents s) = hasWindow .tariff s := by
    simp [hasWindow, windowOf]
  rw [startupAudit, hw, rebuild_applied]

theorem through_of_rising {x y : Tallies} (h : risingTallies x = risingTallies y) :
    x.collectedThrough = y.collectedThrough := by
  simp only [risingTallies, List.cons.injEq] at h
  exact h.2.2.2.2.2.2.2.2.2.2.2.2.2.2.2.1

/-- The latches that step 3 sets of a start from `s`, each where no held notice clears it. -/
def LatchesSet (s t : State) : Prop :=
  let set (k : IncKind) : Prop := .clearLatch k ∉ s.held → latched t.inu.latches k = true
  ((∃ d, .occurrence .configFault d ∈ s.held) → set .configFault) ∧
  (s.cfl.fault = none →
    crc (s.mem.words (baseOf .tally s) 48) ≠ s.mem.word (baseOf .tally s + 96) →
    set .auditSuspect) ∧
  (s.inu.doorOpen = true → set .cashDoorOpen) ∧
  (s.inu.boxPresent = false → set .cashboxRemoved) ∧
  (s.inu.cordWhole = false → set .cordCut) ∧
  (s.cfl.params.boxNearFull ≤ t.adu.cache.boxCoins → set .cashboxNearFull) ∧
  (s.cfl.params.boxFull ≤ t.adu.cache.boxCoins → set .cashboxFull) ∧
  (248 ≤ uncollected t → set .logFull)

/-- The latches of `t`, from those of the state `b` between records and counts and the loaded
state `l`. -/
theorem latchesSet_of_rebuild {s l b t : State} {a : Adu} (hlg : Grown s l)
    (hsus : s.cfl.fault = none →
      crc (s.mem.words (baseOf .tally s) 48) ≠ s.mem.word (baseOf .tally s + 96) →
      SetOrHeld .auditSuspect l)
    (hgc : Grown l (rebuildCounts b))
    (hlat : ∀ {k : IncKind}, k.latches = true →
      (latched (sensorsTaken (rebuildCounts b)).inu.latches k = true ∨
        ∃ d, .occurrence k d ∈ l.held) →
      .clearLatch k ∉ s.held → latched t.inu.latches k = true)
    (hb : b.cfl = s.cfl ∧ b.adu.cache.boxCoins = a.cache.boxCoins ∧ b.adu.nextCall = a.nextCall ∧
      b.adu.cache.collectedThrough = a.cache.collectedThrough ∧
      b.inu.doorOpen = s.inu.doorOpen ∧ b.inu.boxPresent = s.inu.boxPresent ∧
      b.inu.cordWhole = s.inu.cordWhole)
    (ht : RebuiltReads s a t) : LatchesSet s t := by
  obtain ⟨hbcfl, hbcoins, hbnext, hbthrough, hbdoor, hbbox, hbcord⟩ := hb
  obtain ⟨-, -, -, -, -, -, -, hnx, hris, -, -, hcoin, -⟩ := ht
  have hgs := grown_sensorsTaken (rebuildCounts b)
  obtain ⟨hdoor, hbox, hcord⟩ := latched_sensorsTaken (rebuildCounts b)
  obtain ⟨hsdoor, hsbox, hscord⟩ := rebuildCounts_sensors b
  have hun : uncollected t = uncollected b :=
    uncollected_of_reads (hnx.trans hbnext.symm) ((through_of_rising hris).trans hbthrough.symm)
  have hcounts (k : IncKind) := latched_rebuildCounts k b
  rw [hbcfl, ← hun, hbcoins, ← hcoin] at hcounts
  have hset {k : IncKind} (hkl : k.latches = true) (hk : SetOrHeld k l) :
      .clearLatch k ∉ s.held → latched t.inu.latches k = true :=
    hlat hkl (hk.imp_left fun h => hgs.1 _ (hgc.1 _ h))
  refine ⟨fun ⟨d, hd⟩ => hset rfl (.inr ⟨d, hlg.2 _ hd⟩), fun hf h => hset rfl (hsus hf h),
    fun h => hlat rfl (.inl (hdoor (hsdoor.trans (hbdoor.trans h)))),
    fun h => hlat rfl (.inl (hbox (hsbox.trans (hbbox.trans h)))),
    fun h => hlat rfl (.inl (hcord (hscord.trans (hbcord.trans h)))),
    fun h => hlat rfl (.inl (hgs.1 _ ((hcounts _).trans ?_))),
    fun h => hlat rfl (.inl (hgs.1 _ ((hcounts _).trans ?_))),
    fun h => hlat rfl (.inl (hgs.1 _ ((hcounts _).trans ?_)))⟩
  · simp [h]
  · simp [h]
  · simp [h]

theorem auditApplied_latches (calls incidents : List Nat) {s : State} (hq : s.lnu.quiet = false)
    (hr : s.pfu.power = .running) : LatchesSet s (auditApplied calls incidents s) := by
  have hL := besidesIncidents_startup calls incidents hq
  rw [loadBase_parts s] at hL
  exact latchesSet_of_rebuild (startupLoads_grown calls incidents s)
    (setOrHeld_startupLoads calls incidents) (grown_rebuiltCounts _)
    (auditApplied_latched calls incidents hq hr) (rebuildRecords_reads hL)
    (auditApplied_reads calls incidents hq hr)

/-- The decay timers out of config fault, or none in it. -/
def timersStarted (s : State) : State := if s.cfl.fault.isSome then s else startStoppedDecays s

theorem timersStarted_parts (s : State) :
    OnlyChanges [.inu] s (timersStarted s) ∧ (timersStarted s).inu.latches = s.inu.latches ∧
      (timersStarted s).inu.rebuilt = s.inu.rebuilt := by
  unfold timersStarted
  split
  · exact ⟨fun b _ => by cases b <;> rfl, rfl, rfl⟩
  · exact ⟨fun b hb => by cases b <;> simp at hb <;> rfl, rfl, rfl⟩

theorem timersStarted_timer {s : State} (h : ∀ a, (s.inu.attrs.get a).timer = none) (a : AttrId) :
    ((timersStarted s).inu.attrs.get a).timer =
      if s.cfl.fault.isSome ∨ (s.cfl.params.attrs.get a).decay = 0 then none
      else some (s.inu.ms + (s.cfl.params.attrs.get a).decay * 60000) := by
  unfold timersStarted
  by_cases hf : s.cfl.fault.isSome = true
  · rw [if_pos hf, if_pos (.inl hf), h]
  · rw [if_neg hf, startStoppedDecays_get]
    simp only [h, true_and, hf, ne_eq, ite_not, Bool.false_eq_true, false_or]

/-- What step 3 leaves once its timers have been started. -/
theorem auditLeft (c : Option (List Word)) {s u : State} {a : Adu} (hread : RebuiltReads s a u) :
    let t := enterTariffStep c (timersStarted u)
    OnlyChanges [.cfl, .rqu, .tru, .inu, .adu, .held] s t ∧ t.cfl = { s.cfl with step := .tariff } ∧
      t.inu.rebuilt = true ∧ t.tru = { s.tru with compare := c } ∧ t.held = u.held ∧
      t.adu = u.adu ∧ t.inu.latches = u.inu.latches ∧
      ∀ i, (t.inu.attrs.get i).timer =
        if s.cfl.fault.isSome ∨ (s.cfl.params.attrs.get i).decay = 0 then none
        else some (s.inu.ms + (s.cfl.params.attrs.get i).decay * 60000) := by
  obtain ⟨hc, hms, hreb, -, -, -, -, -, -, -, -, -, htim⟩ := hread
  have hcfl : u.cfl = s.cfl := hc .cfl (by simp)
  have htru : u.tru = s.tru := hc .tru (by simp)
  obtain ⟨hto, htl, htr⟩ := timersStarted_parts u
  have htimer := timersStarted_timer htim
  rw [hcfl, hms] at htimer
  have hcfl' : (timersStarted u).cfl = s.cfl := (hto .cfl (by simp)).trans hcfl
  have htru' : (timersStarted u).tru = s.tru := (hto .tru (by simp)).trans htru
  refine ⟨fun b hb => ?_, ?_, htr.trans hreb, ?_, hto .held (by simp), hto .adu (by simp), htl, htimer⟩
  · have h1 := hto b (by cases b <;> simp at hb ⊢)
    have h2 := hc b (by cases b <;> simp at hb ⊢)
    cases b <;> simp at hb <;> exact h1.trans h2
  · rw [← hcfl']
    rfl
  · rw [← htru']
    rfl

theorem loadBase_loaded {s : State} (hf : s.cfl.fault = none) : loadBase s = auditLoads s := by
  rw [loadBase, if_neg (by simp [hf])]

/-- The ADU once it has loaded. -/
theorem auditLoads_adu (s : State) :
    let a := (auditLoads s).adu
    a.suspect = decide (crc (s.mem.words (baseOf .tally s) 48) ≠ s.mem.word (baseOf .tally s + 96)) ∧
      a.check = s.mem.word (baseOf .tally s + 96) ∧ a.cache = talliesLoaded s ∧
      a.remap = remapRead s ∧ a.greatest = greatestHeld (tablesLoaded s) ∧
      a.nextCall = (max (greatestHeld (tablesLoaded s)) (talliesLoaded s).collectedThrough + 1)
        % 0x100000000 := by
  simp only [auditLoads, scanned, tablesLoaded, talliesIn, and_self]

theorem tablesLoaded_parts (s : State) :
    (tablesLoaded s).mem = s.mem ∧ (tablesLoaded s).bpu = s.bpu ∧
      (tablesLoaded s).adu.remap = remapRead s := by
  simp only [tablesLoaded, talliesIn, and_self]

theorem faultLoads_adu (s : State) :
    let a := (faultLoads s).adu
    a.suspect = true ∧ a.nextCall = 1 ∧ a.remap = List.replicate 8 .bad ∧ a.cache = Tallies.zero :=
  ⟨rfl, rfl, rfl, rfl⟩

theorem loadsTaken : Clause.LoadsTaken := by
  intro s calls incidents hp hst hr hq ws check reached
  refine ⟨exec_audit_waits calls incidents hp hst, fun hreach => ?_⟩
  refine ⟨_, exec_audit_reached calls incidents hp hst hr hreach, ?_⟩
  have hread := auditApplied_reads calls incidents hq hr
  have hheld := (auditApplied_kept calls incidents hq hr).2
  have hlat := auditApplied_latches calls incidents hq hr
  have heq := startupAudit_eq calls incidents s
  generalize startupAudit calls incidents s = t at *
  generalize auditApplied calls incidents s = u at *
  obtain ⟨h1, h2, h3, h4, h5, h6, h7, h8⟩ :=
    auditLeft (if hasWindow .tariff s then some [] else none) hread
  rw [show enterTariffStep (if hasWindow .tariff s then some [] else none) (timersStarted u) = t
    from heq.symm] at h1 h2 h3 h4 h5 h6 h7 h8
  obtain ⟨hc, -, -, hsus, hch, hrem, hgr, hnx, hris, hesc, hval, hcoin, -⟩ := hread
  have hmem : t.mem = s.mem := h1 .mem (by simp)
  have hbpu : t.bpu = s.bpu := h1 .bpu (by simp)
  have hun : uncollected t = uncollected u := uncollected_congr h6
  rw [← h6] at hsus hch hrem hgr hnx hris hesc hval hcoin
  have hlat' : LatchesSet s t := by
    unfold LatchesSet at hlat ⊢
    rw [h7, h6, hun]
    exact hlat
  obtain ⟨hcf, hl1, hl2, hl3, hl4, hl5, hl6, hl7⟩ := hlat'
  refine ⟨h1, h2, h3, h4, h5.trans hheld, fun hf => ?_, fun hf => ?_, hl1, hl2, hl3, hl4, hl5, hl6, hl7⟩
  · rw [loadBase_loaded hf] at hsus hch hrem hgr hnx hris hesc hval hcoin
    obtain ⟨a1, a2, a3, a4, a5, a6⟩ := auditLoads_adu s
    obtain ⟨b1, b2, b3⟩ := tablesLoaded_parts s
    rw [a1] at hsus
    rw [a2] at hch
    rw [a3] at hris hesc hval hcoin
    rw [a4] at hrem
    rw [a5] at hgr
    rw [a6] at hnx
    have hcall (k : Nat) : heldCall k t = heldCall k (tablesLoaded s) :=
      heldCall_congr k (hmem.trans b1.symm) (hbpu.trans b2.symm) (hrem.trans b3.symm)
    obtain ⟨hg1, hg2⟩ := greatestHeld_spec (tablesLoaded s)
    refine ⟨hsus, hch, ⟨hris, hesc, hval, hcoin⟩, fun k q hk hq => ?_, ?_, ?_, fun i => ?_⟩
    · rw [hgr]
      exact hg1 k q hk ((hcall k).symm.trans hq)
    · rw [hgr]
      exact hg2.imp_right fun ⟨k, hk, hq⟩ => ⟨k, hk, (hcall k).trans hq⟩
    · rw [hnx, hgr, through_of_rising hris]
    · rw [h8]
      simp only [hf, Option.isSome_none, Bool.false_eq_true, false_or]
  · rw [loadBase, if_pos hf] at hsus hch hrem hgr hnx hris hesc hval hcoin
    obtain ⟨a1, a2, a3, a4⟩ := faultLoads_adu s
    refine ⟨hsus.trans a1, hnx.trans a2, hrem.trans a3, by rw [hris, a4], by rw [hesc, a4]; rfl,
      fun i => ?_, fun d hd => hcf ⟨d, hd⟩⟩
    rw [h8, if_pos (.inl hf)]

end Sys2Proof.Machine
end

section
/-! The remap table at the end of step 3. -/

namespace Sys2Proof.Machine

/-! ### The remap table at the end of step 3 -/

theorem remapRead_congr {s t : State} (hm : t.mem = s.mem) (hb : t.bpu = s.bpu) :
    remapRead t = remapRead s := by
  simp only [remapRead, entryAddr, baseOf, windowOf, hm, hb]

theorem rebuild_remap (s : State) : (rebuild s).adu.remap = s.adu.remap := by
  have happ (u : State) : (rebuildApplied u).adu.remap = u.adu.remap := by
    unfold rebuildApplied
    simp
  have hcnt (u : State) : (rebuildCounts u).adu.remap = u.adu.remap := by
    unfold rebuildCounts
    simp
  have hrec (u : State) : (rebuildRecords u).adu.remap = u.adu.remap := by
    unfold rebuildRecords
    split <;> simp
  have hattr (u : State) : (rebuiltAttrs u).adu.remap = u.adu.remap := by
    simp [rebuiltAttrs, allAttrs]
  have hidx : (rebuiltIndex s).adu.remap = s.adu.remap := by
    rw [rebuiltIndex_counts, happ, rebuiltCounts, hcnt, hrec, hattr]
  rw [rebuild_eq]
  split
  · exact hidx
  · rw [(startStoppedDecays_frame _).2.2.2.2.2.2.2.2.2.2.1]
    exact hidx

theorem enterTariffStep_adu (c : Option (List Word)) (s : State) :
    (enterTariffStep c s).adu = s.adu := rfl

theorem startupAudit_remap (calls incidents : List Nat) {s : State} (hf : s.cfl.fault = none) :
    (startupAudit calls incidents s).adu.remap = remapRead s := by
  have hl : (startupLoads calls incidents s).adu.remap = remapRead s := by
    rw [startupLoads, if_neg (by simp [hf])]
    simp only [attrEvents_frame, scanCalls_frame, loadRemap_eq]
    exact remapRead_congr (by simp) (by simp)
  rw [startupAudit, enterTariffStep_adu, rebuild_remap, hl]

theorem words_four (m : Memory) (a : Nat) :
    m.words a 4 = [m.word a, m.word (a + 2), m.word (a + 4), m.word (a + 6)] := by
  simp [Memory.words]

theorem remapTable_read : Clause.RemapRead := by
  intro s calls incidents hp hst hr hf hport entry w free names
  refine ⟨_, exec_audit_reached calls incidents hp hst hr (.inr hport), ?_⟩
  rw [startupAudit_remap calls incidents hf]
  have hnames (j : Nat) (log : LogId) (slot : Nat) : names j log slot ↔ EntryNames (entry j) log slot := by
    cases log <;> exact Iff.rfl
  let entries := (List.range 8).map fun j => entryOf (entry j)
  have hget {j : Nat} (hj : j < 8) : entries[j]? = some (entryOf (entry j)) := by
    simp [entries, hj]
  have hread {j : Nat} (hj : j < 8) : (remapRead s)[j]? =
      some (if isTwin (entries.take j) (entryOf (entry j)) then .bad else entryOf (entry j)) :=
    dropTwins_get [] (hget hj)
  have hfour (j : Nat) : ∃ a b c d, entry j = [a, b, c, d] := ⟨_, _, _, _, words_four s.mem _⟩
  -- An entry before the `j`th names a slot exactly where its words do.
  have hmem {j : Nat} (hj : j < 8) (log : LogId) (slot : Nat) :
      .mapped log slot ∈ entries.take j ↔ ∃ i, i < j ∧ names i log slot := by
    rw [List.mem_iff_getElem?]
    refine ⟨fun ⟨i, hi⟩ => ?_, fun ⟨i, hi, hn⟩ => ⟨i, ?_⟩⟩
    · rw [List.getElem?_take] at hi
      split at hi
      · next hlt =>
        rw [hget (by omega)] at hi
        obtain ⟨a, b, c, d, he⟩ := hfour i
        have hm := Option.some.inj hi
        rw [he] at hm
        exact ⟨i, hlt, (hnames i log slot).2 (he ▸ entryOf_mapped hm)⟩
      · exact absurd hi (by simp)
    · obtain ⟨a, b, c, d, he⟩ := hfour i
      have hn' := (hnames i log slot).1 hn
      rw [List.getElem?_take, if_pos hi, hget (by omega), he]
      rw [he] at hn'
      rw [entryOf_names hn']
  refine ⟨(dropTwins_length _ _).trans (by simp), fun j hj => ?_⟩
  obtain ⟨a, b, c, d, he⟩ := hfour j
  have hw : w j 0 = a.toNat := by
    show ((entry j).getD 0 0).toNat = a.toNat
    rw [he]
    rfl
  have hread' := hread hj
  rw [he] at hread'
  refine ⟨fun hfree => ?_, fun log slot hn => ?_, fun hnf hnone => ?_⟩
  · have hfree' : a.toNat = 0 ∨ a.toNat = 0xFFFF := by
      rw [← hw]
      exact hfree
    rw [hread', entryOf_free hfree']
    rfl
  · have hn' := (hnames j log slot).1 hn
    rw [he] at hn'
    rw [hread', entryOf_names hn', isTwin]
    refine ⟨fun hfirst => ?_, fun htwin => ?_⟩
    · rw [decide_eq_false fun hm => ?_]
      · rfl
      · obtain ⟨i, hi, hni⟩ := (hmem hj log slot).1 hm
        exact hfirst i hi hni
    · rw [decide_eq_true ((hmem hj log slot).2 htwin)]
      rfl
  · have hbad : entryOf [a, b, c, d] = .bad := by
      refine entryOf_bad (fun h => hnf ?_) fun log slot h => hnone log slot ?_
      · show w j 0 = 0 ∨ w j 0 = 0xFFFF
        rw [hw]
        exact h
      · refine (hnames j log slot).2 ?_
        rw [he]
        exact h
    rw [hread', hbad]
    rfl

end Sys2Proof.Machine
end

section
/-! The loads while the INU holds (R136, R137). -/

namespace Sys2Proof.Machine

/-! ### The loads while the INU holds -/

theorem occur_inactive (k : IncKind) (d : Nat) {s : State} (ha : inuActive s = false) :
    occur k d s = { s with held := s.held ++ [.occurrence k d] } := by
  rw [occur, if_neg (by simp [ha]), hold]

theorem attrEvents_inactive (a : AttrId) (n : Nat) {s : State} (ha : inuActive s = false) :
    attrEvents a n s = { s with held := s.held ++ List.replicate n (.attrEvent a) } := by
  induction n generalizing s with
  | zero => simp [attrEvents]
  | succ n ih =>
    have he : attrEvent a s = { s with held := s.held ++ [.attrEvent a] } := by
      rw [attrEvent, if_neg (by simp [ha]), hold]
    rw [attrEvents, he, ih (by exact ha)]
    simp [List.replicate_succ, List.append_assoc]

/-- A held step: INU and ADU stand, and items join what is held. -/
def HeldStep (items : List Held) (s t : State) : Prop :=
  t.inu = s.inu ∧ t.adu = s.adu ∧ t.held = s.held ++ items ∧ t.pfu = s.pfu ∧ t.mem = s.mem ∧
    t.bpu = s.bpu

theorem rereads_congr {s t : State} (log : LogId) (misread : List Nat) (hm : t.mem = s.mem)
    (hb : t.bpu = s.bpu) (hr : t.adu.remap = s.adu.remap) :
    rereads log misread t = rereads log misread s := by
  simp only [rereads, slotWords_congr log _ hm hb hr]

/-- What the loads hand an INU that holds. -/
def loadItems (calls incidents : List Nat) (s : State) : List Held :=
  (if crc (s.mem.words (baseOf .tally s) 48) = s.mem.word (baseOf .tally s + 96) then []
    else [.occurrence .auditSuspect 1]) ++
  List.replicate (rereads .call calls (tablesLoaded s) + rereads .incident incidents (tablesLoaded s))
    (.attrEvent .nvRetries)

theorem inuActive_adu (s : State) (a : Adu) : inuActive { s with adu := a } = inuActive s := rfl

theorem inuActive_talliesIn (s : State) : inuActive (talliesIn s) = inuActive s := by
  unfold talliesIn
  exact inuActive_adu s _

theorem loadTallies_inactive {s : State} (ha : inuActive s = false) :
    loadTallies s =
      { talliesIn s with
        held := s.held ++
          if crc (s.mem.words (baseOf .tally s) 48) = s.mem.word (baseOf .tally s + 96) then []
          else [.occurrence .auditSuspect 1] } := by
  have ha' : inuActive (talliesIn s) = false := (inuActive_talliesIn s).trans ha
  have hh : (talliesIn s).held = s.held := (talliesIn_parts s).2.1
  rw [loadTallies_cases, occur_inactive _ _ ha', hh]
  generalize talliesIn s = u at hh
  split
  · rw [List.append_nil, ← hh]
  · rfl

theorem scanned_parts (s : State) :
    (scanned s).inu = s.inu ∧ (scanned s).held = s.held ∧ (scanned s).mem = s.mem ∧
      (scanned s).bpu = s.bpu ∧ (scanned s).adu.remap = s.adu.remap ∧
      inuActive (scanned s) = inuActive s := ⟨rfl, rfl, rfl, rfl, rfl, rfl⟩

theorem scanned_held (s : State) (h : List Held) :
    scanned { s with held := h } = { scanned s with held := h } := rfl

theorem raiseIf_parts (c : Bool) (e : Event) (s : State) :
    (raiseIf c e s).inu = s.inu ∧ (raiseIf c e s).adu = s.adu ∧ (raiseIf c e s).held = s.held ∧
      (raiseIf c e s).mem = s.mem ∧ (raiseIf c e s).bpu = s.bpu ∧
      inuActive (raiseIf c e s) = inuActive s := by
  unfold raiseIf
  split <;> exact ⟨rfl, rfl, rfl, rfl, rfl, rfl⟩

/-- The scan of the call log while the INU holds. -/
theorem scanCalls_inactive (calls : List Nat) {u : State} (ha : inuActive u = false) :
    let t := scanCalls calls u
    t.inu = u.inu ∧ t.adu = (scanned u).adu ∧
      t.held = u.held ++ List.replicate (rereads .call calls u) (.attrEvent .nvRetries) ∧
      t.mem = u.mem ∧ t.bpu = u.bpu ∧ inuActive t = inuActive u := by
  have he : scanCalls calls u = raiseIf (decide (u.cfl.params.logNearFull ≤ uncollected (scanned u))) .log
      { scanned u with
        held := u.held ++ List.replicate (rereads .call calls u) (.attrEvent .nvRetries) } := by
    unfold scanCalls
    rw [attrEvents_inactive _ _ ha]
    rfl
  rw [he]
  obtain ⟨h1, h2, h3, h4, h5, h6⟩ := raiseIf_parts
    (decide (u.cfl.params.logNearFull ≤ uncollected (scanned u))) .log
      { scanned u with
        held := u.held ++ List.replicate (rereads .call calls u) (.attrEvent .nvRetries) }
  exact ⟨h1, h2, h3, h4, h5, h6⟩

/-- The loads while the INU holds: it stands, the ADU is loaded, and the items are held. -/
theorem startupLoads_inactive (calls incidents : List Nat) {s : State} (hf : s.cfl.fault = none)
    (ha : inuActive s = false) :
    let t := startupLoads calls incidents s
    t.inu = s.inu ∧ t.adu = (auditLoads s).adu ∧ t.held = s.held ++ loadItems calls incidents s := by
  have hu : loadRemap (loadTallies s) =
      { tablesLoaded s with
        held := s.held ++
          if crc (s.mem.words (baseOf .tally s) 48) = s.mem.word (baseOf .tally s + 96) then []
          else [.occurrence .auditSuspect 1] } := by
    have hm : remapRead (loadTallies s) = remapRead s := remapRead_congr (by simp) (by simp)
    rw [loadRemap_eq, hm, loadTallies_inactive ha, tablesLoaded]
  have hact : inuActive (loadRemap (loadTallies s)) = false := by
    rw [loadRemap_eq, inuActive_adu]
    simpa [inuActive, running] using ha
  obtain ⟨h1, h2, h3, h4, h5, h6⟩ := scanCalls_inactive calls hact
  have hbase : startupLoads calls incidents s =
      attrEvents .nvRetries (rereads .incident incidents (scanCalls calls (loadRemap (loadTallies s))))
        (scanCalls calls (loadRemap (loadTallies s))) := by
    rw [startupLoads, if_neg (by simp [hf])]
  rw [hbase]
  obtain ⟨m1, m2, m3⟩ := tablesLoaded_parts s
  have htinu : (tablesLoaded s).inu = s.inu := by simp only [tablesLoaded, talliesIn]
  rw [auditLoads, loadItems]
  generalize tablesLoaded s = v at *
  generalize loadRemap (loadTallies s) = u at *
  subst hu
  generalize scanCalls calls _ = w at *
  have hr1 : rereads .call calls { v with
      held := s.held ++
        if crc (s.mem.words (baseOf .tally s) 48) = s.mem.word (baseOf .tally s + 96) then []
        else [.occurrence .auditSuspect 1] } = rereads .call calls v :=
    rereads_congr .call calls rfl rfl rfl
  have hr2 : rereads .incident incidents w = rereads .incident incidents v :=
    rereads_congr .incident incidents h4 h5 (by rw [h2, scanned_held]; rfl)
  rw [hr1] at h3
  rw [hr2, attrEvents_inactive _ _ (h6.trans hact)]
  refine ⟨h1.trans htinu, ?_, ?_⟩
  · exact h2.trans (by rw [scanned_held])
  · refine (congrArg (· ++ _) h3).trans ?_
    simp only [List.append_assoc, List.replicate_append_replicate]

end Sys2Proof.Machine
end

section
/-! Occurrences, records and jobs across the rebuild (R131, R132, R137). -/

namespace Sys2Proof.Machine

/-! ### Occurrences taken before and after the rebuild's end -/

theorem queueRecord_rebuilt (log : LogId) (slot : Nat) (ws : List Word) (s : State) :
    queueRecord log slot ws (rebuilt s) = rebuilt (queueRecord log slot ws s) := by
  have h : (rebuilt s).adu = s.adu := rfl
  rw [queueRecord, queueRecord, h]
  split <;> rfl

theorem rewrite_rebuilt (r : IncRec) (s : State) : rewrite r (rebuilt s) = rebuilt (rewrite r s) := by
  have h : hasWindow .incidentLog (rebuilt s) = hasWindow .incidentLog s := rfl
  rw [rewrite, rewrite, h]
  split
  · exact queueRecord_rebuilt _ _ _ s
  · rfl

theorem putRecord_rebuilt (r : IncRec) (s : State) :
    putRecord r (rebuilt s) = rebuilt (putRecord r s) :=
  rewrite_rebuilt r { s with inu.records := s.inu.records.map fun x => if x.slot = r.slot then r else x }

theorem setLatch_rebuilt (k : IncKind) (s : State) :
    setLatch k (rebuilt s) = rebuilt (setLatch k s) := by
  have h : (rebuilt s).inu.latches = s.inu.latches := rfl
  rw [setLatch, setLatch, h]
  split <;> rfl

theorem raise_rebuilt (e : Event) (s : State) : raise e (rebuilt s) = rebuilt (raise e s) := rfl

theorem createRecord_rebuilt (k : IncKind) (d : Nat) (s : State) :
    createRecord k d (rebuilt s) = rebuilt (createRecord k d s) := by
  have h : (rebuilt s).inu.records = s.inu.records := rfl
  rw [createRecord, createRecord, h]
  split
  · rfl
  · next slot _ =>
    exact rewrite_rebuilt (newRecord k d slot s)
      { s with
        inu.records := (s.inu.records.filter fun x => x.slot ≠ slot) ++ [newRecord k d slot s]
        inu.counter := (s.inu.counter + 1) % 65536 }

/-- Over a line that is not quiet an occurrence is taken alike while the INU rebuilds and after. -/
theorem takeOccurrence_rebuilt (k : IncKind) (d : Nat) {s : State} (hq : s.lnu.quiet = false) :
    takeOccurrence k d (rebuilt s) = rebuilt (takeOccurrence k d s) := by
  have hp : pendingOf k (rebuilt s) = pendingOf k s := rfl
  have hst : stampNow (rebuilt s) = stampNow s := rfl
  have hh : holdMinutes k (rebuilt s) = holdMinutes k s := rfl
  have hj (u : State) (hu : u.lnu = s.lnu) : judgeStart u = u :=
    judgeStart_busy (by rw [hu]; exact hq)
  unfold takeOccurrence
  rw [hp, hh, hst]
  split
  · rw [putRecord_rebuilt, setLatch_rebuilt, raise_rebuilt]
  · dsimp only
    rw [createRecord_rebuilt, setLatch_rebuilt, raise_rebuilt]
    split
    · rw [hj _ (by simp [raise, rebuilt]), hj _ (by simp [raise])]
    · rfl

theorem sensed_rebuilt (c : Bool) (k : IncKind) {s : State} (hq : s.lnu.quiet = false) :
    sensedAtRebuild c k (rebuilt s) = rebuilt (sensedAtRebuild c k s) := by
  unfold sensedAtRebuild
  split
  · exact takeOccurrence_rebuilt k 0 hq
  · rfl

theorem sensorsTaken_rebuilt {s : State} (hq : s.lnu.quiet = false) :
    sensorsTaken (rebuilt s) = rebuilt (sensorsTaken s) := by
  have h1 := besidesIncidents_sensed s.inu.doorOpen .cashDoorOpen hq
  have q1 := quiet_of_besides h1 hq
  have h2 := besidesIncidents_sensed (!s.inu.boxPresent) .cashboxRemoved q1
  have q2 := quiet_of_besides h2 q1
  have hi : (rebuilt s).inu.doorOpen = s.inu.doorOpen ∧ (rebuilt s).inu.boxPresent = s.inu.boxPresent ∧
      (rebuilt s).inu.cordWhole = s.inu.cordWhole := ⟨rfl, rfl, rfl⟩
  unfold sensorsTaken
  rw [hi.1, hi.2.1, hi.2.2, sensed_rebuilt _ _ hq, sensed_rebuilt _ _ q1, sensed_rebuilt _ _ q2]

/-- Taken by an INU that applies, a sensor's occurrence is one that is handed. -/
theorem sensed_eq_occur (c : Bool) (k : IncKind) {s : State} (ha : inuActive s = true) :
    sensedAtRebuild c k s = if c = true then occur k 0 s else s := by
  rw [sensedAtRebuild, occur_active k 0 ha]

theorem foldl_heldTaken (items : List Held) (s : State) (h : ∀ i ∈ items, i.isIncident = true) :
    items.foldl heldTaken s = items.foldl (fun s h => takeIncidentItem h s) s := by
  induction items generalizing s with
  | nil => rfl
  | cons i items ih =>
    have hi : heldTaken s i = takeIncidentItem i s := by
      have := h i (List.mem_cons_self ..)
      cases i with
      | occurrence k d => rfl
      | attrEvent a => rfl
      | clearLatch k => rfl
      | _ => exact absurd this (by simp [Held.isIncident])
    rw [List.foldl_cons, List.foldl_cons, hi]
    exact ih _ fun j hj => h j (List.mem_cons_of_mem _ hj)

/-! ### The index at the rebuild -/

/-- What of a record a return to PENDING leaves. -/
def knownOf (r : IncRec) : Nat × Nat × IncKind × Nat × Nat × Bool × Stamp × Stamp × Option Nat :=
  (r.slot, r.seq, r.kind, r.detail, r.attempts, r.cleared, r.first, r.nextAttempt, r.snapshot)

theorem putRecord_records (r : IncRec) (s : State) :
    (putRecord r s).inu.records = s.inu.records.map fun x => if x.slot = r.slot then r else x := by
  unfold putRecord
  simp

theorem putRecord_known {r x : IncRec} {s : State} (hn : (s.inu.records.map (·.slot)).Nodup)
    (hx : x ∈ s.inu.records) (hk : knownOf r = knownOf x) :
    (putRecord r s).inu.records.map knownOf = s.inu.records.map knownOf := by
  rw [putRecord_records, List.map_map]
  refine List.map_congr_left fun y hy => ?_
  show knownOf (if y.slot = r.slot then r else y) = knownOf y
  split
  · next h =>
    have hs : r.slot = x.slot := congrArg Prod.fst hk
    rw [List.inj_on_of_nodup_map hn hy hx (h.trans hs)]
    exact hk
  · rfl

theorem slots_of_known {l l' : List IncRec} (h : l'.map knownOf = l.map knownOf) :
    l'.map (·.slot) = l.map (·.slot) := by
  have := congrArg (List.map Prod.fst) h
  simpa [List.map_map, knownOf, Function.comp_def] using this

/-- A record returned to PENDING with a newer one of its kind absorbed. -/
def IncRec.absorbing (r newer : IncRec) : IncRec :=
  { r with state := .pending, count := min 255 (r.count + newer.count), last := newer.last }

theorem yieldRecord_known (q : Nat) {s : State} (hn : (s.inu.records.map (·.slot)).Nodup) :
    (yieldRecord q s).inu.records.map knownOf = s.inu.records.map knownOf := by
  unfold yieldRecord returnRecord
  split
  · rfl
  · next r hr =>
    have hmem := List.mem_of_find?_eq_some hr
    dsimp only [id]
    split
    · exact putRecord_known hn hmem rfl
    · next newer hnew =>
      have hnmem := List.mem_of_find?_eq_some hnew
      have h1 : (putRecord (r.absorbing newer) s).inu.records.map knownOf =
          s.inu.records.map knownOf := putRecord_known hn hmem rfl
      have hin : knownOf newer ∈ (putRecord (r.absorbing newer) s).inu.records.map knownOf := by
        rw [h1]
        exact List.mem_map_of_mem hnmem
      obtain ⟨x, hx, hxk⟩ := List.mem_map.1 hin
      exact (putRecord_known (r := { newer with state := .reported })
        (by rw [slots_of_known h1]; exact hn) hx hxk.symm).trans h1

theorem forSeqs_known (qs : List Nat) {s : State} (hn : (s.inu.records.map (·.slot)).Nodup) :
    (forSeqs yieldRecord qs s).inu.records.map knownOf = s.inu.records.map knownOf := by
  induction qs generalizing s with
  | nil => rfl
  | cons q qs ih =>
    have h1 := yieldRecord_known q hn
    exact (ih (s := yieldRecord q s) (by rw [slots_of_known h1]; exact hn)).trans h1

/-! #### Where no two records that are not REPORTED are of a kind -/

/-- The records are told apart by slot, and those not REPORTED by kind and by sequence. -/
def Unmerged (rs : List IncRec) : Prop :=
  (rs.map (·.slot)).Nodup ∧
    ∀ r ∈ rs, ∀ x ∈ rs, r.state ≠ .reported → x.state ≠ .reported → x.kind = r.kind ∨ x.seq = r.seq →
      x = r

/-- A record returned to PENDING. -/
def IncRec.pended (r : IncRec) : IncRec := { r with state := .pending }

theorem yieldRecord_unmerged {s : State} {r : IncRec} (hu : Unmerged s.inu.records)
    (hr : r ∈ s.inu.records) (hrep : r.state = .reporting) :
    yieldRecord r.seq s = putRecord r.pended s := by
  have hfind : (s.inu.records.find? fun x => x.seq = r.seq && x.state = .reporting) = some r := by
    cases hf : s.inu.records.find? fun x => x.seq = r.seq && x.state = .reporting with
    | none =>
      have := List.find?_eq_none.1 hf r hr
      simp [hrep] at this
    | some y =>
      have hy := List.find?_some hf
      simp only [Bool.and_eq_true, decide_eq_true_eq] at hy
      rw [hu.2 r hr y (List.mem_of_find?_eq_some hf) (by simp [hrep]) (by simp [hy.2]) (.inr hy.1)]
  have hnone : pendingOf r.kind s = none := by
    refine List.find?_eq_none.2 fun y hy => ?_
    simp only [Bool.and_eq_true, decide_eq_true_eq, not_and]
    intro hk hp
    have := hu.2 r hr y hy (by simp [hrep]) (by simp [hp]) (.inl hk)
    rw [this, hrep] at hp
    exact nomatch hp
  unfold yieldRecord returnRecord
  rw [hfind]
  dsimp only [id]
  rw [hnone]
  rfl

theorem putRecord_unmerged {s : State} {r : IncRec} (hu : Unmerged s.inu.records)
    (hr : r ∈ s.inu.records) (hrep : r.state = .reporting) :
    Unmerged (putRecord r.pended s).inu.records := by
  have hsl : (putRecord r.pended s).inu.records.map (·.slot) = s.inu.records.map (·.slot) :=
    slots_of_known (putRecord_known hu.1 hr rfl)
  refine ⟨by rw [hsl]; exact hu.1, ?_⟩
  rw [putRecord_records]
  -- Each record stands for the one of its slot, with its kind and sequence.
  have hback (y : IncRec) (hy : y ∈ s.inu.records.map fun x => if x.slot = r.pended.slot then r.pended else x) :
      ∃ x ∈ s.inu.records, y = (if x.slot = r.slot then r.pended else x) ∧ y.kind = x.kind ∧
        y.seq = x.seq ∧ (y.state ≠ .reported → x.state ≠ .reported) := by
    obtain ⟨x, hx, rfl⟩ := List.mem_map.1 hy
    refine ⟨x, hx, rfl, ?_⟩
    split
    · next h =>
      obtain rfl : x = r := List.inj_on_of_nodup_map hu.1 hx hr h
      exact ⟨rfl, rfl, fun _ => by simp [hrep]⟩
    · exact ⟨rfl, rfl, fun h => h⟩
  intro y hy z hz hys hzs hkz
  obtain ⟨x, hx, hyx, hk, hs, hst⟩ := hback y hy
  obtain ⟨w, hw, hzw, hk', hs', hst'⟩ := hback z hz
  have : w = x := hu.2 x hx w hw (hst hys) (hst' hzs) (by rw [← hk', ← hs', ← hk, ← hs]; exact hkz)
  rw [hzw, hyx, this]

/-- A record's write leaves the jobs that are not of its slot. -/
theorem queueRecord_leaves {log : LogId} {slot : Nat} {ws : List Word} {s : State} {j : Job}
    (hj : j.isRecordOf log slot = false) (h : j ∈ s.adu.jobs) :
    j ∈ (queueRecord log slot ws s).adu.jobs := by
  unfold queueRecord
  split
  · exact List.mem_map.2 ⟨j, h, by simp [hj]⟩
  · exact List.mem_append_left _ h

theorem queueRecord_mem (log : LogId) (slot : Nat) (ws : List Word) (s : State) :
    .record log slot ws ∈ (queueRecord log slot ws s).adu.jobs := by
  unfold queueRecord
  split
  · next h =>
    obtain ⟨j, hj, hjr⟩ := List.any_eq_true.1 h
    exact List.mem_map.2 ⟨j, hj, by simp [hjr]⟩
  · exact List.mem_append_right _ (List.mem_singleton_self _)

theorem putRecord_jobs {r : IncRec} {s : State} (hw : hasWindow .incidentLog s = true) :
    (putRecord r s).adu.jobs =
      (queueRecord .incident r.slot (incidentWords r)
        { s with inu.records := s.inu.records.map fun x => if x.slot = r.slot then r else x }).adu.jobs := by
  unfold putRecord rewrite
  rw [if_pos (by exact hw)]

theorem forSeqs_unmerged (todo : List IncRec) {s : State} (hu : Unmerged s.inu.records)
    (hin : ∀ r ∈ todo, r ∈ s.inu.records ∧ r.state = .reporting)
    (hn : (todo.map (·.slot)).Nodup) :
    let t := forSeqs yieldRecord (todo.map (·.seq)) s
    t.inu.records = (s.inu.records.map fun x => if x ∈ todo then x.pended else x) ∧
      (hasWindow .incidentLog s = true →
        (∀ r ∈ todo, .record .incident r.slot (incidentWords r.pended) ∈ t.adu.jobs) ∧
        ∀ slot ws, slot ∉ todo.map (·.slot) → .record .incident slot ws ∈ s.adu.jobs →
          .record .incident slot ws ∈ t.adu.jobs) := by
  induction todo generalizing s with
  | nil => exact ⟨by simp [forSeqs], fun _ => ⟨fun r hr => absurd hr (by simp), fun _ _ _ h => h⟩⟩
  | cons r todo ih =>
    intro t
    obtain ⟨hr, hrep⟩ := hin r (List.mem_cons_self ..)
    rw [List.map_cons, List.nodup_cons] at hn
    have hstep : t = forSeqs yieldRecord (todo.map (·.seq)) (putRecord r.pended s) := by
      show forSeqs yieldRecord (todo.map (·.seq)) (yieldRecord r.seq s) = _
      rw [yieldRecord_unmerged hu hr hrep]
    have hother {x : IncRec} (hx : x ∈ todo) : x.slot ≠ r.slot := fun h =>
      hn.1 (h ▸ List.mem_map_of_mem hx)
    have hrecs := putRecord_records r.pended s
    have hin' (x : IncRec) (hx : x ∈ todo) :
        x ∈ (putRecord r.pended s).inu.records ∧ x.state = .reporting := by
      obtain ⟨hxs, hxr⟩ := hin x (List.mem_cons_of_mem _ hx)
      refine ⟨?_, hxr⟩
      rw [hrecs]
      exact List.mem_map.2 ⟨x, hxs, if_neg (hother hx)⟩
    have hw' : hasWindow .incidentLog (putRecord r.pended s) = hasWindow .incidentLog s := by
      simp [hasWindow, windowOf]
    obtain ⟨h1, h2⟩ := ih (putRecord_unmerged hu hr hrep) hin' hn.2
    rw [← hstep] at h1 h2
    refine ⟨?_, fun hwin => ?_⟩
    · rw [h1, hrecs, List.map_map]
      refine List.map_congr_left fun x hx => ?_
      show (if (if x.slot = r.slot then r.pended else x) ∈ todo then
        (if x.slot = r.slot then r.pended else x).pended else
          (if x.slot = r.slot then r.pended else x)) = _
      by_cases hs : x.slot = r.slot
      · obtain rfl : x = r := List.inj_on_of_nodup_map hu.1 hx hr hs
        rw [if_pos rfl, if_pos (List.mem_cons_self ..), if_neg]
        intro hm
        exact hother hm rfl
      · have hne : x ≠ r := fun h => hs (by rw [h])
        rw [if_neg hs]
        simp [hne]
    · obtain ⟨h3, h4⟩ := h2 (by rw [hw']; exact hwin)
      have hjobs := putRecord_jobs (r := r.pended) hwin
      refine ⟨fun x hx => ?_, fun slot ws hslot hmem => ?_⟩
      · rcases List.mem_cons.1 hx with rfl | hx
        · refine h4 _ _ hn.1 ?_
          rw [hjobs]
          exact queueRecord_mem ..
        · exact h3 x hx
      · rw [List.map_cons, List.mem_cons, not_or] at hslot
        refine h4 _ _ hslot.2 ?_
        rw [hjobs]
        have hne : slot ≠ r.pended.slot := hslot.1
        exact queueRecord_leaves (by simpa [Job.isRecordOf] using hne) hmem

end Sys2Proof.Machine
end

section
/-! Index, counter, queue and latches of a rebuild. -/

namespace Sys2Proof.Machine

/-! ### Index, counter and queue of a rebuild -/

@[simp] theorem yieldRecord_core (q : Nat) (s : State) : (yieldRecord q s).inu.core = s.inu.core := by
  unfold yieldRecord returnRecord
  dsimp only
  (repeat' split) <;> simp

theorem putRecord_counter (r : IncRec) (s : State) : (putRecord r s).inu.counter = s.inu.counter := by
  unfold putRecord
  simp

theorem yieldRecord_counter (q : Nat) (s : State) : (yieldRecord q s).inu.counter = s.inu.counter := by
  unfold yieldRecord returnRecord
  dsimp only
  (repeat' split) <;> simp [putRecord_counter]

theorem forSeqs_counter (qs : List Nat) (s : State) :
    (forSeqs yieldRecord qs s).inu.counter = s.inu.counter := by
  induction qs generalizing s with
  | nil => rfl
  | cons q qs ih => exact (ih (yieldRecord q s)).trans (yieldRecord_counter q s)

/-- The sequences of the REPORTING records, which return (R137 step 4). -/
def returning (s : State) : List Nat :=
  (s.inu.records.filter fun r => r.state = .reporting).map (·.seq)

theorem rebuildQueue_parts (s : State) :
    (rebuildQueue s).inu.records =
        (forSeqs yieldRecord (returning s) s).inu.records.map (fun r => { r with due := inuNow s }) ∧
      (rebuildQueue s).inu.counter = s.inu.counter ∧
      (rebuildQueue s).adu = (forSeqs yieldRecord (returning s) s).adu ∧
      (rebuildQueue s).inu.core = s.inu.core := by
  have hcore : (forSeqs yieldRecord (returning s) s).inu.core = s.inu.core :=
    forSeqs_core _ _ _ yieldRecord_core
  have hnow : inuNow (forSeqs yieldRecord (returning s) s) = inuNow s := by
    rw [inuNow, inuNow, Inu.ms_of_core hcore]
  refine ⟨?_, forSeqs_counter _ s, rfl, hcore⟩
  rw [← hnow]
  rfl

/-- The records that the incident log holds, in creation order. -/
def loadedRecords (s : State) : List IncRec :=
  creationOrder ((List.range 64).filterMap fun k => heldIncident k s)

theorem rebuildIndex_records (s : State) : (rebuildIndex s).inu.records = loadedRecords s := rfl

theorem rebuildIndex_counter (s : State) :
    (rebuildIndex s).inu.counter =
      ((loadedRecords s).getLast?.map fun r => (r.seq + 1) % 65536).getD 0 := by
  show (match (loadedRecords s).getLast? with | some r => (r.seq + 1) % 65536 | none => 0) = _
  cases (loadedRecords s).getLast? <;> rfl

theorem loadedRecords_slots (s : State) : ((loadedRecords s).map (·.slot)).Nodup :=
  (rebuildIndex_slots s).1

/-- The state with its index rebuilt and queued. -/
def queueRebuilt (s : State) : State := rebuildQueue (rebuildIndex s)

theorem queueRebuilt_known (s : State) :
    (queueRebuilt s).inu.records.map knownOf = (loadedRecords s).map knownOf := by
  rw [queueRebuilt, (rebuildQueue_parts _).1, List.map_map]
  exact forSeqs_known (returning (rebuildIndex s)) (s := rebuildIndex s) (loadedRecords_slots s)

theorem queueRebuilt_due (s : State) : ∀ r ∈ (queueRebuilt s).inu.records, r.due = inuNow s := by
  rw [queueRebuilt, (rebuildQueue_parts _).1]
  intro r hr
  obtain ⟨x, -, rfl⟩ := List.mem_map.1 hr
  rfl

theorem queueRebuilt_counter (s : State) :
    (queueRebuilt s).inu.counter =
      ((queueRebuilt s).inu.records.getLast?.map fun r => (r.seq + 1) % 65536).getD 0 := by
  have hseq : (queueRebuilt s).inu.records.map (·.seq) = (loadedRecords s).map (·.seq) := by
    have h := congrArg (List.map fun p => p.2.1) (queueRebuilt_known s)
    simpa [List.map_map, knownOf, Function.comp_def] using h
  have hlast : (queueRebuilt s).inu.records.getLast?.map (·.seq) =
      (loadedRecords s).getLast?.map (·.seq) := by
    rw [← List.getLast?_map, ← List.getLast?_map, hseq]
  rw [queueRebuilt, (rebuildQueue_parts _).2.1, rebuildIndex_counter]
  have h' := congrArg (fun o : Option Nat => (o.map fun q => (q + 1) % 65536).getD 0) hlast
  simpa [Option.map_map, Function.comp_def, queueRebuilt] using h'.symm

/-- Where no two records that are not REPORTED are of a kind, each REPORTING one returns on its
own. -/
theorem queueRebuilt_unmerged {s : State} (hu : Unmerged (loadedRecords s)) :
    (queueRebuilt s).inu.records =
        ((loadedRecords s).map fun r =>
          { r with
            state := if r.state = .reporting then .pending else r.state
            due := inuNow s }) ∧
      (hasWindow .incidentLog s = true → ∀ r ∈ loadedRecords s, r.state = .reporting →
        .record .incident r.slot (incidentWords r.pended) ∈ (queueRebuilt s).adu.jobs) := by
  have hrec := rebuildIndex_records s
  have hmem {r : IncRec} :
      r ∈ (loadedRecords s).filter (fun r => r.state = .reporting) ↔
        r ∈ loadedRecords s ∧ r.state = .reporting := by
    simp [List.mem_filter]
  have hret : returning (rebuildIndex s) =
      ((loadedRecords s).filter fun r => r.state = .reporting).map (·.seq) := rfl
  obtain ⟨h1, h2⟩ := forSeqs_unmerged ((loadedRecords s).filter fun r => r.state = .reporting)
    (s := rebuildIndex s) (by rw [hrec]; exact hu) (fun r hr => by rw [hrec]; exact hmem.1 hr)
    ((List.filter_sublist.map _).nodup (loadedRecords_slots s))
  rw [← hret] at h1 h2
  refine ⟨?_, fun hw r hr hst => ?_⟩
  · rw [queueRebuilt, (rebuildQueue_parts _).1, h1, hrec, List.map_map]
    refine List.map_congr_left fun x hx => ?_
    show ({ (if _ then x.pended else x) with due := inuNow s } : IncRec) = _
    by_cases hst : x.state = .reporting
    · rw [if_pos (hmem.2 ⟨hx, hst⟩), if_pos hst]
      rfl
    · rw [if_neg (fun h => hst (hmem.1 h).2), if_neg hst]
  · rw [queueRebuilt, (rebuildQueue_parts _).2.2.1]
    exact (h2 hw).1 r (hmem.2 ⟨hr, hst⟩)

/-! ### The latches of a rebuild -/

/-- Whether the latest record of a kind sets its latch (R137 step 6). -/
def unmarked (k : IncKind) (s : State) : Bool := (latestOf k s).any fun r => !r.cleared

theorem latestOf_eq (k : IncKind) (s : State) :
    latestOf k s = (s.inu.records.filter fun x => x.kind = k).getLast? := by
  rw [latestOf, ← List.head?_filter, List.filter_reverse, List.head?_reverse]

theorem unmarked_iff (k : IncKind) (s : State) :
    unmarked k s = true ↔
      ∃ r, (s.inu.records.filter fun x => x.kind = k).getLast? = some r ∧ r.cleared = false := by
  rw [unmarked, latestOf_eq]
  simp [Option.any_eq_true]

theorem latched_rebuildLatch (k k' : IncKind) (s : State) :
    latched (rebuildLatch k s).inu.latches k' =
      (latched s.inu.latches k' || (unmarked k s && k.latches && decide (k' = k))) := by
  unfold rebuildLatch unmarked
  cases latestOf k s with
  | none => simp
  | some r => cases h : r.cleared <;> simp [h, latched_after_setLatch]

theorem unmarked_rebuildLatch (k k' : IncKind) (s : State) :
    unmarked k' (rebuildLatch k s) = unmarked k' s := by
  simp [unmarked, latestOf]

theorem latched_latchesRebuilt (k : IncKind) (s : State) :
    latched
        ([IncKind.cashDoorOpen, .cashboxRemoved, .escrowFault, .auditSuspect].foldl
          (fun s k => rebuildLatch k s) s).inu.latches k =
      (latched s.inu.latches k || (unmarked .cashDoorOpen s && decide (k = .cashDoorOpen)) ||
        (unmarked .cashboxRemoved s && decide (k = .cashboxRemoved)) ||
        (unmarked .escrowFault s && decide (k = .escrowFault)) ||
        (unmarked .auditSuspect s && decide (k = .auditSuspect))) := by
  simp only [List.foldl_cons, List.foldl_nil, latched_rebuildLatch, unmarked_rebuildLatch,
    IncKind.latches, Bool.and_true]

theorem rebuildRecords_eq {s : State} (hf : s.cfl.fault = none) :
    rebuildRecords s =
      [IncKind.cashDoorOpen, .cashboxRemoved, .escrowFault, .auditSuspect].foldl
        (fun s k => rebuildLatch k s) (queueRebuilt s) := by
  rw [rebuildRecords, if_neg (by simp [hf]), queueRebuilt]

/-- What the latches leave of index and ADU. -/
theorem latchesRebuilt_parts (s : State) (ks : List IncKind) :
    let t := ks.foldl (fun s k => rebuildLatch k s) s
    t.inu.records = s.inu.records ∧ t.inu.counter = s.inu.counter ∧ t.inu.core = s.inu.core ∧
      t.adu = s.adu ∧ t.cfl = s.cfl ∧ t.pfu = s.pfu := by
  induction ks generalizing s with
  | nil => exact ⟨rfl, rfl, rfl, rfl, rfl, rfl⟩
  | cons k ks ih =>
    have hone : (rebuildLatch k s).inu.counter = s.inu.counter ∧
        (rebuildLatch k s).inu.core = s.inu.core := by
      unfold rebuildLatch setLatch
      (repeat' split) <;> exact ⟨rfl, rfl⟩
    obtain ⟨h1, h2, h3, h4, h5, h6⟩ := ih (rebuildLatch k s)
    exact ⟨h1.trans (by simp), h2.trans hone.1, h3.trans hone.2, h4.trans (by simp),
      h5.trans (by simp), h6.trans (by simp)⟩

theorem rebuildCounts_parts (s : State) :
    let t := rebuildCounts s
    t.inu.records = s.inu.records ∧ t.inu.counter = s.inu.counter ∧ t.inu.core = s.inu.core ∧
      t.adu = s.adu := by
  have hone (c : Bool) (k : IncKind) (u : State) :
      (countLatch c k u).inu.counter = u.inu.counter ∧ (countLatch c k u).inu.core = u.inu.core := by
    unfold countLatch setLatch
    (repeat' split) <;> exact ⟨rfl, rfl⟩
  refine ⟨?_, ?_, ?_, ?_⟩
  · unfold rebuildCounts
    simp
  · unfold rebuildCounts
    simp [hone]
  · unfold rebuildCounts
    simp [hone]
  · unfold rebuildCounts
    simp

end Sys2Proof.Machine
end

section
/-! The rebuild of an INU that has held, and O25. -/

namespace Sys2Proof.Machine

/-! ### The rebuild of an INU that has held (R137) -/

theorem heldIncident_congr {s t : State} (k : Nat) (hm : t.mem = s.mem) (hb : t.bpu = s.bpu)
    (hr : t.adu.remap = s.adu.remap) : heldIncident k t = heldIncident k s := by
  simp only [heldIncident, slotWords_congr .incident k hm hb hr]

theorem loadedRecords_congr {s t : State} (hm : t.mem = s.mem) (hb : t.bpu = s.bpu)
    (hr : t.adu.remap = s.adu.remap) : loadedRecords t = loadedRecords s := by
  simp only [loadedRecords, heldIncident_congr _ hm hb hr]

/-- The state between steps 7 and 8 of the rebuild of the loaded state `l`. -/
structure BetweenSteps (s l u : State) : Prop where
  attrs : u.inu.attrs = l.adu.cache.attrs.map loadedAttr
  cached : u.adu.cache.attrs = l.adu.cache.attrs.map recachedAttr
  known : u.inu.records.map knownOf = (loadedRecords l).map knownOf
  due : ∀ r ∈ u.inu.records, r.due = s.inu.ms / 1000
  alone : Unmerged (loadedRecords l) →
    u.inu.records =
        ((loadedRecords l).map fun r =>
          { r with
            state := if r.state = .reporting then .pending else r.state
            due := s.inu.ms / 1000 }) ∧
      (hasWindow .incidentLog l = true → ∀ r ∈ loadedRecords l, r.state = .reporting →
        .record .incident r.slot (incidentWords r.pended) ∈ u.adu.jobs)
  counter : u.inu.counter = ((u.inu.records.getLast?.map fun r => (r.seq + 1) % 65536).getD 0)
  latches : ∀ k, latched u.inu.latches k =
    (latched s.inu.latches k || (unmarked .cashDoorOpen u && decide (k = .cashDoorOpen)) ||
      (unmarked .cashboxRemoved u && decide (k = .cashboxRemoved)) ||
      (unmarked .escrowFault u && decide (k = .escrowFault)) ||
      (unmarked .auditSuspect u && decide (k = .auditSuspect)) ||
      (decide (l.cfl.params.boxNearFull ≤ l.adu.cache.boxCoins) && decide (k = .cashboxNearFull)) ||
      (decide (l.cfl.params.boxFull ≤ l.adu.cache.boxCoins) && decide (k = .cashboxFull)) ||
      (decide (248 ≤ uncollected l) && decide (k = .logFull)))

theorem betweenSteps {s l : State} (hf : l.cfl.fault = none) (hi : l.inu = s.inu) :
    BetweenSteps s l (rebuiltCounts l) := by
  obtain ⟨hattrs, hcache⟩ := rebuiltAttrs_attrs l
  have hms : inuNow (rebuiltAttrs l) = s.inu.ms / 1000 := by
    have h := besidesIncidents_rebuiltAttrs l
    have hm : (besidesIncidents (rebuiltAttrs l)).inu.ms = _ :=
      congrArg (fun u : State => u.inu.ms) h
    rw [inuNow, show (rebuiltAttrs l).inu.ms = l.inu.ms from hm, hi]
  have hlat : (rebuiltAttrs l).inu.latches = l.inu.latches := by simp [rebuiltAttrs, allAttrs]
  have hfa : (rebuiltAttrs l).cfl = l.cfl := by simp [rebuiltAttrs, allAttrs]
  have hnext : (rebuiltAttrs l).adu.nextCall = l.adu.nextCall := by simp [rebuiltAttrs, allAttrs]
  have hrem : (rebuiltAttrs l).adu.remap = l.adu.remap := by simp [rebuiltAttrs, allAttrs]
  have hmem : (rebuiltAttrs l).mem = l.mem := by simp [rebuiltAttrs, allAttrs]
  have hbpu : (rebuiltAttrs l).bpu = l.bpu := by simp [rebuiltAttrs, allAttrs]
  have hload : loadedRecords (rebuiltAttrs l) = loadedRecords l := loadedRecords_congr hmem hbpu hrem
  have hwin : hasWindow .incidentLog (rebuiltAttrs l) = hasWindow .incidentLog l := by
    rw [hasWindow, hasWindow, windowOf, windowOf, hbpu]
  rw [rebuiltCounts, rebuildRecords_eq (by rw [hfa]; exact hf)]
  generalize rebuiltAttrs l = a at *
  -- index and queue
  have hqk := queueRebuilt_known a
  have hqd := queueRebuilt_due a
  have hqc := queueRebuilt_counter a
  have hqu := queueRebuilt_unmerged (s := a)
  have hqcore : (queueRebuilt a).inu.core = a.inu.core := (rebuildQueue_parts (rebuildIndex a)).2.2.2
  have hqlat : (queueRebuilt a).inu.latches = a.inu.latches := by simp [queueRebuilt]
  have hqcache : (queueRebuilt a).adu.cache = a.adu.cache := by simp [queueRebuilt]
  have hqnext : (queueRebuilt a).adu.nextCall = a.adu.nextCall := by simp [queueRebuilt]
  have hqcfl : (queueRebuilt a).cfl = a.cfl := by simp [queueRebuilt]
  rw [hload] at hqk hqu
  rw [hwin] at hqu
  rw [hms] at hqd hqu
  generalize queueRebuilt a = q at *
  -- latches and counts
  obtain ⟨k1, k2, k3, k4, k5, -⟩ :=
    latchesRebuilt_parts q [.cashDoorOpen, .cashboxRemoved, .escrowFault, .auditSuspect]
  have kl := fun k => latched_latchesRebuilt k q
  generalize List.foldl (fun s k => rebuildLatch k s) q _ = b at *
  obtain ⟨c1, c2, c3, c4⟩ := rebuildCounts_parts b
  have cl := fun k => latched_rebuildCounts k b
  generalize rebuildCounts b = c at *
  have hrec : c.inu.records = q.inu.records := c1.trans k1
  have hun : uncollected b = uncollected l :=
    uncollected_of_reads (by rw [k4, hqnext, hnext]) (by rw [k4, hqcache, hcache])
  have hmark (k : IncKind) : unmarked k c = unmarked k q := by
    rw [unmarked, unmarked, latestOf, latestOf, hrec]
  refine ⟨?_, ?_, ?_, ?_, ?_, ?_, fun k => ?_⟩
  · rw [← hattrs]
    exact Inu.attrs_of_core (c3.trans (k3.trans hqcore))
  · rw [c4, k4, hqcache, hcache]
  · rw [hrec]
    exact hqk
  · rw [hrec]
    exact hqd
  · rw [hrec, c4, k4]
    exact hqu
  · rw [c2, k2, hrec]
    exact hqc
  · rw [cl, kl, hmark, hmark, hmark, hmark, hun, k5, k4, hqcfl, hqcache, hqlat, hlat, hi, hfa, hcache]

theorem inuActive_rebuilt {s : State} (h : s.pfu.power = .running) : inuActive (rebuilt s) = true := by
  simp [inuActive, running, rebuilt, h]

theorem inuActive_sensed (c : Bool) (k : IncKind) {s : State} (hq : s.lnu.quiet = false) :
    inuActive (sensedAtRebuild c k s) = inuActive s :=
  inuActive_of_besides (besidesIncidents_sensed c k hq)

theorem sensed_quiet (c : Bool) (k : IncKind) {s : State} (hq : s.lnu.quiet = false) :
    (sensedAtRebuild c k s).lnu.quiet = false := quiet_of_besides (besidesIncidents_sensed c k hq) hq

theorem reads_of_stopped {t l : State} (h : besidesIncidents t = timersStopped (besidesIncidents l)) :
    t.pfu = l.pfu ∧ t.inu.doorOpen = l.inu.doorOpen ∧ t.inu.boxPresent = l.inu.boxPresent ∧
      t.inu.cordWhole = l.inu.cordWhole :=
  ⟨(congrArg State.pfu h : (besidesIncidents t).pfu = _),
    (congrArg (fun u : State => u.inu.doorOpen) h : (besidesIncidents t).inu.doorOpen = _),
    (congrArg (fun u : State => u.inu.boxPresent) h : (besidesIncidents t).inu.boxPresent = _),
    (congrArg (fun u : State => u.inu.cordWhole) h : (besidesIncidents t).inu.cordWhole = _)⟩

theorem rebuilt_sensors (s : State) :
    (rebuilt s).inu.doorOpen = s.inu.doorOpen ∧ (rebuilt s).inu.boxPresent = s.inu.boxPresent ∧
      (rebuilt s).inu.cordWhole = s.inu.cordWhole := ⟨rfl, rfl, rfl⟩

/-- From step 7 on: the sensors' occurrences are handed, then the held items taken. -/
theorem rebuiltIndex_fromCounts {l : State} (hq : l.lnu.quiet = false) (hr : l.pfu.power = .running) :
    let u := rebuilt (rebuiltCounts l)
    let sensed (c : Bool) (k : IncKind) (x : State) : State := if c = true then occur k 0 x else x
    rebuiltIndex l =
      (l.held.filter Held.isIncident).foldl heldTaken
        (sensed (!l.inu.cordWhole) .cordCut
          (sensed (!l.inu.boxPresent) .cashboxRemoved (sensed l.inu.doorOpen .cashDoorOpen u))) := by
  intro u sensed
  obtain ⟨hp, hd, hb, hc⟩ := reads_of_stopped (besidesIncidents_rebuiltCounts l)
  have hqc := rebuiltCounts_quiet hq
  have hitems := rebuiltIndex_items hq
  rw [← sensorsTaken_rebuilt hqc] at hitems
  have hact : inuActive u = true := inuActive_rebuilt (by rw [hp]; exact hr)
  obtain ⟨r1, r2, r3⟩ := rebuilt_sensors (rebuiltCounts l)
  have hqu : u.lnu.quiet = false := by
    rw [(rebuilt_parts (rebuiltCounts l)).1]
    exact hqc
  have hdoor : u.inu.doorOpen = l.inu.doorOpen := r1.trans hd
  have hbox : u.inu.boxPresent = l.inu.boxPresent := r2.trans hb
  have hcord : u.inu.cordWhole = l.inu.cordWhole := r3.trans hc
  have hitems' : rebuiltIndex l = (l.held.filter Held.isIncident).foldl
      (fun s h => takeIncidentItem h s) (sensorsTaken u) := hitems
  clear r1 r2 r3 hitems
  clear_value u
  rw [hitems', ← foldl_heldTaken _ _ fun i hi => (List.mem_filter.1 hi).2]
  congr 1
  rw [sensorsTaken, hdoor, hbox, hcord]
  have a1 := (inuActive_sensed l.inu.doorOpen .cashDoorOpen hqu).trans hact
  have q1 := sensed_quiet l.inu.doorOpen .cashDoorOpen hqu
  have a2 := (inuActive_sensed (!l.inu.boxPresent) .cashboxRemoved q1).trans a1
  rw [sensed_eq_occur _ _ a2, sensed_eq_occur _ _ a1, sensed_eq_occur _ _ hact]

/-- Setting of a latch at the rebuild, in words: by an unmarked record of a service kind, or by a
count. -/
theorem BetweenSteps.latched_iff {s l u : State} (h : BetweenSteps s l u) (k : IncKind) :
    latched u.inu.latches k = true ↔
      latched s.inu.latches k = true ∨
        ((k = .cashDoorOpen ∨ k = .cashboxRemoved ∨ k = .escrowFault ∨ k = .auditSuspect) ∧
          ∃ r, (u.inu.records.filter fun x => x.kind = k).getLast? = some r ∧ r.cleared = false) ∨
        ((k = .cashboxNearFull ∧ l.cfl.params.boxNearFull ≤ l.adu.cache.boxCoins) ∨
          (k = .cashboxFull ∧ l.cfl.params.boxFull ≤ l.adu.cache.boxCoins) ∨
          (k = .logFull ∧ 248 ≤ uncollected l)) := by
  rw [h.latches, ← unmarked_iff]
  simp only [Bool.or_eq_true, Bool.and_eq_true, decide_eq_true_eq]
  constructor
  · rintro (((((((h | ⟨h, rfl⟩) | ⟨h, rfl⟩) | ⟨h, rfl⟩) | ⟨h, rfl⟩) | ⟨h, rfl⟩) | ⟨h, rfl⟩) | ⟨h, rfl⟩)
    · exact .inl h
    · exact .inr (.inl ⟨.inl rfl, h⟩)
    · exact .inr (.inl ⟨.inr (.inl rfl), h⟩)
    · exact .inr (.inl ⟨.inr (.inr (.inl rfl)), h⟩)
    · exact .inr (.inl ⟨.inr (.inr (.inr rfl)), h⟩)
    · exact .inr (.inr (.inl ⟨rfl, h⟩))
    · exact .inr (.inr (.inr (.inl ⟨rfl, h⟩)))
    · exact .inr (.inr (.inr (.inr ⟨rfl, h⟩)))
  · rintro (h | ⟨rfl | rfl | rfl | rfl, h⟩ | ⟨rfl, h⟩ | ⟨rfl, h⟩ | ⟨rfl, h⟩) <;> simp [h]

theorem handed_isIncident (c : Prop) [Decidable c] (n : Nat) :
    ∀ i ∈ (if c then [] else [Held.occurrence .auditSuspect 1]) ++
      List.replicate n (Held.attrEvent .nvRetries), i.isIncident = true := by
  intro i hi
  rcases List.mem_append.1 hi with hi | hi
  · split at hi
    · exact absurd hi (by simp)
    · rw [List.mem_singleton.1 hi]
      rfl
  · rw [List.eq_of_mem_replicate hi]
    rfl

theorem filter_incidents_loadItems (calls incidents : List Nat) (s : State) :
    ((s.held ++ loadItems calls incidents s).filter Held.isIncident) =
      s.held.filter Held.isIncident ++ loadItems calls incidents s := by
  have hall : ∀ i ∈ loadItems calls incidents s, i.isIncident = true := by
    unfold loadItems
    exact handed_isIncident _ _
  rw [List.filter_append, List.filter_eq_self.2 hall]

theorem BetweenSteps.rebuilt {s l u : State} (h : BetweenSteps s l u) :
    BetweenSteps s l (Machine.rebuilt u) :=
  ⟨h.attrs, h.cached, h.known, h.due, h.alone, h.counter, h.latches⟩

theorem attrs_of_map {l u : State} {p : PerAttr CacheAttr} (hp : l.adu.cache.attrs = p)
    (h : u.inu.attrs = l.adu.cache.attrs.map loadedAttr)
    (hc : u.adu.cache.attrs = l.adu.cache.attrs.map recachedAttr) (a : AttrId) :
    u.inu.attrs.get a = loadedAttr (p.get a) ∧ u.adu.cache.attrs.get a = recachedAttr (p.get a) := by
  rw [h, hc, hp]
  cases a <;> exact ⟨rfl, rfl⟩

theorem rebuilt_applies (s : State) :
    (rebuilt s).inu.rebuilt = true ∧ (rebuilt s).pfu = s.pfu := ⟨rfl, rfl⟩

theorem indexRebuilt : Clause.IndexRebuilt := by
  intro s calls incidents hp hst hr hq hf hreb hport ws check loaded known sensed
  have hexec := exec_audit_reached calls incidents hp hst hr (.inr hport)
  have hina : inuActive s = false := by simp [inuActive, hreb]
  obtain ⟨hlinu, hladu, hlheld⟩ := startupLoads_inactive calls incidents hf hina
  obtain ⟨-, -, acache, aremap, -, anext⟩ := auditLoads_adu s
  obtain ⟨b1, b2, b3⟩ := tablesLoaded_parts s
  have hlf : (startupLoads calls incidents s).cfl = s.cfl := by simp
  have hlp : (startupLoads calls incidents s).pfu = s.pfu := by simp
  have hlm : (startupLoads calls incidents s).mem = s.mem := by simp
  have hlb : (startupLoads calls incidents s).bpu = s.bpu := by simp
  have hlq := startupLoads_quiet calls incidents hq
  have hbetween := betweenSteps (s := s) (l := startupLoads calls incidents s) (by rw [hlf]; exact hf)
    hlinu
  have hindex := rebuiltIndex_fromCounts hlq (by rw [hlp]; exact hr)
  have hcpfu := (reads_of_stopped (besidesIncidents_rebuiltCounts (startupLoads calls incidents s))).1
  have htremap := startupAudit_remap calls incidents hf
  have htm : (startupAudit calls incidents s).mem = s.mem := by simp
  have htb : (startupAudit calls incidents s).bpu = s.bpu := by simp
  have heq := startupAudit_eq calls incidents s
  have hread := auditApplied_reads calls incidents hq hr
  have hleft := auditLeft (if hasWindow .tariff s then some [] else none) hread
  rw [loadBase_loaded hf] at hread
  obtain ⟨hc, -, -, -, -, -, -, hnx, hris, -⟩ := hread
  have hrcfl : (auditApplied calls incidents s).cfl = s.cfl := hc .cfl (by simp)
  rw [show enterTariffStep (if hasWindow .tariff s then some [] else none)
    (timersStarted (auditApplied calls incidents s)) = startupAudit calls incidents s from heq.symm]
    at hleft
  obtain ⟨-, -, -, -, -, htadu, -, -⟩ := hleft
  rw [hrcfl, hf, Option.isSome_none, if_neg Bool.false_ne_true] at heq
  rw [auditApplied, hindex, hlheld, filter_incidents_loadItems, hlinu] at heq
  clear hindex
  generalize auditApplied calls incidents s = r at *
  generalize startupAudit calls incidents s = t at *
  have hb' := hbetween.rebuilt
  obtain ⟨hureb, hupfu⟩ := rebuilt_applies (rebuiltCounts (startupLoads calls incidents s))
  generalize rebuilt (rebuiltCounts (startupLoads calls incidents s)) = u at *
  generalize rebuiltCounts (startupLoads calls incidents s) = m at *
  generalize startupLoads calls incidents s = l at *
  have hload : loadedRecords l = loadedRecords t :=
    loadedRecords_congr (hlm.trans htm.symm) (hlb.trans htb.symm) (by rw [hladu, aremap, htremap])
  have hcache : l.adu.cache = loaded := by rw [hladu, acache]; rfl
  have hun : uncollected t = uncollected l :=
    uncollected_of_reads (by rw [htadu, hnx, hladu])
      (by rw [htadu, through_of_rising hris, hladu])
  have hwin : hasWindow .incidentLog l = hasWindow .incidentLog s := by
    rw [hasWindow, hasWindow, windowOf, windowOf, hlb]
  have hr1 : rereads .call calls t = rereads .call calls (tablesLoaded s) :=
    rereads_congr .call calls (htm.trans b1.symm) (htb.trans b2.symm) (htremap.trans b3.symm)
  have hr2 : rereads .incident incidents t = rereads .incident incidents (tablesLoaded s) :=
    rereads_congr .incident incidents (htm.trans b1.symm) (htb.trans b2.symm) (htremap.trans b3.symm)
  refine ⟨t, u, hexec, ⟨hureb, by rw [hupfu, hcpfu, hlp]; exact hr, fun a => ?_, ?_, hb'.due,
    fun hone => ?_, hb'.counter, fun k => ?_⟩, ?_⟩
  · have h := attrs_of_map (p := loaded.attrs) (by rw [hcache]) hb'.attrs hb'.cached a
    exact h
  · have h := hb'.known
    rw [hload] at h
    exact h
  · have hun' : Unmerged (loadedRecords l) := ⟨loadedRecords_slots l, by rw [hload]; exact hone⟩
    obtain ⟨h1, h2⟩ := hb'.alone hun'
    rw [hload] at h1 h2
    rw [hwin] at h2
    exact ⟨h1, fun x hx hst hw => h2 hw x hx hst⟩
  · have h := hb'.latched_iff k
    rw [hlf, hcache, ← hun] at h
    exact h
  · rw [loadItems, ← hr1, ← hr2, ← List.append_assoc] at heq
    exact heq

/-- Settles O25: the loads by what they leave beside the INU's incidents, the tables read word by
word, and
the rebuild step by step from the state between its counts and its sensors. -/
theorem auditLoaded : Obligations.AuditLoaded :=
  ⟨loadsTaken, crcComputed, talliesReadBack, remapTable_read, incidentSlotRead, creationOrdered,
    indexRebuilt⟩

end Sys2Proof.Machine
end

section
/-! What is handed to the INU leaves of the ADU all but its jobs; the records of a yield. -/

namespace Sys2Proof.Machine

/-! ### The ADU but for its jobs -/

/-- The ADU's registers besides the writer's jobs. -/
def Adu.registers (a : Adu) : Adu := { a with jobs := [] }

theorem Adu.of_registers {a b : Adu} (h : a.registers = b.registers) :
    a.cache = b.cache ∧ a.dirty = b.dirty ∧ a.suspect = b.suspect ∧ a.check = b.check ∧
    a.nextCall = b.nextCall ∧ a.run = b.run :=
  ⟨(congrArg Adu.cache h : a.registers.cache = b.registers.cache),
    (congrArg Adu.dirty h : a.registers.dirty = b.registers.dirty),
    (congrArg Adu.suspect h : a.registers.suspect = b.registers.suspect),
    (congrArg Adu.check h : a.registers.check = b.registers.check),
    (congrArg Adu.nextCall h : a.registers.nextCall = b.registers.nextCall),
    (congrArg Adu.run h : a.registers.run = b.registers.run)⟩

@[simp] theorem queueRecord_registers (log : LogId) (slot : Nat) (ws : List Word) (s : State) :
    (queueRecord log slot ws s).adu.registers = s.adu.registers := by
  unfold queueRecord
  split <;> rfl

@[simp] theorem rewrite_registers (r : IncRec) (s : State) :
    (rewrite r s).adu.registers = s.adu.registers := by
  unfold rewrite
  split <;> simp

@[simp] theorem putRecord_registers (r : IncRec) (s : State) :
    (putRecord r s).adu.registers = s.adu.registers := by
  simp [putRecord]

@[simp] theorem carryRecord_registers (seq : Nat) (s : State) :
    (carryRecord seq s).adu.registers = s.adu.registers := by
  unfold carryRecord
  split <;> simp

@[simp] theorem yieldRecord_registers (seq : Nat) (s : State) :
    (yieldRecord seq s).adu.registers = s.adu.registers := by
  unfold yieldRecord returnRecord
  dsimp only
  (repeat' split) <;> simp

@[simp] theorem forSeqs_registers (f : Nat → State → State) (qs : List Nat) (s : State)
    (h : ∀ q u, (f q u).adu.registers = u.adu.registers) :
    (forSeqs f qs s).adu.registers = s.adu.registers := by
  induction qs generalizing s with
  | nil => rfl
  | cons q qs ih => exact (ih (f q s)).trans (h q s)

@[simp] theorem setLine_registers (st : LineState) (s : State) :
    (setLine st s).adu.registers = s.adu.registers := by
  unfold setLine
  split <;> rfl

@[simp] theorem beginSeizure_registers (st : LineState) (s : State) :
    (beginSeizure st s).adu.registers = s.adu.registers := by
  unfold beginSeizure
  dsimp only
  split <;> simp

@[simp] theorem grantReport_registers (s : State) :
    (grantReport s).adu.registers = s.adu.registers := by
  unfold grantReport
  simp

@[simp] theorem judgeStart_registers (s : State) :
    (judgeStart s).adu.registers = s.adu.registers := by
  unfold judgeStart withdrawClockRequest
  dsimp only
  (repeat' split) <;> simp

@[simp] theorem createRecord_registers (k : IncKind) (detail : Nat) (s : State) :
    (createRecord k detail s).adu.registers = s.adu.registers := by
  unfold createRecord
  split <;> simp

@[simp] theorem setLatch_registers (k : IncKind) (s : State) :
    (setLatch k s).adu.registers = s.adu.registers := by
  rcases setLatch_cases k s with ⟨-, h⟩ | ⟨-, -, h⟩ <;> rw [h]
  rfl

@[simp] theorem takeOccurrence_registers (k : IncKind) (detail : Nat) (s : State) :
    (takeOccurrence k detail s).adu.registers = s.adu.registers := by
  unfold takeOccurrence
  dsimp only
  (repeat' split) <;> simp [raise]

@[simp] theorem occur_registers (k : IncKind) (detail : Nat) (s : State) :
    (occur k detail s).adu.registers = s.adu.registers := by
  rcases occur_cases k detail s with ⟨-, h⟩ | ⟨-, h⟩ <;> simp [h]

@[simp] theorem takeClearLatch_registers (k : IncKind) (s : State) :
    (takeClearLatch k s).adu.registers = s.adu.registers := by
  unfold takeClearLatch markCleared
  (repeat' split) <;> simp [raise]

@[simp] theorem clearLatch_registers (k : IncKind) (s : State) :
    (clearLatch k s).adu.registers = s.adu.registers := by
  rcases clearLatch_cases k s with ⟨-, h⟩ | ⟨-, h⟩ <;> simp [h]

@[simp] theorem raiseIf_registers (c : Bool) (e : Event) (s : State) :
    (raiseIf c e s).adu.registers = s.adu.registers := by
  cases c <;> rfl

@[simp] theorem judgeCount_registers (old : Nat) (s : State) :
    (judgeCount old s).adu.registers = s.adu.registers := by
  unfold judgeCount
  dsimp only
  (repeat' split) <;> simp

/-! ### The jobs that yields leave -/

theorem putRecord_leaves {r : IncRec} {s : State} {j : Job}
    (hj : ∀ slot, j.isRecordOf .incident slot = false) (h : j ∈ s.adu.jobs) :
    j ∈ (putRecord r s).adu.jobs := by
  unfold putRecord rewrite
  split
  · exact queueRecord_leaves (hj _) h
  · exact h

theorem yieldRecord_leaves {q : Nat} {s : State} {j : Job}
    (hj : ∀ slot, j.isRecordOf .incident slot = false) (h : j ∈ s.adu.jobs) :
    j ∈ (yieldRecord q s).adu.jobs := by
  unfold yieldRecord returnRecord
  dsimp only
  (repeat' split)
  · exact h
  · exact putRecord_leaves hj h
  · exact putRecord_leaves hj (putRecord_leaves hj h)

theorem forSeqs_leaves {qs : List Nat} {s : State} {j : Job}
    (hj : ∀ slot, j.isRecordOf .incident slot = false) (h : j ∈ s.adu.jobs) :
    j ∈ (forSeqs yieldRecord qs s).adu.jobs := by
  induction qs generalizing s with
  | nil => exact h
  | cons q qs ih => exact ih (yieldRecord_leaves hj h)

theorem callJob_not_incident (slot : Nat) (ws : List Word) (slot' : Nat) :
    (Job.record .call slot ws).isRecordOf .incident slot' = false := by
  simp [Job.isRecordOf]

/-! ### Yields of named records -/

/-- A record that is REPORTING and of this sequence is PENDING again. -/
def IncRec.yielded (q : Nat) (r : IncRec) : IncRec :=
  if r.state = .reporting ∧ r.seq = q then r.pended else r

theorem IncRec.yielded_parts (q : Nat) (r : IncRec) :
    (r.yielded q).slot = r.slot ∧ (r.yielded q).seq = r.seq ∧ (r.yielded q).kind = r.kind ∧
    ((r.yielded q).state ≠ .reported → r.state ≠ .reported) ∧
    ((r.yielded q).state = .reporting → r.yielded q = r) := by
  unfold IncRec.yielded
  split
  · next h => exact ⟨rfl, rfl, rfl, fun _ => by simp [h.1], fun h => nomatch h⟩
  · exact ⟨rfl, rfl, rfl, fun h => h, fun _ => rfl⟩

/-- Records told apart by slot and by sequence, of which those named and REPORTING are the only
ones of their
kinds that are not REPORTED. -/
structure YieldsAlone (qs : List Nat) (rs : List IncRec) : Prop where
  slots : (rs.map (·.slot)).Nodup
  seqs : (rs.map (·.seq)).Nodup
  alone : ∀ r ∈ rs, r.state = .reporting → r.seq ∈ qs →
    ∀ y ∈ rs, y.kind = r.kind → y.state ≠ .reported → y = r

theorem yieldRecord_records {q : Nat} {qs : List Nat} {s : State} (hq : q ∈ qs)
    (h : YieldsAlone qs s.inu.records) :
    (yieldRecord q s).inu.records = s.inu.records.map (IncRec.yielded q) := by
  unfold yieldRecord returnRecord
  split
  · next hf =>
    refine (List.map_id _).symm.trans (List.map_congr_left fun r hr => ?_)
    have := List.find?_eq_none.1 hf r hr
    exact (if_neg fun hn => this (by simp [hn.1, hn.2])).symm
  · next r hf =>
    have hr := List.mem_of_find?_eq_some hf
    obtain ⟨hseq, hrep⟩ : r.seq = q ∧ r.state = .reporting := by simpa using List.find?_some hf
    have hnone : pendingOf r.kind s = none := by
      refine List.find?_eq_none.2 fun y hy => ?_
      simp only [Bool.and_eq_true, decide_eq_true_eq, not_and]
      intro hk hp
      rw [h.alone r hr hrep (hseq ▸ hq) y hy hk (by simp [hp]), hrep] at hp
      exact nomatch hp
    dsimp only [id]
    rw [hnone]
    dsimp only
    rw [putRecord_records]
    refine List.map_congr_left fun x hx => ?_
    unfold IncRec.yielded
    by_cases hs : x.slot = r.slot
    · obtain rfl : x = r := List.inj_on_of_nodup_map h.slots hx hr hs
      rw [if_pos rfl, if_pos ⟨hrep, hseq⟩]
      rfl
    · rw [if_neg (by exact hs), if_neg]
      intro hn
      exact hs (by rw [List.inj_on_of_nodup_map h.seqs hx hr (hn.2.trans hseq.symm)])

theorem YieldsAlone.yielded {q : Nat} {qs : List Nat} {rs : List IncRec} (h : YieldsAlone (q :: qs) rs) :
    YieldsAlone qs (rs.map (IncRec.yielded q)) := by
  have hslot : (rs.map (IncRec.yielded q)).map (·.slot) = rs.map (·.slot) := by
    rw [List.map_map]
    exact List.map_congr_left fun r _ => (r.yielded_parts q).1
  have hseq : (rs.map (IncRec.yielded q)).map (·.seq) = rs.map (·.seq) := by
    rw [List.map_map]
    exact List.map_congr_left fun r _ => (r.yielded_parts q).2.1
  refine ⟨by rw [hslot]; exact h.slots, by rw [hseq]; exact h.seqs, ?_⟩
  intro r' hr' hrep hin y' hy' hkind hst
  obtain ⟨r, hr, rfl⟩ := List.mem_map.1 hr'
  obtain ⟨y, hy, rfl⟩ := List.mem_map.1 hy'
  obtain ⟨-, -, hk, -, hsame⟩ := r.yielded_parts q
  obtain ⟨-, -, hk', hst', -⟩ := y.yielded_parts q
  have he := hsame hrep
  rw [he] at hrep hin
  rw [h.alone r hr hrep (List.mem_cons_of_mem _ hin) y hy (by rw [← hk', hkind, hk]) (hst' hst)]

theorem forSeqs_yielded (qs : List Nat) {s : State} (h : YieldsAlone qs s.inu.records) :
    (forSeqs yieldRecord qs s).inu.records =
      s.inu.records.map fun r => if r.state = .reporting ∧ r.seq ∈ qs then r.pended else r := by
  induction qs generalizing s with
  | nil => simp [forSeqs]
  | cons q qs ih =>
    have hone := yieldRecord_records (List.mem_cons_self ..) h
    have hrest := ih (s := yieldRecord q s) (by rw [hone]; exact h.yielded)
    refine (Eq.trans rfl hrest).trans ?_
    rw [hone, List.map_map]
    refine List.map_congr_left fun r _ => ?_
    show (if (r.yielded q).state = .reporting ∧ (r.yielded q).seq ∈ qs then (r.yielded q).pended
      else r.yielded q) = _
    unfold IncRec.yielded
    by_cases hq : r.state = .reporting ∧ r.seq = q
    · rw [if_pos hq, if_neg (fun hn => nomatch hn.1), if_pos ⟨hq.1, by simp [hq.2]⟩]
    · rw [if_neg hq]
      refine if_congr ?_ rfl rfl
      simp only [List.mem_cons]
      exact ⟨fun hn => ⟨hn.1, .inr hn.2⟩,
        fun hn => ⟨hn.1, hn.2.resolve_left fun he => hq ⟨hn.1, he⟩⟩⟩

end Sys2Proof.Machine
end

section
/-! The settle path and the finish path of step 5 (R176, R177). -/

namespace Sys2Proof.Machine

/-! ### The saved call's sequence (R160) -/

theorem savedOwner_lt (ws : List Word) : (savedOwner ws).seq < 0x100000000 := by
  have h1 := (wordAt ws 4).isLt
  have h2 := (wordAt ws 5).isLt
  simp only [savedOwner, value32]
  omega

theorem savedLogged_iff (o : Owner) (s : State) :
    savedLogged o s = true ↔ o.seq = s.adu.nextCall ∧ uncollected s < 256 := by
  simp only [savedLogged, Bool.and_eq_true, decide_eq_true_eq]
  omega

theorem savedLogged_congr {s t : State} (o : Owner) (hn : t.adu.nextCall = s.adu.nextCall)
    (hc : t.adu.cache.collectedThrough = s.adu.cache.collectedThrough) :
    savedLogged o t = savedLogged o s := by
  rw [savedLogged, savedLogged, hn, uncollected_of_reads hn hc]

theorem advanceSaved_nextCall (o : Owner) (s : State) :
    (advanceSaved o s).adu.nextCall =
      if savedLogged o s = true then (o.seq + 1) % 0x100000000 else s.adu.nextCall := by
  unfold advanceSaved
  split
  · exact (Adu.of_registers (judgeCount_registers _ _)).2.2.2.2.1
  · rfl

theorem advanceSaved_cache (o : Owner) (s : State) : (advanceSaved o s).adu.cache = s.adu.cache := by
  simp

theorem judgeCount_between {old : Nat} {s : State} (hf : ¬(old < 248 ∧ 248 ≤ uncollected s))
    (hb : ¬(248 ≤ old ∧ uncollected s < 248)) : (judgeCount old s).inu = s.inu := by
  unfold judgeCount
  dsimp only
  rw [if_neg (by simpa using hf), if_neg (by simpa using hb)]
  simp

/-- A saved call whose sequence is passed hands the INU nothing, unless it brings the uncollected
count to
the bound of LOG_FULL. -/
theorem advanceSaved_inu {o : Owner} {s : State} (ho : o.seq < 0x100000000)
    (ht : s.adu.cache.collectedThrough < 0x100000000)
    (hne : savedLogged o s = true → uncollected s ≠ 247) : (advanceSaved o s).inu = s.inu := by
  unfold advanceSaved
  split
  · next hl =>
    obtain ⟨hseq, hroom⟩ := (savedLogged_iff o s).1 hl
    have hold := hne hl
    have hnew : uncollected { s with adu.nextCall := (o.seq + 1) % 0x100000000 } = uncollected s + 1 := by
      simp only [uncollected, uncollectedOf] at hroom ⊢
      omega
    refine judgeCount_between ?_ ?_ <;> rw [hnew] <;> omega
  · rfl

/-! ### The tallies of the settle path -/

theorem foldl_moveTally_cache {α : Type} (f : α → Tallies → Tallies) (l : List α) (s : State) :
    (l.foldl (fun s x => moveTally (f x) s) s).adu.cache = l.foldl (fun t x => f x t) s.adu.cache := by
  induction l generalizing s with
  | nil => rfl
  | cons x l ih => exact ih (moveTally (f x) s)

/-- The cache after the movements of the coins saved DROPPING. -/
def droppedCache (ws : List Word) (t : Tallies) : Tallies :=
  ((savedCoins ws).filter fun c => c.coin.status = .dropping).foldl
    (fun t c => Tallies.drop c.dir c.coin.denom c.coin.value t) t

theorem settleDropping_cache (ws : List Word) (s : State) :
    (settleDropping ws s).adu.cache = droppedCache ws s.adu.cache :=
  foldl_moveTally_cache (fun c : SavedCoin => Tallies.drop c.dir c.coin.denom c.coin.value) _ s

theorem drop_through (dir : Dir) (denom value : Nat) (t : Tallies) :
    (Tallies.drop dir denom value t).collectedThrough = t.collectedThrough ∧
    (Tallies.drop dir denom value t).excess = t.excess := by
  unfold Tallies.drop
  cases dir
  · dsimp only
    unfold Tallies.countCoin
    split <;> exact ⟨rfl, rfl⟩
  · exact ⟨rfl, rfl⟩

theorem droppedCache_through (ws : List Word) (t : Tallies) :
    (droppedCache ws t).collectedThrough = t.collectedThrough ∧ (droppedCache ws t).excess = t.excess := by
  unfold droppedCache
  generalize (savedCoins ws).filter _ = l
  induction l generalizing t with
  | nil => exact ⟨rfl, rfl⟩
  | cons c l ih =>
    obtain ⟨h1, h2⟩ := drop_through c.dir c.coin.denom c.coin.value t
    obtain ⟨h3, h4⟩ := ih (Tallies.drop c.dir c.coin.denom c.coin.value t)
    exact ⟨h3.trans h1, h4.trans h2⟩

theorem settleRecord_cache (r : CallRecord) (s : State) :
    (settleRecord r s).adu.cache = Tallies.countCall r s.adu.cache := by
  unfold settleRecord
  dsimp only
  split
  · rfl
  · exact (Adu.of_registers (queueRecord_registers ..)).1

/-- The counts of a saved call: answered or not, of class 0 or priced, logged or not. -/
theorem countCall_saved (ws : List Word) (o : Owner) (t : Tallies) :
    Tallies.countCall (savedRecord ws o) t =
      { t with
        unanswered :=
          if decide (valueAt ws 39 ≠ 0xFFFFFFFF) = true then t.unanswered else satAdd t.unanswered 1
        paidAnswered :=
          if (decide (valueAt ws 39 ≠ 0xFFFFFFFF) && decide (firstByte (wordAt ws 17) ≠ 0)) = true then
            satAdd t.paidAnswered 1
          else t.paidAnswered
        free :=
          if (decide (valueAt ws 39 ≠ 0xFFFFFFFF) && !decide (firstByte (wordAt ws 17) ≠ 0)) = true then
            satAdd t.free 1
          else t.free
        unlogged := if o.unlogged = true then satAdd t.unlogged 1 else t.unlogged } := by
  by_cases ha : valueAt ws 39 = 0xFFFFFFFF <;> by_cases hc : firstByte (wordAt ws 17) = 0 <;>
    cases hu : o.unlogged <;> simp [Tallies.countCall, savedRecord, savedAnswer, ha, hc, hu]

/-- The tallies of a settled context: U to EXCESS_VALUE, and the counts of a saved call. -/
def settledTallies (ws : List Word) (o : Owner) (t : Tallies) : Tallies :=
  if callSaved ws = true then
    Tallies.countCall (savedRecord ws o) (Tallies.addExcess (savedCredit ws) t)
  else Tallies.addExcess (savedCredit ws) t

theorem settledTallies_excess (ws : List Word) (o : Owner) (t : Tallies) :
    (settledTallies ws o t).excess = satAdd t.excess (savedCredit ws) := by
  unfold settledTallies
  split
  · rw [countCall_saved]
    rfl
  · rfl

/-- The state on the settle path before the saved call is settled. -/
def movedBack (ws : List Word) (s : State) : State :=
  moveTally (Tallies.addExcess (savedCredit ws)) (restoreEscrow ws (settleDropping ws s))

/-- The state on the settle path before its write-back. -/
def settledCall (ws : List Word) (s : State) : State :=
  forSeqs yieldRecord (savedSeqs ws) (settleCall ws (movedBack ws s))

theorem settlePath_eq (ws : List Word) (s : State) :
    settlePath ws s =
      let u := triggerWriteBack (settledCall ws s)
      { u with
        pfu.step5 :=
          if writeBackWaiting u || writeBackRunning u then .writeBack false else .invalidate .write } := rfl

section
variable (ws : List Word) (s : State)

theorem movedBack_nextCall : (movedBack ws s).adu.nextCall = s.adu.nextCall := by simp [movedBack]

theorem movedBack_cache :
    (movedBack ws s).adu.cache = Tallies.addExcess (savedCredit ws) (droppedCache ws s.adu.cache) := by
  rw [← settleDropping_cache]
  rfl

theorem movedBack_through :
    (movedBack ws s).adu.cache.collectedThrough = s.adu.cache.collectedThrough := by
  rw [movedBack_cache]
  exact (droppedCache_through ws s.adu.cache).1

theorem movedBack_logged (o : Owner) : savedLogged o (movedBack ws s) = savedLogged o s :=
  savedLogged_congr o (movedBack_nextCall ws s) (movedBack_through ws s)

theorem movedBack_inu : (movedBack ws s).inu = s.inu := by simp [movedBack]

theorem settleCall_saved (h : callSaved ws = true) :
    settleCall ws s =
      settleRecord (savedRecord ws (settledOwner (savedOwner ws) s)) (advanceSaved (savedOwner ws) s) := by
  unfold settleCall
  rw [if_pos h]

theorem settleCall_unsaved (h : callSaved ws ≠ true) : settleCall ws s = s := by
  unfold settleCall
  rw [if_neg h]

theorem settledCall_cache :
    (settledCall ws s).adu.cache =
      settledTallies ws ⟨(savedOwner ws).seq, !savedLogged (savedOwner ws) s⟩
        (droppedCache ws s.adu.cache) := by
  have hf : (settledCall ws s).adu.cache = (settleCall ws (movedBack ws s)).adu.cache := by
    simp [settledCall]
  rw [hf, settledTallies]
  split
  · next h =>
    rw [settleCall_saved ws _ h, settleRecord_cache, advanceSaved_cache, movedBack_cache, settledOwner,
      movedBack_logged]
  · next h => rw [settleCall_unsaved ws _ h, movedBack_cache]

theorem settledCall_registers :
    (settledCall ws s).adu.registers = (settleCall ws (movedBack ws s)).adu.registers := by
  simp [settledCall]

theorem settleRecord_nextCall (r : CallRecord) : (settleRecord r s).adu.nextCall = s.adu.nextCall := by
  simp

theorem settleRecord_inu (r : CallRecord) : (settleRecord r s).inu = s.inu := by simp

theorem settledCall_nextCall :
    (settledCall ws s).adu.nextCall =
      if callSaved ws = true ∧ savedLogged (savedOwner ws) s = true then
        ((savedOwner ws).seq + 1) % 0x100000000
      else s.adu.nextCall := by
  rw [(Adu.of_registers (settledCall_registers ws s)).2.2.2.2.1]
  by_cases h : callSaved ws = true
  · rw [settleCall_saved ws _ h, settleRecord_nextCall, advanceSaved_nextCall, movedBack_logged,
      movedBack_nextCall]
    simp [h]
  · rw [settleCall_unsaved ws _ h, movedBack_nextCall, if_neg fun hn => h hn.1]

theorem settledCall_job (h : callSaved ws = true) (hl : savedLogged (savedOwner ws) s = true)
    (hw : hasWindow .callLog s = true) :
    .record .call ((savedOwner ws).seq % 256) (callWords (savedRecord ws ⟨(savedOwner ws).seq, false⟩)) ∈
      (settledCall ws s).adu.jobs := by
  refine forSeqs_leaves (callJob_not_incident _ _) ?_
  have ho : settledOwner (savedOwner ws) (movedBack ws s) = ⟨(savedOwner ws).seq, false⟩ := by
    rw [settledOwner, movedBack_logged, hl]
    rfl
  have hw' : hasWindow .callLog (advanceSaved (savedOwner ws) (movedBack ws s)) = true := by
    simpa [hasWindow, windowOf, movedBack] using hw
  rw [settleCall_saved ws _ h, ho]
  generalize advanceSaved (savedOwner ws) (movedBack ws s) = u at hw'
  unfold settleRecord
  dsimp only
  rw [if_neg (by simpa [savedRecord, hasWindow, windowOf] using hw')]
  exact queueRecord_mem ..

theorem settledCall_records (ht : s.adu.cache.collectedThrough < 0x100000000)
    (hne : callSaved ws = true → savedLogged (savedOwner ws) s = true → uncollected s ≠ 247)
    (hy : YieldsAlone (savedSeqs ws) s.inu.records) :
    (settledCall ws s).inu.records =
      s.inu.records.map fun r =>
        if r.state = .reporting ∧ r.seq ∈ savedSeqs ws then r.pended else r := by
  have hinu : (settleCall ws (movedBack ws s)).inu = s.inu := by
    by_cases h : callSaved ws = true
    · rw [settleCall_saved ws _ h, settleRecord_inu, advanceSaved_inu (savedOwner_lt ws), movedBack_inu]
      · rw [movedBack_through]
        exact ht
      · rw [movedBack_logged, uncollected_of_reads (movedBack_nextCall ws s) (movedBack_through ws s)]
        exact hne h
    · rw [settleCall_unsaved ws _ h, movedBack_inu]
  rw [settledCall, forSeqs_yielded _ (by rw [hinu]; exact hy), hinu]

/-! ### The end of the settle path -/

theorem triggered (u : State) :
    (writeBackWaiting (triggerWriteBack u) = true ∨ writeBackRunning (triggerWriteBack u) = true) ∨
      (triggerWriteBack u).adu.dirty = false ∧ writeBackWaiting (triggerWriteBack u) = false ∧
        writeBackRunning (triggerWriteBack u) = false := by
  cases hd : u.adu.dirty
  · rw [show triggerWriteBack u = u by simp [triggerWriteBack, hd]]
    cases writeBackWaiting u <;> cases writeBackRunning u <;> simp [hd]
  · exact .inl (triggerWriteBack_dirty hd)

theorem triggerWriteBack_keeps (u : State) :
    (triggerWriteBack u).inu = u.inu ∧ (triggerWriteBack u).adu.cache = u.adu.cache ∧
    (triggerWriteBack u).adu.nextCall = u.adu.nextCall ∧ (triggerWriteBack u).rqu = u.rqu ∧
    (triggerWriteBack u).cnu = u.cnu ∧ ∀ j ∈ u.adu.jobs, j ∈ (triggerWriteBack u).adu.jobs := by
  rcases triggerWriteBack_cases u with ⟨-, h⟩ | ⟨-, h⟩ <;> rw [h]
  · exact ⟨rfl, rfl, rfl, rfl, rfl, fun _ hj => hj⟩
  · exact ⟨rfl, rfl, rfl, rfl, rfl, fun _ hj => List.mem_append_left _ hj⟩

/-- Where step 5 stands after the settle path: before a write-back, or with nothing to write back
before
the invalidation. -/
def Settled (t : State) : Prop :=
  t.pfu.step5 = .writeBack false ∧ (writeBackWaiting t = true ∨ writeBackRunning t = true) ∨
    t.pfu.step5 = .invalidate .write ∧ t.adu.dirty = false ∧ writeBackWaiting t = false ∧
      writeBackRunning t = false

theorem settled_of {u : State}
    (h : (writeBackWaiting u = true ∨ writeBackRunning u = true) ∨
      u.adu.dirty = false ∧ writeBackWaiting u = false ∧ writeBackRunning u = false) :
    Settled { u with
      pfu.step5 :=
        if writeBackWaiting u || writeBackRunning u then .writeBack false else .invalidate .write } := by
  rcases h with h | ⟨hd, hw, hr⟩
  · have hor : (writeBackWaiting u || writeBackRunning u) = true := by simpa using h
    rw [if_pos hor]
    exact .inl ⟨rfl, h⟩
  · have hor : (writeBackWaiting u || writeBackRunning u) = false := by simp [hw, hr]
    rw [hor, if_neg Bool.false_ne_true]
    exact .inr ⟨rfl, hd, hw, hr⟩

theorem settlePath_settled : Settled (settlePath ws s) :=
  settled_of (triggered (settledCall ws s))

/-- What of the CNU stands once the saved entries are installed, each with its drop. -/
def restoredCnu (ws : List Word) (c : Cnu) : Cnu :=
  let coins := ((savedCoins ws).map (·.coin)).filter fun c => c.status ≠ .dropping
  { c with
    escrow := coins
    drops := coins.map fun c => ⟨c.seq, if c.status = .committed then .collect else .ret⟩
    nextSeq := (coins.getLast?.map fun c => (c.seq + 1) % 65536).getD c.nextSeq
    restored := coins.map (·.seq)
    coinSince := false }

theorem restoreEscrow_cnu : (restoreEscrow ws s).cnu = restoredCnu ws s.cnu := by
  unfold restoreEscrow restoredCnu
  dsimp only
  split
  · next h => rw [h]; rfl
  · next h => rw [h]; rfl

theorem settledCall_cnu : (settledCall ws s).cnu = restoredCnu ws s.cnu := by
  have h := restoreEscrow_cnu ws (settleDropping ws s)
  rw [(settleDropping_frame ws s).2.2.2.2.2.1] at h
  rw [← h]
  simp [settledCall, movedBack]

theorem settlePath_parts :
    (settlePath ws s).inu = (settledCall ws s).inu ∧
    (settlePath ws s).adu.cache = (settledCall ws s).adu.cache ∧
    (settlePath ws s).adu.nextCall = (settledCall ws s).adu.nextCall ∧
    (settlePath ws s).cnu = (settledCall ws s).cnu ∧
    ∀ j ∈ (settledCall ws s).adu.jobs, j ∈ (settlePath ws s).adu.jobs := by
  obtain ⟨h1, h2, h3, -, h4, h5⟩ := triggerWriteBack_keeps (settledCall ws s)
  rw [settlePath_eq]
  exact ⟨h1, h2, h3, h4, h5⟩

/-! ### The finish path -/

/-- The state on the finish path before the saved call's record. -/
def finishes (ws : List Word) (s : State) : Prop :=
  callSaved ws = true ∧ heldCall ((savedOwner ws).seq % 256) s ≠ some (savedOwner ws).seq ∧
    savedLogged (savedOwner ws) s = true

theorem finishCall_finishes (h : finishes ws s) :
    finishCall ws s =
      queueRecord .call ((savedOwner ws).seq % 256)
        (callWords (savedRecord ws ⟨(savedOwner ws).seq, false⟩)) (advanceSaved (savedOwner ws) s) := by
  obtain ⟨h1, h2, h3⟩ := h
  unfold finishCall
  dsimp only
  rw [if_pos (by simp [h1, h2, h3]), settledOwner, h3]
  rfl

theorem finishCall_rests (h : ¬finishes ws s) : finishCall ws s = s := by
  unfold finishCall
  dsimp only
  rw [if_neg]
  intro hn
  simp only [Bool.and_eq_true, decide_eq_true_eq] at hn
  exact h ⟨hn.1.1, hn.1.2, hn.2⟩

theorem finishes_restored : finishes ws (restoreEscrow ws s) ↔ finishes ws s := Iff.rfl

end

end Sys2Proof.Machine
end

section
/-! The finish path's parts and step 4's comparison (R78, R176). -/

namespace Sys2Proof.Machine

section
variable (ws : List Word) (s : State)

/-- The state on the finish path before its invalidation. -/
def finishedCall (ws : List Word) (s : State) : State :=
  forSeqs yieldRecord (savedSeqs ws) (finishCall ws (restoreEscrow ws s))

theorem finishPath_eq :
    finishPath ws s = { finishedCall ws s with pfu.step5 := .invalidate .write } := rfl

theorem finishedCall_cnu : (finishedCall ws s).cnu = restoredCnu ws s.cnu := by
  rw [← restoreEscrow_cnu]
  simp [finishedCall]

theorem finishedCall_registers :
    (finishedCall ws s).adu.registers = (finishCall ws (restoreEscrow ws s)).adu.registers := by
  simp [finishedCall]

theorem finishedCall_nextCall_finishes (h : finishes ws s) :
    (finishedCall ws s).adu.nextCall = ((savedOwner ws).seq + 1) % 0x100000000 := by
  rw [(Adu.of_registers (finishedCall_registers ws s)).2.2.2.2.1,
    finishCall_finishes ws _ ((finishes_restored ws s).2 h),
    (Adu.of_registers (queueRecord_registers ..)).2.2.2.2.1, advanceSaved_nextCall]
  exact if_pos h.2.2

theorem finishedCall_nextCall_rests (h : ¬finishes ws s) :
    (finishedCall ws s).adu.nextCall = s.adu.nextCall := by
  rw [(Adu.of_registers (finishedCall_registers ws s)).2.2.2.2.1,
    finishCall_rests ws _ (fun hn => h ((finishes_restored ws s).1 hn))]
  rfl

theorem finishedCall_job (h : finishes ws s) :
    .record .call ((savedOwner ws).seq % 256) (callWords (savedRecord ws ⟨(savedOwner ws).seq, false⟩)) ∈
      (finishedCall ws s).adu.jobs := by
  refine forSeqs_leaves (callJob_not_incident _ _) ?_
  rw [finishCall_finishes ws _ ((finishes_restored ws s).2 h)]
  exact queueRecord_mem ..

theorem finishedCall_records (ht : s.adu.cache.collectedThrough < 0x100000000)
    (hne : finishes ws s → uncollected s ≠ 247) (hy : YieldsAlone (savedSeqs ws) s.inu.records) :
    (finishedCall ws s).inu.records =
      s.inu.records.map fun r =>
        if r.state = .reporting ∧ r.seq ∈ savedSeqs ws then r.pended else r := by
  have hinu : (finishCall ws (restoreEscrow ws s)).inu = s.inu := by
    by_cases h : finishes ws s
    · have ha : (advanceSaved (savedOwner ws) (restoreEscrow ws s)).inu = (restoreEscrow ws s).inu :=
        advanceSaved_inu (savedOwner_lt ws) ht fun _ => hne h
      rw [finishCall_finishes ws _ ((finishes_restored ws s).2 h)]
      simpa using ha
    · rw [finishCall_rests ws _ (fun hn => h ((finishes_restored ws s).1 hn))]
      rfl
  rw [finishedCall, forSeqs_yielded _ (by rw [hinu]; exact hy), hinu]

theorem finishPath_parts :
    (finishPath ws s).inu = (finishedCall ws s).inu ∧
    (finishPath ws s).adu = (finishedCall ws s).adu ∧
    (finishPath ws s).cnu = (finishedCall ws s).cnu ∧
    (finishPath ws s).pfu.step5 = .invalidate .write := ⟨rfl, rfl, rfl, rfl⟩

/-- The log holds a call's record in the call's slot. -/
theorem heldCall_eq_some_iff (q : Nat) :
    heldCall (q % 256) s = some q ↔
      crcGood (slotWords .call (q % 256) s) = true ∧
        value32 ((slotWords .call (q % 256) s).getD 0 0) ((slotWords .call (q % 256) s).getD 1 0) = q := by
  unfold heldCall
  dsimp only
  constructor
  · intro h
    split at h
    · next hg => exact ⟨hg.1, Option.some.inj h⟩
    · exact nomatch h
  · rintro ⟨h1, h2⟩
    rw [h2, if_pos ⟨h1, rfl⟩]

end

/-! ### The record of a saved call -/

theorem callWords_front (r : CallRecord) :
    ∃ front : List Word, front.length = 26 ∧
      callWords r = withCrc (front ++ (words32 r.carriedOut ++ [bytePair r.cause.code r.flags, 0, 0])) := by
  refine ⟨words32 r.owner.seq ++ [bytePair r.digits.length r.cls] ++ packDigits r.digits ++
     r.seize.words ++ [(r.answerOffset.map wordOf).getD absent16] ++
     words32 r.duration ++ [wordOf (sat16 r.intervals)] ++ words32 r.consumed ++ [wordOf r.coins] ++
     words32 r.coinValue ++ words32 r.committed ++ words32 r.returned ++ words32 r.carriedIn, ?_, ?_⟩
  · simp [words32, packDigits_length, Stamp.words]
  · unfold callWords
    cases r.answerOffset <;>
      simp only [List.append_assoc, Option.map_none, Option.map_some, Option.getD_none, Option.getD_some]

theorem callWords_tail (r : CallRecord) {i : Nat} (h : i < 5) :
    (callWords r).getD (26 + i) 0 =
      (words32 r.carriedOut ++ [bytePair r.cause.code r.flags, 0, 0]).getD i 0 := by
  obtain ⟨front, hl, he⟩ := callWords_front r
  have hlen : (words32 r.carriedOut ++ [bytePair r.cause.code r.flags, 0, 0]).length = 5 := rfl
  rw [he, withCrc, List.append_assoc]
  exact (wordAt_append_right hl _ i).trans (wordAt_append_left (by rw [hlen]; exact h) _)

theorem savedRecord_words (ws : List Word) (o : Owner) :
    ((callWords (savedRecord ws o)).getD 28 0).toNat / 256 = 8 ∧
    ((callWords (savedRecord ws o)).getD 28 0).getLsbD 0 = false ∧
    ((callWords (savedRecord ws o)).getD 28 0).getLsbD 2 = true ∧
    (callWords (savedRecord ws o)).getD 26 0 = 0 ∧ (callWords (savedRecord ws o)).getD 27 0 = 0 := by
  have h28 : (callWords (savedRecord ws o)).getD 28 0 = bytePair 8 (savedRecord ws o).flags :=
    callWords_tail (savedRecord ws o) (i := 2) (by decide)
  have hzero : (words32 0 ++ [bytePair 8 (savedRecord ws o).flags, 0, 0]).getD 0 0 = 0 := by
    simp [words32, wordOf]
  have hzero' : (words32 0 ++ [bytePair 8 (savedRecord ws o).flags, 0, 0]).getD 1 0 = 0 := by
    simp [words32, wordOf]
  have h26 : (callWords (savedRecord ws o)).getD 26 0 = 0 :=
    (callWords_tail (savedRecord ws o) (i := 0) (by decide)).trans hzero
  have h27 : (callWords (savedRecord ws o)).getD 27 0 = 0 :=
    (callWords_tail (savedRecord ws o) (i := 1) (by decide)).trans hzero'
  have hflags : (savedRecord ws o).flags =
      bitIf false 0 + bitIf (savedRecord ws o).graceUsed 1 + bitIf true 2 +
        bitIf (savedRecord ws o).clockInvalid 3 + bitIf (savedRecord ws o).emergency 5 := rfl
  rw [h28, hflags]
  refine ⟨?_, ?_, ?_, h26, h27⟩ <;>
    cases (savedRecord ws o).graceUsed <;> cases (savedRecord ws o).clockInvalid <;>
    cases (savedRecord ws o).emergency <;> decide

/-! ### Step 4's comparison (R78) -/

/-- The words compared match their check word. -/
def tariffMatches (rev : List Word) (s : State) : Prop :=
  crc ((comparedWords rev s).take (checkedWords s)) = (comparedWords rev s).getD (checkedWords s) 0

theorem compareTariff_valid {rev : List Word} {s : State} (hc : s.tru.compare = some rev)
    (h : tariffMatches rev s) :
    compareTariff s =
      { s with
        tru :=
          { s.tru with
            valid := true
            calendar := some (calendarOf (readArea ((comparedWords rev s).take (checkedWords s))))
            compare := none } } := by
  unfold compareTariff
  rw [hc]
  exact if_pos h

theorem compareTariff_invalid {rev : List Word} {s : State} (hc : s.tru.compare = some rev)
    (h : ¬tariffMatches rev s) :
    compareTariff s = occur .tariffInvalid 0 { s with tru.compare := none } := by
  unfold compareTariff
  rw [hc]
  exact if_neg h

theorem compareTariff_none {s : State} (hc : s.tru.compare = none) : compareTariff s = s := by
  unfold compareTariff
  rw [hc]

theorem compareTariff_registers (s : State) :
    (compareTariff s).adu.registers = s.adu.registers := by
  unfold compareTariff
  dsimp only
  (repeat' split) <;> simp

/-- The state when step 5 begins to judge the context. -/
def beginsJudging (s : State) : State := { compareTariff s with cfl.step := .settle }

theorem exec_tariffCompareDone {s : State} (hp : s.powered = true) (hs : s.cfl.step = .tariff) :
    exec .tariffCompareDone s =
      .next (if running s && compareMayEnd s then judgeContext (beginsJudging s) else s) := by
  rw [exec, execTariffCompareDone, onPower_up hp]
  simp only [hs]
  rfl

theorem compareMayEnd_read {rev : List Word} {s : State} (hr : s.pfu.power = .running)
    (hc : s.tru.compare = some rev)
    (ht : checkedWords s < rev.length ∨ portReaches .tru s = true) (hp : portReaches .pfu s = true) :
    (running s && compareMayEnd s) = true := by
  have hreads : compareReads s = decide (rev.length < checkedWords s + 1) := by
    simp [compareReads, running, hr, hc]
  rw [compareMayEnd, hreads, hp]
  rcases ht with ht | ht
  · have : ¬rev.length < checkedWords s + 1 := by omega
    simp [this, running, hr]
  · simp [ht, running, hr]

theorem beginsJudging_parts (s : State) :
    (beginsJudging s).mem = s.mem ∧ (beginsJudging s).bpu = s.bpu ∧ (beginsJudging s).acu = s.acu ∧
    (beginsJudging s).cnu = s.cnu ∧ (beginsJudging s).pfu = s.pfu ∧
    (beginsJudging s).cfl = { s.cfl with step := .settle } ∧
    (beginsJudging s).adu.registers = s.adu.registers ∧
    (beginsJudging s).inu.rebuilt = s.inu.rebuilt := by
  refine ⟨by simp [beginsJudging], by simp [beginsJudging], by simp [beginsJudging],
    by simp [beginsJudging], by simp [beginsJudging], ?_, compareTariff_registers s,
    by simp [beginsJudging]⟩
  exact congrArg (fun c : Cfl => ({ c with step := .settle } : Cfl)) (compareTariff_frame s).2.2.2.1

/-- Where occurrences are taken at once and none can start a report call, the comparison leaves
the line as
it is. -/
theorem beginsJudging_line {s : State} (hh : s.held = []) (ha : inuActive s = true)
    (hq : s.lnu.quiet = false) :
    (beginsJudging s).held = [] ∧ (beginsJudging s).lnu = s.lnu ∧ inuActive (beginsJudging s) = true := by
  have hact : inuActive (beginsJudging s) = inuActive s := by
    simp [inuActive, running, beginsJudging]
  suffices h : (compareTariff s).held = [] ∧ (compareTariff s).lnu = s.lnu from
    ⟨h.1, h.2, hact.trans ha⟩
  cases hc : s.tru.compare with
  | none => rw [compareTariff_none hc]; exact ⟨hh, rfl⟩
  | some rev =>
    by_cases hm : tariffMatches rev s
    · rw [compareTariff_valid hc hm]
      exact ⟨hh, rfl⟩
    · rw [compareTariff_invalid hc hm]
      refine ⟨?_, (occur_busy _ _ (by exact hq)).1⟩
      rw [occur_active _ _ (by exact ha)]
      simpa using hh

/-- What a good context and its settling mean: the validity word stands, the CRC is good. -/
theorem judgeContext_good {s : State} (hf : s.cfl.fault = none)
    (hv : s.mem.word (baseOf .context s + 0xFE) = 0xA1E7)
    (hg : crcGood (s.mem.words (baseOf .context s) 99) = true) :
    (s.adu.suspect = true ∨ wordAt (s.mem.words (baseOf .context s) 99) 3 = s.adu.check →
      judgeContext s = settlePath (s.mem.words (baseOf .context s) 99) s) ∧
    (¬(s.adu.suspect = true ∨ wordAt (s.mem.words (baseOf .context s) 99) 3 = s.adu.check) →
      judgeContext s = finishPath (s.mem.words (baseOf .context s) 99) s) := by
  unfold judgeContext validityAddr
  rw [hf]
  dsimp only
  rw [if_neg (by simp), if_pos ⟨hv, hg⟩]
  generalize s.mem.words (baseOf .context s) 99 = ws
  refine ⟨fun h => if_neg ?_, fun h => if_pos ?_⟩
  · rintro ⟨h1, h2⟩
    rcases h with h | h
    · simp [h] at h1
    · exact h2 h
  · rw [not_or] at h
    exact ⟨by simpa using h.1, h.2⟩

theorem judgeContext_bad {s : State} (hf : s.cfl.fault = none)
    (hb : ¬(s.mem.word (baseOf .context s + 0xFE) = 0xA1E7 ∧
      crcGood (s.mem.words (baseOf .context s) 99) = true)) :
    (s.adu.cache.escrow ≠ 0 → judgeContext s = orderClearance { s with pfu.step5 := .clearing }) ∧
    (s.adu.cache.escrow = 0 → judgeContext s = endStarting s) := by
  unfold judgeContext validityAddr
  rw [hf]
  dsimp only
  rw [if_neg (by simp), if_neg hb]
  exact ⟨fun h => if_pos h, fun h => if_neg (by simpa using h)⟩

theorem judgeContext_fault {s : State} (hf : s.cfl.fault.isSome = true) :
    judgeContext s = endStarting s := by
  unfold judgeContext
  exact if_pos hf

end Sys2Proof.Machine
end

section
/-! Latches at the end of STARTING, and step 5 over a lost context (R178). -/

namespace Sys2Proof.Machine

/-! ### Latches at the end of STARTING -/

theorem startLine_latched {k : IncKind} (hk : k.code ≠ IncKind.lineFault.code) {s : State}
    (ha : inuActive s = true) : latched (startLine s).inu.latches k = latched s.inu.latches k := by
  unfold startLine
  (repeat' split)
  · rw [occur_active _ _ ha]
    simp [goDown, latched_takeOccurrence, hk]
  · simp
  · rfl

theorem endStarting_latched {k : IncKind} (hk : k.code ≠ IncKind.lineFault.code) {s : State}
    (hh : s.held = []) (ha : inuActive s = true) :
    latched (endStarting s).inu.latches k = latched s.inu.latches k := by
  rw [endStarting_idle hh ha]
  have h := startLine_latched hk (s := { s with cfl.step := .done, pfu.step5 := .idle }) ha
  simpa using h

theorem nothingComparedInFault : Clause.NothingComparedInFault := by
  intro s hp hs
  rw [exec_tariffCompareDone hp hs]
  refine ⟨fun hr => by simp [running, hr], fun hr hf hc hh hb hq => ?_⟩
  have ha : inuActive s = true := by simp [inuActive, running, hb, hr]
  have hgo : (running s && compareMayEnd s) = true := by
    simp [running, hr, compareMayEnd, compareReads, hc, hf]
  rw [if_pos hgo]
  have hu : beginsJudging s = { s with cfl.step := .settle } := by rw [beginsJudging, compareTariff_none hc]
  rw [judgeContext_fault (by rw [hu]; exact hf), hu]
  have hparts := endStarting_parts (s := { s with cfl.step := .settle }) hh ha
  have hlatch := endStarting_latched (k := .tariffInvalid) (by decide)
    (s := { s with cfl.step := .settle }) hh ha
  generalize endStarting { s with cfl.step := .settle } = t at hparts hlatch
  obtain ⟨hmem, hbpu, hacu, htru, hcfl, hpfu, -, hcache, hline⟩ := hparts
  refine ⟨t, rfl, ?_, ?_, hmem, hbpu, hacu, htru, hcache, hcfl, hlatch, hline⟩
  · simp [starting, hcfl]
  · rw [hpfu]

/-! ### Which latches the paths of step 5 leave -/

theorem grown_clearLatch {k k' : IncKind} (hk : k'.code ≠ k.code) {s : State}
    (h : latched s.inu.latches k' = true) : latched (clearLatch k s).inu.latches k' = true := by
  rcases clearLatch_cases k s with ⟨-, e⟩ | ⟨-, e⟩ <;> rw [e]
  · unfold takeClearLatch
    split
    · simpa [raise, latched_clearLatchBit, hk] using h
    · exact h
  · exact h

theorem advanceSaved_latched {k : IncKind} (hk : k.code ≠ IncKind.logFull.code) {o : Owner} {s : State}
    (h : latched s.inu.latches k = true) : latched (advanceSaved o s).inu.latches k = true := by
  have hraise (c : Bool) (e : Event) (u : State) : (raiseIf c e u).inu = u.inu := by
    cases c <;> rfl
  unfold advanceSaved judgeCount
  dsimp only
  (repeat' split)
  · exact (grown_occur _ _ _).1 k (by rw [hraise]; exact h)
  · exact grown_clearLatch hk (by rw [hraise]; exact h)
  · rw [hraise]
    exact h
  · exact h

theorem settledCall_latched {k : IncKind} (hk : k.code ≠ IncKind.logFull.code) (ws : List Word) {s : State}
    (h : latched s.inu.latches k = true) : latched (settledCall ws s).inu.latches k = true := by
  have hf : (settledCall ws s).inu.latches = (settleCall ws (movedBack ws s)).inu.latches := by
    simp [settledCall]
  have hm : latched (movedBack ws s).inu.latches k = true := by rw [movedBack_inu]; exact h
  rw [hf]
  by_cases hc : callSaved ws = true
  · rw [settleCall_saved ws _ hc, settleRecord_inu]
    exact advanceSaved_latched hk hm
  · rw [settleCall_unsaved ws _ hc]
    exact hm

theorem finishedCall_latched {k : IncKind} (hk : k.code ≠ IncKind.logFull.code) (ws : List Word) {s : State}
    (h : latched s.inu.latches k = true) : latched (finishedCall ws s).inu.latches k = true := by
  have hf : (finishedCall ws s).inu.latches = (finishCall ws (restoreEscrow ws s)).inu.latches := by
    simp [finishedCall]
  rw [hf]
  by_cases hc : finishes ws s
  · rw [finishCall_finishes ws _ ((finishes_restored ws s).2 hc)]
    simpa using advanceSaved_latched (o := savedOwner ws) (s := restoreEscrow ws s) hk h
  · rw [finishCall_rests ws _ (fun hn => hc ((finishes_restored ws s).1 hn))]
    exact h

theorem endClearance_latched {k : IncKind} {c : Clearance} {s : State} (hc : c.sweep = false)
    (h : latched s.inu.latches k = true) : latched (endClearance c false s).inu.latches k = true := by
  unfold endClearance
  dsimp only
  rw [if_neg Bool.false_ne_true, hc, if_neg Bool.false_ne_true, lostAccounting,
    (triggerWriteBack_keeps _).1]
  exact (grown_occur _ _ _).1 k h

theorem orderClearance_latched {k : IncKind} {s : State} (h : latched s.inu.latches k = true) :
    latched (orderClearance s).inu.latches k = true := by
  unfold orderClearance nextClearance
  dsimp only
  split
  · exact endClearance_latched rfl h
  · exact h

theorem judgeContext_latched {k : IncKind} (hk : k.code ≠ IncKind.lineFault.code)
    (hk' : k.code ≠ IncKind.logFull.code) {s : State} (hh : s.held = []) (ha : inuActive s = true)
    (h : latched s.inu.latches k = true) : latched (judgeContext s).inu.latches k = true := by
  have hend : latched (endStarting s).inu.latches k = true := by rw [endStarting_latched hk hh ha, h]
  by_cases hf : s.cfl.fault = none
  · by_cases hg : s.mem.word (baseOf .context s + 0xFE) = 0xA1E7 ∧
        crcGood (s.mem.words (baseOf .context s) 99) = true
    · obtain ⟨hset, hfin⟩ := judgeContext_good hf hg.1 hg.2
      by_cases hs : s.adu.suspect = true ∨ wordAt (s.mem.words (baseOf .context s) 99) 3 = s.adu.check
      · rw [hset hs, (settlePath_parts _ _).1]
        exact settledCall_latched hk' _ h
      · rw [hfin hs, (finishPath_parts _ _).1]
        exact finishedCall_latched hk' _ h
    · obtain ⟨hlost, hzero⟩ := judgeContext_bad hf hg
      by_cases he : s.adu.cache.escrow = 0
      · rw [hzero he]
        exact hend
      · rw [hlost he]
        exact orderClearance_latched h
  · rw [judgeContext_fault (Option.isSome_iff_ne_none.2 hf)]
    exact hend

/-! ### Step 5 over a lost context (R178) -/

theorem orderClearance_begins {s : State} (ht : s.cnu.tubeEmpty = false) :
    orderClearance s =
      { s with cnu.diverter := .ret, cnu.clearance := some ⟨1, s.cnu.ms + 500, false⟩ } := by
  unfold orderClearance nextClearance
  dsimp only
  rw [if_neg (by simp [ht]), if_neg (by decide)]
  rfl

theorem orderClearance_empty {s : State} (ht : s.cnu.tubeEmpty = true) :
    orderClearance s = lostAccounting { s with cnu.clearance := none } := by
  unfold orderClearance nextClearance
  dsimp only
  rw [if_pos ht]
  rfl

/-- The whole ESCROW_BALANCE goes to RETURNED_VALUE. -/
def Tallies.lost (t : Tallies) : Tallies :=
  { t with returned := satAdd t.returned t.escrow, escrow := 0 }

/-- The state of a lost context before its AUDIT_SUSPECT. -/
def lostMoved (s : State) : State := { moveTally Tallies.lost s with pfu.step5 := .writeBack true }

theorem lostAccounting_eq (s : State) :
    lostAccounting s = triggerWriteBack (occur .auditSuspect 2 (lostMoved s)) := rfl

theorem lostAccounting_parts {s : State} (he : s.adu.cache.escrow ≠ 0) :
    (lostAccounting s).pfu.step5 = .writeBack true ∧ (lostAccounting s).cnu = s.cnu ∧
    (lostAccounting s).adu.cache =
      { s.adu.cache with
        returned := satAdd s.adu.cache.returned s.adu.cache.escrow
        escrow := 0 } ∧
    OccurrenceReached .auditSuspect 2 s (lostAccounting s) ∧
    (writeBackWaiting (lostAccounting s) = true ∨ writeBackRunning (lostAccounting s) = true) := by
  have hfc : Tallies.lost s.adu.cache ≠ s.adu.cache := fun h => he (congrArg Tallies.escrow h).symm
  have hdirty : (lostMoved s).adu.dirty = true := by simp [lostMoved, moveTally, hfc]
  have hu : (lostMoved s).inu = s.inu ∧ (lostMoved s).pfu.power = s.pfu.power ∧
      (lostMoved s).cnu = s.cnu ∧ (lostMoved s).adu.cache = Tallies.lost s.adu.cache ∧
      (lostMoved s).pfu.step5 = .writeBack true := ⟨rfl, rfl, rfl, rfl, rfl⟩
  have hreach := occur_reached .auditSuspect 2 (lostMoved s)
  rw [lostAccounting_eq]
  generalize lostMoved s = u at *
  obtain ⟨hinu, hpow, hcnu, hcache, hstep⟩ := hu
  obtain ⟨tinu, tcache, -, trqu, tcnu, -⟩ := triggerWriteBack_keeps (occur .auditSuspect 2 u)
  have hocc : (occur .auditSuspect 2 u).adu.dirty = true := by
    rw [(Adu.of_registers (occur_registers ..)).2.1, hdirty]
  have hheld : (triggerWriteBack (occur .auditSuspect 2 u)).held = (occur .auditSuspect 2 u).held := by simp
  refine ⟨by simp [hstep], by rw [tcnu]; simp [hcnu], ?_, ?_, triggerWriteBack_dirty hocc⟩
  · rw [tcache, (Adu.of_registers (occur_registers ..)).1, hcache, Tallies.lost]
  · unfold OccurrenceReached at hreach ⊢
    rw [tinu, trqu, hheld, ← hinu, ← hpow]
    exact hreach

end Sys2Proof.Machine
end

section
/-! Steps 4 and 5 together: comparison and judging. -/

namespace Sys2Proof.Machine

theorem judgeContext_rest {s : State} (hh : s.held = []) (ha : inuActive s = true) :
    (judgeContext s).tru = s.tru ∧ (judgeContext s).acu = s.acu := by
  have hend : (endStarting s).tru = s.tru ∧ (endStarting s).acu = s.acu := by
    obtain ⟨-, -, hacu, htru, -⟩ := endStarting_parts hh ha
    exact ⟨htru, hacu⟩
  unfold judgeContext
  dsimp only
  (repeat' split)
  · exact hend
  · simp
  · simp
  · simp
  · exact hend

/-- What step 5 starts from, read off the state before the comparison. -/
structure JudgedFrom (s u : State) : Prop where
  mem : u.mem = s.mem
  bpu : u.bpu = s.bpu
  acu : u.acu = s.acu
  cnu : u.cnu = s.cnu
  pfu : u.pfu = s.pfu
  cfl : u.cfl = { s.cfl with step := .settle }
  cache : u.adu.cache = s.adu.cache
  suspect : u.adu.suspect = s.adu.suspect
  check : u.adu.check = s.adu.check
  nextCall : u.adu.nextCall = s.adu.nextCall
  rebuilt : u.inu.rebuilt = s.inu.rebuilt
  remap : u.adu.remap = s.adu.remap

theorem judgedFrom (s : State) : JudgedFrom s (beginsJudging s) := by
  obtain ⟨hmem, hbpu, hacu, hcnu, hpfu, hcfl, hreg, hreb⟩ := beginsJudging_parts s
  obtain ⟨hcache, -, hsus, hcheck, hnext, -⟩ := Adu.of_registers hreg
  exact ⟨hmem, hbpu, hacu, hcnu, hpfu, hcfl, hcache, hsus, hcheck, hnext, hreb,
    by simp [beginsJudging]⟩

namespace JudgedFrom

variable {s u : State}

theorem base (h : JudgedFrom s u) (k : WindowKind) : baseOf k u = baseOf k s := by
  rw [baseOf, baseOf, windowOf, windowOf, h.bpu]

theorem context (h : JudgedFrom s u) :
    u.mem.words (baseOf .context u) 99 = s.mem.words (baseOf .context s) 99 := by
  rw [h.mem, h.base]

theorem good_iff (h : JudgedFrom s u) :
    u.mem.word (baseOf .context u + 0xFE) = 0xA1E7 ∧ crcGood (u.mem.words (baseOf .context u) 99) = true ↔
      s.mem.word (baseOf .context s + 0xFE) = 0xA1E7 ∧
        crcGood (s.mem.words (baseOf .context s) 99) = true := by
  rw [h.context, h.mem, h.base]

theorem fault (h : JudgedFrom s u) (hf : s.cfl.fault = none) : u.cfl.fault = none := by
  rw [h.cfl]
  exact hf

theorem step (h : JudgedFrom s u) : u.cfl.step = .settle := by rw [h.cfl]

/-- A good context goes the settle path if the tallies are suspect or the check words agree, else
the finish
path. -/
theorem judges (h : JudgedFrom s u) (hf : s.cfl.fault = none)
    (hv : s.mem.word (baseOf .context s + 0xFE) = 0xA1E7)
    (hg : crcGood (s.mem.words (baseOf .context s) 99) = true) :
    (s.adu.suspect = true ∨ wordAt (s.mem.words (baseOf .context s) 99) 3 = s.adu.check →
      judgeContext u = settlePath (s.mem.words (baseOf .context s) 99) u) ∧
    (¬(s.adu.suspect = true ∨ wordAt (s.mem.words (baseOf .context s) 99) 3 = s.adu.check) →
      judgeContext u = finishPath (s.mem.words (baseOf .context s) 99) u) := by
  obtain ⟨hv', hg'⟩ := h.good_iff.2 ⟨hv, hg⟩
  have hj := judgeContext_good (h.fault hf) hv' hg'
  rwa [h.suspect, h.check, h.context] at hj

end JudgedFrom

theorem comparedAndJudged : Clause.ComparedAndJudged := by
  intro s hp hs hr hh hb hq hf rev hc ht hport read area check ws good
  have ha : inuActive s = true := by simp [inuActive, running, hb, hr]
  obtain ⟨uheld, uline, uact⟩ := beginsJudging_line hh ha hq
  have hfrom := judgedFrom s
  have hvalid (h : crc area = check) :
      (beginsJudging s).tru =
        { s.tru with valid := true, calendar := some (calendarOf (readArea area)), compare := none } := by
    rw [beginsJudging, compareTariff_valid hc h]
    rfl
  have hinvalid (h : crc area ≠ check) :
      (beginsJudging s).tru = { s.tru with compare := none } ∧
        latched (beginsJudging s).inu.latches .tariffInvalid = true := by
    rw [beginsJudging, compareTariff_invalid hc h, occur_active _ _ (by exact ha)]
    exact ⟨by simp, by simp [latched_takeOccurrence, IncKind.latches]⟩
  rw [exec_tariffCompareDone hp hs, if_pos (compareMayEnd_read hr hc ht hport)]
  generalize beginsJudging s = u at *
  have hbad (hb : ¬good) := judgeContext_bad (hfrom.fault hf) (fun hn => hb (hfrom.good_iff.1 hn))
  rw [hfrom.cache] at hbad
  obtain ⟨jtru, jacu⟩ := judgeContext_rest uheld uact
  refine ⟨_, rfl, by simp [hfrom.mem], by simp [hfrom.bpu], jacu.trans hfrom.acu, fun h => ?_, fun h => ?_,
    fun hg hset => ?_, fun hg hns hnc => ?_, fun hb he hte => ?_, fun hb he hte => ?_, fun hb he => ?_⟩
  · rw [jtru, hvalid h]
  · obtain ⟨utru, ulatch⟩ := hinvalid h
    exact ⟨jtru.trans utru, judgeContext_latched (by decide) (by decide) uheld uact ulatch⟩
  · rw [(hfrom.judges hf hg.1 hg.2).1 hset]
    obtain ⟨-, hcache, -, hcnu, -⟩ := settlePath_parts ws u
    refine ⟨by simp [hfrom.step], ?_, ?_⟩
    · rw [hcnu, settledCall_cnu]
      rfl
    · rw [hcache, settledCall_cache, settledTallies_excess, (droppedCache_through _ _).2, hfrom.cache]
  · rw [(hfrom.judges hf hg.1 hg.2).2 (by simp [hns, hnc, ws])]
    obtain ⟨-, -, hcnu, hstep⟩ := finishPath_parts ws u
    refine ⟨by simp [hfrom.step], hstep, ?_, by simp [hfrom.cache]⟩
    rw [hcnu, finishedCall_cnu]
    rfl
  · rw [(hbad hb).1 he, orderClearance_begins (by exact hfrom.cnu ▸ hte)]
    exact ⟨hfrom.step, rfl, rfl, by simp [hfrom.cnu]⟩
  · rw [(hbad hb).1 he, orderClearance_empty (by exact hfrom.cnu ▸ hte)]
    obtain ⟨hstep, hcnu, hcache, hreach, hwait⟩ := lostAccounting_parts
      (s := { u with pfu.step5 := .clearing, cnu.clearance := none }) (by rw [← hfrom.cache] at he; exact he)
    refine ⟨?_, hstep, ?_, ?_, ?_, hwait⟩
    · simp [hfrom.step]
    · rw [hcnu, ← hfrom.cnu]
    · rw [hcache, ← hfrom.cache]
    · unfold OccurrenceReached at hreach ⊢
      rw [← hfrom.rebuilt, ← hfrom.pfu]
      exact hreach
  · rw [(hbad hb).2 he]
    obtain ⟨-, -, -, -, hcfl, -, -, -, hline⟩ := endStarting_parts uheld uact
    refine ⟨by simp [starting, hcfl], ?_⟩
    rw [hline, uline]

end Sys2Proof.Machine
end

section
/-! A good context settled or finished (R176, R177), and O26. -/

namespace Sys2Proof.Machine

theorem restoredTube (ws : List Word) :
    ((savedCoins ws).map (·.coin)).filter (fun c => c.status ≠ .dropping) =
      ((savedCoins ws).filter fun c => !decide (c.coin.status = .dropping)).map (·.coin) := by
  rw [List.filter_map]
  refine congrArg _ (List.filter_congr fun c _ => ?_)
  simp

theorem savedCredit_saved {ws : List Word} (h : callSaved ws = true) :
    savedCredit ws = valueAt ws 29 + valueAt ws 33 - valueAt ws 31 := by
  rw [savedCredit, if_pos h]

theorem savedCredit_unsaved {ws : List Word} (h : ¬callSaved ws = true) :
    savedCredit ws = valueAt ws 91 := by
  rw [savedCredit, if_neg h]

/-- The tallies of a settled context, spelled out. -/
theorem settledTallies_eq (ws : List Word) (o : Owner) (t : Tallies) :
    settledTallies ws o t =
      if callSaved ws = true then
        { t with
          excess := satAdd t.excess (valueAt ws 29 + valueAt ws 33 - valueAt ws 31)
          unanswered :=
            if decide (valueAt ws 39 ≠ 0xFFFFFFFF) = true then t.unanswered else satAdd t.unanswered 1
          paidAnswered :=
            if (decide (valueAt ws 39 ≠ 0xFFFFFFFF) && decide (firstByte (wordAt ws 17) ≠ 0)) = true then
              satAdd t.paidAnswered 1
            else t.paidAnswered
          free :=
            if (decide (valueAt ws 39 ≠ 0xFFFFFFFF) && !decide (firstByte (wordAt ws 17) ≠ 0)) = true then
              satAdd t.free 1
            else t.free
          unlogged := if o.unlogged = true then satAdd t.unlogged 1 else t.unlogged }
      else { t with excess := satAdd t.excess (valueAt ws 91) } := by
  unfold settledTallies
  by_cases h : callSaved ws = true
  · rw [if_pos h, if_pos h, countCall_saved, ← savedCredit_saved h]
    rfl
  · rw [if_neg h, if_neg h, ← savedCredit_unsaved h]
    rfl

theorem droppedCache_none {ws : List Word} (t : Tallies)
    (h : ∀ c ∈ savedCoins ws, decide (c.coin.status = .dropping) = false) : droppedCache ws t = t := by
  rw [droppedCache, List.filter_eq_nil_iff.2 fun c hc => by simp [h c hc]]
  rfl

theorem droppedCache_one {ws : List Word} (t : Tallies) {c : SavedCoin}
    (h : ((savedCoins ws).filter fun c => decide (c.coin.status = .dropping)) = [c]) :
    droppedCache ws t = Tallies.drop c.dir c.coin.denom c.coin.value t := by
  rw [droppedCache, h]
  rfl

theorem contextSettled : Clause.ContextSettled := by
  intro s hp hs hr hf rev hc ht hport read ws hv hg settles falling tube owner slot inLog logged recorded
    words closed x
  have hfrom := judgedFrom s
  have hsame (h : crc (read.take (checkedWords s)) = read.getD (checkedWords s) 0) :
      (beginsJudging s).inu = s.inu := by
    rw [beginsJudging, compareTariff_valid hc h]
  rw [exec_tariffCompareDone hp hs, if_pos (compareMayEnd_read hr hc ht hport)]
  generalize beginsJudging s = u at *
  obtain ⟨hsettle, hfinish⟩ := hfrom.judges hf hv hg
  have hlogged : savedLogged owner u = true ↔ logged := by
    rw [savedLogged_iff, hfrom.nextCall, uncollected_of_reads hfrom.nextCall (congrArg _ hfrom.cache)]
  have hunc : uncollected u = uncollected s :=
    uncollected_of_reads hfrom.nextCall (congrArg _ hfrom.cache)
  have hwin : hasWindow .callLog u = hasWindow .callLog s := by simp only [hasWindow, windowOf, hfrom.bpu]
  have hcnu : restoredCnu ws u.cnu =
      { s.cnu with
        escrow := tube
        drops := tube.map fun c => ⟨c.seq, if c.status = .committed then .collect else .ret⟩
        nextSeq := (tube.getLast?.map fun c => (c.seq + 1) % 65536).getD s.cnu.nextSeq
        restored := tube.map (·.seq)
        coinSince := false } := by
    rw [hfrom.cnu, restoredCnu, restoredTube]
  have hyields (hl : IndexLaw s) (hn : (s.inu.records.map (·.seq)).Nodup)
      (hal : ∀ r ∈ s.inu.records, r.state = .reporting → r.seq ∈ savedSeqs ws →
        ∀ y ∈ s.inu.records, y.kind = r.kind → y.state ≠ .reported → y = r) :
      YieldsAlone (savedSeqs ws) s.inu.records := ⟨hl.1, hn, hal⟩
  have hwords := savedRecord_words ws ⟨owner.seq, false⟩
  have hclosed (t : Tallies) : settledTallies ws ⟨owner.seq, !savedLogged owner u⟩ t = closed t := by
    rw [settledTallies_eq]
    by_cases hl : logged
    · rw [hlogged.2 hl]
      simp [closed, hl]
    · rw [Bool.eq_false_iff.2 fun hn => hl (hlogged.1 hn)]
      simp [closed, hl]
  by_cases hset : settles
  · rw [hsettle hset]
    obtain ⟨hinu, hcache, hnext, hcnu', hjobs⟩ := settlePath_parts ws u
    have hcache' : (settlePath ws u).adu.cache = closed (droppedCache ws x) := by
      rw [hcache, settledCall_cache, hclosed, hfrom.cache]
    have hrec : recorded ↔ callSaved ws = true ∧ savedLogged owner u = true := by
      rw [hlogged]
      exact ⟨fun h => ⟨h.1, h.2.1⟩, fun h => ⟨h.1, h.2, .inl hset⟩⟩
    have hstep : (settlePath ws u).cfl.step = .settle := by simp [hfrom.step]
    have hsettled := settlePath_settled ws u
    generalize settlePath ws u = t at *
    refine ⟨t, rfl, hstep, by rw [hcnu', settledCall_cnu, hcnu], fun _ => ⟨fun hnone => ?_,
      fun c hone => ⟨fun hd => ?_, fun hd => ?_⟩, hsettled⟩, fun h => absurd hset h,
      fun h => ⟨?_, fun hw => ?_, hwords⟩, fun h => ?_, fun hmatch hne hth hidx hseqs halone => ?_⟩
    · rw [hcache', droppedCache_none x hnone]
    · rw [hcache', droppedCache_one x hone, hd]
      rfl
    · rw [hcache', droppedCache_one x hone, hd]
      rfl
    · rw [hnext, settledCall_nextCall, if_pos (hrec.1 h)]
    · obtain ⟨hcall, hlog⟩ := hrec.1 h
      exact hjobs _ (settledCall_job ws u hcall hlog (hwin.trans hw))
    · rw [hnext, settledCall_nextCall, if_neg fun hn => h (hrec.2 hn), hfrom.nextCall]
    · rw [hinu, settledCall_records ws u (by rw [hfrom.cache]; exact hth)
        (fun hcall hlog => by rw [hunc]; exact hne (hrec.2 ⟨hcall, hlog⟩))
        (by rw [hsame hmatch]; exact hyields hidx hseqs halone), hsame hmatch]
      rfl
  · rw [hfinish hset]
    obtain ⟨hinu, hadu, hcnu', hstep⟩ := finishPath_parts ws u
    have hheld : heldCall (owner.seq % 256) u = some owner.seq ↔ inLog := by
      rw [heldCall_congr _ hfrom.mem hfrom.bpu hfrom.remap, heldCall_eq_some_iff]
    have hrec : recorded ↔ finishes ws u := by
      unfold finishes
      rw [hlogged, ne_eq, hheld]
      exact ⟨fun h => ⟨h.1, h.2.2.resolve_left hset, h.2.1⟩, fun h => ⟨h.1, h.2.2, .inr h.2.1⟩⟩
    refine ⟨_, rfl, by simp [hfrom.step], by rw [hcnu', finishedCall_cnu, hcnu], fun h => absurd h hset,
      fun _ => ⟨by simp [hfrom.cache, x], hstep⟩, fun h => ⟨?_, fun _ => ?_, hwords⟩, fun h => ?_,
      fun hmatch hne hth hidx hseqs halone => ?_⟩
    · rw [hadu, finishedCall_nextCall_finishes ws u (hrec.1 h)]
    · rw [hadu]
      exact finishedCall_job ws u (hrec.1 h)
    · rw [hadu, finishedCall_nextCall_rests ws u (fun hn => h (hrec.2 hn)), hfrom.nextCall]
    · rw [hinu, finishedCall_records ws u (by rw [hfrom.cache]; exact hth)
        (fun hn => by rw [hunc]; exact hne (hrec.2 hn))
        (by rw [hsame hmatch]; exact hyields hidx hseqs halone), hsame hmatch]
      rfl

/-- Settles O26: the tariff's comparison and the judging of the context, path by path. -/
theorem tariffComparedAndContextJudged : Obligations.TariffComparedAndContextJudged :=
  ⟨comparedAndJudged, contextSettled, nothingComparedInFault⟩

end Sys2Proof.Machine
end

section
/-! The entry sensor's level and what an entry passage forms: neither changes the other (R54, R62). -/

namespace Sys2Proof.Machine

/-! ### The sensor's level beside an entry passage -/

/-- The state with another level of the entry sensor: blocked since then, a jam due then. -/
def leveled (b j : Option Nat) (s : State) : State := { s with cnu.blockedSince := b, cnu.jamDue := j }

/-- An operation that neither reads nor writes the sensor's level. -/
def LevelFree (f : State → State) : Prop := ∀ b j s, f (leveled b j s) = leveled b j (f s)

theorem LevelFree.comp {f g : State → State} (hf : LevelFree f) (hg : LevelFree g) :
    LevelFree fun s => f (g s) := fun b j s => (congrArg f (hg b j s)).trans (hf b j (g s))

theorem LevelFree.ite {p : State → Bool} {f g : State → State} (hp : ∀ b j s, p (leveled b j s) = p s)
    (hf : LevelFree f) (hg : LevelFree g) : LevelFree fun s => if p s then f s else g s := by
  intro b j s
  dsimp only
  rw [hp]
  split
  · exact hf b j s
  · exact hg b j s

theorem LevelFree.foldl {α : Type} {f : State → α → State} (hf : ∀ x, LevelFree fun s => f s x)
    (l : List α) : LevelFree fun s => l.foldl f s := by
  intro b j s
  induction l generalizing s with
  | nil => rfl
  | cons x l ih => exact (congrArg (l.foldl f) (hf x b j s)).trans (ih (f s x))

theorem levelFree_hold (h : Held) : LevelFree (hold h) := fun _ _ _ => rfl

theorem levelFree_raise (e : Event) : LevelFree (raise e) := fun _ _ _ => rfl

theorem levelFree_moveTally (f : Tallies → Tallies) : LevelFree (moveTally f) := fun _ _ _ => rfl

theorem levelFree_queueRecord (log : LogId) (slot : Nat) (ws : List Word) :
    LevelFree (queueRecord log slot ws) :=
  LevelFree.ite (p := fun s => s.adu.jobs.any (Job.isRecordOf log slot)) (fun _ _ _ => rfl)
    (fun _ _ _ => rfl) fun _ _ _ => rfl

theorem levelFree_rewrite (r : IncRec) : LevelFree (rewrite r) :=
  LevelFree.ite (fun _ _ _ => rfl) (levelFree_queueRecord _ _ _) fun _ _ _ => rfl

theorem levelFree_putRecord (r : IncRec) : LevelFree (putRecord r) :=
  LevelFree.comp (levelFree_rewrite r)
    (g := fun s =>
      { s with inu.records := s.inu.records.map fun x => if x.slot = r.slot then r else x })
    fun _ _ _ => rfl

theorem levelFree_carryRecord (q : Nat) : LevelFree (carryRecord q) := by
  intro b j s
  unfold carryRecord
  cases h : s.inu.records.find? fun r => r.seq = q && r.state = .pending
  · rw [show (leveled b j s).inu = s.inu from rfl, h]
  · rw [show (leveled b j s).inu = s.inu from rfl, h]
    exact levelFree_putRecord _ b j s

theorem levelFree_forSeqs {f : Nat → State → State} (hf : ∀ q, LevelFree (f q)) (qs : List Nat) :
    LevelFree (forSeqs f qs) := LevelFree.foldl hf qs

theorem levelFree_markCleared (k : IncKind) : LevelFree (markCleared k) := by
  intro b j s
  unfold markCleared
  rw [show latestOf k (leveled b j s) = latestOf k s from rfl]
  cases latestOf k s with
  | none => rfl
  | some r => exact levelFree_putRecord _ b j s

theorem levelFree_takeClearLatch (k : IncKind) : LevelFree (takeClearLatch k) :=
  LevelFree.ite (p := fun s => latched s.inu.latches k) (fun _ _ _ => rfl)
    ((levelFree_markCleared k).comp ((levelFree_raise .condition).comp fun _ _ _ => rfl))
    fun _ _ _ => rfl

theorem levelFree_clearLatch (k : IncKind) : LevelFree (clearLatch k) :=
  LevelFree.ite (p := inuActive) (fun _ _ _ => rfl) (levelFree_takeClearLatch k) (levelFree_hold _)

theorem levelFree_setLatch (k : IncKind) : LevelFree (setLatch k) :=
  LevelFree.ite (p := fun s => k.latches && !latched s.inu.latches k) (fun _ _ _ => rfl)
    ((levelFree_raise .condition).comp fun _ _ _ => rfl) fun _ _ _ => rfl

theorem levelFree_createRecord (k : IncKind) (d : Nat) : LevelFree (createRecord k d) := by
  intro b j s
  unfold createRecord
  rw [show (leveled b j s).inu = s.inu from rfl]
  cases slotForNew s.inu.records with
  | none => rfl
  | some slot =>
    exact levelFree_rewrite (newRecord k d slot s) b j
      { s with
        inu.records := (s.inu.records.filter fun x => x.slot ≠ slot) ++ [newRecord k d slot s]
        inu.counter := (s.inu.counter + 1) % 65536 }

theorem levelFree_setLine (st : LineState) : LevelFree (setLine st) := by
  intro b j s
  unfold setLine
  by_cases h : s.lnu.state = st
  · rw [if_pos h, if_pos (by exact h)]
  · rw [if_neg h, if_neg (by exact h)]
    rfl

theorem levelFree_beginSeizure (st : LineState) : LevelFree (beginSeizure st) := by
  have hline : LevelFree fun s => setLine st { s with lnu.loopSeen := false } :=
    (levelFree_setLine st).comp fun _ _ _ => rfl
  have hguard : LevelFree fun s =>
      if guardPassed s then closeRelay s
      else { s with lnu.timers.guard := some (s.lnu.relayOpened.getD 0 + 1000) } :=
    LevelFree.ite (fun _ _ _ => rfl) (fun _ _ _ => rfl) fun _ _ _ => rfl
  exact hguard.comp hline

theorem levelFree_grantReport : LevelFree grantReport := by
  intro b j s
  unfold grantReport
  dsimp only
  rw [show carriedSet (leveled b j s) = carriedSet s from rfl,
    levelFree_forSeqs levelFree_carryRecord _ b j s]
  generalize forSeqs carryRecord _ s = u
  exact levelFree_beginSeizure .reportSeizing b j
    { u with
      rpu.call :=
        some
          { carried := (carriedSet s).map fun r => ⟨r.seq, r.kind.severity⟩
            timeRides := u.rpu.timeRequest.isSome
            number := none
            message := []
            toHand := []
            resend := false
            stage := .none
            digits := [] }
      lnu.buffer := (u.cfl.params.report.map (·.centre)).getD [] }

theorem levelFree_withdrawClockRequest : LevelFree withdrawClockRequest := by
  intro b j s
  unfold withdrawClockRequest
  rw [show (leveled b j s).rpu = s.rpu from rfl]
  cases s.rpu.timeRequest with
  | none => rfl
  | some t =>
    dsimp only
    by_cases h : t.origin = .clock ∧ s.tru.clock.isSome
    · rw [if_pos h, if_pos (by exact h)]
      rfl
    · rw [if_neg h, if_neg (by exact h)]

theorem levelFree_judgeStart : LevelFree judgeStart := by
  have hgrant : LevelFree fun s => if startWanted s then grantReport s else s :=
    LevelFree.ite (fun _ _ _ => rfl) levelFree_grantReport fun _ _ _ => rfl
  have hjudge := hgrant.comp levelFree_withdrawClockRequest
  exact LevelFree.ite (p := fun s => s.lnu.quiet) (fun _ _ _ => rfl) hjudge fun _ _ _ => rfl

theorem levelFree_takeOccurrence (k : IncKind) (d : Nat) : LevelFree (takeOccurrence k d) := by
  have hmade : LevelFree fun s => raise .incident (setLatch k (createRecord k d s)) :=
    (levelFree_raise .incident).comp ((levelFree_setLatch k).comp (levelFree_createRecord k d))
  intro b j s
  unfold takeOccurrence
  rw [show pendingOf k (leveled b j s) = pendingOf k s from rfl,
    show holdMinutes k (leveled b j s) = holdMinutes k s from rfl]
  cases pendingOf k s with
  | some r =>
    exact ((levelFree_raise .incident).comp ((levelFree_setLatch k).comp (levelFree_putRecord
      { r with count := min 255 (r.count + 1), last := stampNow s, cleared := false }))) b j s
  | none =>
    dsimp only
    split
    · exact (levelFree_judgeStart.comp hmade) b j s
    · exact hmade b j s

theorem levelFree_attrEvent (a : AttrId) : LevelFree (attrEvent a) := by
  have hput (f : State → Attr) (hf : ∀ b j s, f (leveled b j s) = f s) :
      LevelFree fun s => putAttr a (f s) s := by
    intro b j s
    dsimp only
    rw [hf]
    rfl
  refine LevelFree.ite (p := inuActive) (fun _ _ _ => rfl) ?_ (levelFree_hold _)
  exact LevelFree.ite
    (p := fun s => (s.inu.attrs.get a).counted.crosses (s.cfl.params.attrs.get a).threshold)
    (fun _ _ _ => rfl)
    ((levelFree_takeOccurrence _ _).comp
      (hput (fun s => { (s.inu.attrs.get a).counted with armed := false }) fun _ _ _ => rfl))
    (hput (fun s => (s.inu.attrs.get a).counted) fun _ _ _ => rfl)

end Sys2Proof.Machine
end

section
/-! A coin credited and its charges, beside the sensor's level (R50 to R54, R62). -/

namespace Sys2Proof.Machine

theorem levelFree_queueDrop (seq : Nat) (dir : Dir) : LevelFree (queueDrop seq dir) :=
  LevelFree.ite (p := fun s => s.cnu.drops.any fun d => d.seq = seq) (fun _ _ _ => rfl)
    (fun _ _ _ => rfl) fun _ _ _ => rfl

theorem levelFree_startDrop : LevelFree startDrop := by
  intro b j s
  have hready (c : Coin) (d : Drop) : dropReady (leveled b j s) c d = dropReady s c d := rfl
  unfold startDrop
  rw [show (leveled b j s).cnu.escrow = s.cnu.escrow from rfl,
    show (leveled b j s).cnu.drops = s.cnu.drops from rfl]
  cases s.cnu.escrow with
  | nil => rfl
  | cons c cs =>
    cases s.cnu.drops with
    | nil => rfl
    | cons d ds =>
      dsimp only
      rw [hready]
      split <;> rfl

theorem levelFree_commitOrder (seq : Nat) : LevelFree (commitOrder seq) := by
  intro b j s
  have hdrop (c : Coin) : hasDrop (leveled b j s) c = hasDrop s c := rfl
  unfold commitOrder
  rw [show (leveled b j s).cnu.escrow = s.cnu.escrow from rfl]
  cases s.cnu.escrow.find? fun c => c.seq = seq with
  | none => rfl
  | some c =>
    dsimp only
    rw [hdrop]
    split
    · exact (levelFree_startDrop.comp (levelFree_queueDrop seq .collect)) b j
        { s with
          cnu.escrow :=
            s.cnu.escrow.map fun x => if x.seq = seq then { x with status := .committed } else x }
    · rfl

theorem levelFree_takeCharge (charge : Nat) : LevelFree (takeCharge charge) := by
  intro b j s
  unfold takeCharge
  rw [show (leveled b j s).rtu = s.rtu from rfl]
  cases s.rtu.ctx with
  | none => rfl
  | some c =>
    exact LevelFree.foldl (f := fun s x => commitOrder x.seq s) (fun x => levelFree_commitOrder x.seq)
      (newlyCommitted (c.consumed + charge) c.cin 0 c.roll) b j
      (moveTally (fun t => { t with consumed := satAdd t.consumed charge })
        { s with
          rtu.ctx :=
            some
              { c with
                phase := .charging
                consumed := c.consumed + charge
                intervals := c.intervals + 1
                roll := markCommitted (c.consumed + charge) c.cin 0 c.roll
                committed := c.committed + rollValue (newlyCommitted (c.consumed + charge) c.cin 0 c.roll)
                due := 0
                graceDeadline := none } })

theorem levelFree_raiseIf {p : State → State → Bool} {f : State → State} (e : Event)
    (hp : ∀ b j s t, p (leveled b j s) (leveled b j t) = p s t) (hf : LevelFree f) :
    LevelFree fun s => raiseIf (p s (f s)) e (f s) := by
  intro b j s
  dsimp only
  rw [hf b j s, hp]
  cases p s (f s) <;> rfl

theorem levelFree_watchCredit {f : State → State} (hf : LevelFree f) : LevelFree (watchCredit f) :=
  levelFree_raiseIf (p := fun s t => decide (shownCredit t ≠ shownCredit s)) .credit (fun _ _ _ _ => rfl) hf

theorem levelFree_enterGrace (charge start : Nat) : LevelFree (enterGrace charge start) := by
  have hline : LevelFree fun s => if s.lnu.state = .connected then setLine .grace s else s := by
    intro b j s
    show (if s.lnu.state = .connected then _ else _) = leveled b j (if _ then _ else _)
    split
    · exact levelFree_setLine .grace b j s
    · rfl
  intro b j s
  unfold enterGrace
  rw [show (leveled b j s).rtu = s.rtu from rfl]
  cases s.rtu.ctx with
  | none => rfl
  | some c =>
    exact hline b j
      (raise .credit
        (raise .lowCredit
          { s with
            rtu.ctx :=
              some
                { c with
                  phase := .grace
                  due := charge
                  graceDeadline := some (start + c.graceTime)
                  graceUsed := true } }))

/-- The state with the band and the end of an interval set. -/
def intervalSet (r : Row) (start : Nat) (c : Ctx) (s : State) : State :=
  { s with
    rtu.ctx :=
      some
        { c with
          band := some (chooseBand r s)
          start := some start
          finish := some (start + (r.rate (chooseBand r s)).len) } }

theorem levelFree_beginInterval (start : Nat) (first : Bool) : LevelFree (beginInterval start first) := by
  intro b j s
  have hband (r : Row) : chooseBand r (leveled b j s) = chooseBand r s := rfl
  unfold beginInterval
  rw [show (leveled b j s).rtu = s.rtu from rfl]
  cases s.rtu.ctx with
  | none => rfl
  | some c =>
    dsimp only
    cases c.row with
    | none => rfl
    | some r =>
      dsimp only
      rw [hband]
      generalize (if first = true then r.setupCharge else 0) + r.bandCharge (chooseBand r s) = charge
      split
      · exact levelFree_watchCredit (levelFree_takeCharge charge) b j
          (intervalSet r start { c with row := some r } s)
      · exact levelFree_enterGrace charge start b j (intervalSet r start { c with row := some r } s)

theorem levelFree_catchUp (n : Nat) : LevelFree (catchUp n) := by
  induction n with
  | zero => exact fun _ _ _ => rfl
  | succ n ih =>
    intro b j s
    unfold catchUp
    rw [show chargingEnd (leveled b j s) = chargingEnd s from rfl,
      show rtuNow (leveled b j s) = rtuNow s from rfl]
    cases chargingEnd s with
    | none => rfl
    | some e =>
      dsimp only
      split
      · exact (ih.comp (levelFree_beginInterval e false)) b j s
      · rfl

theorem levelFree_graceTest : LevelFree graceTest := by
  have hline : LevelFree fun s => if s.lnu.state = .grace then setLine .connected s else s := by
    intro b j s
    show (if s.lnu.state = .grace then _ else _) = leveled b j (if _ then _ else _)
    split
    · exact levelFree_setLine .connected b j s
    · rfl
  intro b j s
  unfold graceTest
  rw [show (leveled b j s).rtu = s.rtu from rfl]
  cases s.rtu.ctx with
  | none => rfl
  | some c =>
    dsimp only
    split
    · have hcatch : LevelFree fun s => catchUp (rtuNow s + 1 - c.finish.getD 0) s :=
        fun b j s => levelFree_catchUp _ b j s
      exact (hcatch.comp (hline.comp ((levelFree_raise .credit).comp (levelFree_takeCharge c.due)))) b j s
    · rfl

theorem levelFree_coinNotice (o : Owner) (seq value : Nat) : LevelFree (coinNotice o seq value) := by
  refine levelFree_watchCredit fun b j s => ?_
  rw [show (leveled b j s).rtu = s.rtu from rfl]
  cases s.rtu.ctx with
  | none =>
    dsimp only
    rw [show nextOwner (leveled b j s) = nextOwner s from rfl]
    split <;> rfl
  | some c =>
    dsimp only
    split
    · exact levelFree_graceTest b j
        { s with rtu.ctx := some { c with roll := c.roll ++ [⟨seq, value, false⟩] } }
    · rfl

/-- A coin at the top of the escrow list, counted and shown. -/
def coinAdded (denom value : Nat) (isForeign : Bool) (s : State) : State :=
  raise .credit
    (moveTally (Tallies.credit value)
      { s with
        cnu.escrow := s.cnu.escrow ++ [⟨s.cnu.nextSeq, denom, value, isForeign, ownerNow s, .held⟩]
        cnu.nextSeq := (s.cnu.nextSeq + 1) % 65536
        cnu.coinSince := true })

theorem levelFree_creditCoin (denom value : Nat) (isForeign : Bool) :
    LevelFree (creditCoin denom value isForeign) := by
  intro b j s
  unfold creditCoin
  dsimp only
  rw [show ownerNow (leveled b j s) = ownerNow s from rfl]
  cases ho : ownerNow s with
  | none =>
    dsimp only
    rw [← ho]
    exact (levelFree_startDrop.comp (levelFree_queueDrop s.cnu.nextSeq .ret)) b j
      (coinAdded denom value isForeign s)
  | some o =>
    dsimp only
    rw [← ho]
    exact levelFree_coinNotice o s.cnu.nextSeq value b j (coinAdded denom value isForeign s)

theorem levelFree_matchPassage : LevelFree matchPassage := by
  intro b j s
  unfold matchPassage
  rw [show (leveled b j s).cnu.escrow = s.cnu.escrow from rfl,
    show (leveled b j s).cnu.chute = s.cnu.chute from rfl]
  split
  · cases s.cnu.chute with
    | nil => exact ((levelFree_attrEvent .coinPathErrors).comp (levelFree_creditCoin 0 0 true)) b j s
    | cons c cs =>
      exact levelFree_creditCoin c.denom c.value false b j { s with cnu.chute := cs }
  · exact levelFree_attrEvent .coinPathErrors b j s

theorem levelFree_takeEntryPassage : LevelFree takeEntryPassage :=
  levelFree_matchPassage.comp (levelFree_clearLatch .coinJam)

end Sys2Proof.Machine
end

section
/-! Held events taken as their commands take them (R105, R172, R175). -/

namespace Sys2Proof.Machine

/-! ### Held events (R175) -/

theorem elapse_zero (s : State) : elapse 0 s = s := by
  unfold elapse
  simp

theorem effectOf_next {c : Instr} {s t : State} (h : exec c s = .next t) : effectOf c s = t := by
  rw [effectOf, h]

/-- An event taken at once in RUNNING and held else has in RUNNING the effect of its taking. -/
theorem effectOf_line {c : Instr} {s : State} {take : State → State} {h : Held}
    (hc : exec c s = onPower s fun s => if running s then take s else hold h s)
    (hp : s.powered = true) (hr : s.pfu.power = .running) : effectOf c s = take s := by
  refine effectOf_next (hc.trans ?_)
  rw [onPower_up hp]
  simp [running, hr]

theorem leveled_self (s : State) : leveled s.cnu.blockedSince s.cnu.jamDue s = s := rfl

theorem leveled_leveled (b j b' j' : Option Nat) (s : State) :
    leveled b j (leveled b' j' s) = leveled b j s := rfl

theorem exec_entryPassage_level {s : State} (hp : s.powered = true) (ha : cnuActive s = true) :
    exec (.entryPassage s.cnu.tubeEmpty) (leveled none none s) =
      .next (takeEntryPassage (leveled none none s)) := by
  rw [exec, execEntryPassage, onPower_up (by exact hp)]
  exact congrArg Host.Outcome.next (if_pos (by exact ha))

theorem heldTaken_entryPassage {s : State} (hp : s.powered = true) (hr : s.pfu.power = .running) :
    heldTaken s .entryPassage = takeHeld .entryPassage s := by
  have ht : takeHeld .entryPassage s = if cnuActive s then takeEntryPassage s else hold .entryPassage s := rfl
  have hh : heldTaken s .entryPassage =
      if starting s = true then hold .entryPassage s
      else leveled s.cnu.blockedSince s.cnu.jamDue
        (effectOf (.entryPassage s.cnu.tubeEmpty) (leveled none none s)) := rfl
  rw [ht, hh]
  cases hs : starting s
  · have ha : cnuActive s = true := by simp [cnuActive, running, hr, hs]
    rw [if_neg Bool.false_ne_true, if_pos ha, effectOf_next (exec_entryPassage_level hp ha),
      ← levelFree_takeEntryPassage, leveled_leveled, leveled_self]
  · have ha : cnuActive s = false := by simp [cnuActive, hs]
    rw [if_pos rfl, if_neg (by rw [ha]; exact Bool.false_ne_true)]

theorem exec_exitPassage {s : State} (hp : s.powered = true)
    (h : (running s && (!starting s || s.cnu.clearance.isSome)) = true) :
    exec (.exitPassage s.cnu.tubeEmpty) s = .next (takeExitPassage s) := by
  rw [exec, execExitPassage, onPower_up hp]
  exact congrArg Host.Outcome.next (if_pos (by exact h))

theorem heldTaken_exitPassage (clearing : Bool) {s : State} (hp : s.powered = true)
    (hr : s.pfu.power = .running) :
    heldTaken s (.exitPassage clearing) = takeHeld (.exitPassage clearing) s := by
  have ht : takeHeld (.exitPassage clearing) s =
      if (clearing && s.cnu.clearance.isSome) || cnuActive s then takeExitPassage s
      else hold (.exitPassage false) s := rfl
  have hh : heldTaken s (.exitPassage clearing) =
      if starting s = true ∧ ¬(clearing = true ∧ s.cnu.clearance.isSome = true) then
        hold (.exitPassage false) s
      else effectOf (.exitPassage s.cnu.tubeEmpty) s := rfl
  have hrun : running s = true := by simp [running, hr]
  rw [ht, hh]
  by_cases hgo : starting s = true ∧ ¬(clearing = true ∧ s.cnu.clearance.isSome = true)
  · rw [if_pos hgo, if_neg]
    obtain ⟨hs, hn⟩ := hgo
    simpa [cnuActive, hs] using hn
  · rw [if_neg hgo, if_pos, effectOf_next (exec_exitPassage hp _)]
    · cases hs : starting s <;> simp [hrun, hs] at hgo ⊢
      exact Option.isSome_iff_ne_none.2 hgo.2
    · cases hs : starting s <;> simp [cnuActive, hrun, hs] at hgo ⊢
      exact ⟨hgo.1, Option.isSome_iff_ne_none.2 hgo.2⟩

/-- An expiry held whose point has been reached is taken, and one whose point has not is nothing. -/
theorem expiryTaken_rating {c : Instr} {s : State} {point : Option Nat} {h : Held} {take : State → State}
    (hc : exec c s = onPower s fun s => atRatingPoint point h take s) (hp : s.powered = true)
    (hr : s.pfu.power = .running) (hnot : ¬point.any (· ≤ s.rtu.ms / 1000) = true → take s = s) :
    expiryTaken point (s.rtu.ms / 1000) c s = take s := by
  unfold expiryTaken
  split
  · next hreach =>
    cases point with
    | none => simp at hreach
    | some p =>
      have hle : p ≤ s.rtu.ms / 1000 := by simpa using hreach
      refine effectOf_next (hc.trans ?_)
      rw [onPower_up hp]
      have hz : p * 1000 - s.rtu.ms = 0 := by omega
      simp [atRatingPoint, running, hr, hz, elapse_zero]
  · next hreach => exact (hnot hreach).symm

/-- The point of the open call that a phase has, where the call is in it. -/
def pointIn (p : Phase → Bool) (point : Ctx → Option Nat) (s : State) : Option Nat :=
  s.rtu.ctx.bind fun c => if p c.phase then point c else none

theorem pointIn_charging (s : State) :
    pointIn (fun p => decide (p = .charging)) (·.finish) s = chargingEnd s := by
  unfold pointIn chargingEnd
  cases s.rtu.ctx <;> simp

theorem pointIn_grace (s : State) :
    pointIn (fun p => decide (p = .grace)) (·.graceDeadline) s = gracePoint s := by
  unfold pointIn gracePoint
  cases s.rtu.ctx <;> simp

theorem pointIn_limit (s : State) :
    pointIn (fun p => decide (p ≠ .ending)) (·.maxEnd) s = limitPoint s := by
  unfold pointIn limitPoint
  cases s.rtu.ctx with
  | none => rfl
  | some c => by_cases h : c.phase = .ending <;> simp [h]

theorem takeIntervalEnd_early {s : State} (h : ¬(chargingEnd s).any (· ≤ s.rtu.ms / 1000) = true) :
    takeIntervalEnd s = s := by
  unfold takeIntervalEnd
  cases hc : chargingEnd s with
  | none => rfl
  | some e => exact if_neg fun hle => h (by rw [hc]; simpa [rtuNow] using hle)

theorem takeGraceDeadline_early {s : State} (h : ¬(gracePoint s).any (· ≤ s.rtu.ms / 1000) = true) :
    takeGraceDeadline s = s := by
  unfold takeGraceDeadline
  cases hc : gracePoint s with
  | none => cases s.rtu.ctx <;> rfl
  | some e =>
    cases s.rtu.ctx with
    | none => rfl
    | some c => exact if_neg fun hle => h (by rw [hc]; simpa [rtuNow] using hle)

theorem takeMaxDurationEnd_early {s : State} (h : ¬(limitPoint s).any (· ≤ s.rtu.ms / 1000) = true) :
    takeMaxDurationEnd s = s := by
  unfold takeMaxDurationEnd
  cases hc : limitPoint s with
  | none => cases s.rtu.ctx <;> rfl
  | some e =>
    cases s.rtu.ctx with
    | none => rfl
    | some c => exact if_neg fun hle => h (by rw [hc]; simpa [rtuNow] using hle)

theorem heldTaken_lapse {s : State} (hp : s.powered = true) (hr : s.pfu.power = .running) :
    heldTaken s .lapse = takeHeld .lapse s := by
  have hh : heldTaken s .lapse =
      expiryTaken (if s.acu.mode = .service then s.acu.lapse else none) s.acu.ms .lapseExpiry s := rfl
  have ht : takeHeld .lapse s =
      if s.acu.mode = .service && lapseReached s then endSession s else s := rfl
  rw [hh, ht, expiryTaken]
  by_cases hm : s.acu.mode = .service
  · rw [if_pos hm]
    refine if_ctx_congr (by simp [hm, lapseReached]) (fun hreach => ?_) fun _ => rfl
    cases hl : s.acu.lapse with
    | none => simp [lapseReached, hl] at hreach
    | some p =>
      have hz : p - s.acu.ms = 0 := by
        have : p ≤ s.acu.ms := by simpa [hl, lapseReached, hm] using hreach
        omega
      refine effectOf_next ?_
      rw [exec, execLapseExpiry, onPower_up hp]
      simp only [hl, hz, elapse_zero]
      rw [if_pos (by simp [running, hr]), takeLapse, if_pos (by simpa [hm] using hreach)]
  · rw [if_neg hm, if_neg (by simp), if_neg (by simp [hm])]

theorem heldTaken_eq {s : State} (hp : s.powered = true) (hr : s.pfu.power = .running) (h : Held) :
    heldTaken s h = takeHeld h s := by
  cases h with
  | entryPassage => exact heldTaken_entryPassage hp hr
  | exitPassage clearing => exact heldTaken_exitPassage clearing hp hr
  | entryBlocked =>
    have ht : takeHeld .entryBlocked s =
        if cnuActive s then occur .coinJam 0 s else hold .entryBlocked s := rfl
    have hh : heldTaken s .entryBlocked =
        if starting s = true then hold .entryBlocked s else occur .coinJam 0 s := rfl
    rw [ht, hh]
    cases hs : starting s <;> simp [cnuActive, running, hr, hs]
  | offHook => exact effectOf_line (c := .offHook) (take := takeOffHook) (h := .offHook) rfl hp hr
  | onHook => exact effectOf_line (c := .onHook) (take := takeOnHook) (h := .onHook) rfl hp hr
  | loopAppears => exact effectOf_line (c := .loopAppears) (take := takeLoopAppears) (h := .loopAppears) rfl hp hr
  | loopLost => exact effectOf_line (c := .loopLost) (take := takeLoopLost) (h := .loopLost) rfl hp hr
  | reversal => exact effectOf_line (c := .polarityReversal) (take := takeReversal) (h := .reversal) rfl hp hr
  | reversion => exact effectOf_line (c := .polarityReversion) (take := takeReversion) (h := .reversion) rfl hp hr
  | voltage present =>
    exact effectOf_line (c := .lineVoltageChange present) (take := takeVoltage present)
      (h := .voltage present) rfl hp hr
  | tone t => exact effectOf_line (c := .toneReceived t) (take := takeTone t) (h := .tone t) rfl hp hr
  | key on => exact effectOf_line (c := .serviceKeyChange on) (take := takeKey on) (h := .key on) rfl hp hr
  | intervalEnd =>
    have he := expiryTaken_rating (c := .intervalEnd) (h := .intervalEnd) (take := takeIntervalEnd) rfl hp hr
      takeIntervalEnd_early
    rw [← pointIn_charging] at he
    exact he
  | graceDeadline =>
    have he := expiryTaken_rating (c := .graceDeadline) (h := .graceDeadline) (take := takeGraceDeadline) rfl
      hp hr takeGraceDeadline_early
    rw [← pointIn_grace] at he
    exact he
  | maxDurationEnd =>
    have he := expiryTaken_rating (c := .maxDurationEnd) (h := .maxDurationEnd) (take := takeMaxDurationEnd)
      rfl hp hr takeMaxDurationEnd_early
    rw [← pointIn_limit] at he
    exact he
  | lapse => exact heldTaken_lapse hp hr
  | passingWrite tariff => rfl
  | accessReset =>
    have hh : heldTaken s .accessReset = resetAccess s := by
      unfold heldTaken resetAccess
      cases s.acu.mode <;> rfl
    exact hh
  | occurrence k d => rfl
  | attrEvent a => rfl
  | clearLatch k => rfl

end Sys2Proof.Machine
end

section
/-! The resumption spelled out (R62, R123, R165, R175). -/

namespace Sys2Proof.Machine

theorem foldl_takeHeld (items : List Held) {s : State} (hp : s.powered = true)
    (hr : s.pfu.power = .running) :
    items.foldl heldTaken s = items.foldl (fun s h => takeHeld h s) s := by
  induction items generalizing s with
  | nil => rfl
  | cons h items ih =>
    rw [List.foldl_cons, List.foldl_cons, heldTaken_eq hp hr]
    exact ih (by simpa using hp) (by simpa using hr)

/-- The INU's held events as `allHeldTaken` takes them. -/
theorem replayIncidents_taken (s : State) :
    (s.held.filter Held.isIncident).foldl heldTaken
        { s with held := s.held.filter fun h => !h.isIncident } =
      replayIncidents s := by
  rw [foldl_heldTaken _ _ fun h hm => (List.mem_filter.1 hm).2]
  rfl

theorem allHeldTaken_eq {s : State} (hp : s.powered = true) (hr : s.pfu.power = .running) :
    allHeldTaken s = replayHeld s := by
  unfold allHeldTaken replayHeld
  dsimp only
  rw [replayIncidents_taken]
  have hp' : (replayIncidents s).powered = true := by simpa using hp
  have hr' : (replayIncidents s).pfu.power = .running := by simpa using hr
  generalize replayIncidents s = u at hp' hr'
  exact foldl_takeHeld u.held hp' hr'

theorem dropReady_iff (s : State) (c : Coin) (d : Drop) :
    dropReady s c d = true ↔
      d.seq = c.seq ∧ s.cnu.motion = none ∧ s.cnu.clearance = none ∧ s.cnu.frozen = false ∧
        (d.dir = .ret ∨ s.cnu.boxPresent = true) ∧ s.pfu.power = .running ∧ starting s = false := by
  have hdir : d.dir ≠ .collect ↔ d.dir = .ret := by cases d.dir <;> simp
  simp only [dropReady, running, Bool.and_eq_true, Bool.or_eq_true, decide_eq_true_eq, Bool.not_eq_true',
    Option.isNone_iff_eq_none, hdir]
  tauto

theorem dropStarted_eq (s : State) : dropStarted s = startDrop s := by
  unfold dropStarted startDrop
  cases hc : s.cnu.escrow with
  | nil => rfl
  | cons c cs =>
    cases hd : s.cnu.drops with
    | nil => rfl
    | cons d ds => exact if_congr (dropReady_iff s c d).symm rfl rfl

theorem writeBackRestarted_eq (s : State) : writeBackRestarted s = restartWriteBack s := by
  unfold writeBackRestarted restartWriteBack
  cases s.adu.run with
  | none => rfl
  | some r =>
    dsimp only
    cases r.job with
    | writeBack flush deferred =>
      dsimp only
      refine if_congr (by simp) ?_ rfl
      unfold beginWriteBack freshRun hasWindow baseOf
      cases windowOf .tally s <;> rfl
    | record => rfl
    | checkWord => rfl

theorem toneRestarted_eq (s : State) : toneRestarted s = restartTone s := by
  unfold toneRestarted restartTone startTone
  split
  · by_cases h : s.lnu.buffer = []
    · rw [if_pos h, if_pos h]
    · rw [if_neg h, if_neg h]
  · rfl

theorem resumed_eq {s : State} (hp : s.powered = true) : resumed s = resume s := by
  unfold resumed resume
  dsimp only
  rw [dropStarted_eq, writeBackRestarted_eq, toneRestarted_eq, allHeldTaken_eq]
  · simpa using hp
  · simp

end Sys2Proof.Machine
end

section
/-! The warning clears, and the invalidating word (R175): O60's first two clauses. -/

namespace Sys2Proof.Machine

theorem resume_ended (l : List (Nat × Word)) (s : State) : resume { s with pfu.save := l } = resume s := rfl

theorem leaveSaved_written {s : State} (h : s.pfu.wroteValidity = true) :
    leaveSaved s = { s with pfu.unsave := some ⟨.write, false⟩ } := if_pos h

theorem leaveSaved_unwritten {s : State} (hp : s.powered = true) (h : s.pfu.wroteValidity = false) :
    leaveSaved s = resumed s := by
  rw [resumed_eq hp]
  exact if_neg (by rw [h]; exact Bool.false_ne_true)

theorem enterSaved_cleared {s : State} (h : s.pfu.warning = false) :
    enterSaved s = leaveSaved { s with pfu.power := .saved, pfu.save := [] } :=
  if_neg (by exact h ▸ Bool.false_ne_true)

section
variable {s : State} (hp : s.powered = true)
include hp

theorem exec_warningCleared_clear (hw : s.pfu.warning = false) : exec .warningCleared s = .next s := by
  rw [exec, execWarningCleared, onPower_up hp, if_neg (by rw [hw]; exact Bool.false_ne_true)]

theorem exec_warningCleared_saving (hw : s.pfu.warning = true) (hs : s.pfu.power = .saving) :
    exec .warningCleared s = .next { s with pfu.warning := false } := by
  rw [exec, execWarningCleared, onPower_up hp, if_pos hw]
  simp only [hs]

theorem exec_warningCleared_unsaving {u : Unsave} (hw : s.pfu.warning = true)
    (hs : s.pfu.power = .saved) (hu : s.pfu.unsave = some u) :
    exec .warningCleared s = .next { s with pfu.warning := false } := by
  rw [exec, execWarningCleared, onPower_up hp, if_pos hw]
  simp only [hs, hu]

theorem exec_warningCleared_saved (hw : s.pfu.warning = true) (hs : s.pfu.power = .saved)
    (hu : s.pfu.unsave = none) :
    exec .warningCleared s =
      .next
        (if s.pfu.again then { s with pfu.warning := false }
        else leaveSaved { s with pfu.warning := false }) := by
  rw [exec, execWarningCleared, onPower_up hp, if_pos hw]
  simp only [hs, hu]

theorem exec_powerWarning_unsaving {u : Unsave} (hw : s.pfu.warning = false) (hs : s.pfu.power = .saved)
    (hu : s.pfu.unsave = some u) :
    exec .powerWarning s =
      .next { s with pfu.warning := true, pfu.unsave := some { u with rewrite := true } } := by
  rw [exec, execPowerWarning, onPower_up hp, if_neg (by rw [hw]; exact Bool.false_ne_true)]
  simp only [hs, hu]
  rfl

theorem exec_saveDone_saving (hs : s.pfu.power = .saving) :
    exec .saveDone s = .next (enterSaved { s with mem := s.mem.storeAll s.pfu.save }) := by
  rw [exec, execSaveDone, onPower_up hp]
  simp only [hs]

theorem exec_saveDone_saved (hs : s.pfu.power = .saved) :
    exec .saveDone s = .next (if s.pfu.again && portReaches .pfu s then writeAgain s else s) := by
  rw [exec, execSaveDone, onPower_up hp]
  simp only [hs]

end

theorem warningClears : Clause.WarningClears := by
  intro s hp
  refine ⟨exec_warningCleared_saving hp, exec_warningCleared_clear hp, fun hw hs hu ha => ?_,
    fun u hu hs => ⟨fun hw => exec_powerWarning_unsaving hp hw hs hu,
      fun hw => exec_warningCleared_unsaving hp hw hs hu⟩, fun hw hs hn => ?_, fun hw hs hn => ?_⟩
  · rw [exec_warningCleared_saved hp hw hs hu, ha, if_neg Bool.false_ne_true]
    exact ⟨fun hv => congrArg _ (leaveSaved_written (by exact hv)),
      fun hv => congrArg _ (leaveSaved_unwritten (by exact hp) (by exact hv))⟩
  · rw [exec_saveDone_saving hp hs, enterSaved_cleared (by exact hw),
      leaveSaved_unwritten (by exact hp) (by exact hn), resumed_eq (by exact hp), resumed_eq (by exact hp)]
    rfl
  · rw [exec_saveDone_saving hp hs, enterSaved_cleared (by exact hw), leaveSaved_written (by exact hn)]

/-! ### The invalidating word (R175, R177) -/

theorem verifyZero_verifies {bad rest : List Word} (hb : bad.length ≤ 2) (hn : ∀ x ∈ bad, x ≠ 0)
    (hr : rest = [] ∨ rest.head? = some 0) : verifyZero 2 (bad ++ rest) = (bad.length, true) := by
  have hlast (n : Nat) : verifyZero n rest = (0, true) := by
    rcases hr with rfl | h
    · cases n <;> rfl
    · obtain ⟨w, ws, rfl⟩ : ∃ w ws, rest = w :: ws := by
        cases rest with
        | nil => exact nomatch h
        | cons w ws => exact ⟨w, ws, rfl⟩
      obtain rfl : w = 0 := by simpa using h
      cases n <;> simp [verifyZero]
  have hmore (n : Nat) : ∀ bad : List Word, bad.length ≤ n → (∀ x ∈ bad, x ≠ 0) →
      verifyZero n (bad ++ rest) = (bad.length, true) := by
    induction n with
    | zero =>
      intro bad hb _
      rw [List.length_eq_zero_iff.1 (Nat.le_zero.1 hb)]
      exact hlast 0
    | succ n ih =>
      intro bad hb hn
      cases bad with
      | nil => exact hlast (n + 1)
      | cons x xs =>
        rw [List.cons_append, verifyZero, if_neg (hn x (List.mem_cons_self ..)),
          ih xs (by simpa using hb) fun y hy => hn y (List.mem_cons_of_mem _ hy)]
        rfl
  exact hmore 2 bad hb hn

theorem verifyZero_fails {x y z : Word} (rest : List Word) (hx : x ≠ 0) (hy : y ≠ 0) (hz : z ≠ 0) :
    verifyZero 2 (x :: y :: z :: rest) = (2, false) := by
  rw [verifyZero, if_neg hx, verifyZero, if_neg hy, verifyZero, decide_eq_false hz]

theorem writeInvalid_verifies {bad rest : List Word} (hb : bad.length ≤ 2) (hn : ∀ x ∈ bad, x ≠ 0)
    (hr : rest = [] ∨ rest.head? = some 0) (s : State) :
    writeInvalid (bad ++ rest) s =
      attrEvents .nvRetries bad.length (storeWord (validityAddr s) 0 s) := by
  unfold writeInvalid
  rw [verifyZero_verifies hb hn hr]
  rfl

theorem writeInvalid_fails {x y z : Word} (rest : List Word) (hx : x ≠ 0) (hy : y ≠ 0) (hz : z ≠ 0)
    (s : State) :
    writeInvalid (x :: y :: z :: rest) s =
      occur .auditSuspect 2 (attrEvents .nvRetries 2 (storeWord (validityAddr s) z s)) := by
  unfold writeInvalid
  rw [verifyZero_fails rest hx hy hz]
  rfl

theorem exec_validityWordVerified_unsave {s : State} {u : Unsave} (ws : List Word) (hp : s.powered = true)
    (hport : portReaches .pfu s = true) (hu : s.pfu.unsave = some u) :
    exec (.validityWordVerified ws) s = .next (afterInvalid u (writeInvalid ws s)) := by
  rw [exec, execValidityWordVerified, onPower_up hp, if_pos hport]
  simp only [hu]

/-- After the word the blocks resume, or A1E7h is to be written once more. -/
theorem afterInvalid_either (u : Unsave) {s : State} (hp : s.powered = true) :
    (u.rewrite = false → Host.Outcome.next (afterInvalid u s) = (.next (resumed s) : Out)) ∧
    (u.rewrite = true → Host.Outcome.next (afterInvalid u s) =
      (.next { s with pfu.unsave := none, pfu.again := true } : Out)) := by
  rw [resumed_eq hp]
  exact ⟨fun h => congrArg _ (if_neg (by rw [h]; exact Bool.false_ne_true)), fun h => congrArg _ (if_pos h)⟩

theorem writeAgain_warned {s : State} (h : s.pfu.warning = true) :
    writeAgain s =
      { s with mem := s.mem.store (baseOf .context s + 0xFE) 0xA1E7 .both, pfu.again := false } :=
  if_pos (by exact h)

theorem writeAgain_cleared {s : State} (h : s.pfu.warning = false) :
    writeAgain s =
      leaveSaved { s with mem := s.mem.store (baseOf .context s + 0xFE) 0xA1E7 .both, pfu.again := false } :=
  if_neg (by exact h ▸ Bool.false_ne_true)

theorem validityWordWritten : Clause.ValidityWordWritten := by
  intro s hp validity retries
  refine ⟨fun ws hport => ?_, fun u hport hu hs => ?_, fun hagain hs hsave => ?_⟩
  · rw [exec, execValidityWordVerified, onPower_up hp, if_neg (by rw [hport]; exact Bool.false_ne_true)]
  · have hact (c : Word) : inuActive (storeWord (validityAddr s) c s) = false := by
      simp [inuActive, running, storeWord, hs]
    constructor
    · intro bad rest hb hn hr t
      have ht : writeInvalid (bad ++ rest) s = t := by
        rw [writeInvalid_verifies hb hn hr, attrEvents_inactive _ _ (hact 0)]
        rfl
      rw [exec_validityWordVerified_unsave _ hp hport hu, ht]
      exact afterInvalid_either u (by exact hp)
    · intro x y z rest hx hy hz t
      have ht : writeInvalid (x :: y :: z :: rest) s = t := by
        rw [writeInvalid_fails rest hx hy hz, attrEvents_inactive _ _ (hact z),
          occur_inactive _ _ (by exact hact z)]
        rfl
      rw [exec_validityWordVerified_unsave _ hp hport hu, ht]
      exact afterInvalid_either u (by exact hp)
  · intro t
    have hdone (hport : portReaches .pfu s = true) : exec .saveDone s = .next (writeAgain s) := by
      rw [exec_saveDone_saved hp hs, if_pos (by rw [hagain, hport]; rfl)]
    refine ⟨fun hw hu => ?_, fun hport => ?_, fun hport => ?_, fun hport hw => ?_, fun hport hw hv => ?_⟩
    · rw [exec_warningCleared_saved hp hw hs hu, if_pos hagain]
    · rw [exec_saveDone_saved hp hs, if_neg (by rw [hagain, hport]; exact Bool.false_ne_true)]
    · rw [hdone hport, exec_portGrant (p := .pfu) hp (by simp [waits, invalidWaits, hagain, hs]) hport]
      simp only [grant, grantPfu, hsave, hagain, if_true]
    · rw [hdone hport, writeAgain_warned hw]
    · rw [hdone hport, writeAgain_cleared hw, leaveSaved_written (by exact hv)]

end Sys2Proof.Machine
end

section
/-! The end of STARTING after step 5's invalidating word (R28, R63, R177), and O60. -/

namespace Sys2Proof.Machine

/-! ### Held events leave the PFU, if a clearance in progress is a sweep -/

/-- A clearance in progress is a sweep. -/
def SweepsOnly (s : State) : Prop := ∀ c, s.cnu.clearance = some c → c.sweep = true

theorem SweepsOnly.of_clearance {s t : State} (h : SweepsOnly s)
    (e : t.cnu.clearance = s.cnu.clearance) : SweepsOnly t := fun c hc => h c (e ▸ hc)

/-- An operation over sweeps leaves the PFU, and sweeps alone. -/
def KeepsPfu (s t : State) : Prop := t.pfu = s.pfu ∧ SweepsOnly t

theorem KeepsPfu.trans {s t u : State} (h : KeepsPfu s t) (h' : KeepsPfu t u) : KeepsPfu s u :=
  ⟨h'.1.trans h.1, h'.2⟩

theorem KeepsPfu.of_eq {s t : State} (h : SweepsOnly s) (hp : t.pfu = s.pfu)
    (hc : t.cnu.clearance = s.cnu.clearance) : KeepsPfu s t := ⟨hp, h.of_clearance hc⟩

theorem clearanceDrop_keepsPfu (made : Nat) (s : State) : KeepsPfu s (clearanceDrop made true s) := by
  refine ⟨by simp, fun c hc => ?_⟩
  have h : (clearanceDrop made true s).cnu.clearance = some ⟨made, s.cnu.ms + 500, true⟩ := by
    simp [clearanceDrop]
  rw [h] at hc
  rw [← Option.some.inj hc]

theorem endClearance_keepsPfu {c : Clearance} (hc : c.sweep = true) (fault : Bool) (s : State) :
    KeepsPfu s (endClearance c fault s) := by
  unfold endClearance
  dsimp only
  rw [if_pos hc]
  refine ⟨?_, fun c' hc' => ?_⟩
  · cases fault <;> simp
  · cases fault <;> simp at hc'

theorem nextClearance_keepsPfu {c : Clearance} (hc : c.sweep = true) (s : State) :
    KeepsPfu s (nextClearance c s) := by
  unfold nextClearance
  (repeat' split)
  · exact endClearance_keepsPfu hc _ s
  · exact endClearance_keepsPfu hc _ s
  · rw [hc]
    exact clearanceDrop_keepsPfu _ s

theorem sweepCheck_keepsPfu {s : State} (h : SweepsOnly s) : KeepsPfu s (sweepCheck s) := by
  unfold sweepCheck
  split
  · exact clearanceDrop_keepsPfu _ s
  · exact ⟨rfl, h⟩

theorem completeDrop_keepsPfu (dir : Dir) {s : State} (h : SweepsOnly s) : KeepsPfu s (completeDrop dir s) := by
  refine ⟨by simp, ?_⟩
  unfold completeDrop
  split
  · exact h
  · next c cs _ =>
    dsimp only
    have hone {u : State} (hu : SweepsOnly u) (p : Prop) [Decidable p] :
        SweepsOnly (if p then sweepCheck u else u) := by
      split
      · exact (sweepCheck_keepsPfu hu).2
      · exact hu
    have hend {u : State} (hu : SweepsOnly u) : SweepsOnly (noDropsNotice (startDrop u)) :=
      hu.of_clearance (by simp)
    refine hend (hone (h.of_clearance ?_) _)
    split <;> simp

theorem takeExitPassage_keepsPfu {s : State} (h : SweepsOnly s) : KeepsPfu s (takeExitPassage s) := by
  unfold takeExitPassage
  split
  · next c hc => exact nextClearance_keepsPfu (h c hc) s
  · split
    · exact completeDrop_keepsPfu _ h
    · split
      · split
        · exact completeDrop_keepsPfu _ h
        · exact .of_eq h (by simp) (by simp)
      · exact .of_eq h (by simp) (by simp)

theorem takeHeld_keepsPfu (i : Held) {s : State} (h : SweepsOnly s) : KeepsPfu s (takeHeld i s) := by
  cases i with
  | exitPassage clearing =>
    unfold takeHeld
    dsimp only
    split
    · exact takeExitPassage_keepsPfu h
    · exact .of_eq h (by simp) (by simp)
  | entryPassage =>
    unfold takeHeld
    dsimp only
    split <;> exact .of_eq h (by simp) (by simp)
  | entryBlocked =>
    unfold takeHeld
    dsimp only
    split <;> exact .of_eq h (by simp) (by simp)
  | _ => exact .of_eq h (by simp [takeHeld]) (by simp [takeHeld])

theorem foldl_takeHeld_keepsPfu (items : List Held) {s : State} (h : SweepsOnly s) :
    KeepsPfu s (items.foldl (fun s h => takeHeld h s) s) := by
  induction items generalizing s with
  | nil => exact ⟨rfl, h⟩
  | cons i items ih => exact (takeHeld_keepsPfu i h).trans (ih (takeHeld_keepsPfu i h).2)

theorem replayHeld_keepsPfu {s : State} (h : SweepsOnly s) : KeepsPfu s (replayHeld s) := by
  have hi : KeepsPfu s (replayIncidents s) := .of_eq h (by simp) (by simp)
  unfold replayHeld
  dsimp only
  exact hi.trans (foldl_takeHeld_keepsPfu _ (s := { replayIncidents s with held := [] }) hi.2)

theorem endStarting_pfu {s : State} (h : s.cnu.clearance = none) :
    (endStarting s).pfu = { s.pfu with step5 := .idle } := by
  have hkeep := replayHeld_keepsPfu
    (s := startTimeRequest (startLine { s with cfl.step := .done, pfu.step5 := .idle }))
    (fun c hc => by simp [h] at hc)
  simpa [endStarting] using hkeep.1

/-! ### The line at the end of STARTING -/

/-- The state at the end of STARTING but for its line and what it takes then. -/
def startingOver (s : State) : State :=
  { s with
    cfl.step := .done
    pfu.step5 := .idle
    rpu.timeRequest :=
      if s.tru.clock = none ∧ s.cfl.params.report.isSome = true then
        some ⟨.clock, 0, s.rpu.ms / 1000⟩
      else s.rpu.timeRequest }

theorem startTimeRequest_eq (s : State) :
    startTimeRequest s =
      { s with
        rpu.timeRequest :=
          if s.tru.clock = none ∧ s.cfl.params.report.isSome = true then
            some ⟨.clock, 0, s.rpu.ms / 1000⟩
          else s.rpu.timeRequest } := by
  unfold startTimeRequest
  by_cases h : s.tru.clock = none ∧ s.cfl.params.report.isSome = true
  · rw [if_pos h, if_pos (by simp [h.1, h.2])]
    rfl
  · rw [if_neg h, if_neg (by simpa using h)]

theorem voltageGone_iff (s : State) :
    voltageGone s = true ↔ ∃ p, s.lnu.timers.absent = some p ∧ p ≤ s.lnu.ms := by
  simp [voltageGone, Option.any_eq_true]

theorem endStarting_taken {s : State} (hp : s.powered = true) (hr : s.pfu.power = .running) :
    endStarting s =
      dropStarted
        (allHeldTaken (startTimeRequest (startLine { s with cfl.step := .done, pfu.step5 := .idle }))) := by
  rw [dropStarted_eq, allHeldTaken_eq (by simpa using hp) (by simpa using hr)]
  rfl

theorem endStarting_onHook {s : State} (hp : s.powered = true) (hr : s.pfu.power = .running)
    (hv : voltageGone s = false) (ho : s.lnu.offHook = false) :
    endStarting s =
      dropStarted
        (allHeldTaken { startingOver s with lnu.timers.quiet := some (s.lnu.ms + 30000) }) := by
  rw [endStarting_taken hp hr]
  have hl : startLine { s with cfl.step := .done, pfu.step5 := .idle } =
      { s with
        cfl.step := .done
        pfu.step5 := .idle
        lnu.timers.quiet := some (s.lnu.ms + 30000) } := by
    unfold startLine
    rw [if_neg (by exact hv ▸ Bool.false_ne_true), if_neg (by exact ho ▸ Bool.false_ne_true)]
  rw [hl, startTimeRequest_eq]
  rfl

theorem endStarting_offHook {s : State} (hp : s.powered = true) (hr : s.pfu.power = .running)
    (hv : voltageGone s = false) (ho : s.lnu.offHook = true) (hi : s.lnu.state = .idle)
    (hvolt : s.lnu.voltage = true) :
    endStarting s =
      dropStarted
        (allHeldTaken
          { startingOver s with
            lnu.state := .ready
            lnu.quiet := false
            lnu.timers.ready := some (s.lnu.ms + s.cfl.params.readyTimeout * 1000)
            lnu.timers.quiet := none
            lnu.timers.absent := none
            lnu.timers.present := none
            rqu.flags := setFlag s.rqu.flags .line }) := by
  rw [endStarting_taken hp hr]
  have hl : startLine { s with cfl.step := .done, pfu.step5 := .idle } =
      { s with
        cfl.step := .done
        pfu.step5 := .idle
        lnu.state := .ready
        lnu.quiet := false
        lnu.timers.ready := some (s.lnu.ms + s.cfl.params.readyTimeout * 1000)
        lnu.timers.quiet := none
        lnu.timers.absent := none
        lnu.timers.present := none
        rqu.flags := setFlag s.rqu.flags .line } := by
    unfold startLine
    rw [if_neg (by exact hv ▸ Bool.false_ne_true), if_pos (by exact ho), setLine]
    rw [if_neg (by simp [hi])]
    simp [hvolt, raise]
  rw [hl, startTimeRequest_eq]
  rfl

/-! ### Step 5's invalidating word (R177) -/

theorem attrEvents_eq_iterate (a : AttrId) (n : Nat) (s : State) :
    attrEvents a n s = (attrEvent a)^[n] s := by
  induction n generalizing s with
  | zero => rfl
  | succ n ih => exact ih (attrEvent a s)

theorem exec_validityWordVerified_step5 {s : State} {stage : WordStage} (ws : List Word)
    (hp : s.powered = true) (hport : portReaches .pfu s = true) (hu : s.pfu.unsave = none)
    (h5 : s.pfu.step5 = .invalidate stage) (hr : s.pfu.power = .running) :
    exec (.validityWordVerified ws) s = .next (endStarting (writeInvalid ws s)) := by
  rw [exec, execValidityWordVerified, onPower_up hp, if_pos hport]
  simp only [hu, h5]
  rw [if_pos (by simp [running, hr])]

theorem startingEnds : Clause.StartingEnds := by
  intro s stage ws u hp hport hu h5 hr validity tried hways base gone
  have hwritten : u = writeInvalid ws s := by
    rcases hways with ⟨bad, rest, rfl, hb, hn, hrest, rfl⟩ | ⟨x, y, z, rest, rfl, hx, hy, hz, rfl⟩
    · rw [writeInvalid_verifies hb hn hrest, attrEvents_eq_iterate]
      rfl
    · rw [writeInvalid_fails rest hx hy hz, attrEvents_eq_iterate]
      rfl
  have hexec : exec (.validityWordVerified ws) s = .next (endStarting u) := by
    rw [hwritten, exec_validityWordVerified_step5 ws hp hport hu h5 hr]
  have hkept : u.powered = s.powered ∧ u.pfu = s.pfu ∧ u.cfl = s.cfl ∧ u.tru = s.tru ∧ u.cnu = s.cnu := by
    rw [hwritten]
    simp
  clear hwritten hways
  obtain ⟨kpow, kpfu, kcfl, ktru, kcnu⟩ := hkept
  have hup : u.powered = true := kpow.trans hp
  have hrun : u.pfu.power = .running := by rw [kpfu, hr]
  have hbase : startingOver u = base := by
    simp only [startingOver, base, ktru, kcfl]
  have hgone : ¬gone → voltageGone u = false := fun h =>
    Bool.eq_false_iff.2 fun hv => h ((voltageGone_iff u).1 hv)
  rw [hexec]
  refine ⟨⟨_, rfl, ?_, by simp, fun hc => ?_⟩, fun hg ho => ?_, fun hg ho hi hv => ?_⟩
  · simp [starting]
  · rw [endStarting_pfu (by rw [kcnu]; exact hc), kpfu]
  · rw [endStarting_onHook hup hrun (hgone hg) ho, hbase]
  · rw [endStarting_offHook hup hrun (hgone hg) ho hi hv, hbase, kcfl]

/-- Settles O60: the return from SAVED, word by word, and the end of STARTING over a context. -/
theorem powerReturns : Obligations.PowerReturns := ⟨warningClears, validityWordWritten, startingEnds⟩

end Sys2Proof.Machine
end

section
/-! The supply (R28, R173), and the laws right after power-on (O3, O11). -/

namespace Sys2Proof.Machine

/-! ### The power-on state -/

section PowerOn

variable (m : Memory) (lv : Levels) (p : List Instr)

theorem powerOn_accessLaw : AccessLaw (State.powerOn m lv p) := by
  simp [AccessLaw, State.powerOn]

theorem powerOn_interceptLaw : InterceptLaw (State.powerOn m lv p) :=
  (interceptLaw_iff _).2 QueueLaw.empty

theorem powerOn_escrowLaw : EscrowLaw (State.powerOn m lv p) := by
  simp [EscrowLaw, State.powerOn]

theorem powerOn_indexLaw : IndexLaw (State.powerOn m lv p) := by
  simp [IndexLaw, State.powerOn]

theorem powerOn_slotLaw : SlotLaw (State.powerOn m lv p) :=
  (slotLaw_iff _).2 SlotsAgree.none

theorem powerOn_creditLaw : CreditLaw (State.powerOn m lv p) := by
  simp [CreditLaw, State.powerOn]

end PowerOn

/-- Settles O11: power-on empties every list, slot and context that the laws speak of, and what is kept
of a canonical memory is canonical. -/
theorem lawsHoldAtPowerOn : Obligations.LawsHoldAtPowerOn := fun _ lv p h =>
  ⟨Memory.nonvolatile_wf h, powerOn_accessLaw _ lv p, powerOn_interceptLaw _ lv p,
    powerOn_escrowLaw _ lv p, powerOn_indexLaw _ lv p, powerOn_slotLaw _ lv p,
    powerOn_creditLaw _ lv p⟩

/-! ### The supply rises and falls -/

/-- What NV alone reads as: RAM is lost to the blank byte 00h, NV stands (log 3). -/
theorem Memory.get_nonvolatile_zero {m : Memory} (h : m.wf = true) (a : Nat) :
    m.nonvolatile.get a = if a < 0x80000 then 0 else m.get a := by
  rw [Memory.get_nonvolatile h]
  split
  · next ram => simp [Memory.blank, ram]
  · rfl

/-- A warning over a save with nothing to write, no controller word waiting: SAVED at once (R173,
R174). -/
theorem enterSaving_nothing {s : State} (hk : saveKind s = .nothing) (hc : s.bpu.cycle = none) :
    enterSaving s =
      { s with
        lnu.tone := none
        pfu.power := .saved
        pfu.warning := true
        pfu.wroteValidity := false
        pfu.save := [] } := by
  have hre : reclassCycle (beginSave (warned s)) = beginSave (warned s) :=
    reclassCycle_none (by rw [beginSave_cycle]; exact hc)
  rw [enterSaving_empty (by rw [hre, beginSave_nothing hk]), hre, beginSave_nothing hk]

/-- The state POWER_ON leaves: the power-on state over NV, SAVED if the warning is found asserted. -/
def suppliedFrom (s : State) (lv : Levels) : State :=
  { State.powerOn s.mem.nonvolatile lv s.pending with
    free := s.free
    pfu.power := if lv.warning then .saved else .running
    pfu.warning := lv.warning }

/-- A warning found asserted at power-on has no window to save to, so that its save is empty. -/
theorem exec_powerOn {s : State} (down : s.powered = false) (lv : Levels) :
    exec (.powerOn lv) s = .next (suppliedFrom s lv) := by
  rw [exec, execPowerOn]
  simp only [down, Bool.false_eq_true, if_false]
  cases warning : lv.warning
  · simp [suppliedFrom, warning, State.powerOn]
  · rw [if_pos rfl, enterSaving_nothing (saveKind_nothing (.inl rfl)) rfl]
    simp [suppliedFrom, warning, State.powerOn]

/-- The state POWER_LOST leaves: the supply down, over NV alone. -/
theorem exec_powerLost {s : State} (up : s.powered = true) :
    exec .powerLost s =
      .next
        { State.powerOn s.mem.nonvolatile Levels.rest s.pending with
          powered := false
          free := s.free } := by
  rw [exec, execPowerLost, onPower_up up]

/-- Settles O3: the two states are known in full, and NV is all that is left of memory in both. -/
theorem supplyRisesAndFalls : Obligations.SupplyRisesAndFalls := by
  intro s lv wf
  refine ⟨fun down => ⟨_, exec_powerOn down lv, ?_⟩, fun up => ⟨_, exec_powerLost up, ?_⟩⟩
  · simp [suppliedFrom, State.powerOn, Memory.get_nonvolatile_zero wf]
  · simp [State.powerOn, Memory.get_nonvolatile_zero wf]

end Sys2Proof.Machine
end

section
/-! Offers (R48, R34), and O27. -/

namespace Sys2Proof.Machine

/-- The line states in which the coin gate is open, listed (R48). -/
theorem LineState.gate_iff (l : LineState) :
    l.gate = true ↔
      l ∈ [.ready, .seizing, .dialling, .awaitAnswer, .connected, .grace, LineState.followOn] := by
  cases l <;> simp [LineState.gate]

theorem gateOpen_iff (s : State) :
    gateOpen s = true ↔
      starting s = false ∧ coinsBarred s = false ∧ s.pfu.power = .running ∧
      s.lnu.state ∈
        [.ready, .seizing, .dialling, .awaitAnswer, .connected, .grace, LineState.followOn] ∧
      s.cnu.escrow.length + s.cnu.chute.length < 8 := by
  simp only [gateOpen, running, Bool.and_eq_true, Bool.not_eq_true', decide_eq_true_eq,
    LineState.gate_iff, and_assoc]

/-- A code may be granted exactly if it is one of 1 to 6 and its denomination is enabled, out of config
fault (R48, R34). -/
theorem grantable_eq_some_iff (code : Nat) (s : State) (d : Denom) :
    grantable code s = some d ↔
      s.cfl.fault = none ∧ 1 ≤ code ∧ code ≤ 6 ∧ s.cfl.params.denoms[code - 1]? = some d ∧
        d.enabled = true := by
  unfold grantable
  split
  · next barred =>
    refine ⟨(fun h => nomatch h), fun ⟨fault, pos, _⟩ => ?_⟩
    rcases barred with zero | faulty
    · omega
    · simp [fault] at faulty
  · next clear =>
    obtain ⟨pos, fault⟩ := not_or.1 clear
    have fault : s.cfl.fault = none := by simpa using fault
    split
    · next found =>
      rw [Option.ite_none_right_eq_some, found, Option.some_inj]
      constructor
      · rintro ⟨⟨enabled, le⟩, rfl⟩
        exact ⟨fault, by omega, le, rfl, enabled⟩
      · rintro ⟨_, _, le, rfl, enabled⟩
        exact ⟨⟨enabled, le⟩, rfl⟩
    · next missing => simp [missing]

theorem exec_offer_granted {s : State} {code : Nat} {d : Denom} (up : s.powered = true)
    (gate : gateOpen s = true) (coin : grantable code s = some d) :
    exec (.offer code) s =
      .next
        { s with
          cnu :=
            { s.cnu with
              chute := s.cnu.chute ++ [⟨code, d.value, s.cnu.ms, s.cnu.ms + s.cfl.params.pathWindow⟩]
              offerAnswer := some true
              coinSince := true } } := by
  rw [exec, execOffer, onPower_up up, if_pos gate, coin]

theorem exec_offer_declined {s : State} {code : Nat} (up : s.powered = true)
    (no : gateOpen s = false ∨ grantable code s = none) :
    exec (.offer code) s = .next { s with cnu := { s.cnu with offerAnswer := some false } } := by
  have none_granted : (if gateOpen s then grantable code s else none) = none := by
    rcases no with shut | bad
    · simp [shut]
    · simp [bad]
  rw [exec, execOffer, onPower_up up, none_granted]

/-- Settles O27: the gate and the coin of R48 are the model's two tests, and each reason to decline fails
one of them. -/
theorem offerJudged : Obligations.OfferJudged := by
  intro s code d up gate coin
  refine ⟨fun open' granted => exec_offer_granted up ((gateOpen_iff s).2 open')
    ((grantable_eq_some_iff code s d).2 granted), fun declined => exec_offer_declined up ?_⟩
  rcases declined with shut | bad
  · exact .inl (Bool.eq_false_iff.2 fun h => shut ((gateOpen_iff s).1 h))
  · refine .inr (Option.eq_none_iff_forall_ne_some.2 fun x granted => ?_)
    obtain ⟨fault, pos, le, found, enabled⟩ := (grantable_eq_some_iff code s x).1 granted
    rcases bad with faulty | zero | beyond | missing | ⟨same, disabled⟩
    · simp [fault] at faulty
    · omega
    · omega
    · simp [found] at missing
    · obtain rfl : x = d := Option.some_inj.1 (found.symm.trans same)
      simp [enabled] at disabled

end Sys2Proof.Machine
end

section
/-! The words of a call's record by their places (3.6, R45, R104, R158): O38's third clause. -/

namespace Sys2Proof.Machine

/-! ### The flags byte -/

/-- A place below 8 of a byte pair is one of its second byte. -/
theorem getLsbD_bytePair (a b : Nat) {i : Nat} (h : i < 8) : (bytePair a b).getLsbD i = b.testBit i := by
  have wide : i < 16 := by omega
  have pair : a % 256 * 256 + b % 256 = 2 ^ 8 * (a % 256) + b % 2 ^ 8 := by omega
  rw [bytePair, wordOf, BitVec.getLsbD_ofNat, pair,
    Nat.testBit_two_pow_mul_add _ (Nat.mod_lt b (by decide)), if_pos h, Nat.testBit_mod_two_pow]
  simp [h, wide]

/-- The flags of a call that power loss did not end, each in its place. -/
theorem testBit_flags {r : CallRecord} (power : r.powerLoss = false) :
    r.flags.testBit 0 = r.followOn ∧ r.flags.testBit 1 = r.graceUsed ∧ r.flags.testBit 2 = false ∧
    r.flags.testBit 3 = r.clockInvalid ∧ r.flags.testBit 4 = false ∧ r.flags.testBit 5 = r.emergency ∧
    r.flags.testBit 6 = false ∧ r.flags.testBit 7 = false := by
  have each : ∀ k g v e : Bool,
      let n := bitIf k 0 + bitIf g 1 + bitIf false 2 + bitIf v 3 + bitIf e 5
      n.testBit 0 = k ∧ n.testBit 1 = g ∧ n.testBit 2 = false ∧ n.testBit 3 = v ∧
        n.testBit 4 = false ∧ n.testBit 5 = e ∧ n.testBit 6 = false ∧ n.testBit 7 = false := by
    decide
  rw [CallRecord.flags, power]
  exact each r.followOn r.graceUsed r.clockInvalid r.emergency

theorem endCause_code_lt (cause : EndCause) : cause.code < 256 := by cases cause <;> decide

/-! ### The record's words -/

/-- The record's words before its digits. -/
def recordHead (r : CallRecord) : List Word :=
  [wordOf (r.owner.seq / 65536), wordOf r.owner.seq, bytePair r.digits.length r.cls]

/-- The record's words between its digits and its CRC. -/
def recordFields (r : CallRecord) : List Word :=
  [r.seize.w0, r.seize.w1, r.seize.w2, (r.answerOffset.map wordOf).getD absent16,
    wordOf (r.duration / 65536), wordOf r.duration, wordOf (sat16 r.intervals),
    wordOf (r.consumed / 65536), wordOf r.consumed, wordOf r.coins,
    wordOf (r.coinValue / 65536), wordOf r.coinValue, wordOf (r.committed / 65536), wordOf r.committed,
    wordOf (r.returned / 65536), wordOf r.returned, wordOf (r.carriedIn / 65536), wordOf r.carriedIn,
    wordOf (r.carriedOut / 65536), wordOf r.carriedOut, bytePair r.cause.code r.flags, 0, 0]

/-- The record but for its CRC. -/
def recordBody (r : CallRecord) : List Word := recordHead r ++ (packDigits r.digits ++ recordFields r)

theorem callWords_eq (r : CallRecord) : callWords r = recordBody r ++ [crc (recordBody r)] := by
  show callWords r = withCrc (recordBody r)
  unfold callWords recordBody recordHead recordFields
  cases r.answerOffset <;> simp [words32, Stamp.words]

theorem recordBody_length (r : CallRecord) : (recordBody r).length = 31 := by
  simp [recordBody, recordHead, recordFields, packDigits_length]

theorem callWords_length (r : CallRecord) : (callWords r).length = 32 := by
  simp [callWords_eq, recordBody_length]

/-- The record's last word is the CRC over the others (R45). -/
theorem callWords_crc (r : CallRecord) : (callWords r).getD 31 0 = crc ((callWords r).take 31) := by
  rw [callWords_eq, List.take_left' (recordBody_length r)]
  exact wordAt_append_right (recordBody_length r) [crc (recordBody r)] 0

theorem callWords_head (r : CallRecord) {i : Nat} (h : i < 3) :
    (callWords r).getD i 0 = (recordHead r).getD i 0 := by
  rw [callWords_eq, recordBody, List.append_assoc]
  exact wordAt_append_left h _

theorem callWords_digits (r : CallRecord) {i : Nat} (h : i < 5) :
    (callWords r).getD (3 + i) 0 = wordAt (packDigits r.digits) i := by
  rw [callWords_eq, recordBody, List.append_assoc, List.append_assoc]
  exact (wordAt_append_right (A := recordHead r) rfl _ i).trans (wordAt_append_left h _)

theorem callWords_field (r : CallRecord) {i : Nat} (h : i < 23) :
    (callWords r).getD (8 + i) 0 = (recordFields r).getD i 0 := by
  have front : (recordHead r ++ packDigits r.digits).length = 8 := rfl
  rw [callWords_eq, recordBody, ← List.append_assoc, List.append_assoc _ _ [_]]
  exact (wordAt_append_right front _ i).trans (wordAt_append_left h _)

/-- A digit of the record: the dialled one, or Fh beyond the last (R45). -/
theorem callWords_digit (r : CallRecord) {i : Nat} (h : i < 20) :
    ((callWords r).getD ((0x06 + i / 4 * 2) / 2) 0).toNat / 16 ^ (3 - i % 4) % 16 =
      r.digits.getD i 15 % 16 := by
  rw [show (0x06 + i / 4 * 2) / 2 = 3 + i / 4 by omega, callWords_digits r (by omega),
    digit_packDigits r.digits h]

/-- The end cause and the flags. -/
theorem callWords_ending {r : CallRecord} (power : r.powerLoss = false) :
    let w := (callWords r).getD 28 0
    w.toNat / 256 = r.cause.code ∧ w.getLsbD 0 = r.followOn ∧ w.getLsbD 1 = r.graceUsed ∧
    w.getLsbD 2 = false ∧ w.getLsbD 3 = r.clockInvalid ∧ w.getLsbD 4 = false ∧
    w.getLsbD 5 = r.emergency ∧ w.getLsbD 6 = false ∧ w.getLsbD 7 = false := by
  intro w
  have word : w = bytePair r.cause.code r.flags := callWords_field r (i := 20) (by decide)
  have bit (i : Nat) (h : i < 8) : w.getLsbD i = r.flags.testBit i := by
    rw [word, getLsbD_bytePair _ _ h]
  obtain ⟨h0, h1, h2, h3, h4, h5, h6, h7⟩ := testBit_flags power
  refine ⟨?_, (bit 0 (by decide)).trans h0, (bit 1 (by decide)).trans h1, (bit 2 (by decide)).trans h2,
    (bit 3 (by decide)).trans h3, (bit 4 (by decide)).trans h4, (bit 5 (by decide)).trans h5,
    (bit 6 (by decide)).trans h6, (bit 7 (by decide)).trans h7⟩
  rw [word]
  exact firstByte_bytePair _ (endCause_code_lt _)

theorem callRecordLayout : Clause.CallRecordLayout := by
  intro c cause keep s ws w shows value now digit ending
  let r := endRecord c cause keep s
  have head (i : Nat) (h : i < 3 := by decide) : ws.getD i 0 = (recordHead r).getD i 0 :=
    callWords_head r h
  have field (i : Nat) (h : i < 23 := by decide) : ws.getD (8 + i) 0 = (recordFields r).getD i 0 :=
    callWords_field r h
  have digits (i : Nat) (h : i < 20) : digit i = s.lnu.number.getD i 15 % 16 := callWords_digit r h
  have code : ending = cause.code := by cases cause <;> rfl
  obtain ⟨hcause, hflags⟩ := callWords_ending (r := r) rfl
  refine ⟨callWords_length r, shows_of_eq (head 0) (head 1), fun hn hc => ?_,
    fun i hi => ⟨fun d hd h16 => ?_, fun beyond => ?_⟩, field 0, field 1, field 2,
    fun unanswered => ?_, fun a answered => ?_, ?_, shows_of_eq (field 7) (field 8),
    holds_of_eq (field 9) rfl, shows_of_eq (field 10) (field 11), shows_of_eq (field 12) (field 13),
    shows_of_eq (field 14) (field 15), shows_of_eq (field 16) (field 17),
    shows_of_eq (field 18) (field 19), hcause.trans code.symm, ?_⟩
  · exact (congrArg BitVec.toNat (head 2)).trans (toNat_bytePair hn hc)
  · rw [digits i hi, List.getD_eq_getElem?_getD, hd]
    exact Nat.mod_eq_of_lt h16
  · rw [digits i hi, List.getD_eq_default _ _ beyond]
  · have offset : r.answerOffset = none := by simp [r, endRecord, unanswered]
    have duration : r.duration = 0 := by simp [r, endRecord, unanswered]
    refine ⟨(field 3).trans ?_, ?_⟩
    · simp [recordFields, offset, absent16]
    · rw [← duration]
      exact shows_of_eq (field 4) (field 5)
  · have offset : r.answerOffset = some (a - c.seizePoint) := by simp [r, endRecord, answered]
    have duration : r.duration = now - a := by simp [r, endRecord, answered, rtuNow, now]
    refine ⟨holds_of_eq (field 3) ?_, ?_⟩
    · simp [recordFields, offset]
    · rw [← duration]
      exact shows_of_eq (field 4) (field 5)
  · exact (congrArg BitVec.toNat (field 6)).trans
      (toNat_wordOf_lt (Nat.lt_succ_of_le (Nat.min_le_right _ _)))
  · obtain ⟨h0, h1, h2, h3, h4, h5, h6, h7⟩ := hflags
    exact ⟨h0, h1, h2, h3, h4, h5, h6, h7, field 21, field 22, callWords_crc r⟩

end Sys2Proof.Machine
end

section
/-! The RETURN drops of a return order (R56 to R58). -/

namespace Sys2Proof.Machine

/-! ### A return order reads the coin unit -/

theorem queueDrop_cnu_congr (q : Nat) (dir : Dir) {s u : State} (h : u.cnu = s.cnu) :
    (queueDrop q dir u).cnu = (queueDrop q dir s).cnu := by
  unfold queueDrop
  rw [h]
  split
  · exact h
  · rfl

/-- Of the rest of the state a return order reads the power state and the start-up's step. -/
theorem returnOrder_cnu_congr (o : Owner) {s u : State} (hc : u.cnu = s.cnu) (hp : u.pfu = s.pfu)
    (hs : u.cfl = s.cfl) : (returnOrder o u).cnu = (returnOrder o s).cnu := by
  have queued (cs : List Coin) : ∀ {v w : State}, v.cnu = w.cnu →
      (cs.foldl (fun s c => queueDrop c.seq .ret s) v).cnu =
        (cs.foldl (fun s c => queueDrop c.seq .ret s) w).cnu := by
    induction cs with
    | nil => exact fun h => h
    | cons c cs ih => exact fun h => ih (queueDrop_cnu_congr c.seq .ret h)
  have free : freeCoins o u = freeCoins o s := by simp only [freeCoins, hasDrop, hc]
  unfold returnOrder
  rw [free, startDrop_congr (queued (freeCoins o s) hc) (by simpa using hp) (by simpa using hs)]

theorem returnOrder_watch (o : Owner) (s : State) : (returnOrder o s).cnu.watch = s.cnu.watch := by
  have started (u : State) : (startDrop u).cnu.watch = u.cnu.watch := by
    rcases startDrop_cases u with same | ⟨_, _, _, _, _, _, _, e⟩
    · rw [same]
    · rw [e]
  rw [returnOrder, started]
  exact foldl_induction (P := fun u => u.cnu.watch = s.cnu.watch) _ _ s rfl fun u c h => by
    rw [queueDrop_eq]
    exact h

/-! ### Each free coin gets its drop -/

/-- The queued drops of a sequence are RETURN drops. -/
def OnlyReturns (q : Nat) (drops : List Drop) : Prop := ∀ d ∈ drops, d.seq = q → d.dir = .ret

theorem OnlyReturns.append_ret {q : Nat} {drops : List Drop} (only : OnlyReturns q drops) (x : Nat) :
    OnlyReturns q (drops ++ [⟨x, .ret⟩]) := by
  intro d hd same
  rcases List.mem_append.1 hd with old | new
  · exact only d old same
  · rw [List.mem_singleton.1 new]

theorem OnlyReturns.orderDrops {q : Nat} {drops : List Drop} (only : OnlyReturns q drops)
    (escrow : List Coin) : OnlyReturns q (orderDrops escrow drops) := by
  intro d hd
  obtain ⟨x, -, found⟩ := List.mem_filterMap.1 hd
  exact only d (List.mem_of_find?_eq_some found)

/-- The drop of a coin of the tube keeps its place in the ordered queue. -/
theorem mem_orderDrops_ret {escrow : List Coin} {drops : List Drop} {c : Coin} (tube : c ∈ escrow)
    (only : OnlyReturns c.seq drops) (queued : ⟨c.seq, .ret⟩ ∈ drops) :
    ⟨c.seq, .ret⟩ ∈ orderDrops escrow drops := by
  refine List.mem_filterMap.2 ⟨c, tube, ?_⟩
  cases found : drops.find? (fun x => x.seq = c.seq) with
  | none => simpa using List.find?_eq_none.1 found _ queued
  | some d =>
    have same : d.seq = c.seq := by simpa using List.find?_some found
    have dir : d.dir = .ret := only d (List.mem_of_find?_eq_some found) same
    rw [← same, ← dir]

theorem OnlyReturns.queueDrop {q : Nat} {s : State} (only : OnlyReturns q s.cnu.drops) (x : Nat) :
    OnlyReturns q (queueDrop x .ret s).cnu.drops := by
  unfold Machine.queueDrop
  split
  · exact only
  · exact (only.append_ret x).orderDrops s.cnu.escrow

/-- A RETURN drop is in the queue once it is queued, and stays there while others are. -/
theorem mem_queueDrop_ret {s : State} {c : Coin} (tube : c ∈ s.cnu.escrow)
    (only : OnlyReturns c.seq s.cnu.drops) {x : Nat} (h : x = c.seq ∨ ⟨c.seq, .ret⟩ ∈ s.cnu.drops) :
    ⟨c.seq, .ret⟩ ∈ (queueDrop x .ret s).cnu.drops := by
  unfold queueDrop
  split
  · next queued =>
    rcases h with rfl | h
    · obtain ⟨d, hd, same⟩ := List.any_eq_true.1 queued
      have same : d.seq = c.seq := by simpa using same
      rwa [← same, ← only d hd same]
    · exact h
  · refine mem_orderDrops_ret tube (only.append_ret x) (List.mem_append.2 ?_)
    rcases h with rfl | h
    · exact .inr (List.mem_singleton_self _)
    · exact .inl h

theorem mem_foldl_queueDrop_ret (cs : List Coin) {s : State} {c : Coin} (tube : c ∈ s.cnu.escrow)
    (only : OnlyReturns c.seq s.cnu.drops) (h : c ∈ cs ∨ ⟨c.seq, .ret⟩ ∈ s.cnu.drops) :
    ⟨c.seq, .ret⟩ ∈ (cs.foldl (fun s x => queueDrop x.seq .ret s) s).cnu.drops := by
  induction cs generalizing s with
  | nil => exact h.resolve_left List.not_mem_nil
  | cons x cs ih =>
    refine ih (s := queueDrop x.seq .ret s) (by simpa using tube) (only.queueDrop x.seq) ?_
    rcases h with h | h
    · rcases List.mem_cons.1 h with rfl | later
      · exact .inr (mem_queueDrop_ret tube only (.inl rfl))
      · exact .inl later
    · exact .inr (mem_queueDrop_ret tube only (.inr h))

/-- A drop that starts leaves the queue for the motion; the others stay (R58). -/
theorem startDrop_ret {s : State} {q : Nat} (h : ⟨q, .ret⟩ ∈ s.cnu.drops) :
    ⟨q, .ret⟩ ∈ (startDrop s).cnu.drops ∨ (startDrop s).cnu.motion.map (·.dir) = some .ret := by
  rcases startDrop_cases s with same | ⟨c, cs, d, ds, -, drops, -, started⟩
  · rw [same]
    exact .inl h
  · rw [started]
    rw [drops] at h
    rcases List.mem_cons.1 h with rfl | later
    · exact .inr rfl
    · exact .inl later

theorem returnOrder_drops (o : Owner) {s : State} {c : Coin} (free : c ∈ freeCoins o s) :
    ⟨c.seq, .ret⟩ ∈ (returnOrder o s).cnu.drops ∨
      (returnOrder o s).cnu.motion.map (·.dir) = some .ret := by
  obtain ⟨tube, test⟩ := List.mem_filter.1 free
  have none : ∀ d ∈ s.cnu.drops, d.seq ≠ c.seq := by simp_all [hasDrop]
  exact startDrop_ret (mem_foldl_queueDrop_ret (freeCoins o s) tube
    (fun d hd same => absurd same (none d hd)) (.inl free))

end Sys2Proof.Machine
end

section
/-! What the end of a call makes of line, coins, tallies and log (R56, R100, R101, R114, R115, R158). -/

namespace Sys2Proof.Machine

/-! ### The settlement (R100, R101) -/

/-- The coins and the open credit of a call that ends: handed on with follow-on kept, else returned and
taken by EXCESS_VALUE (R100, R101). -/
def coinsSettled (c : Ctx) (keep : Bool) (s : State) : State :=
  if keep then
    { transferOrder c.owner (nextOwner s) s with
      rtu.waiting := (c.roll.filter fun x => !x.committed) ++ s.rtu.waiting
      rtu.carry := c.openCredit }
  else moveTally (Tallies.addExcess c.openCredit) (returnOrder c.owner s)

theorem settle_open {s : State} {c : Ctx} (ctx : s.rtu.ctx = some c) (cause : EndCause) (keep : Bool) :
    settle cause keep s =
      settlementTaken c.owner
        (raise .credit
          { settleRecord (endRecord c cause keep s) (coinsSettled c keep s) with rtu.ctx := none }) := by
  cases keep <;> simp [settle, ctx, coinsSettled]

theorem checkWatch_cnu (s : State) :
    (checkWatch s).cnu =
      { s.cnu with
        watch := s.cnu.watch.filter fun o => s.cnu.escrow.any fun x => x.owner = some o } := by
  have left (o : Owner) : (!ownerGone s o) = s.cnu.escrow.any fun x => x.owner = some o := by
    simp [ownerGone, List.all_eq_not_any_not]
  have stays : (s.cnu.watch.any (ownerGone s)) = false →
      (s.cnu.watch.filter fun o => !ownerGone s o) = s.cnu.watch := fun none =>
    List.filter_eq_self.2 fun o ho => by simpa using List.any_eq_false.1 none o ho
  simp only [← left]
  unfold checkWatch
  split
  · simp
  · next none => rw [stays (by simpa using none)]

/-- A settlement leaves the writer's jobs in the queue. -/
theorem mem_settlementTaken_jobs (o : Owner) {s : State} {j : Job} (h : j ∈ s.adu.jobs) :
    j ∈ (settlementTaken o s).adu.jobs := by
  unfold settlementTaken checkWatch
  split
  · rcases triggerWriteBack_cases _ with ⟨-, same⟩ | ⟨-, queued⟩
    · rw [same]
      exact h
    · rw [queued]
      exact List.mem_append_left _ h
  · exact h

theorem settleRecord_job {r : CallRecord} {s : State} (logged : r.owner.unlogged = false)
    (window : hasWindow .callLog s = true) :
    .record .call (r.owner.seq % 256) (callWords r) ∈ (settleRecord r s).adu.jobs := by
  have open' : hasWindow .callLog (moveTally (Tallies.countCall r) s) = true := window
  unfold settleRecord
  simp only [logged, open', Bool.not_true, Bool.or_false, Bool.false_eq_true, if_false]
  exact queueRecord_mem ..

section Settle

variable {s : State} {c : Ctx} (ctx : s.rtu.ctx = some c) (cause : EndCause) (keep : Bool)
include ctx

theorem settle_rtu :
    (settle cause keep s).rtu = { (coinsSettled c keep s).rtu with ctx := none } := by
  simp [settle_open ctx]

theorem settle_cache :
    (settle cause keep s).adu.cache =
      (coinsSettled c keep s).adu.cache.countCall (endRecord c cause keep s) := by
  simp [settle_open ctx, settleRecord_cache]

theorem settle_cnu :
    (settle cause keep s).cnu =
      { (coinsSettled c keep s).cnu with
        openCall := none
        watch :=
          ((coinsSettled c keep s).cnu.watch ++ [c.owner]).filter fun o =>
            (coinsSettled c keep s).cnu.escrow.any fun x => x.owner = some o } := by
  rw [settle_open ctx, settlementTaken, checkWatch_cnu]
  simp

theorem settle_job (logged : c.owner.unlogged = false) (window : hasWindow .callLog s = true) :
    .record .call (c.owner.seq % 256) (callWords (endRecord c cause keep s)) ∈
      (settle cause keep s).adu.jobs := by
  have open' : hasWindow .callLog (coinsSettled c keep s) = true := by
    rw [← window]
    unfold hasWindow windowOf coinsSettled
    cases keep <;> simp
  rw [settle_open ctx]
  exact mem_settlementTaken_jobs c.owner
    (settleRecord_job (r := endRecord c cause keep s) logged open')

end Settle

/-- The counts of a call leave EXCESS_VALUE and do not read it (R158). -/
theorem countCall_counts (r : CallRecord) (t : Tallies) (e : Nat) :
    (({ t with excess := e } : Tallies).countCall r).excess = e ∧
    (({ t with excess := e } : Tallies).countCall r).paidAnswered = (t.countCall r).paidAnswered ∧
    (({ t with excess := e } : Tallies).countCall r).free = (t.countCall r).free ∧
    (({ t with excess := e } : Tallies).countCall r).unanswered = (t.countCall r).unanswered ∧
    (({ t with excess := e } : Tallies).countCall r).unlogged = (t.countCall r).unlogged := by
  unfold Tallies.countCall
  (repeat' split) <;> simp

/-! ### What the end reads -/

/-- Two states agree in all that the end of a call reads beside its context, its line state and the
point reached on the line's count. -/
structure EndsAlike (u s : State) : Prop where
  bpu : u.bpu = s.bpu
  cfl : u.cfl = s.cfl
  cnu : u.cnu = s.cnu
  clock : u.tru.clock = s.tru.clock
  pfu : u.pfu = s.pfu
  waiting : u.rtu.waiting = s.rtu.waiting
  seconds : u.rtu.ms = s.rtu.ms
  cache : u.adu.cache = s.adu.cache
  nextCall : u.adu.nextCall = s.adu.nextCall
  followOn : u.lnu.followOn = s.lnu.followOn
  offHook : u.lnu.offHook = s.lnu.offHook
  number : u.lnu.number = s.lnu.number
  lineMs : u.lnu.ms = s.lnu.ms

theorem CallEnded.congr {cause : EndCause} {c : Ctx} {s u t : State} (a : EndsAlike u s)
    (h : CallEnded cause c u t) : CallEnded cause c s t := by
  have record (keep : Bool) : endRecord c cause keep u = endRecord c cause keep s := by
    simp only [endRecord, rtuNow, a.number, a.seconds, a.clock]
  have free : freeCoins c.owner u = freeCoins c.owner s := by
    simp only [freeCoins, hasDrop, a.cnu]
  have window : hasWindow .callLog u = hasWindow .callLog s := by
    simp only [hasWindow, windowOf, a.bpu]
  simpa only [CallEnded, record, free, window, returnOrder_cnu_congr c.owner a.cnu a.pfu a.cfl, a.cnu,
    a.waiting, a.cache, a.nextCall, a.followOn, a.offHook, a.lineMs] using h

/-! ### The line -/

/-- The line leaves a call: DOWN after LINE_LOST, else CLEARING (R114, R115, R119). -/
def lineLeft (cause : EndCause) (keep : Bool) (s : State) : State :=
  let u := { s with lnu.keep := keep, lnu.number := [], lnu.followOn := false }
  if cause = .lineLost then goDown u else enterClearing u

theorem lineLeft_frame (cause : EndCause) (keep : Bool) (s : State) :
    (lineLeft cause keep s).cnu = s.cnu ∧ (lineLeft cause keep s).rtu = s.rtu ∧
    (lineLeft cause keep s).adu = s.adu ∧ (lineLeft cause keep s).rqu.service = s.rqu.service := by
  unfold lineLeft
  dsimp only
  split <;> simp

theorem setLine_sending (st : LineState) (s : State) :
    (setLine st s).lnu.tone = s.lnu.tone ∧ (setLine st s).lnu.keep = s.lnu.keep := by
  unfold setLine
  split <;> simp [raise]

theorem openRelay_lnu (s : State) :
    (openRelay s).lnu.tone = s.lnu.tone ∧ (openRelay s).lnu.keep = s.lnu.keep ∧
    (openRelay s).lnu.followOn = s.lnu.followOn ∧ (openRelay s).lnu.ms = s.lnu.ms := by
  unfold openRelay
  split <;> simp

theorem lineLeft_lnu (cause : EndCause) (keep : Bool) (s : State) :
    let t := lineLeft cause keep s
    t.lnu.state = (if cause = .lineLost then .down else .clearing) ∧ t.lnu.relay = false ∧
    t.lnu.buffer = s.lnu.buffer ∧ t.lnu.tone = s.lnu.tone ∧ t.lnu.keep = keep ∧
    t.lnu.followOn = false ∧
    (cause ≠ .lineLost → t.lnu.timers.clearing = some (s.lnu.ms + 1000)) := by
  simp only [lineLeft]
  split
  · next lost => simp [goDown, setLine_lnu, setLine_sending, openRelay_lnu, lost]
  · simp [enterClearing, setLine_lnu, setLine_sending, openRelay_lnu]

/-! ### The end of a call -/

/-- Whether an end with this cause keeps the follow-on (R115). -/
def keeps (cause : EndCause) (s : State) : Bool := s.lnu.followOn && s.lnu.offHook && cause ≠ .lineLost

theorem endCall_endable {s : State} (endable : s.lnu.state.isEndable = true) (cause : EndCause) :
    endCall cause s =
      lineLeft cause (keeps cause s) (settle cause (keeps cause s) (stopCall s)) := by
  rw [endCall, if_pos endable]
  rfl

theorem coinsSettled_kept (c : Ctx) (s : State) :
    (coinsSettled c true s).rtu.carry = c.openCredit ∧
    (coinsSettled c true s).rtu.waiting = (c.roll.filter fun x => !x.committed) ++ s.rtu.waiting ∧
    (coinsSettled c true s).adu.cache = s.adu.cache ∧
    (coinsSettled c true s).cnu =
      { s.cnu with
        escrow :=
          s.cnu.escrow.map fun x =>
            if x ∈ freeCoins c.owner s then { x with owner := some ⟨s.adu.nextCall, false⟩ } else x } := by
  refine ⟨rfl, rfl, rfl, ?_⟩
  rw [← transferOrder_escrow]
  rfl

theorem coinsSettled_returned (c : Ctx) (s : State) :
    (coinsSettled c false s).adu.cache =
      { s.adu.cache with excess := satAdd s.adu.cache.excess c.openCredit } ∧
    (coinsSettled c false s).cnu = (returnOrder c.owner s).cnu := by
  simp [coinsSettled, moveTally, Tallies.addExcess]

/-- Coins and open credit settled move EXCESS_VALUE alone of the cache. -/
theorem coinsSettled_cache (c : Ctx) (keep : Bool) (s : State) :
    (coinsSettled c keep s).adu.cache =
      { s.adu.cache with excess := (coinsSettled c keep s).adu.cache.excess } := by
  cases keep
  · obtain ⟨cache, -⟩ := coinsSettled_returned c s
    rw [cache]
  · obtain ⟨-, -, cache, -⟩ := coinsSettled_kept c s
    rw [cache]

/-- A call in any of its states is ended as R100 to R104 and R114, R115 say. -/
theorem endCall_ended {s : State} {c : Ctx} (ctx : s.rtu.ctx = some c)
    (endable : s.lnu.state.isEndable = true) (cause : EndCause) :
    CallEnded cause c s (endCall cause s) := by
  have alike : EndsAlike (stopCall s) s := by constructor <;> rfl
  have keep_eq : keeps cause s = keeps cause (stopCall s) := rfl
  have empty : (stopCall s).lnu.buffer = [] ∧ (stopCall s).lnu.tone = none := ⟨rfl, rfl⟩
  have open' : (stopCall s).rtu.ctx = some c := ctx
  refine CallEnded.congr alike ?_
  rw [endCall_endable endable, keep_eq]
  generalize stopCall s = u at empty open'
  obtain ⟨cnu, rtu, adu, -⟩ := lineLeft_frame cause (keeps cause u) (settle cause (keeps cause u) u)
  obtain ⟨state, relay, buffer, tone, keep, followOn, clearing⟩ :=
    lineLeft_lnu cause (keeps cause u) (settle cause (keeps cause u) u)
  simp only [settle_frame] at buffer tone clearing
  have cache := settle_cache open' cause (keeps cause u)
  rw [coinsSettled_cache] at cache
  obtain ⟨excess, paid, free, unanswered, unlogged⟩ :=
    countCall_counts (endRecord c cause (keeps cause u) u) u.adu.cache
      (coinsSettled c (keeps cause u) u).adu.cache.excess
  refine ⟨state, relay, buffer.trans empty.1, tone.trans empty.2, keep, followOn, clearing, ?_, ?_, ?_⟩
  · rw [rtu, settle_rtu open']
  · rw [cnu, rtu, adu, settle_cnu open', settle_rtu open', cache, excess]
    change if keeps cause u = true then _ else _
    cases keeps cause u
    · obtain ⟨credit, drops⟩ := coinsSettled_returned c u
      refine ⟨by rw [credit], by rw [drops, returnOrder_watch], ?_⟩
      rw [drops]
      exact fun x => returnOrder_drops c.owner
    · obtain ⟨carry, waiting, credit, escrow⟩ := coinsSettled_kept c u
      exact ⟨carry, waiting, by rw [credit], by rw [escrow]⟩
  · rw [adu, cache]
    exact ⟨paid, free, unanswered, unlogged, settle_job open' cause _⟩

end Sys2Proof.Machine
end

section
/-! The events that end a call, and what is held or refused instead (R98, R99, R105, R111, R113, R114, R118,
R119, R123), and O38. -/

namespace Sys2Proof.Machine

/-! ### Commands of timers and of requests -/

theorem atLineTimer_runs {t : Timers → Option Nat} {s : State} {p : Nat} (power : s.pfu.power = .running)
    (runs : t s.lnu.timers = some p) (f : State → State) :
    atLineTimer t f s = f (elapse (p - s.lnu.ms) s) := by
  simp [atLineTimer, runs, running, power]

theorem atRatingPoint_runs {point : Option Nat} {s : State} {p : Nat} (power : s.pfu.power = .running)
    (runs : point = some p) (h : Held) (take : State → State) :
    atRatingPoint point h take s = take (elapse (p * 1000 - s.rtu.ms) s) := by
  simp [atRatingPoint, runs, running, power]

theorem atRatingPoint_held {point : Option Nat} {s : State} {p : Nat} (stopped : s.pfu.power ≠ .running)
    (runs : point = some p) (reached : p ≤ s.rtu.ms / 1000) (h : Held) (take : State → State) :
    atRatingPoint point h take s = { s with held := s.held ++ [h] } := by
  simp [atRatingPoint, runs, running, stopped, rtuNow, reached, hold]

/-- The RTU's count has reached the point that its timer's command moves time on to (log 4). -/
theorem elapse_reaches {s : State} (power : s.pfu.power = .running) (p : Nat) :
    p ≤ rtuNow (elapse (p * 1000 - s.rtu.ms) s) := by
  rw [rtuNow, elapse_running power]
  show p ≤ (s.rtu.ms + (p * 1000 - s.rtu.ms)) / 1000
  omega

theorem exec_release {s : State} {v : Service} (h : InService kindRelease v s) :
    exec .release s = .next (releaseRequest v.params s) := by
  obtain ⟨up, service, phase, kind⟩ := h
  exact (onPower_up up _).trans (congrArg _ (onRequest_serving _ service phase kind))

theorem onPower_taken {s : State} (up : s.powered = true) (power : s.pfu.power = .running) (h : Held)
    (take : State → State) :
    onPower s (fun s => if running s then take s else hold h s) = .next (take s) := by
  rw [onPower_up up]
  simp [running, power]

theorem onPower_held {s : State} (up : s.powered = true) (stopped : s.pfu.power ≠ .running) (h : Held)
    (take : State → State) :
    onPower s (fun s => if running s then take s else hold h s) =
      .next { s with held := s.held ++ [h] } := by
  rw [onPower_up up]
  simp [running, stopped, hold]

theorem endCall_service (cause : EndCause) (s : State) :
    (endCall cause s).rqu.service = s.rqu.service := by
  cases endable : s.lnu.state.isEndable
  · simp [endCall, endable]
  · obtain ⟨-, -, -, service⟩ :=
      lineLeft_frame cause (keeps cause s) (settle cause (keeps cause s) (stopCall s))
    rw [endCall_endable endable, service]
    simp [stopCall]

/-! ### The ends of a call -/

theorem LineState.not_report_of_endable {st : LineState} (h : st.isEndable = true) :
    st.isReport = false := by
  cases st <;> simp_all [LineState.isEndable, LineState.isReport]

/-- A call cut off by the RTU ends as it would have from its own phase (R98, R99). -/
theorem cutOff_ended {s : State} {c : Ctx} (endable : s.lnu.state.isEndable = true) (cause : EndCause) :
    CallEnded cause c s (cutOff cause c s) := by
  let u : State :=
    { s with rtu.ctx := some { c with phase := .ending, due := 0, graceDeadline := none } }
  have ended : CallEnded cause c u (endCall cause u) :=
    endCall_ended (s := u) (c := { c with phase := .ending, due := 0, graceDeadline := none }) rfl
      endable cause
  exact ended.congr (u := u) (by constructor <;> rfl)

/-- The end of a call clears no flag. -/
theorem flagsKept_endCall (cause : EndCause) {s : State} {c : Ctx} (ctx : s.rtu.ctx = some c) :
    FlagsKept s (endCall cause s) := by
  have settled (keep : Bool) : FlagsKept s (settle cause keep (stopCall s)) := by
    have same : (coinsSettled c keep (stopCall s)).rqu = s.rqu := by
      cases keep <;> simp [coinsSettled, stopCall]
    have raised : (settle cause keep (stopCall s)).rqu = (raise .credit s).rqu := by
      simp [settle_open (s := stopCall s) ctx, raise, same]
    exact (flagsKept_raise .credit s).trans (.of_eq (by rw [raised]))
  have left (keep : Bool) (u : State) : FlagsKept u (lineLeft cause keep u) := by
    unfold lineLeft goDown enterClearing
    dsimp only
    split
    · exact (FlagsKept.of_eq (by simp)).trans (flagsKept_setLine .down _)
    · exact (FlagsKept.of_eq (by simp)).trans
        ((flagsKept_setLine .clearing _).trans (.of_eq rfl))
  cases endable : s.lnu.state.isEndable
  · rw [endCall, endable]
    exact .of_eq rfl
  · rw [endCall_endable endable]
    exact (settled _).trans (left _ _)

/-- A fault of the line handed, and the call ended with it (R119). -/
theorem endCall_after_lineFault {s : State} {c : Ctx} (ctx : s.rtu.ctx = some c)
    (endable : s.lnu.state.isEndable = true) (loud : s.lnu.quiet = false) :
    let x := occur .lineFault 0 s
    x.lnu.state.isReport = false ∧ OccurrenceReached .lineFault 0 s (endCall .lineLost x) ∧
    CallEnded .lineLost c s (endCall .lineLost x) := by
  intro x
  have line : (occur .lineFault 0 s).lnu = s.lnu := (occur_busy .lineFault 0 loud).1
  have open' : x.rtu.ctx = some c := by simpa [x] using ctx
  have talking : x.lnu.state.isEndable = true := by rw [line]; exact endable
  have alike : EndsAlike x s := by constructor <;> simp [x, line]
  refine ⟨LineState.not_report_of_endable talking, ?_, (endCall_ended open' talking .lineLost).congr alike⟩
  have reached : OccurrenceReached .lineFault 0 s x := occur_reached .lineFault 0 s
  have flags := flagsKept_endCall .lineLost open'
  unfold OccurrenceReached at reached ⊢
  split
  · next active =>
    rw [if_pos active] at reached
    exact ⟨by simpa using reached.1, flags _ reached.2⟩
  · next idle =>
    rw [if_neg idle] at reached
    simpa using reached

section Ends

variable {s : State} {c : Ctx} (up : s.powered = true) (power : s.pfu.power = .running)
  (ctx : s.rtu.ctx = some c) (endable : s.lnu.state.isEndable = true)
include up power ctx endable

theorem onHook_ends (started : starting s = false) :
    ∃ t, exec .onHook s = .next t ∧ CallEnded .onHook c { s with lnu.offHook := false } t := by
  have taken : takeOnHook s = endCall .onHook { s with lnu.offHook := false } := by
    have stays : starting { s with lnu.offHook := false } = false := started
    unfold takeOnHook
    simp only [stays, LineState.not_report_of_endable endable]
    revert endable
    cases s.lnu.state <;> simp [LineState.isEndable]
  exact ⟨_, (onPower_taken up power .onHook takeOnHook).trans (congrArg _ taken),
    endCall_ended (s := { s with lnu.offHook := false }) ctx endable .onHook⟩

theorem polarityReversion_ends (talking : s.lnu.state = .connected ∨ s.lnu.state = .grace) :
    ∃ t, exec .polarityReversion s = .next t ∧ CallEnded .farEnd c { s with lnu.reversed := false } t := by
  have taken : takeReversion s = endCall .farEnd { s with lnu.reversed := false } := by
    unfold takeReversion
    rcases talking with h | h <;> simp [h]
  exact ⟨_, (onPower_taken up power .reversion takeReversion).trans (congrArg _ taken),
    endCall_ended (s := { s with lnu.reversed := false }) ctx endable .farEnd⟩

theorem answerTimeout_ends {p : Nat} (runs : s.lnu.timers.answer = some p) :
    ∃ t, exec .answerTimeout s = .next t ∧ CallEnded .noAnswer c (elapse (p - s.lnu.ms) s) t := by
  refine ⟨_, onPower_up up _, ?_⟩
  rw [atLineTimer_runs power runs]
  exact endCall_ended (by simpa using ctx) (by simpa using endable) .noAnswer

theorem loopTimeout_ends {p : Nat} (runs : s.lnu.timers.loop = some p) :
    ∃ t, exec .loopTimeout s = .next t ∧ CallEnded .seizeFailed c (elapse (p - s.lnu.ms) s) t := by
  have caller : (elapse (p - s.lnu.ms) s).lnu.state ≠ .reportSeizing := by
    have stays : (elapse (p - s.lnu.ms) s).lnu.state = s.lnu.state := by simp
    rw [stays]
    intro h
    simp [h, LineState.isEndable] at endable
  refine ⟨_, onPower_up up _, ?_⟩
  rw [atLineTimer_runs power runs, if_neg caller]
  exact endCall_ended (by simpa using ctx) (by simpa using endable) .seizeFailed

theorem loopLossTimeout_ends {p : Nat} (runs : s.lnu.timers.loss = some p) (loud : s.lnu.quiet = false) :
    ∃ t, exec .loopLossTimeout s = .next t ∧ OccurrenceReached .lineFault 0 s t ∧
      CallEnded .lineLost c (elapse (p - s.lnu.ms) s) t := by
  let u : State := { elapse (p - s.lnu.ms) s with lnu.timers.loss := none }
  have quiet : u.lnu.quiet = false := by simp [u, elapse_running power, loud]
  obtain ⟨caller, reached, ended⟩ :=
    endCall_after_lineFault (s := u) (c := c) (by simpa [u] using ctx) (by simpa [u] using endable) quiet
  refine ⟨endCall .lineLost (occur .lineFault 0 u), (onPower_up up _).trans ?_, ?_,
    ended.congr (u := u) (by constructor <;> rfl)⟩
  · rw [atLineTimer_runs power runs]
    exact congrArg _ (if_neg (Bool.eq_false_iff.1 caller))
  · simpa [OccurrenceReached, u] using reached

theorem graceDeadline_ends {p : Nat} (grace : c.phase = .grace) (deadline : c.graceDeadline = some p) :
    ∃ t, exec .graceDeadline s = .next t ∧
      CallEnded .creditExhausted c (elapse (p * 1000 - s.rtu.ms) s) t := by
  have point (u : State) (h : u.rtu.ctx = some c) : gracePoint u = some p := by
    simp [gracePoint, h, grace, deadline]
  have open' : (elapse (p * 1000 - s.rtu.ms) s).rtu.ctx = some c := by simpa using ctx
  refine ⟨_, onPower_up up _, ?_⟩
  rw [atRatingPoint_runs power (point s ctx)]
  simp only [takeGraceDeadline, open', point _ open', elapse_reaches power, if_true]
  exact cutOff_ended (by simpa using endable) .creditExhausted

theorem maxDurationEnd_ends {p : Nat} (phase : c.phase ≠ .ending) (limit : c.maxEnd = some p) :
    ∃ t, exec .maxDurationEnd s = .next t ∧
      CallEnded .maxDuration c (elapse (p * 1000 - s.rtu.ms) s) t := by
  have point (u : State) (h : u.rtu.ctx = some c) : limitPoint u = some p := by
    simp [limitPoint, h, phase, limit]
  have open' : (elapse (p * 1000 - s.rtu.ms) s).rtu.ctx = some c := by simpa using ctx
  refine ⟨_, onPower_up up _, ?_⟩
  rw [atRatingPoint_runs power (point s ctx)]
  simp only [takeMaxDurationEnd, open', point _ open', elapse_reaches power, if_true]
  exact cutOff_ended (by simpa using endable) .maxDuration

omit up in
theorem release_ends {v : Service} (h : InService kindRelease v s) (flag : param v.params 1 ≤ 1) :
    ∃ t, exec .release s = .next t ∧ t.rqu.service = some (v.answered .ok 0 0 0) ∧
      CallEnded .released c
        { s with lnu.followOn := s.lnu.followOn || decide (param v.params 1 = 1) } t := by
  let u : State := { s with lnu.followOn := s.lnu.followOn || decide (param v.params 1 = 1) }
  obtain ⟨-, served, -, -⟩ := id h
  have service : (endCall .released u).rqu.service = some v := (endCall_service _ _).trans served
  have judged : releaseRequest v.params s = answer0 .ok (endCall .released u) := by
    simp [releaseRequest, Nat.not_lt.2 flag, running, power, endable, u]
  refine ⟨_, exec_release h, ?_⟩
  rw [judged, answered_eq v .ok _ service]
  exact ⟨rfl, endCall_ended (s := u) ctx endable .released⟩

end Ends

theorem callsEnd : Clause.CallsEnd := fun _ _ up power started ctx endable =>
  ⟨onHook_ends up power ctx endable started, polarityReversion_ends up power ctx endable,
    fun _ => answerTimeout_ends up power ctx endable, fun _ => loopTimeout_ends up power ctx endable,
    fun _ => loopLossTimeout_ends up power ctx endable,
    fun _ => graceDeadline_ends up power ctx endable,
    fun _ => maxDurationEnd_ends up power ctx endable, fun _ => release_ends power ctx endable⟩

/-! ### Held or refused -/

theorem endingsHeldOrRefused : Clause.EndingsHeldOrRefused := by
  intro s up
  refine ⟨fun stopped => ?_, fun v serving => ?_⟩
  · have held := onPower_held up stopped
    refine ⟨held .onHook _, held .reversion _, held .offHook _, held .loopAppears _, held .loopLost _,
      fun c p ctx reached => ⟨fun grace deadline => ?_, fun phase limit => ?_⟩⟩
    · have point : gracePoint s = some p := by simp [gracePoint, ctx, grace, deadline]
      exact (onPower_up up _).trans
        (congrArg _ (atRatingPoint_held stopped point reached .graceDeadline takeGraceDeadline))
    · have point : limitPoint s = some p := by simp [limitPoint, ctx, phase, limit]
      exact (onPower_up up _).trans
        (congrArg _ (atRatingPoint_held stopped point reached .maxDurationEnd takeMaxDurationEnd))
  · obtain ⟨-, served, -, -⟩ := id serving
    rw [exec_release serving]
    refine ⟨fun bad => ?_, fun flag refused => ?_⟩
    · rw [releaseRequest, if_pos bad, answered_eq v _ s served]
    · have no : (running s && s.lnu.state.isEndable) = false := by
        rcases refused with stopped | other
        · simp [running, stopped]
        · simp [other]
      rw [releaseRequest, if_neg (Nat.not_lt.2 flag), no]
      exact congrArg _ (answered_eq v _ s served)

/-- Settles O38: each event ends the call by the one shared ending, the record is laid out place by place,
and what is not taken is held or refused. -/
theorem callEndings : Obligations.CallEndings := ⟨callsEnd, endingsHeldOrRefused, callRecordLayout⟩

end Sys2Proof.Machine
end

section
/-! The supply and an empty queue (logs 1, 2, 4), and O2. -/

namespace Sys2Proof.Machine

/-! ### Every command's effect -/

/-- Every command but POWER_ON is an effect that it has while the supply is up (log 2). -/
theorem exec_eq_onPower {c : Instr} (h : ∀ lv, c ≠ .powerOn lv) :
    ∃ f : State → State, ∀ s, exec c s = onPower s f := by
  cases c
  case powerOn lv => exact absurd rfl (h lv)
  all_goals exact ⟨_, fun _ => rfl⟩

theorem exec_powerOn_up (lv : Levels) {s : State} (up : s.powered = true) :
    exec (.powerOn lv) s = .next s :=
  congrArg Host.Outcome.next (if_pos up)

theorem onlyChanges_elapse (d : Nat) (s : State) :
    OnlyChanges [.cnu, .tru, .rtu, .lnu, .inu, .rpu, .acu] s (elapse d s) := by
  intro b hb
  cases b <;> simp [Block.same] at hb ⊢

theorem emptyQueueMillisecond : Clause.EmptyQueueMillisecond := by
  intro s empty d n
  have idles : step s = .next (idle s) := by rw [step, empty]
  refine ⟨_, idles, ?_⟩
  cases up : s.powered
  · have down : idle s = s := by simp [idle, up]
    rw [down]
    refine ⟨fun b _ => by cases b <;> rfl, ?_⟩
    simp [d, n, up]
  · have on : idle s = elapse 1 s := by simp [idle, up]
    rw [on]
    refine ⟨onlyChanges_elapse 1 s, ?_⟩
    by_cases power : s.pfu.power = .running
    · simp [elapse_running power, d, n, up, power]
    · simp [elapse_stopped power, d, n, up, power]

theorem supplyDownChangesNothing : Clause.SupplyDownChangesNothing := by
  refine ⟨fun c s down other => ?_, fun lv s up => exec_powerOn_up lv up⟩
  obtain ⟨f, effect⟩ := exec_eq_onPower other
  rw [effect, onPower_down down]

theorem everyCommandAnswers : Clause.EveryCommandAnswers := by
  intro c s
  by_cases h : ∃ lv, c = .powerOn lv
  · obtain ⟨lv, rfl⟩ := h
    exact ⟨_, rfl⟩
  · obtain ⟨f, effect⟩ := exec_eq_onPower fun lv e => h ⟨lv, e⟩
    exact ⟨_, effect s⟩

/-- Settles O2: every command but POWER_ON goes through the one gate of the supply. -/
theorem supplyDownAndIdling : Obligations.SupplyDownAndIdling :=
  ⟨emptyQueueMillisecond, supplyDownChangesNothing, everyCommandAnswers⟩

end Sys2Proof.Machine
end

section
/-! What an attribute event and a latch-clearing notice leave of the INU, the tallies and the flags (R125,
R127, R130), and O28. -/

namespace Sys2Proof.Machine

/-! ### An attribute event -/

theorem flagsKept_attrEvent (a : AttrId) (s : State) : FlagsKept s (attrEvent a s) := by
  rcases attrEvent_cases a s with ⟨-, -, h⟩ | ⟨-, -, h⟩ | ⟨-, h⟩ <;> rw [h]
  · exact .of_eq (by simp)
  · exact (FlagsKept.of_eq (by simp)).trans (flagsKept_takeOccurrence _ _ _)
  · exact .of_eq rfl

/-- A kind that does not latch leaves the latches (R125). -/
theorem takeOccurrence_unlatching {k : IncKind} (unlatching : k.latches = false) (detail : Nat)
    (s : State) : (takeOccurrence k detail s).inu.latches = s.inu.latches := by
  have stays (u : State) : setLatch k u = u := by simp [setLatch, unlatching]
  unfold takeOccurrence
  simp only [stays]
  (repeat' split) <;> simp

/-- So do the events of an attribute whose occurrence does not latch (R127). -/
theorem attrEvent_latches {a : AttrId} (unlatching : (attrKind a).latches = false) (s : State) :
    (attrEvent a s).inu.latches = s.inu.latches := by
  rcases attrEvent_cases a s with ⟨-, -, h⟩ | ⟨-, -, h⟩ | ⟨-, h⟩ <;> rw [h]
  · simp
  · simp [takeOccurrence_unlatching unlatching]

/-- An attribute's value and what the cache is handed of it (R127). -/
theorem putAttr_get (a : AttrId) (v : Attr) (s : State) :
    (putAttr a v s).inu.attrs.get a = v ∧
    (putAttr a v s).adu.cache.attrs.get a = ⟨v.total, v.level, v.armed⟩ := by
  simp [putAttr, handAttr, moveTally, PerAttr.get_set]

/-- Of the cache an attribute event moves the attributes alone (R127). -/
theorem attrEvent_cache (a : AttrId) (s : State) :
    (attrEvent a s).adu.cache = { s.adu.cache with attrs := (attrEvent a s).adu.cache.attrs } := by
  rcases attrEvent_cases a s with ⟨-, -, h⟩ | ⟨-, -, h⟩ | ⟨-, h⟩ <;> rw [h] <;>
    simp [putAttr, handAttr, moveTally]

/-- An event handed is counted, or among what the INU holds (R127, R136, R137). -/
theorem attrEvent_reached (a : AttrId) (s : State) : EventReached a s (attrEvent a s) := by
  unfold EventReached
  rcases attrEvent_cases a s with ⟨active, -, h⟩ | ⟨active, -, h⟩ | ⟨idle, h⟩ <;> rw [h]
  · rw [if_pos (by simpa [inuActive, running] using active)]
    simp [putAttr_get, Attr.counted]
  · rw [if_pos (by simpa [inuActive, running] using active)]
    simp [Inu.attrs_of_core (takeOccurrence_core _ _ _), putAttr_get, Attr.counted]
  · rw [if_neg (by simpa [inuActive, running] using idle)]

/-- Settles O28: an event handed touches no part of the CNU. -/
theorem rejectCounts : Obligations.RejectCounts := fun s up =>
  ⟨_, onPower_up up _, attrEvent_reached .coinRejects s, by simp⟩

end Sys2Proof.Machine
end

section
/-! The entry sensor's times (R47, R53, R54, R62, R63), and O30. -/

namespace Sys2Proof.Machine

/-! ### The chute's deadlines -/

theorem min?_of_least {l before after : List Nat} {n : Nat} (split : l = before ++ n :: after)
    (least : ∀ x ∈ before ++ after, n ≤ x) : l.min? = some n := by
  rw [List.min?_eq_some_iff, split]
  refine ⟨by simp, fun x hx => ?_⟩
  have : x = n ∨ x ∈ before ++ after := by
    simp only [List.mem_append, List.mem_cons] at hx ⊢
    tauto
  rcases this with rfl | other
  · exact le_rfl
  · exact least x other

theorem earliestDeadline_of_least {s : State} {c : ChuteCoin} {before after : List ChuteCoin}
    (chute : s.cnu.chute = before ++ c :: after) (first : ∀ x ∈ before, c.deadline < x.deadline)
    (rest : ∀ x ∈ after, c.deadline ≤ x.deadline) : earliestDeadline s = some c.deadline := by
  refine min?_of_least (before := before.map (·.deadline)) (after := after.map (·.deadline))
    (by simp [chute]) fun n hn => ?_
  rw [← List.map_append] at hn
  obtain ⟨x, hx, rfl⟩ := List.mem_map.1 hn
  rcases List.mem_append.1 hx with h | h
  · exact (first x h).le
  · exact rest x h

/-- The first coin to run out is the one that leaves the list (R53). -/
theorem eraseP_deadline {c : ChuteCoin} {before after : List ChuteCoin}
    (first : ∀ x ∈ before, c.deadline < x.deadline) :
    (before ++ c :: after).eraseP (fun x => x.deadline = c.deadline) = before ++ after := by
  rw [List.eraseP_append_right _ fun x hx => by simpa using (first x hx).ne']
  simp

theorem cnuActive_iff (s : State) :
    cnuActive s = true ↔ s.pfu.power = .running ∧ starting s = false := by
  simp [cnuActive, running]

/-! ### The commands of the entry sensor and of the chute -/

section Commands

variable {s : State} (up : s.powered = true)
include up

theorem exec_entrySensorBlockedEdge_clear (clear : s.cnu.blockedSince = none) :
    exec .entrySensorBlockedEdge s =
      .next
        { s with cnu.blockedSince := some s.cnu.ms, cnu.jamDue := some (s.cnu.edgeMs + 2000) } := by
  rw [exec, execEntrySensorBlockedEdge, onPower_up up, clear]

theorem exec_entrySensorBlockedEdge_blocked (blocked : s.cnu.blockedSince.isSome = true) :
    exec .entrySensorBlockedEdge s = .next s := by
  obtain ⟨b, blocked⟩ := Option.isSome_iff_exists.1 blocked
  rw [exec, execEntrySensorBlockedEdge, onPower_up up, blocked]

theorem exec_entryBlocked_idle (idle : s.cnu.jamDue = none) : exec .entryBlocked s = .next s := by
  rw [exec, execEntryBlocked, onPower_up up, idle]

theorem exec_entryBlocked_due {p : Nat} (due : s.cnu.jamDue = some p) :
    exec .entryBlocked s =
      .next
        (let u : State := { elapse (p - s.cnu.edgeMs) s with cnu.jamDue := none }
        if cnuActive u then occur .coinJam 0 u else hold .entryBlocked u) := by
  rw [exec, execEntryBlocked, onPower_up up, due]
  rfl

theorem exec_chuteDeadline_stopped
    (stopped : s.cnu.blockedSince.isSome = true ∨ s.pfu.power ≠ .running ∨ s.cnu.chute = []) :
    exec .chuteDeadline s = .next s := by
  rw [exec, execChuteDeadline, onPower_up up]
  rcases stopped with blocked | stopped | empty
  · obtain ⟨b, blocked⟩ := Option.isSome_iff_exists.1 blocked
    cases earliestDeadline s <;> simp [blocked]
  · cases earliestDeadline s <;> simp [running, stopped]
  · simp [earliestDeadline, empty]

theorem exec_chuteDeadline_runs {d : Nat} (least : earliestDeadline s = some d)
    (power : s.pfu.power = .running) (clear : s.cnu.blockedSince = none) :
    exec .chuteDeadline s =
      .next
        (let u := elapse (d - s.cnu.ms) s
        attrEvent .coinPathErrors
          { u with cnu.chute := s.cnu.chute.eraseP fun c => c.deadline = d }) := by
  rw [exec, execChuteDeadline, onPower_up up, least]
  simp [running, power, clear]

end Commands

/-- Settles O30: each command by the sensor's level, the point it waits for, and the power state. -/
theorem entrySensorTimes : Obligations.EntrySensorTimes := by
  intro s up active
  refine ⟨exec_entrySensorBlockedEdge_clear up, exec_entrySensorBlockedEdge_blocked up,
    exec_entryBlocked_idle up, exec_chuteDeadline_stopped up, fun p due => ?_, ?_⟩
  · intro u
    have same : cnuActive u = true ↔ active := by
      rw [cnuActive_iff]
      simp [u, starting, active]
    have held : u.held = s.held := by simp [u]
    rw [exec_entryBlocked_due up due]
    refine ⟨fun h => congrArg _ (if_pos (same.2 h)), fun h => ?_⟩
    rw [← held]
    exact congrArg _ (if_neg fun h' => h (same.1 h'))
  · intro c before after chute power clear first rest u
    rw [exec_chuteDeadline_runs up (earliestDeadline_of_least chute first rest) power clear, chute,
      eraseP_deadline first]

end Sys2Proof.Machine
end

section
/-! What of an occurrence handed is kept, and the notice that clears a latch (R125, R131). -/

namespace Sys2Proof.Machine

/-- An occurrence that has reached the INU stays there while no latch, flag or held event is lost. -/
theorem OccurrenceReached.kept {k : IncKind} {d : Nat} {s t u : State} (h : OccurrenceReached k d s t)
    (grown : Grown t u) (flags : FlagsKept t u) : OccurrenceReached k d s u := by
  obtain ⟨latches, held⟩ := grown
  unfold OccurrenceReached at h ⊢
  split at h
  · next active =>
    rw [if_pos active]
    exact ⟨fun hk => latches k (h.1 hk), flags .incident h.2⟩
  · next idle =>
    rw [if_neg idle]
    exact held _ h

/-- Where it is taken or held depends on the INU's rebuild and the power state (R136, R137). -/
theorem OccurrenceReached.of_alike {k : IncKind} {d : Nat} {s u t : State} (h : OccurrenceReached k d u t)
    (rebuilt : u.inu.rebuilt = s.inu.rebuilt) (power : u.pfu.power = s.pfu.power) :
    OccurrenceReached k d s t := by
  unfold OccurrenceReached at h ⊢
  rwa [rebuilt, power] at h

/-- So it is with an event, and with the values that it counts on (R127). -/
theorem EventReached.of_alike {a : AttrId} {s u t : State} (h : EventReached a u t)
    (rebuilt : u.inu.rebuilt = s.inu.rebuilt) (power : u.pfu.power = s.pfu.power)
    (attrs : u.inu.attrs = s.inu.attrs) (held : u.held = s.held) : EventReached a s t := by
  unfold EventReached at h ⊢
  rwa [rebuilt, power, attrs, held] at h

theorem inuActive_iff (s : State) :
    inuActive s = true ↔ s.inu.rebuilt = true ∧ s.pfu.power = .running := by
  simp [inuActive, running]

@[simp] theorem markCleared_core (k : IncKind) (s : State) : (markCleared k s).inu.core = s.inu.core := by
  unfold markCleared
  split <;> simp

/-- A notice taken at once clears its own latch and no other (R125). -/
theorem latched_clearLatch_each {kind : IncKind} {s : State} (active : inuActive s = true) (k : IncKind) :
    latched (clearLatch kind s).inu.latches k = (latched s.inu.latches k && decide (k ≠ kind)) := by
  rw [clearLatch, if_pos active, takeClearLatch]
  split
  · simp [raise, latched_clearLatchBit, incKind_code_inj]
  · next clear =>
    by_cases same : k = kind
    · simpa [same] using clear
    · simp [same]

/-- A notice leaves of the INU all but its index and latches. -/
@[simp] theorem clearLatch_core (k : IncKind) (s : State) : (clearLatch k s).inu.core = s.inu.core := by
  rcases clearLatch_cases k s with ⟨-, h⟩ | ⟨-, h⟩ <;> rw [h]
  unfold takeClearLatch
  split
  · exact markCleared_core k _
  · rfl

end Sys2Proof.Machine
end

section
/-! Door, box and the emptying of the box (R58, R64, R66, R155), and O33. -/

namespace Sys2Proof.Machine

section Switches

variable {s : State} (up : s.powered = true)
include up

theorem exec_cashDoorChange_same : exec (.cashDoorChange s.cnu.doorOpen) s = .next s := by
  rw [exec, execCashDoorChange, onPower_up up, if_pos rfl]

theorem exec_cashDoorChange {b : Bool} (other : s.cnu.doorOpen = !b) :
    exec (.cashDoorChange b) s =
      .next
        (let u : State := { s with cnu.doorOpen := b, inu.doorOpen := b }
        if b then outsideService .cashDoorOpen u else u) := by
  rw [exec, execCashDoorChange, onPower_up up, if_neg (by simp [other])]

theorem exec_cashboxPresenceChange_same :
    exec (.cashboxPresenceChange s.cnu.boxPresent) s = .next s := by
  rw [exec, execCashboxPresenceChange, onPower_up up, if_pos rfl]

theorem exec_cashboxPresenceChange {b : Bool} (other : s.cnu.boxPresent = !b) :
    exec (.cashboxPresenceChange b) s =
      .next
        (let u : State := { s with cnu.boxPresent := b, inu.boxPresent := b }
        if b then startDrop u else outsideService .cashboxRemoved u) := by
  rw [exec, execCashboxPresenceChange, onPower_up up, if_neg (by simp [other])]

end Switches

theorem cashBoxSwitches : Clause.CashBoxSwitches := by
  intro s up
  refine ⟨fun b same => ?_, fun b same => ?_, fun closed => ?_,
    fun opened => exec_cashDoorChange (b := false) up opened,
    fun present => ?_, fun absent => ?_⟩
  · exact same ▸ exec_cashDoorChange_same up
  · exact same ▸ exec_cashboxPresenceChange_same up
  · rw [exec_cashDoorChange (b := true) up closed]
    exact ⟨fun service => congrArg _ (if_pos service), fun guarded => congrArg _ (if_neg guarded)⟩
  · rw [exec_cashboxPresenceChange (b := false) up present]
    exact ⟨fun service => congrArg _ (if_pos service), fun guarded => congrArg _ (if_neg guarded)⟩
  · rw [exec_cashboxPresenceChange (b := true) up absent]
    refine ⟨fun empty => ?_, fun c cs d ds escrow drops head motion clearance frozen power started => ?_⟩
    · simp [startDrop, empty]
    · have stays (u : State) (h : u.cfl = s.cfl) : starting u = false := by rwa [starting, h]
      simp [startDrop, dropReady, escrow, drops, head, motion, clearance, frozen, running, power, stays]

theorem exec_emptyCashbox {s : State} {v : Service} (h : InService kindEmptyCashbox v s) :
    exec .emptyCashbox s = .next (emptyCashboxRequest v.params s) := by
  obtain ⟨up, service, phase, kind⟩ := h
  exact (onPower_up up _).trans (congrArg _ (onRequest_serving _ service phase kind))

/-- The box's tallies stand at 0. -/
def Tallies.boxEmptied (t : Tallies) : Tallies := { t with boxValue := 0, boxCoins := 0 }

theorem Tallies.boxEmptied_ne_iff (t : Tallies) :
    t.boxEmptied ≠ t ↔ t.boxValue ≠ 0 ∨ t.boxCoins ≠ 0 := by
  cases t
  simp only [Tallies.boxEmptied, ne_eq, Tallies.mk.injEq, true_and, and_true]
  omega

/-- The box emptied, with both fill latches told (R66). -/
def boxEmptied (s : State) : State :=
  clearLatch .cashboxNearFull (clearLatch .cashboxFull (moveTally Tallies.boxEmptied s))

theorem boxEmptied_changes (s : State) : OnlyChanges [.rqu, .inu, .adu, .held] s (boxEmptied s) := by
  intro b hb
  cases b <;> simp [Block.same, boxEmptied] at hb ⊢

theorem boxEmptied_adu (s : State) :
    (boxEmptied s).adu.cache = s.adu.cache.boxEmptied ∧
    (boxEmptied s).adu.dirty =
      (s.adu.dirty || decide (s.adu.cache.boxValue ≠ 0 ∨ s.adu.cache.boxCoins ≠ 0)) := by
  have kept : (boxEmptied s).adu.registers = (moveTally Tallies.boxEmptied s).adu.registers :=
    (clearLatch_registers _ _).trans (clearLatch_registers _ _)
  obtain ⟨cache, dirty, -⟩ := Adu.of_registers kept
  rw [cache, dirty, moveTally]
  exact ⟨rfl, by simp only [Tallies.boxEmptied_ne_iff]⟩

theorem boxEmptied_latches {s : State} (active : inuActive s = true) :
    latched (boxEmptied s).inu.latches .cashboxNearFull = false ∧
    latched (boxEmptied s).inu.latches .cashboxFull = false := by
  have told : inuActive (clearLatch .cashboxFull (moveTally Tallies.boxEmptied s)) = true := by
    rw [inuActive_iff] at active ⊢
    simpa using active
  have before : inuActive (moveTally Tallies.boxEmptied s) = true := active
  simp [boxEmptied, latched_clearLatch_each told, latched_clearLatch_each before]

theorem cashBoxEmptied : Clause.CashBoxEmptied := by
  intro s v h answered
  obtain ⟨-, served, -, -⟩ := id h
  rw [exec_emptyCashbox h]
  refine ⟨fun guarded => ?_, fun service refused => ?_, fun service power present => ?_⟩
  · rw [emptyCashboxRequest, if_pos guarded, answered_eq v _ s served]
  · have judged : emptyCashboxRequest v.params s = answer0 .refusedState s := by
      rcases refused with stopped | absent
      · simp [emptyCashboxRequest, service, running, stopped]
      · simp [emptyCashboxRequest, service, absent]
    rw [judged, answered_eq v _ s served]
  · have judged : emptyCashboxRequest v.params s = answer0 .ok (triggerWriteBack (boxEmptied s)) := by
      simp [emptyCashboxRequest, service, running, power, present]
      rfl
    have serves : (triggerWriteBack (boxEmptied s)).rqu.service = some v := by
      simpa [boxEmptied] using served
    obtain ⟨inu, cache, -⟩ := triggerWriteBack_keeps (boxEmptied s)
    have dirty : (triggerWriteBack (boxEmptied s)).adu.dirty = (boxEmptied s).adu.dirty := by
      rcases triggerWriteBack_cases (boxEmptied s) with ⟨-, h⟩ | ⟨-, h⟩ <;> rw [h]
    obtain ⟨emptied, moved⟩ := boxEmptied_adu s
    rw [judged, answered_eq v _ _ serves]
    refine ⟨_, rfl, fun b hb => ?_, cache.trans emptied, dirty.trans moved, fun stale => ?_, rfl,
      fun rebuilt => ?_⟩
    · have same := boxEmptied_changes s b hb
      cases b <;> simp [Block.same] at hb same ⊢ <;> exact same
    · exact triggerWriteBack_dirty (dirty.symm.trans stale)
    · have active : inuActive s = true := (inuActive_iff s).2 ⟨rebuilt, power⟩
      rw [show (triggerWriteBack (boxEmptied s)).inu = (boxEmptied s).inu from inu]
      exact boxEmptied_latches active

/-- Settles O33: door and box as levels, and the request judged in order. -/
theorem cashBoxWatchedAndEmptied : Obligations.CashBoxWatchedAndEmptied :=
  ⟨cashBoxSwitches, cashBoxEmptied⟩

end Sys2Proof.Machine
end

section
/-! Band lookup and the choice of a band (R82, R89): O36's first two clauses. -/

namespace Sys2Proof.Machine

/-! ### The day of a date (R82) -/

theorem yearDays_sum (n : Nat) :
    ((List.range n).map fun y => if isLeap y then 366 else 365).sum = 365 * n + (n + 3) / 4 := by
  induction n with
  | zero => rfl
  | succ n ih =>
    rw [List.range_succ, List.map_append, List.sum_append, ih]
    by_cases leap : n % 4 = 0 <;> simp [isLeap, leap] <;> omega

/-- The days of a year before a month. -/
theorem monthDays_sum (y : Nat) {m : Nat} (first : 1 ≤ m) (last : m ≤ 12) :
    ((List.range (m - 1)).map fun i => monthLength y (i + 1)).sum =
      [0, 31, 59, 90, 120, 151, 181, 212, 243, 273, 304, 334].getD (m - 1) 0 +
        if 2 < m ∧ y % 4 = 0 then 1 else 0 := by
  by_cases leap : y % 4 = 0 <;> interval_cases m <;>
    simp [List.range_succ, monthLength, isLeap, leap]

theorem dayNumber_eq {c : Cal} (first : 1 ≤ c.month) (last : c.month ≤ 12) :
    c.dayNumber =
      365 * c.year + (c.year + 3) / 4 +
        [0, 31, 59, 90, 120, 151, 181, 212, 243, 273, 304, 334].getD (c.month - 1) 0 +
        (if 2 < c.month ∧ c.year % 4 = 0 then 1 else 0) + (c.day - 1) := by
  rw [Cal.dayNumber, yearDays_sum, monthDays_sum c.year first last]
  omega

theorem scheduleOf_eq (k : Calendar) (c : Cal) :
    k.scheduleOf c =
      if (c.month, c.day) ∈ k.holidays then k.sunday
      else if c.dayNumber % 7 = 0 then k.saturday
      else if c.dayNumber % 7 = 1 then k.sunday
      else k.weekday := by
  unfold Calendar.scheduleOf
  simp only [List.contains_iff_mem]
  split
  · rfl
  · split <;> simp_all

/-! ### The switch point in force -/

/-- The later of two switch points, as the lookup goes on. -/
def laterPoint (best : Option SwitchPoint) (p : SwitchPoint) : Option SwitchPoint :=
  match best with
  | some b => if b.minute ≤ p.minute then some p else some b
  | none => some p

theorem bandAt_eq (points : List SwitchPoint) (minute : Nat) :
    bandAt points minute =
      ((points.filter fun p => p.minute ≤ minute).foldl laterPoint none).map (·.band) := rfl

theorem foldl_laterPoint (ps : List SwitchPoint) (b : SwitchPoint) :
    ∃ r, ps.foldl laterPoint (some b) = some r ∧ r ∈ b :: ps ∧ ∀ q ∈ b :: ps, q.minute ≤ r.minute := by
  induction ps generalizing b with
  | nil => exact ⟨b, rfl, by simp, by simp⟩
  | cons p ps ih =>
    by_cases later : b.minute ≤ p.minute
    · obtain ⟨r, found, mem, most⟩ := ih p
      refine ⟨r, by simpa [laterPoint, later] using found, List.mem_cons_of_mem b mem, fun q hq => ?_⟩
      rcases List.mem_cons.1 hq with rfl | hq
      · exact later.trans (most p List.mem_cons_self)
      · exact most q hq
    · obtain ⟨r, found, mem, most⟩ := ih b
      refine ⟨r, by simpa [laterPoint, later] using found, by simp only [List.mem_cons] at mem ⊢; tauto,
        fun q hq => ?_⟩
      have first : b.minute ≤ r.minute := most b List.mem_cons_self
      rcases List.mem_cons.1 hq with rfl | hq
      · exact first
      · rcases List.mem_cons.1 hq with rfl | hq
        · exact (Nat.le_of_lt (Nat.lt_of_not_le later)).trans first
        · exact most q (List.mem_cons_of_mem b hq)

/-- Of switch points at rising minutes the lookup takes the last that is not after the minute. -/
theorem bandAt_of_latest {points : List SwitchPoint} {minute : Nat} {p : SwitchPoint}
    (rising : points.Pairwise fun p q => p.minute < q.minute) (mem : p ∈ points)
    (reached : p.minute ≤ minute)
    (latest : ∀ q ∈ points, q.minute ≤ minute → q.minute ≤ p.minute) :
    bandAt points minute = some p.band := by
  have distinct : (points.map (·.minute)).Nodup :=
    List.pairwise_map.2 (rising.imp fun h => h.ne)
  have inForce : p ∈ points.filter fun p => p.minute ≤ minute := List.mem_filter.2 ⟨mem, by simpa⟩
  rw [bandAt_eq]
  cases split : points.filter fun p => p.minute ≤ minute with
  | nil => simp [split] at inForce
  | cons b ps =>
    rw [split] at inForce
    obtain ⟨r, found, among, most⟩ := foldl_laterPoint ps b
    rw [← split] at among
    obtain ⟨known, due⟩ := List.mem_filter.1 among
    have same : r = p := List.inj_on_of_nodup_map distinct known mem
      (le_antisymm (latest r known (by simpa using due)) (most p inForce))
    rw [List.foldl_cons, laterPoint, found, Option.map_some, same]

theorem bandLookedUp : Clause.BandLookedUp := by
  intro s c k clock calendar first last day before leapDay days points minute rising p mem reached latest
  have schedule : k.scheduleOf c = points := by
    rw [scheduleOf_eq, dayNumber_eq first last]
  rw [bandLookup, clock, calendar]
  exact (congrArg (bandAt · minute) schedule).trans (bandAt_of_latest rising mem reached latest)

/-! ### The dearest band (R89) -/

/-- The largest charge of a row. -/
def Row.best (r : Row) : Nat := max (max r.b0.charge r.b1.charge) (max r.b2.charge r.b3.charge)

theorem rate_charge_le_best (r : Row) (i : Nat) : (r.rate i).charge ≤ r.best := by
  unfold Row.rate Row.best
  split <;> omega

/-- The dearest band has the largest charge, and no band below it has. -/
theorem dearest_first (r : Row) :
    r.dearest < 4 ∧ (r.rate r.dearest).charge = r.best ∧
    ∀ i, i < r.dearest → (r.rate i).charge ≠ r.best := by
  have chosen : r.dearest =
      if r.b0.charge = r.best then 0 else if r.b1.charge = r.best then 1
      else if r.b2.charge = r.best then 2 else 3 := rfl
  have largest : r.b0.charge = r.best ∨ r.b1.charge = r.best ∨ r.b2.charge = r.best ∨
      r.b3.charge = r.best := by
    unfold Row.best
    omega
  rw [chosen]
  split
  · next h => exact ⟨by omega, h, fun i hi => by omega⟩
  · next h0 =>
    split
    · next h =>
      refine ⟨by omega, h, fun i hi => ?_⟩
      obtain rfl : i = 0 := by omega
      exact h0
    · next h1 =>
      split
      · next h =>
        refine ⟨by omega, h, fun i hi => ?_⟩
        obtain rfl | rfl : i = 0 ∨ i = 1 := by omega
        · exact h0
        · exact h1
      · next h2 =>
        refine ⟨by omega, ((largest.resolve_left h0).resolve_left h1).resolve_left h2, fun i hi => ?_⟩
        obtain rfl | rfl | rfl : i = 0 ∨ i = 1 ∨ i = 2 := by omega
        · exact h0
        · exact h1
        · exact h2

theorem bandChosen : Clause.BandChosen := by
  intro r s
  refine ⟨fun b found => ?_, fun none => ?_, fun none => ?_⟩
  · rw [chooseBand, found]
    rfl
  · unfold bandLookup
    rcases none with clock | calendar
    · rw [clock]
    · rw [calendar]
      cases s.tru.clock <;> rfl
  · rw [chooseBand, none]
    obtain ⟨band, largest, first⟩ := dearest_first r
    refine ⟨band, fun i _ => ?_, fun i hi => ?_⟩
    · rw [Option.getD_none, largest]
      exact rate_charge_le_best r i
    · rw [Option.getD_none, largest]
      exact lt_of_le_of_ne (rate_charge_le_best r i) (first i hi)

end Sys2Proof.Machine
end

section
/-! The charge of an interval (R93 to R96), O36's third clause, and the answer (R93, R113, R120): O36 and
O37. -/

namespace Sys2Proof.Machine

/-! ### Commit orders (R56) -/

theorem commitTaken_eq (s : State) (seq : Nat) : commitTaken s seq = commitOrder seq s := by
  unfold commitTaken commitOrder
  cases found : s.cnu.escrow.find? fun x => x.seq = seq with
  | none => simp
  | some c =>
    have same : c.seq = seq := by simpa using List.find?_some found
    by_cases free : c.status = .held ∧ ∀ d ∈ s.cnu.drops, d.seq ≠ seq
    · obtain ⟨held, none⟩ := free
      have undropped : hasDrop s c = false := by simpa [hasDrop, same] using none
      have unqueued : (s.cnu.drops.any fun d => d.seq = seq) = false := by simpa using none
      simp only [Option.any_some, held, decide_true, true_and, undropped, Bool.not_false, if_true, queueDrop,
        unqueued, Bool.false_eq_true, if_false, dropStarted_eq]
      rw [if_pos none]
      rfl
    · have kept : ¬(c.status = .held ∧ (!hasDrop s c) = true) := by
        simpa [hasDrop, same] using free
      rw [if_neg (by simpa using free)]
      exact (if_neg kept).symm

/-- Commit orders read of the state the coin unit, the power state and the start-up's step. -/
theorem foldl_commitOrder_congr (roll : List RollCoin) {s u : State} (cnu : u.cnu = s.cnu)
    (pfu : u.pfu = s.pfu) (cfl : u.cfl = s.cfl) :
    roll.foldl (fun s x => commitOrder x.seq s) u =
      { u with cnu := (roll.foldl (fun s x => commitOrder x.seq s) s).cnu } := by
  induction roll generalizing s u with
  | nil =>
    rw [List.foldl_nil, List.foldl_nil, ← cnu]
  | cons x roll ih =>
    have first := commitOrder_congr x.seq cnu pfu cfl
    rw [List.foldl_cons, List.foldl_cons,
      ih (s := commitOrder x.seq s) (u := commitOrder x.seq u) (by rw [first])
        (by simpa using pfu) (by simpa using cfl), first]

/-! ### A charge taken (R93, R95) -/

theorem rollValue_markCommitted (k cin before : Nat) (roll : List RollCoin) :
    rollValue (markCommitted k cin before roll) = rollValue roll := by
  induction roll generalizing before with
  | nil => rfl
  | cons x roll ih =>
    have rest := ih (before + x.value)
    simp only [rollValue, markCommitted, List.map_cons, List.sum_cons] at rest ⊢
    rw [rest]

/-- The context after a charge (R93, R95). -/
def Ctx.charged (c : Ctx) (charge : Nat) : Ctx :=
  { c with
    phase := .charging
    consumed := c.consumed + charge
    intervals := c.intervals + 1
    roll := markCommitted (c.consumed + charge) c.cin 0 c.roll
    committed := c.committed + rollValue (newlyCommitted (c.consumed + charge) c.cin 0 c.roll)
    due := 0
    graceDeadline := none }

/-- CONSUMED_VALUE takes an amount (R93). -/
def Tallies.addConsumed (n : Nat) (t : Tallies) : Tallies := { t with consumed := satAdd t.consumed n }

theorem takeCharge_orders {s : State} {c : Ctx} (ctx : s.rtu.ctx = some c) (charge : Nat) :
    takeCharge charge s =
      (newlyCommitted (c.consumed + charge) c.cin 0 c.roll).foldl (fun s x => commitOrder x.seq s)
        (moveTally (Tallies.addConsumed charge) { s with rtu.ctx := some (c.charged charge) }) := by
  rw [takeCharge, ctx]
  rfl

/-- A context charged, its coins told by their places. -/
theorem Ctx.charged_eq (c : Ctx) (charge : Nat) :
    let k := c.consumed + charge
    let reached (i : Nat) : Bool := c.cin + ((c.roll.take i).map (·.value)).sum < k
    let fresh := (c.roll.zipIdx.filter fun p => !p.1.committed && reached p.2).map (·.1)
    newlyCommitted k c.cin 0 c.roll = fresh ∧
    c.charged charge =
      { c with
        phase := .charging
        consumed := k
        intervals := c.intervals + 1
        roll := c.roll.zipIdx.map fun p => { p.1 with committed := p.1.committed || reached p.2 }
        committed := c.committed + (fresh.map (·.value)).sum
        due := 0
        graceDeadline := none } := by
  intro k reached fresh
  have newly : newlyCommitted k c.cin 0 c.roll = fresh := newlyCommitted_eq k c.cin [] c.roll
  have marked : markCommitted k c.cin 0 c.roll =
      c.roll.zipIdx.map fun p => { p.1 with committed := p.1.committed || reached p.2 } :=
    markCommitted_eq k c.cin [] c.roll
  refine ⟨newly, ?_⟩
  rw [Ctx.charged, newly, marked]
  rfl

theorem addConsumed_ne_iff (n : Nat) (t : Tallies) :
    t.addConsumed n ≠ t ↔ satAdd t.consumed n ≠ t.consumed := by
  cases t
  simp [Tallies.addConsumed]

/-- A charge taken is the charge of the statements, but for the flags. -/
theorem takeCharge_eq {s : State} {c : Ctx} (ctx : s.rtu.ctx = some c) (charge : Nat) :
    takeCharge charge s = { chargeTaken c charge s with rqu := s.rqu } := by
  obtain ⟨newly, charged⟩ := c.charged_eq charge
  have moved := foldl_commitOrder_congr (newlyCommitted (c.consumed + charge) c.cin 0 c.roll) (s := s)
    (u := moveTally (Tallies.addConsumed charge) { s with rtu.ctx := some (c.charged charge) }) rfl rfl rfl
  rw [takeCharge_orders ctx, moved, newly, charged]
  simp only [moveTally, addConsumed_ne_iff, chargeTaken, commitTaken_eq]
  rfl

/-- A charge moves the shown fields exactly if it is not 0 (R103). -/
theorem shownCredit_takeCharge {s : State} {c : Ctx} (ctx : s.rtu.ctx = some c) (charge : Nat) :
    shownCredit (takeCharge charge s) ≠ shownCredit s ↔ charge ≠ 0 := by
  have after : (takeCharge charge s).rtu.ctx = some (c.charged charge) := by
    rw [takeCharge_orders ctx]
    simp
  simp only [shownCredit, after, ctx, Ctx.remaining, Ctx.total, Ctx.charged, rollValue_markCommitted, ne_eq,
    Prod.mk.injEq, and_true]
  omega

/-- A charge taken, with CREDIT raised if it moves what is shown, is that of the statements (R103). -/
theorem watchCredit_takeCharge {s : State} {c : Ctx} (ctx : s.rtu.ctx = some c) (charge : Nat) :
    watchCredit (takeCharge charge) s = chargeTaken c charge s := by
  have raised : watchCredit (takeCharge charge) s =
      raiseIf (decide (charge ≠ 0)) .credit (takeCharge charge s) :=
    congrArg (raiseIf · .credit (takeCharge charge s))
      (decide_eq_decide.2 (shownCredit_takeCharge ctx charge))
  rw [raised, takeCharge_eq ctx]
  by_cases free : charge = 0
  · rw [decide_eq_false (by simpa using free)]
    have kept : (chargeTaken c charge s).rqu = s.rqu := by simp [chargeTaken, free]
    rw [← kept]
    rfl
  · rw [decide_eq_true free]
    have flags : (chargeTaken c charge s).rqu = (raise .credit s).rqu := by
      simp [chargeTaken, free, raise]
    calc raise .credit { chargeTaken c charge s with rqu := s.rqu }
        = { chargeTaken c charge s with rqu := (raise .credit s).rqu } := rfl
      _ = chargeTaken c charge s := by rw [← flags]

/-- The context that a charge replaces is not read. -/
theorem chargeTaken_ctx (c : Ctx) (charge : Nat) (s : State) (x : Option Ctx) :
    chargeTaken c charge { s with rtu.ctx := x } = chargeTaken c charge s := by
  have orders (roll : List RollCoin) :
      (roll.foldl (fun s x => commitTaken s x.seq) { s with rtu.ctx := x }).cnu =
        (roll.foldl (fun s x => commitTaken s x.seq) s).cnu := by
    have moved := foldl_commitOrder_congr roll (s := s) (u := { s with rtu.ctx := x }) rfl rfl rfl
    simp only [commitTaken_eq]
    rw [moved]
  simp only [chargeTaken, orders]

/-! ### GRACE (R96) -/

/-- A call's line changes to CONNECTED or GRACE (R108, R119). -/
theorem setLine_call {st : LineState} {s : State} (talks : st = .connected ∨ st = .grace)
    (other : s.lnu.state ≠ st) : setLine st s = callLine st s := by
  rw [setLine, if_neg other]
  rcases talks with rfl | rfl <;> rfl

theorem enterGrace_eq {s : State} {c : Ctx} (ctx : s.rtu.ctx = some c) (charge start : Nat) :
    enterGrace charge start s =
      let g := graceEntered c charge start s
      if s.lnu.state = .connected then callLine .grace g else g := by
  have entered : enterGrace charge start s =
      let g := graceEntered c charge start s
      if g.lnu.state = .connected then setLine .grace g else g := by
    rw [enterGrace, ctx]
    rfl
  rw [entered]
  dsimp only
  have line : (graceEntered c charge start s).lnu = s.lnu := rfl
  rw [line]
  split
  · next talking => exact setLine_call (.inr rfl) (by rw [line, talking]; decide)
  · rfl

/-! ### An interval begun (R94) -/

/-- The context with its interval begun. -/
def Ctx.begun (c : Ctx) (r : Row) (b start : Nat) : Ctx :=
  { c with band := some b, start := some start, finish := some (start + (r.rate b).len) }

/-- An interval begun is charged, or its charge is left due (R93, R94, R96). -/
theorem beginInterval_eq {s : State} {c : Ctx} {r : Row} (ctx : s.rtu.ctx = some c) (row : c.row = some r)
    (start : Nat) (first : Bool) :
    beginInterval start first s =
      let b := chooseBand r s
      let charge := (if first then r.setupCharge else 0) + r.bandCharge b
      if charge ≤ c.remaining then chargeTaken (c.begun r b start) charge s
      else
        let g := graceEntered (c.begun r b start) charge start s
        if s.lnu.state = .connected then callLine .grace g else g := by
  let b := chooseBand r s
  let u : State := { s with rtu.ctx := some (c.begun r b start) }
  have begun : beginInterval start first s =
      let charge := (if first then r.setupCharge else 0) + r.bandCharge b
      if charge ≤ (c.begun r b start).remaining then watchCredit (takeCharge charge) u
      else enterGrace charge start u := by
    rw [beginInterval, ctx]
    dsimp only
    split
    · next none => simp [row] at none
    · next r' same =>
      obtain rfl : r = r' := Option.some.inj (row.symm.trans same)
      rfl
  have ctx' : u.rtu.ctx = some (c.begun r b start) := rfl
  rw [begun]
  dsimp only
  rw [watchCredit_takeCharge ctx', enterGrace_eq ctx', chargeTaken_ctx]
  rfl

theorem chooseBand_congr (r : Row) {s t : State} (clock : t.tru.clock = s.tru.clock)
    (calendar : t.tru.calendar = s.tru.calendar) : chooseBand r t = chooseBand r s := by
  rw [chooseBand, chooseBand, bandLookup, bandLookup, clock, calendar]

theorem intervalBegins : Clause.IntervalBegins := by
  intro s c r e up ctx phase finish row
  have point : chargingEnd s = some e := by simp [chargingEnd, ctx, phase, finish]
  refine ⟨fun stopped reached => ?_, fun power => ?_⟩
  · rw [exec, execIntervalEnd, onPower_up up]
    exact congrArg _ (atRatingPoint_held stopped point reached .intervalEnd takeIntervalEnd)
  · intro b x charge credit begun u
    have ctx' : u.rtu.ctx = some c := by simpa [u] using ctx
    have band : chooseBand r u = b := chooseBand_congr r (by simp [u]) (by simp [u, elapse_running power])
    have line : u.lnu.state = s.lnu.state := by simp [u]
    have taken : exec .intervalEnd s = .next (beginInterval e false u) := by
      have point' : chargingEnd u = some e := by simp [chargingEnd, ctx', phase, finish]
      rw [exec, execIntervalEnd, onPower_up up]
      refine congrArg _ ((atRatingPoint_runs power point .intervalEnd takeIntervalEnd).trans ?_)
      change takeIntervalEnd u = _
      rw [takeIntervalEnd, point']
      exact if_pos (elapse_reaches power e)
    rw [taken, beginInterval_eq ctx' row e false]
    dsimp only
    rw [band, line]
    have due : (if false = true then r.setupCharge else 0) + r.bandCharge b = charge := by
      rw [if_neg Bool.false_ne_true, Nat.zero_add]
      rfl
    rw [due]
    exact ⟨fun covered => congrArg _ (if_pos covered),
      fun short => congrArg _ (if_neg (Nat.not_le.2 short))⟩

/-- Settles O36: the band looked up and chosen, and the interval begun as one charge. -/
theorem intervalsRated : Obligations.IntervalsRated := ⟨bandLookedUp, bandChosen, intervalBegins⟩

/-! ### The answer (R93, R113) -/

/-- The context at the answer point. -/
def Ctx.answered (c : Ctx) (s : State) : Ctx :=
  { c with
    phase := .charging
    answerPoint := some (s.rtu.ms / 1000)
    graceTime := s.cfl.params.graceTime
    maxDuration := s.cfl.params.maxDuration * 60
    maxEnd :=
      if s.cfl.params.maxDuration * 60 ≠ 0 ∧ c.emergency = false then
        some (s.rtu.ms / 1000 + s.cfl.params.maxDuration * 60)
      else none }

theorem rateAnswer_eq {s : State} {c : Ctx} (ctx : s.rtu.ctx = some c) (phase : c.phase = .dialled) :
    rateAnswer s =
      beginInterval (s.rtu.ms / 1000) true { s with rtu.ctx := some (c.answered s) } := by
  rw [rateAnswer, ctx]
  dsimp only
  rw [if_pos phase]
  simp only [Ctx.answered, rtuNow, Bool.not_eq_true']

/-- The line of an answered call follows the phase that its first charge leaves (R96, R113). -/
theorem answerCall_eq {s : State} (waiting : s.lnu.state = .awaitAnswer) {t : State}
    (rated : rateAnswer { s with lnu.timers.answer := none } = t) (line : t.lnu.state = s.lnu.state) :
    answerCall s =
      callLine (if t.rtu.ctx.any (fun c => c.phase = .grace) then .grace else .connected) t := by
  unfold answerCall
  dsimp only
  rw [rated]
  split
  · exact setLine_call (.inr rfl) (by rw [line, waiting]; decide)
  · exact setLine_call (.inl rfl) (by rw [line, waiting]; decide)

theorem exec_polarityReversal {s : State} (up : s.powered = true) (power : s.pfu.power = .running) :
    exec .polarityReversal s = .next (takeReversal s) :=
  onPower_taken up power .reversal takeReversal

/-- Settles O37: the reversal by line state, and the answer as a first interval begun. -/
theorem reversalAnswers : Obligations.ReversalAnswers := by
  intro s up
  refine ⟨fun stopped => onPower_held up stopped .reversal takeReversal, fun power other none => ?_,
    fun power other runs => ?_, fun c power waiting ctx phase => ?_⟩
  · rw [exec_polarityReversal up power, takeReversal]
    simp [other, none]
  · rw [exec_polarityReversal up power, takeReversal]
    simp [other, runs, answerReport]
  intro now limit answered heard
  let u : State := { heard with rtu.ctx := some answered }
  have rated : rateAnswer heard = beginInterval now true u :=
    rateAnswer_eq (s := heard) (c := c) ctx phase
  have taken {t : State} (first : beginInterval now true u = t) (line : t.lnu.state = s.lnu.state) :
      exec .polarityReversal s =
        .next (callLine (if t.rtu.ctx.any (fun c => c.phase = .grace) then .grace else .connected) t) := by
    rw [exec_polarityReversal up power, takeReversal]
    dsimp only
    rw [if_pos waiting]
    exact congrArg _ (answerCall_eq (s := { s with lnu.reversed := true }) waiting (rated.trans first) line)
  refine ⟨fun free => ?_, fun r row => ?_⟩
  · have none : beginInterval now true u = u := by
      have unpriced : answered.row = none := free
      simp [beginInterval, u, unpriced]
    exact taken none rfl
  · intro b figure charge credit begun
    have first := beginInterval_eq (s := u) (c := answered) rfl row now true
    have band : chooseBand r u = b := chooseBand_congr r rfl rfl
    have due : (if true = true then r.setupCharge else 0) + r.bandCharge b = charge := by
      rw [if_pos rfl]
      rfl
    dsimp only at first
    rw [band, due] at first
    refine ⟨fun covered => ?_, fun short => ?_⟩
    · rw [if_pos (by exact covered)] at first
      rw [taken first rfl, chargeTaken_ctx]
      rfl
    · have waits : ¬u.lnu.state = .connected := by
        change ¬s.lnu.state = .connected
        rw [waiting]
        decide
      rw [if_neg (by exact Nat.not_le.2 short), if_neg waits] at first
      rw [taken first rfl]
      rfl

end Sys2Proof.Machine
end

section
/-! What starting and completing a drop make of the tube (R57, R58, R65, R155, R177). -/

namespace Sys2Proof.Machine

/-! ### Starting a drop (R58) -/

/-- Starting a drop changes no coin but in its status. -/
theorem startDrop_identity (s : State) :
    (startDrop s).cnu.escrow.map Coin.identity = s.cnu.escrow.map Coin.identity := by
  rcases startDrop_cases s with same | ⟨c, cs, d, ds, escrow, -, -, started⟩
  · rw [same]
  · rw [started, escrow]
    rfl

/-- Of the CNU starting a drop changes the statuses, the queue, the motion and the diverter. -/
theorem startDrop_keeps (s : State) :
    (startDrop s).cnu.ms = s.cnu.ms ∧ (startDrop s).cnu.stuck = s.cnu.stuck ∧
    (startDrop s).cnu.nextSeq = s.cnu.nextSeq ∧ (startDrop s).cnu.tubeEmpty = s.cnu.tubeEmpty ∧
    (startDrop s).cnu.restored = s.cnu.restored ∧ (startDrop s).cnu.blockedSince = s.cnu.blockedSince ∧
    (startDrop s).cnu.jamDue = s.cnu.jamDue := by
  rcases startDrop_cases s with same | ⟨c, cs, d, ds, -, -, -, started⟩
  · simp [same]
  · simp [started]

theorem startDrop_idle {s : State} (none : s.cnu.escrow = [] ∨ s.cnu.drops = []) : startDrop s = s := by
  rcases startDrop_cases s with same | ⟨c, cs, d, ds, escrow, drops, -⟩
  · exact same
  · simp [escrow, drops] at none

/-! ### The coin that leaves (R58, R65) -/

/-- The bottom coin has left the tube and is counted. -/
def coinLeft (dir : Dir) (c : Coin) (cs : List Coin) (s : State) : State :=
  moveTally (Tallies.drop dir c.denom c.value)
    { s with
      cnu.escrow := cs
      cnu.motion := none
      cnu.stuck := none
      cnu.restored := s.cnu.restored.filter fun q => q ≠ c.seq }

/-- Fill counts are compared and settlements judged after it. -/
def dropCounted (dir : Dir) (c : Coin) (cs : List Coin) (s : State) : State :=
  checkWatch (if dir = .collect then fillCheck (coinLeft dir c cs s) else coinLeft dir c cs s)

/-- Whether the drop of the last restored coin begins a sweep (R177). -/
def sweepBegins (c : Coin) (cs : List Coin) (s : State) : Bool :=
  s.cnu.restored = [c.seq] && !s.cnu.coinSince && cs = [] && s.cnu.chute = [] && !s.cnu.tubeEmpty

/-- The sweep's first release, and the next drop of the queue with the notice that none is outstanding. -/
def dropFollowed (sweep : Bool) (s : State) : State :=
  noDropsNotice (startDrop (if sweep then clearanceDrop 1 true s else s))

section Counted

variable (dir : Dir) (c : Coin) (cs : List Coin) (s : State)

theorem dropCounted_cnu :
    (dropCounted dir c cs s).cnu =
      { s.cnu with
        escrow := cs
        motion := none
        stuck := none
        restored := s.cnu.restored.filter fun q => q ≠ c.seq
        watch := s.cnu.watch.filter fun o => cs.any fun x => x.owner = some o } := by
  rw [dropCounted, checkWatch_cnu]
  split <;> simp [coinLeft]

theorem dropCounted_cache :
    (dropCounted dir c cs s).adu.cache = s.adu.cache.drop dir c.denom c.value := by
  rw [dropCounted]
  split <;> simp [coinLeft, moveTally]

theorem dropCounted_inu :
    (dropCounted dir c cs s).inu =
      (if dir = .collect then fillCheck (coinLeft dir c cs s) else coinLeft dir c cs s).inu ∧
    (dropCounted dir c cs s).rqu =
      (if dir = .collect then fillCheck (coinLeft dir c cs s) else coinLeft dir c cs s).rqu ∧
    (dropCounted dir c cs s).held =
      (if dir = .collect then fillCheck (coinLeft dir c cs s) else coinLeft dir c cs s).held := by
  simp [dropCounted]

/-- A RETURN hands nothing to the INU. -/
theorem dropCounted_ret :
    (dropCounted .ret c cs s).inu = s.inu ∧ (dropCounted .ret c cs s).held = s.held := by
  simp [dropCounted, coinLeft]

theorem dropCounted_core : (dropCounted dir c cs s).inu.core = s.inu.core := by
  obtain ⟨inu, -, -⟩ := dropCounted_inu dir c cs s
  rw [inu]
  split
  · rw [fillCheck_core, coinLeft]
    simp
  · simp [coinLeft]

theorem dropCounted_pfu : (dropCounted dir c cs s).pfu = s.pfu := by
  rw [dropCounted]
  split <;> simp [coinLeft]

theorem completeDrop_eq {s : State} (escrow : s.cnu.escrow = c :: cs) :
    completeDrop dir s = dropFollowed (sweepBegins c cs s) (dropCounted dir c cs s) := by
  have completed : completeDrop dir s =
      noDropsNotice
        (startDrop
          (if s.cnu.restored = [c.seq] then sweepCheck (dropCounted dir c cs s)
          else dropCounted dir c cs s)) := by
    rw [completeDrop, escrow]
    rfl
  have cnu := dropCounted_cnu dir c cs s
  rw [completed, dropFollowed]
  congr 2
  by_cases last : s.cnu.restored = [c.seq]
  · simp only [if_true, sweepCheck, cnu, sweepBegins, last, decide_true, Bool.true_and]
  · simp [last, sweepBegins]

end Counted

/-! ### What follows a completed drop -/

theorem clearanceDrop_sweep (made : Nat) (s : State) :
    clearanceDrop made true s =
      attrEvent .coinPathErrors
        { s with cnu.diverter := .ret, cnu.clearance := some ⟨made, s.cnu.ms + 500, true⟩ } := rfl

section Followed

variable (sweep : Bool) (s : State)

theorem dropFollowed_cnu :
    (dropFollowed sweep s).cnu.escrow.map Coin.identity = s.cnu.escrow.map Coin.identity ∧
    (dropFollowed sweep s).cnu.stuck = s.cnu.stuck ∧
    (dropFollowed sweep s).cnu.tubeEmpty = s.cnu.tubeEmpty ∧
    (dropFollowed sweep s).cnu.restored = s.cnu.restored ∧
    (s.cnu.drops = [] → (dropFollowed sweep s).cnu.motion = s.cnu.motion) := by
  have released : ∀ u : State, u.cnu.escrow = s.cnu.escrow → u.cnu.stuck = s.cnu.stuck →
      u.cnu.tubeEmpty = s.cnu.tubeEmpty → u.cnu.restored = s.cnu.restored →
      u.cnu.drops = s.cnu.drops → u.cnu.motion = s.cnu.motion →
      (startDrop u).cnu.escrow.map Coin.identity = s.cnu.escrow.map Coin.identity ∧
      (startDrop u).cnu.stuck = s.cnu.stuck ∧ (startDrop u).cnu.tubeEmpty = s.cnu.tubeEmpty ∧
      (startDrop u).cnu.restored = s.cnu.restored ∧
      (s.cnu.drops = [] → (startDrop u).cnu.motion = s.cnu.motion) := by
    intro u escrow stuck empty restored drops motion
    obtain ⟨-, stuck', -, empty', restored', -, -⟩ := startDrop_keeps u
    refine ⟨by rw [startDrop_identity, escrow], stuck'.trans stuck, empty'.trans empty,
      restored'.trans restored, fun none => ?_⟩
    rw [startDrop_idle (.inr (drops.trans none)), motion]
  rw [dropFollowed, (noDropsNotice_frame _).2.2.2.2.2.1]
  cases sweep
  · exact released s rfl rfl rfl rfl rfl rfl
  · rw [if_pos rfl, clearanceDrop_sweep]
    exact released _ (by simp) (by simp) (by simp) (by simp) (by simp) (by simp)

theorem dropFollowed_rest :
    (dropFollowed sweep s).inu.latches = s.inu.latches ∧
    { (dropFollowed sweep s).adu.cache with attrs := s.adu.cache.attrs } = s.adu.cache ∧
    Grown s (dropFollowed sweep s) ∧ FlagsKept s (dropFollowed sweep s) := by
  cases sweep
  · exact ⟨by simp [dropFollowed], by simp [dropFollowed], .of_eq (by simp [dropFollowed])
      (by simp [dropFollowed]), .of_eq (by simp [dropFollowed])⟩
  · rw [dropFollowed, if_pos rfl, clearanceDrop_sweep]
    generalize hu : ({ s with
      cnu.diverter := .ret, cnu.clearance := some ⟨1, s.cnu.ms + 500, true⟩ } : State) = u
    have inu : u.inu = s.inu := by rw [← hu]
    have cache : u.adu.cache = s.adu.cache := by rw [← hu]
    have held : u.held = s.held := by rw [← hu]
    have rqu : u.rqu = s.rqu := by rw [← hu]
    refine ⟨?_, ?_, ?_, ?_⟩
    · simp [attrEvent_latches (a := .coinPathErrors) rfl, inu]
    · have moved : (noDropsNotice (startDrop (attrEvent .coinPathErrors u))).adu.cache =
          (attrEvent .coinPathErrors u).adu.cache := by simp
      rw [moved, ← cache, attrEvent_cache]
    · exact (Grown.of_eq (by rw [inu]) held).trans ((grown_attrEvent .coinPathErrors u).trans
        (.of_eq (by simp) (by simp)))
    · exact (FlagsKept.of_eq (by rw [rqu])).trans ((flagsKept_attrEvent .coinPathErrors u).trans
        (.of_eq (by simp)))

theorem dropFollowed_unswept :
    (dropFollowed false s).cnu.clearance = s.cnu.clearance ∧
    (dropFollowed false s).adu.cache = s.adu.cache ∧ (dropFollowed false s).inu = s.inu ∧
    (dropFollowed false s).held = s.held := by
  simp [dropFollowed]

/-- A sweep's first drop over an empty escrow list (R177). -/
theorem dropFollowed_swept (empty : s.cnu.escrow = []) :
    (dropFollowed true s).cnu.clearance = some ⟨1, s.cnu.ms + 500, true⟩ ∧
    (dropFollowed true s).cnu.diverter = .ret ∧ (dropFollowed true s).cnu.motion = s.cnu.motion ∧
    EventReached .coinPathErrors s (dropFollowed true s) := by
  let u : State :=
    { s with cnu.diverter := .ret, cnu.clearance := some ⟨1, s.cnu.ms + 500, true⟩ }
  have followed : dropFollowed true s = noDropsNotice (attrEvent .coinPathErrors u) := by
    rw [dropFollowed, if_pos rfl, clearanceDrop_sweep, startDrop_idle (.inl (by simpa using empty))]
  have reached : EventReached .coinPathErrors s (attrEvent .coinPathErrors u) :=
    (attrEvent_reached .coinPathErrors u).of_alike rfl rfl rfl rfl
  rw [followed]
  refine ⟨by simp [u], by simp [u], by simp [u], ?_⟩
  simpa [EventReached] using reached

end Followed

end Sys2Proof.Machine
end

section
/-! Exit passages (R58 to R63, R65, R177), and O31. -/

namespace Sys2Proof.Machine

/-! ### The command -/

theorem exec_exitPassage_taken {s : State} (up : s.powered = true) (power : s.pfu.power = .running)
    (active : starting s = false ∨ s.cnu.clearance.isSome = true) (level : Bool) :
    exec (.exitPassage level) s = .next (takeExitPassage { s with cnu.tubeEmpty := level }) := by
  have stays : starting { s with cnu.tubeEmpty := level } = starting s := rfl
  have taken : (running { s with cnu.tubeEmpty := level } &&
      (!starting { s with cnu.tubeEmpty := level } || s.cnu.clearance.isSome)) = true := by
    rw [stays]
    rcases active with h | h <;> simp [running, power, h]
  rw [exec, execExitPassage, onPower_up up]
  exact congrArg _ (if_pos taken)

theorem exitPassageHeld : Clause.ExitPassageHeld := by
  intro s level up held
  have stays : starting { s with cnu.tubeEmpty := level } = starting s := rfl
  have kept : ¬(running { s with cnu.tubeEmpty := level } &&
      (!starting { s with cnu.tubeEmpty := level } || s.cnu.clearance.isSome)) = true := by
    rw [stays]
    rcases held with h | ⟨h, h'⟩
    · simp [running, h]
    · simp [h, h']
  rw [exec, execExitPassage, onPower_up up]
  exact congrArg _ (if_neg kept)

/-! ### A stray exit (R61) -/

theorem strayExit : Clause.StrayExit := by
  intro s level up power started clearance motion unstuck
  let u : State := { s with cnu.tubeEmpty := level }
  have stray : takeExitPassage u = attrEvent .coinPathErrors u := by
    have clearance' : u.cnu.clearance = none := clearance
    have motion' : u.cnu.motion = none := motion
    rw [takeExitPassage, clearance', motion']
    rcases unstuck with free | resting
    · have free' : u.cnu.stuck = none := free
      rw [free']
    · have still : bottomDropping u = false := by
        have resting' : u.cnu.escrow.all (fun c => c.status ≠ .dropping) = true := resting
        rw [bottomDropping]
        cases escrow : u.cnu.escrow with
        | nil => rfl
        | cons c cs => simp_all
      cases u.cnu.stuck <;> simp [still]
  refine ⟨_, (exec_exitPassage_taken up power (.inl started) level).trans (congrArg _ stray),
    (attrEvent_reached .coinPathErrors u).of_alike rfl rfl rfl rfl, by simp [u], ?_⟩
  exact attrEvent_cache .coinPathErrors u

/-! ### A completed drop -/

/-- The drop that an exit passage completes is that in motion, or of the coin that comes free late
(R59). -/
theorem takeExitPassage_drop {s : State} {c : Coin} {cs : List Coin} {dir : Dir}
    (clearance : s.cnu.clearance = none) (escrow : s.cnu.escrow = c :: cs)
    (drop : (∃ m, s.cnu.motion = some m ∧ m.dir = dir) ∨
      (s.cnu.motion = none ∧ s.cnu.stuck = some dir ∧ c.status = .dropping)) :
    takeExitPassage s = completeDrop dir s := by
  rw [takeExitPassage, clearance]
  rcases drop with ⟨m, motion, rfl⟩ | ⟨motion, stuck, status⟩
  · rw [motion]
  · rw [motion, stuck]
    exact if_pos (by simp [bottomDropping, escrow, status])

theorem countCoin_box (denom : Nat) (t : Tallies) :
    (t.countCoin denom).boxCoins = t.boxCoins ∧ (t.countCoin denom).attrs = t.attrs := by
  unfold Tallies.countCoin
  split <;> exact ⟨rfl, rfl⟩

theorem drop_attrs (dir : Dir) (denom value : Nat) (t : Tallies) :
    (t.drop dir denom value).attrs = t.attrs := by
  cases dir
  · exact (countCoin_box denom _).2
  · rfl

section Collected

variable (c : Coin) (cs : List Coin) (s : State)

theorem coinLeft_fills :
    nearHanded (coinLeft .collect c cs s) =
      (decide (s.cfl.params.boxNearFull ≤ satAdd s.adu.cache.boxCoins 1) &&
        !latched s.inu.latches .cashboxNearFull) ∧
    fullHanded (coinLeft .collect c cs s) =
      (decide (s.cfl.params.boxFull ≤ satAdd s.adu.cache.boxCoins 1) &&
        !latched s.inu.latches .cashboxFull) := by
  have coins : (coinLeft .collect c cs s).adu.cache.boxCoins = satAdd s.adu.cache.boxCoins 1 :=
    (countCoin_box c.denom _).1
  have rest : (coinLeft .collect c cs s).inu = s.inu ∧ (coinLeft .collect c cs s).cfl = s.cfl :=
    ⟨rfl, rfl⟩
  rw [nearHanded, fullHanded, coins, rest.1, rest.2]
  exact ⟨rfl, rfl⟩

/-- A coin collected brings the fill counts' occurrences, each while its latch is clear (R65). -/
theorem dropCounted_collect :
    let near : Bool := s.cfl.params.boxNearFull ≤ satAdd s.adu.cache.boxCoins 1
    let full : Bool := s.cfl.params.boxFull ≤ satAdd s.adu.cache.boxCoins 1
    let was (k : IncKind) : Bool := latched s.inu.latches k
    let u := dropCounted .collect c cs s
    (near = true → was .cashboxNearFull = false → OccurrenceReached .cashboxNearFull 0 s u) ∧
    (full = true → was .cashboxFull = false → OccurrenceReached .cashboxFull 0 s u) ∧
    (inuActive s = true → ∀ k,
      latched u.inu.latches k =
        (was k || (decide (k = .cashboxNearFull) && near) || (decide (k = .cashboxFull) && full))) ∧
    ((near = true → was .cashboxNearFull = true) → (full = true → was .cashboxFull = true) →
      u.inu = s.inu ∧ u.held = s.held) := by
  intro near full was u
  obtain ⟨inu, rqu, held⟩ := dropCounted_inu .collect c cs s
  rw [if_pos rfl] at inu rqu held
  obtain ⟨nearHands, fullHands⟩ := coinLeft_fills c cs s
  obtain ⟨nearReached, fullReached⟩ := fillCheck_reached (coinLeft .collect c cs s)
  have carried {k : IncKind}
      (h : OccurrenceReached k 0 (coinLeft .collect c cs s) (fillCheck (coinLeft .collect c cs s))) :
      OccurrenceReached k 0 s u :=
    (h.of_alike (s := s) rfl rfl).kept (.of_eq (by rw [← inu]) (by rw [← held])) (.of_eq (by rw [← rqu]))
  refine ⟨fun reached clear => carried (nearReached ?_), fun reached clear => carried (fullReached ?_),
    fun active k => ?_, fun nearSet fullSet => ?_⟩
  · rw [nearHands]
    exact Bool.and_eq_true_iff.2 ⟨reached, by simpa [was] using clear⟩
  · rw [fullHands]
    exact Bool.and_eq_true_iff.2 ⟨reached, by simpa [was] using clear⟩
  · have latches := latched_fillCheck (coinLeft .collect c cs s) active k
    have before : (coinLeft .collect c cs s).inu = s.inu := rfl
    rw [← inu, nearHands, fullHands, before] at latches
    refine latches.trans ?_
    by_cases nearKind : k = .cashboxNearFull
    · subst nearKind
      change (was .cashboxNearFull || (_ && (near && !was .cashboxNearFull)) || _) = _
      cases was .cashboxNearFull <;> simp
    · by_cases fullKind : k = .cashboxFull
      · subst fullKind
        change (was .cashboxFull || _ || (_ && (full && !was .cashboxFull))) = _
        cases was .cashboxFull <;> simp
      · simp [nearKind, fullKind, was]
  · have idle : fillCheck (coinLeft .collect c cs s) = coinLeft .collect c cs s := by
      refine fillCheck_idle _ (nearHands.trans ?_) (fullHands.trans ?_)
      · change (near && !was .cashboxNearFull) = false
        cases h : near
        · rfl
        · simp [nearSet h]
      · change (full && !was .cashboxFull) = false
        cases h : full
        · rfl
        · simp [fullSet h]
    rw [idle] at inu held
    exact ⟨inu, held⟩

end Collected

theorem exitPassageCompletesDrop : Clause.ExitPassageCompletesDrop := by
  intro s level c cs dir up power started clearance escrow drop x was near full swept
  let s₀ : State := { s with cnu.tubeEmpty := level }
  let u := dropCounted dir c cs s₀
  have taken : takeExitPassage s₀ = dropFollowed (sweepBegins c cs s₀) u :=
    (takeExitPassage_drop (s := s₀) clearance escrow drop).trans (completeDrop_eq dir c cs (s := s₀) escrow)
  have begins : sweepBegins c cs s₀ = true ↔ swept := by
    simp [sweepBegins, s₀, swept, and_assoc]
  have cnu : u.cnu = _ := dropCounted_cnu dir c cs s₀
  have cache : u.adu.cache = x.drop dir c.denom c.value := dropCounted_cache dir c cs s₀
  obtain ⟨identity, stuck, empty, restored, motion⟩ := dropFollowed_cnu (sweepBegins c cs s₀) u
  obtain ⟨latches, tallies, grown, flags⟩ := dropFollowed_rest (sweepBegins c cs s₀) u
  refine ⟨_, (exec_exitPassage_taken up power (.inl started) level).trans (congrArg _ taken), ?_⟩
  have attrs : u.adu.cache.attrs = x.attrs := by rw [cache, drop_attrs]
  rw [attrs] at tallies
  rw [cnu] at identity stuck empty restored motion
  refine ⟨identity, stuck, empty, motion, restored, fun ret => ?_, fun collect => ?_, fun rests => ?_,
    fun sweeps => ?_⟩
  · subst ret
    exact ⟨tallies.trans cache, latches.trans (by rw [(dropCounted_ret c cs s₀).1])⟩
  · subst collect
    obtain ⟨nearReached, fullReached, latched', -⟩ := dropCounted_collect c cs s₀
    refine ⟨tallies.trans cache,
      fun reached clear => ((nearReached reached clear).kept grown flags).of_alike rfl rfl,
      fun reached clear => ((fullReached reached clear).kept grown flags).of_alike rfl rfl,
      fun rebuilt k => ?_⟩
    rw [latches]
    exact latched' ((inuActive_iff s₀).2 ⟨rebuilt, power⟩) k
  · have unswept : sweepBegins c cs s₀ = false := Bool.eq_false_iff.2 (mt begins.1 rests)
    rw [unswept]
    obtain ⟨clear, same, inu, held⟩ := dropFollowed_unswept u
    refine ⟨by rw [clear, cnu]; exact clearance, by rw [same, attrs], fun silent => ?_⟩
    rw [inu, held]
    cases dir with
    | ret => exact dropCounted_ret c cs s₀
    | collect =>
      obtain ⟨nearSet, fullSet⟩ := silent.resolve_left (by decide)
      obtain ⟨-, -, -, idle⟩ := dropCounted_collect c cs s₀
      exact idle nearSet fullSet
  · have none : u.cnu.escrow = [] := by
      rw [cnu]
      exact sweeps.2.2.1
    rw [begins.2 sweeps]
    obtain ⟨clear, diverter, motion, reached⟩ := dropFollowed_swept u none
    have core : u.inu.core = s.inu.core := dropCounted_core dir c cs s₀
    have hrebuilt : u.inu.rebuilt = s.inu.rebuilt :=
      (congrArg Inu.rebuilt core : u.inu.core.rebuilt = s.inu.core.rebuilt)
    have hpower : u.pfu.power = .running := 
      (congrArg Pfu.power (dropCounted_pfu dir c cs s₀)).trans power
    refine ⟨by rw [clear, cnu], diverter, by rw [motion, cnu], fun rebuilt => ?_, fun idle => ?_⟩
    · have active : u.inu.rebuilt = true ∧ u.pfu.power = .running := ⟨hrebuilt.trans rebuilt, hpower⟩
      rw [EventReached, if_pos active, Inu.attrs_of_core core] at reached
      exact (if_pos ⟨rebuilt, power⟩).mpr reached
    · have stopped : ¬(u.inu.rebuilt = true ∧ u.pfu.power = .running) := by simp [hrebuilt, idle]
      rw [EventReached, if_neg stopped] at reached
      rw [reached]
      exact List.mem_append_right _ (List.mem_singleton_self _)

/-- Settles O31: a completed drop, a stray exit and an exit held, clause by clause. -/
theorem exitPassages : Obligations.ExitPassages :=
  ⟨exitPassageCompletesDrop, strayExit, exitPassageHeld⟩

end Sys2Proof.Machine
end

section
/-! The end of a tube clearance, the exit timer (R59, R63, R155, R178), and O32. -/

namespace Sys2Proof.Machine

/-! ### The accounting of a start-up's clearance (R178) -/

/-- What the accounting makes of the balance and hands on, whatever the balance is. -/
theorem lostAccounting_taken (s : State) :
    (lostAccounting s).adu.cache.returned = satAdd s.adu.cache.returned s.adu.cache.escrow ∧
    (lostAccounting s).adu.cache.escrow = 0 ∧ (lostAccounting s).pfu.step5 = .writeBack true ∧
    OccurrenceReached .auditSuspect 2 s (lostAccounting s) ∧
    Grown s (lostAccounting s) ∧ FlagsKept s (lostAccounting s) := by
  let u := occur .auditSuspect 2 (lostMoved s)
  obtain ⟨inu, cache, -, rqu, -, -⟩ := triggerWriteBack_keeps u
  have held : (triggerWriteBack u).held = u.held := by simp
  have registers : u.adu.cache = Tallies.lost s.adu.cache := (Adu.of_registers (occur_registers ..)).1
  have grown : Grown u (triggerWriteBack u) := .of_eq (congrArg _ inu) held
  have flags : FlagsKept u (triggerWriteBack u) := .of_eq (congrArg _ rqu)
  have reached : OccurrenceReached .auditSuspect 2 s u := (occur_reached .auditSuspect 2 _).of_alike rfl rfl
  rw [lostAccounting_eq, cache, registers]
  refine ⟨rfl, rfl, ?_, reached.kept grown flags, ?_, ?_⟩
  · simp [lostMoved]
  · exact (Grown.of_eq rfl rfl : Grown s (lostMoved s)).trans ((grown_occur _ _ _).trans grown)
  · exact (FlagsKept.of_eq rfl : FlagsKept s (lostMoved s)).trans ((flagsKept_occur _ _ _).trans flags)

/-! ### The end of a clearance (R63) -/

section Ended

variable (c : Clearance) (fault : Bool) (s : State)

/-- Before what its end brings, a clearance is over and its fault handed. -/
def clearanceOver : State :=
  if fault then occur .escrowFault 0 { s with cnu.clearance := none }
  else { s with cnu.clearance := none }

theorem endClearance_eq :
    endClearance c fault s =
      if c.sweep then noDropsNotice (startDrop (clearanceOver fault s))
      else lostAccounting (clearanceOver fault s) := rfl

theorem clearanceOver_keeps :
    (clearanceOver fault s).cnu = { s.cnu with clearance := none } ∧
    (clearanceOver fault s).adu.cache = s.adu.cache ∧
    (clearanceOver fault s).inu.rebuilt = s.inu.rebuilt ∧ (clearanceOver fault s).pfu = s.pfu := by
  cases fault
  · exact ⟨rfl, rfl, rfl, rfl⟩
  · have handed : clearanceOver true s = occur .escrowFault 0 { s with cnu.clearance := none } := rfl
    rw [handed]
    exact ⟨by simp, (Adu.of_registers (occur_registers ..)).1, by simp, by simp⟩

theorem endClearance_cnu :
    (endClearance c fault s).cnu.clearance = none ∧
    (endClearance c fault s).cnu.tubeEmpty = s.cnu.tubeEmpty ∧
    (endClearance c fault s).cnu.escrow.map Coin.identity = s.cnu.escrow.map Coin.identity := by
  obtain ⟨cnu, -, -, -⟩ := clearanceOver_keeps fault s
  rw [endClearance_eq]
  split
  · obtain ⟨-, -, -, empty, -, -, -⟩ := startDrop_keeps (clearanceOver fault s)
    rw [(noDropsNotice_frame _).2.2.2.2.2.1, startDrop_identity, empty]
    simp [cnu]
  · simp [cnu]

/-- A clearance that ends with a fault hands ESCROW_FAULT. -/
theorem endClearance_fault : OccurrenceReached .escrowFault 0 s (endClearance c true s) := by
  have handed : OccurrenceReached .escrowFault 0 s (clearanceOver true s) :=
    (occur_reached .escrowFault 0 _).of_alike rfl rfl
  rw [endClearance_eq]
  split
  · exact handed.kept (.of_eq (by simp) (by simp)) (.of_eq (by simp))
  · obtain ⟨-, -, -, -, grown, flags⟩ := lostAccounting_taken (clearanceOver true s)
    exact handed.kept grown flags

/-- A start-up's clearance ends with its accounting (R178). -/
theorem endClearance_accounts (started : c.sweep = false) :
    (endClearance c fault s).adu.cache.returned = satAdd s.adu.cache.returned s.adu.cache.escrow ∧
    (endClearance c fault s).adu.cache.escrow = 0 ∧
    (endClearance c fault s).pfu.step5 = .writeBack true ∧
    OccurrenceReached .auditSuspect 2 s (endClearance c fault s) := by
  obtain ⟨-, cache, rebuilt, pfu⟩ := clearanceOver_keeps fault s
  obtain ⟨returned, escrow, step5, reached, -, -⟩ := lostAccounting_taken (clearanceOver fault s)
  rw [endClearance_eq, if_neg (by simp [started])]
  exact ⟨by rw [returned, cache], escrow, step5, reached.of_alike rebuilt (congrArg Pfu.power pfu)⟩

end Ended

theorem clearanceDrop_released (made : Nat) (sweep : Bool) (s : State) :
    (clearanceDrop made sweep s).cnu =
      { s.cnu with diverter := .ret, clearance := some ⟨made, s.cnu.ms + 500, sweep⟩ } ∧
    (sweep = true → EventReached .coinPathErrors s (clearanceDrop made sweep s)) := by
  cases sweep
  · exact ⟨rfl, fun h => absurd h (by decide)⟩
  · rw [clearanceDrop_sweep]
    exact ⟨by simp, fun _ => (attrEvent_reached .coinPathErrors _).of_alike rfl rfl rfl rfl⟩

theorem clearanceGoesOn : Clause.ClearanceGoesOn := by
  intro s level c up power clearance
  let u : State := { s with cnu.tubeEmpty := level }
  have taken : takeExitPassage u = nextClearance c u := by
    have clearance' : u.cnu.clearance = some c := clearance
    rw [takeExitPassage, clearance']
  refine ⟨_, (exec_exitPassage_taken up power (.inr (by simp [clearance])) level).trans
    (congrArg _ taken), ?_⟩
  have ends (fault : Bool) := endClearance_cnu c fault u
  have accounts (fault : Bool) (h : c.sweep = false) := endClearance_accounts c fault u h
  rw [nextClearance]
  cases level with
  | true =>
    rw [if_pos rfl]
    obtain ⟨ended, empty, identity⟩ := ends false
    refine ⟨empty, identity, by simp, fun _ => ended, by simp, fun _ h => ?_⟩
    obtain ⟨returned, escrow, step5, reached⟩ := accounts false h
    exact ⟨returned, escrow, step5, reached.of_alike rfl rfl⟩
  | false =>
    rw [if_neg Bool.false_ne_true]
    by_cases last : 8 ≤ c.made
    · rw [if_pos last]
      obtain ⟨ended, empty, identity⟩ := ends true
      refine ⟨empty, identity, by omega, fun _ => ended, fun _ _ => ?_, fun _ h => ?_⟩
      · exact (endClearance_fault c u).of_alike rfl rfl
      · obtain ⟨returned, escrow, step5, reached⟩ := accounts true h
        exact ⟨returned, escrow, step5, reached.of_alike rfl rfl⟩
    · rw [if_neg last]
      obtain ⟨cnu, reached⟩ := clearanceDrop_released (c.made + 1) c.sweep u
      refine ⟨by rw [cnu], by rw [cnu], fun _ _ => ⟨by rw [cnu], by rw [cnu], fun sweep => ?_⟩,
        ?_, ?_, ?_⟩
      · exact (reached sweep).of_alike rfl rfl rfl rfl
      · simp [last]
      · simp [last]
      · simp [last]

/-! ### The exit timer (R59) -/

section Stuck

variable (m : Motion) (s : State)

/-- The freeze itself, before the ADU is told. -/
def dropFrozen : State :=
  { occur .escrowFault 0 s with
    cnu.frozen := true
    cnu.stuck := some m.dir
    cnu.motion := none }

/-- A watched settlement is told to the ADU. -/
def stuckTold : State :=
  if (dropFrozen m s).cnu.watch = [] then dropFrozen m s else triggerWriteBack (dropFrozen m s)

theorem dropStuck_eq :
    dropStuck m s =
      if (stuckTold m s).adu.flushPending then queueWriteBack false true (stuckTold m s)
      else stuckTold m s := rfl

theorem dropFrozen_cnu :
    (dropFrozen m s).cnu = { s.cnu with frozen := true, stuck := some m.dir, motion := none } := by
  simp [dropFrozen]

theorem stuckTold_keeps :
    (stuckTold m s).cnu = (dropFrozen m s).cnu ∧
    (stuckTold m s).adu.cache = s.adu.cache ∧
    (stuckTold m s).inu = (dropFrozen m s).inu ∧ (stuckTold m s).rqu = (dropFrozen m s).rqu ∧
    (stuckTold m s).held = (dropFrozen m s).held := by
  have cache : (dropFrozen m s).adu.cache = s.adu.cache := (Adu.of_registers (occur_registers ..)).1
  obtain ⟨inu, cache', -, rqu, cnu, -⟩ := triggerWriteBack_keeps (dropFrozen m s)
  rw [stuckTold]
  split
  · exact ⟨rfl, cache, rfl, rfl, rfl⟩
  · exact ⟨cnu, cache'.trans cache, inu, rqu, by simp⟩

theorem stuckTold_watched (watched : s.cnu.watch ≠ []) :
    writeBackWaiting (stuckTold m s) = true ∨ writeBackRunning (stuckTold m s) = true ∨
      (stuckTold m s).adu.dirty = false := by
  rw [stuckTold, if_neg (by rw [dropFrozen_cnu]; exact watched)]
  rcases triggerWriteBack_cases (dropFrozen m s) with ⟨done, same⟩ | ⟨dirty, -⟩
  · rw [same]
    exact done
  · exact (triggerWriteBack_dirty dirty).imp_right .inl

theorem dropStuck_keeps :
    (dropStuck m s).cnu = { s.cnu with frozen := true, stuck := some m.dir, motion := none } ∧
    (dropStuck m s).adu.cache = s.adu.cache ∧ OccurrenceReached .escrowFault 0 s (dropStuck m s) := by
  obtain ⟨cnu, cache, inu, rqu, held⟩ := stuckTold_keeps m s
  have handed : OccurrenceReached .escrowFault 0 s (dropFrozen m s) :=
    (occur_reached .escrowFault 0 s).kept (.of_eq rfl rfl) (.of_eq rfl)
  have told : OccurrenceReached .escrowFault 0 s (stuckTold m s) :=
    handed.kept (.of_eq (congrArg _ inu) held) (.of_eq (congrArg _ rqu))
  rw [dropFrozen_cnu] at cnu
  rw [dropStuck_eq]
  split
  · exact ⟨by simp [cnu], by simp [cache], told.kept (.of_eq (by simp) (by simp)) (.of_eq (by simp))⟩
  · exact ⟨cnu, cache, told⟩

theorem dropStuck_watched (watched : s.cnu.watch ≠ []) :
    writeBackWaiting (dropStuck m s) = true ∨ writeBackRunning (dropStuck m s) = true ∨
      (dropStuck m s).adu.dirty = false := by
  rw [dropStuck_eq]
  split
  · exact .inl (queueWriteBack_waiting ..)
  · exact stuckTold_watched m s watched

end Stuck

theorem exitTimerRunsOut : Clause.ExitTimerRunsOut := by
  intro s up power
  have executes : exec .exitTimeout s =
      .next (match s.cnu.clearance, s.cnu.motion with
        | some c, _ => endClearance c true (elapse (c.deadline - s.cnu.ms) s)
        | none, some m => dropStuck m (elapse (m.deadline - s.cnu.ms) s)
        | none, none => s) := by
    rw [exec, execExitTimeout, onPower_up up]
    exact congrArg _ (if_pos (by simp [running, power]))
  refine ⟨fun m clearance motion => ?_, fun c clearance => ?_, fun clearance motion => ?_⟩
  · let u := elapse (m.deadline - s.cnu.ms) s
    have passed : u = _ := elapse_running power _
    refine ⟨dropStuck m u, by rw [executes, clearance, motion], ?_, ?_, ?_, fun watched => ?_⟩
    all_goals obtain ⟨cnu, cache, reached⟩ := dropStuck_keeps m u
    · have latest : s.cnu.ms + (m.deadline - s.cnu.ms) = max s.cnu.ms m.deadline := by omega
      rw [cnu, passed, ← latest]
    · rw [cache, passed]
    · exact reached.of_alike (by rw [passed]) (by rw [passed])
    · exact dropStuck_watched m u (by rw [passed]; exact watched)
  · let u := elapse (c.deadline - s.cnu.ms) s
    have passed : u = _ := elapse_running power _
    have rebuilt : u.inu.rebuilt = s.inu.rebuilt := by rw [passed]
    have stays : u.pfu.power = s.pfu.power := by rw [passed]
    have cache : u.adu.cache = s.adu.cache := by rw [passed]
    refine ⟨endClearance c true u, by rw [executes, clearance], (endClearance_cnu c true u).1,
      (endClearance_fault c u).of_alike rebuilt stays, fun started => ?_⟩
    obtain ⟨returned, escrow, step5, reached⟩ := endClearance_accounts c true u started
    exact ⟨by rw [returned, cache], escrow, step5, reached.of_alike rebuilt stays⟩
  · rw [executes, clearance, motion]

/-- Settles O32: the passages of a clearance, and the exit timer over a drop, over a clearance and
over neither. -/
theorem clearanceAndExitTimer : Obligations.ClearanceAndExitTimer := ⟨clearanceGoesOn, exitTimerRunsOut⟩

end Sys2Proof.Machine
end

section
/-! Coins committed and sent to the box (R56 to R58, R95). -/

namespace Sys2Proof.Machine

/-! ### A commit order by what it finds (R56) -/

/-- A commit order's coin takes its status. -/
def coinCommitted (q : Nat) (s : State) : State :=
  { s with
    cnu.escrow := s.cnu.escrow.map fun x => if x.seq = q then { x with status := .committed } else x }

/-- The coin that a commit order names is held, with no drop of its sequence queued. -/
def CommitTaken (q : Nat) (s : State) : Prop :=
  (∃ c, s.cnu.escrow.find? (fun c => c.seq = q) = some c ∧ c.status = .held) ∧
    ∀ d ∈ s.cnu.drops, d.seq ≠ q

theorem commitOrder_taken {q : Nat} {s : State} (taken : CommitTaken q s) :
    commitOrder q s = startDrop (queueDrop q .collect (coinCommitted q s)) := by
  obtain ⟨⟨c, found, held⟩, none⟩ := taken
  have same : c.seq = q := by simpa using List.find?_some found
  have undropped : hasDrop s c = false := by simpa [hasDrop, same] using none
  rw [commitOrder, found]
  exact if_pos ⟨held, by simp [undropped]⟩

theorem commitOrder_refused {q : Nat} {s : State} (refused : ¬CommitTaken q s) : commitOrder q s = s := by
  rw [commitOrder]
  cases found : s.cnu.escrow.find? fun c => c.seq = q with
  | none => rfl
  | some c =>
    have same : c.seq = q := by simpa using List.find?_some found
    refine if_neg fun ⟨held, free⟩ => refused ⟨⟨c, found, held⟩, ?_⟩
    simpa [hasDrop, same] using free

/-! ### The queue in the order of the tube (R57) -/

theorem mem_of_mem_orderDrops {escrow : List Coin} {drops : List Drop} {d : Drop}
    (h : d ∈ orderDrops escrow drops) : d ∈ drops := by
  obtain ⟨c, -, found⟩ := List.mem_filterMap.1 h
  exact List.mem_of_find?_eq_some found

/-- A sequence with a drop queued has one for each of its coins. -/
theorem countP_orderDrops {q : Nat} {drops : List Drop} (queued : ∃ d ∈ drops, d.seq = q)
    (escrow : List Coin) :
    escrow.countP (fun c => c.seq = q) ≤ (orderDrops escrow drops).countP fun d => d.seq = q := by
  induction escrow with
  | nil => simp
  | cons c cs ih =>
    rw [orderDrops] at ih ⊢
    rw [List.countP_cons, List.filterMap_cons]
    cases found : drops.find? (fun d => d.seq = c.seq) with
    | none =>
      have other : c.seq ≠ q := by
        rintro rfl
        obtain ⟨d, hd, same⟩ := queued
        simpa [same] using List.find?_eq_none.1 found d hd
      simpa [other] using ih
    | some d =>
      have same : d.seq = c.seq := by simpa using List.find?_some found
      simpa [List.countP_cons, same] using ih

theorem queueDrop_drops {q : Nat} {s : State} (none : ∀ d ∈ s.cnu.drops, d.seq ≠ q) (dir : Dir) :
    (queueDrop q dir s).cnu.drops = orderDrops s.cnu.escrow (s.cnu.drops ++ [⟨q, dir⟩]) := by
  rw [queueDrop, if_neg (by simpa using none)]

/-! ### Before and after the commit orders of a charge -/

/-- The coins of a sequence are held, with no drop queued. -/
def Uncommitted (q : Nat) (s : State) : Prop :=
  (∀ c ∈ s.cnu.escrow, c.seq = q → c.status = .held) ∧ ∀ d ∈ s.cnu.drops, d.seq ≠ q

/-- The committed coins of a sequence. -/
def committedOf (q : Nat) (s : State) : Nat :=
  s.cnu.escrow.countP fun c => c.seq = q && c.status = .committed

/-- The coins of a sequence go to the box: each is committed or dropping there, and the committed ones
have as many COLLECT drops at least. -/
structure Collected (q : Nat) (s : State) : Prop where
  dirs : ∀ d ∈ s.cnu.drops, d.seq = q → d.dir = .collect
  coins : ∀ c ∈ s.cnu.escrow, c.seq = q →
    c.status = .committed ∨ (c.status = .dropping ∧ s.cnu.motion.map (·.dir) = some .collect)
  enough : committedOf q s ≤ s.cnu.drops.countP fun d => d.seq = q

theorem Collected.of_cnu {q : Nat} {s t : State} (h : Collected q s) (cnu : t.cnu = s.cnu) :
    Collected q t := by
  obtain ⟨dirs, coins, enough⟩ := h
  rw [committedOf, ← cnu] at enough
  rw [← cnu] at dirs coins
  exact ⟨dirs, coins, enough⟩

theorem Collected.dropped {q : Nat} {s : State} (h : Collected q s) {c : Coin}
    (tube : c ∈ s.cnu.escrow) (same : c.seq = q) :
    (c.status = .committed ∧ ⟨c.seq, .collect⟩ ∈ s.cnu.drops) ∨
      (c.status = .dropping ∧ s.cnu.motion.map (·.dir) = some .collect) := by
  refine (h.coins c tube same).imp_left fun committed => ⟨committed, ?_⟩
  have counted : 0 < committedOf q s :=
    List.countP_pos_iff.2 ⟨c, tube, by simp [same, committed]⟩
  obtain ⟨d, queued, seq⟩ := List.countP_pos_iff.1 (counted.trans_le h.enough)
  have seq : d.seq = q := by simpa using seq
  rw [same, ← seq, ← h.dirs d queued seq]
  exact queued

theorem Uncommitted.startDrop {q : Nat} {s : State} (h : Uncommitted q s) : Uncommitted q (startDrop s) := by
  obtain ⟨held, none⟩ := h
  rcases startDrop_cases s with same | ⟨c, cs, d, ds, escrow, drops, ready, started⟩
  · rw [same]
    exact ⟨held, none⟩
  · have head : d.seq = c.seq := by
      simp only [dropReady, Bool.and_eq_true, decide_eq_true_eq] at ready
      tauto
    rw [escrow] at held
    rw [drops] at none
    have other : c.seq ≠ q := by
      rw [← head]
      exact none d List.mem_cons_self
    rw [started]
    refine ⟨fun x hx => ?_, fun x hx => none x (List.mem_cons_of_mem _ hx)⟩
    rcases List.mem_cons.1 hx with rfl | later
    · exact fun same => absurd same other
    · exact held x (List.mem_cons_of_mem _ later)

theorem Collected.startDrop {q : Nat} {s : State} (h : Collected q s) : Collected q (startDrop s) := by
  rcases startDrop_cases s with same | ⟨c, cs, d, ds, escrow, drops, ready, started⟩
  · rwa [same]
  obtain ⟨dirs, coins, enough⟩ := h
  have resting : s.cnu.motion = none ∧ d.seq = c.seq := by
    simp only [dropReady, Bool.and_eq_true, decide_eq_true_eq, Option.isNone_iff_eq_none] at ready
    tauto
  obtain ⟨motion, head⟩ := resting
  -- No coin of the sequence can be dropping while nothing is in motion.
  have committed : ∀ x ∈ c :: cs, x.seq = q → x.status = .committed := fun x hx same =>
    (coins x (escrow ▸ hx) same).resolve_right (by simp [motion])
  rw [drops] at dirs
  rw [committedOf, escrow, drops, List.countP_cons, List.countP_cons] at enough
  rw [started]
  refine ⟨fun x hx => dirs x (List.mem_cons_of_mem _ hx), fun x hx same => ?_, ?_⟩
  · rcases List.mem_cons.1 hx with rfl | later
    · exact .inr ⟨rfl, by simp [dirs d List.mem_cons_self (head.trans same)]⟩
    · exact .inl (committed x (List.mem_cons_of_mem _ later) same)
  · rw [committedOf, List.countP_cons]
    by_cases same : c.seq = q
    · have status := committed c List.mem_cons_self same
      simpa [head, same, status] using enough
    · simpa [head, same] using enough

theorem committedOf_le (q : Nat) (s : State) :
    committedOf q s ≤ s.cnu.escrow.countP fun c => c.seq = q :=
  List.countP_mono_left fun c _ h => by simp_all

/-- A queue in the order of the tube has drops enough for the committed coins. -/
theorem enough_orderDrops {q : Nat} {s : State} {drops : List Drop} (queued : ∃ d ∈ drops, d.seq = q) :
    committedOf q s ≤ (orderDrops s.cnu.escrow drops).countP fun d => d.seq = q :=
  (committedOf_le q s).trans (countP_orderDrops queued _)

section Ordered

variable {q x : Nat} {s : State}

/-- A coin of another sequence is as it was. -/
theorem mem_coinCommitted {c : Coin} (h : c ∈ (coinCommitted x s).cnu.escrow) :
    (c.seq = x ∧ c.status = .committed) ∨ (c.seq ≠ x ∧ c ∈ s.cnu.escrow) := by
  obtain ⟨b, hb, rfl⟩ := List.mem_map.1 h
  by_cases same : b.seq = x
  · simp [same]
  · simp [same, hb]

theorem Uncommitted.commitOrder_other (h : Uncommitted q s) (other : x ≠ q) :
    Uncommitted q (commitOrder x s) := by
  by_cases taken : CommitTaken x s
  · rw [commitOrder_taken taken]
    refine Uncommitted.startDrop ⟨fun c hc same => ?_, fun d hd => ?_⟩
    · rw [(queueDrop_eq ..)] at hc
      rcases mem_coinCommitted hc with ⟨seq, -⟩ | ⟨-, old⟩
      · exact absurd (seq.symm.trans same) other
      · exact h.1 c old same
    · rw [queueDrop_drops (s := coinCommitted x s) taken.2] at hd
      rcases List.mem_append.1 (mem_of_mem_orderDrops hd) with old | new
      · exact h.2 d old
      · rw [List.mem_singleton.1 new]
        exact other
  · rwa [commitOrder_refused taken]

theorem Collected.commitOrder (h : Collected q s) : Collected q (commitOrder x s) := by
  by_cases taken : CommitTaken x s
  · -- The coin found is held, so it is of another sequence.
    have other : x ≠ q := by
      rintro rfl
      obtain ⟨⟨c, found, held⟩, -⟩ := taken
      have seq : c.seq = x := by simpa using List.find?_some found
      simpa [held] using h.coins c (List.mem_of_find?_eq_some found) seq
    rw [commitOrder_taken taken]
    refine Collected.startDrop ⟨fun d hd same => ?_, fun c hc same => ?_, ?_⟩
    · rw [queueDrop_drops (s := coinCommitted x s) taken.2] at hd
      rcases List.mem_append.1 (mem_of_mem_orderDrops hd) with old | new
      · exact h.dirs d old same
      · rw [List.mem_singleton.1 new]
    · rw [(queueDrop_eq ..)] at hc ⊢
      rcases mem_coinCommitted hc with ⟨seq, -⟩ | ⟨-, old⟩
      · exact absurd (seq.symm.trans same) other
      · exact h.coins c old same
    · have kept : committedOf q (queueDrop x .collect (coinCommitted x s)) = committedOf q s := by
        rw [(queueDrop_eq ..), committedOf, committedOf, coinCommitted, List.countP_map]
        refine List.countP_congr fun c _ => ?_
        by_cases seq : c.seq = x <;> simp [seq, other]
      by_cases queued : ∃ d ∈ s.cnu.drops, d.seq = q
      · rw [queueDrop_drops (s := coinCommitted x s) taken.2, (queueDrop_eq ..)]
        obtain ⟨d, hd, seq⟩ := queued
        exact enough_orderDrops (s := coinCommitted x s) ⟨d, List.mem_append_left _ hd, seq⟩
      · have none : s.cnu.drops.countP (fun d => d.seq = q) = 0 := by
          simpa [List.countP_eq_zero] using queued
        have enough := h.enough
        rw [kept]
        omega
  · rwa [commitOrder_refused taken]

theorem Uncommitted.commitOrder_same (h : Uncommitted q s) : Collected q (commitOrder q s) := by
  obtain ⟨held, none⟩ := h
  by_cases taken : CommitTaken q s
  · rw [commitOrder_taken taken]
    refine Collected.startDrop ⟨fun d hd same => ?_, fun c hc same => ?_, ?_⟩
    · rw [queueDrop_drops (s := coinCommitted q s) none] at hd
      rcases List.mem_append.1 (mem_of_mem_orderDrops hd) with old | new
      · exact absurd same (none d old)
      · rw [List.mem_singleton.1 new]
    · rw [(queueDrop_eq ..)] at hc
      rcases mem_coinCommitted hc with ⟨-, status⟩ | ⟨seq, -⟩
      · exact .inl status
      · exact absurd same seq
    · rw [queueDrop_drops (s := coinCommitted q s) none, (queueDrop_eq ..)]
      exact enough_orderDrops (s := coinCommitted q s) ⟨⟨q, .collect⟩, by simp, rfl⟩
  · -- No order is taken only if no coin has the sequence.
    have absent : ∀ c ∈ s.cnu.escrow, c.seq ≠ q := by
      intro c hc same
      obtain ⟨b, found⟩ := Option.isSome_iff_exists.1
        (List.find?_isSome.2 ⟨c, hc, by simpa using same⟩ :
          (s.cnu.escrow.find? fun c => c.seq = q).isSome = true)
      exact taken ⟨⟨b, found, held b (List.mem_of_find?_eq_some found)
        (by simpa using List.find?_some found)⟩, none⟩
    rw [commitOrder_refused taken]
    refine ⟨fun d hd same => absurd same (none d hd), fun c hc same => absurd same (absent c hc), ?_⟩
    have zero : committedOf q s = 0 := by
      rw [committedOf, List.countP_eq_zero]
      exact fun c hc => by simp [absent c hc]
    rw [zero]
    exact Nat.zero_le _

theorem Collected.foldl_commitOrder (roll : List RollCoin) {s : State} (h : Collected q s) :
    Collected q (roll.foldl (fun s x => Machine.commitOrder x.seq s) s) := by
  induction roll generalizing s with
  | nil => exact h
  | cons x roll ih => exact ih h.commitOrder

/-- The coins that a charge reaches go to the box (R95). -/
theorem Uncommitted.foldl_commitOrder (roll : List RollCoin) {s : State} (h : Uncommitted q s)
    (named : ∃ x ∈ roll, x.seq = q) :
    Collected q (roll.foldl (fun s x => Machine.commitOrder x.seq s) s) := by
  induction roll generalizing s with
  | nil => simp at named
  | cons x roll ih =>
    rw [List.foldl_cons]
    by_cases same : x.seq = q
    · subst same
      exact h.commitOrder_same.foldl_commitOrder roll
    · refine ih (h.commitOrder_other same) ?_
      obtain ⟨y, hy, seq⟩ := named
      exact ⟨y, (List.mem_cons.1 hy).resolve_left (by rintro rfl; exact same seq), seq⟩

end Ordered

end Sys2Proof.Machine
end

section
/-! What an act of rating leaves of tube, tallies and flags (R56, R92 to R97). -/

namespace Sys2Proof.Machine

/-! ### Raising what is raised already -/

theorem setFlag_set {f : BitVec 12} {e : Event} (set : flagOf f e = true) : setFlag f e = f := by
  refine BitVec.eq_of_getLsbD_eq fun i hi => ?_
  by_cases same : i = e.bit
  · subst same
    have own := flagOf_setFlag f e e
    rw [set] at own
    exact own.trans set.symm
  · cases e <;> simp_all [setFlag, Event.bit]

theorem raise_set {e : Event} {s : State} (set : flagOf s.rqu.flags e = true) : raise e s = s := by
  rw [raise, setFlag_set set]

/-- An act after which CREDIT is set needs no notice of what it shows (R103). -/
theorem watchCredit_set {f : State → State} {s : State} (set : flagOf (f s).rqu.flags .credit = true) :
    watchCredit f s = f s := by
  rw [watchCredit, raiseIf]
  split
  · exact raise_set set
  · rfl

/-! ### An act of rating -/

/-- What rating leaves: of the coin unit all but statuses, drops, motion and diverter; of the tallies
all but CONSUMED_VALUE; and every flag that is set. -/
structure Rated (s t : State) : Prop where
  cnu : t.cnu =
    { s.cnu with
      escrow := t.cnu.escrow
      drops := t.cnu.drops
      motion := t.cnu.motion
      diverter := t.cnu.diverter }
  coins : t.cnu.escrow.map Coin.identity = s.cnu.escrow.map Coin.identity
  cache : t.adu.cache = { s.adu.cache with consumed := t.adu.cache.consumed }
  flags : FlagsKept s t

theorem Rated.of_eq {s t : State} (cnu : t.cnu = s.cnu) (cache : t.adu.cache = s.adu.cache)
    (flags : FlagsKept s t) : Rated s t :=
  ⟨by rw [cnu], by rw [cnu], by rw [cache], flags⟩

theorem Rated.refl (s : State) : Rated s s := .of_eq rfl rfl (.of_eq rfl)

theorem Rated.trans {s t u : State} (h : Rated s t) (h' : Rated t u) : Rated s u := by
  refine ⟨h'.cnu.trans ?_, h'.coins.trans h.coins, h'.cache.trans ?_, h.flags.trans h'.flags⟩
  · rw [h.cnu]
  · rw [h.cache]

theorem rated_raise (e : Event) (s : State) : Rated s (raise e s) := .of_eq rfl rfl (flagsKept_raise e s)

theorem rated_raiseIf (b : Bool) (e : Event) (s : State) : Rated s (raiseIf b e s) := by
  cases b
  · exact .refl s
  · exact rated_raise e s

theorem rated_watchCredit {f : State → State} {s : State} (h : Rated s (f s)) : Rated s (watchCredit f s) :=
  h.trans (rated_raiseIf _ .credit _)

theorem rated_setLine (st : LineState) (s : State) : Rated s (setLine st s) :=
  .of_eq (by simp) (by simp) (flagsKept_setLine st s)

theorem rated_startDrop (s : State) : Rated s (startDrop s) := by
  refine ⟨?_, startDrop_identity s, by simp, .of_eq (by simp)⟩
  rcases startDrop_cases s with same | ⟨_, _, _, _, -, -, -, started⟩
  · rw [same]
  · rw [started]

theorem rated_queueDrop (q : Nat) (dir : Dir) (s : State) : Rated s (queueDrop q dir s) := by
  rw [queueDrop_eq]
  exact ⟨rfl, rfl, rfl, .of_eq rfl⟩

theorem rated_coinCommitted (q : Nat) (s : State) : Rated s (coinCommitted q s) := by
  refine ⟨rfl, ?_, rfl, .of_eq rfl⟩
  rw [coinCommitted, List.map_map]
  refine List.map_congr_left fun c _ => ?_
  rw [Function.comp_apply]
  split <;> rfl

theorem rated_commitOrder (q : Nat) (s : State) : Rated s (commitOrder q s) := by
  by_cases taken : CommitTaken q s
  · rw [commitOrder_taken taken]
    exact (rated_coinCommitted q s).trans ((rated_queueDrop q .collect _).trans (rated_startDrop _))
  · rw [commitOrder_refused taken]
    exact .refl s

theorem rated_takeCharge (charge : Nat) (s : State) : Rated s (takeCharge charge s) := by
  cases ctx : s.rtu.ctx with
  | none =>
    have idle : takeCharge charge s = s := by rw [takeCharge, ctx]
    rw [idle]
    exact .refl s
  | some c =>
    rw [takeCharge_orders ctx]
    refine foldl_induction (P := Rated s) _ _ _ ⟨rfl, rfl, rfl, .of_eq rfl⟩ fun u x h => ?_
    exact h.trans (rated_commitOrder x.seq u)

theorem rated_enterGrace (charge start : Nat) (s : State) : Rated s (enterGrace charge start s) := by
  cases ctx : s.rtu.ctx with
  | none =>
    have idle : enterGrace charge start s = s := by rw [enterGrace, ctx]
    rw [idle]
    exact .refl s
  | some c =>
    have graced : Rated s (graceEntered c charge start s) :=
      .of_eq rfl rfl ((flagsKept_raise .lowCredit s).trans (flagsKept_raise .credit _))
    rw [enterGrace_eq ctx]
    dsimp only
    split
    · exact graced.trans (.of_eq rfl rfl (flagsKept_raise .line _))
    · exact graced

theorem rated_beginInterval (start : Nat) (first : Bool) (s : State) :
    Rated s (beginInterval start first s) := by
  unfold beginInterval
  dsimp only
  split
  · exact .refl s
  · split
    · exact .refl s
    · next c _ r _ =>
      generalize (if first then r.setupCharge else 0) + r.bandCharge (chooseBand r s) = charge
      split
      · refine Rated.trans ?_ (rated_watchCredit (rated_takeCharge _ _))
        exact .of_eq rfl rfl (.of_eq rfl)
      · refine Rated.trans ?_ (rated_enterGrace _ _ _)
        exact .of_eq rfl rfl (.of_eq rfl)

theorem rated_catchUp (n : Nat) (s : State) : Rated s (catchUp n s) := by
  induction n generalizing s with
  | zero => exact .refl s
  | succ n ih =>
    rw [catchUp]
    split
    · split
      · exact (rated_beginInterval _ _ s).trans (ih _)
      · exact .refl s
    · exact .refl s

/-! ### The grace test (R97) -/

/-- The charge due is paid: the coins it reaches are ordered, CREDIT is raised and the line of the call is
CONNECTED again. -/
def gracePaid (due : Nat) (s : State) : State :=
  let t := raise .credit (takeCharge due s)
  if t.lnu.state = .grace then setLine .connected t else t

theorem rated_gracePaid (due : Nat) (s : State) : Rated s (gracePaid due s) := by
  have charged : Rated s (raise .credit (takeCharge due s)) :=
    (rated_takeCharge due s).trans (rated_raise .credit _)
  rw [gracePaid]
  split
  · exact charged.trans (rated_setLine .connected _)
  · exact charged

theorem graceTest_eq {s : State} {c : Ctx} (ctx : s.rtu.ctx = some c) :
    graceTest s =
      if c.phase = .grace ∧ c.due ≤ c.remaining then
        catchUp (rtuNow (gracePaid c.due s) + 1 - c.finish.getD 0) (gracePaid c.due s)
      else s := by
  rw [graceTest, ctx]
  rfl

theorem rated_graceTest (s : State) : Rated s (graceTest s) := by
  cases ctx : s.rtu.ctx with
  | none =>
    have idle : graceTest s = s := by rw [graceTest, ctx]
    rw [idle]
    exact .refl s
  | some c =>
    rw [graceTest_eq ctx]
    split
    · exact (rated_gracePaid c.due s).trans (rated_catchUp _ _)
    · exact .refl s

/-! ### A coin notice (R86, R92) -/

/-- The open call's coin joins its roll. -/
def rollJoined (c : Ctx) (seq value : Nat) (s : State) : State :=
  { s with rtu.ctx := some { c with roll := c.roll ++ [⟨seq, value, false⟩] } }

section Notice

variable {s : State} (set : flagOf s.rqu.flags .credit = true) (seq value : Nat)
include set

theorem coinNotice_own {c : Ctx} (ctx : s.rtu.ctx = some c) :
    coinNotice c.owner seq value s = graceTest (rollJoined c seq value s) := by
  have kept := (rated_graceTest (rollJoined c seq value s)).flags .credit set
  rw [coinNotice, watchCredit_set]
  · simp only [ctx, if_true, rollJoined]
  · simpa only [ctx, if_true, rollJoined] using kept

theorem coinNotice_waiting (ctx : s.rtu.ctx = none) :
    coinNotice (nextOwner s) seq value s =
      { s with rtu.waiting := s.rtu.waiting ++ [⟨seq, value, false⟩] } := by
  rw [coinNotice, watchCredit_set] <;> simp [ctx, set]

end Notice

theorem rated_coinNotice (o : Owner) (seq value : Nat) (s : State) : Rated s (coinNotice o seq value s) := by
  rw [coinNotice]
  refine rated_watchCredit ?_
  split
  · split
    · refine Rated.trans ?_ (rated_graceTest _)
      exact .of_eq rfl rfl (.of_eq rfl)
    · exact .refl s
  · split
    · exact .of_eq rfl rfl (.of_eq rfl)
    · exact .refl s

end Sys2Proof.Machine
end

section
/-! An entry passage and what it is matched to (R50 to R52, R54, R62, R63). -/

namespace Sys2Proof.Machine

/-! ### The sensor clears, and the jam is over (R54, R125) -/

/-- A chute coin's deadline moves by the time the sensor was blocked, since its grant at most. -/
def ChuteCoin.later (since : Option Nat) (now : Nat) (c : ChuteCoin) : ChuteCoin :=
  { c with deadline := c.deadline + (since.map fun b => now - max b c.granted).getD 0 }

/-- The sensor is clear, and the tube-empty level is read. -/
def passageSensed (level : Bool) (s : State) : State :=
  { s with
    cnu :=
      { s.cnu with
        tubeEmpty := level
        chute := s.cnu.chute.map (ChuteCoin.later s.cnu.blockedSince s.cnu.ms)
        blockedSince := none
        jamDue := none } }

theorem sensorClears_eq (level : Bool) (s : State) :
    sensorClears { s with cnu.tubeEmpty := level } = passageSensed level s := by
  unfold sensorClears passageSensed
  cases blocked : s.cnu.blockedSince with
  | some b => rfl
  | none =>
    have still : s.cnu.chute.map (ChuteCoin.later none s.cnu.ms) = s.cnu.chute := List.map_id _
    rw [still]

/-- The passage has ended the jam. -/
def jamOver (level : Bool) (s : State) : State := clearLatch .coinJam (passageSensed level s)

theorem jamOver_keeps (level : Bool) (s : State) :
    (jamOver level s).cnu = (passageSensed level s).cnu ∧ (jamOver level s).rtu = s.rtu ∧
    (jamOver level s).lnu = s.lnu ∧ (jamOver level s).pfu = s.pfu ∧ (jamOver level s).cfl = s.cfl ∧
    (jamOver level s).adu.cache = s.adu.cache ∧ (jamOver level s).adu.nextCall = s.adu.nextCall ∧
    (jamOver level s).inu.core = s.inu.core := by
  simp [jamOver, passageSensed]

/-- While the INU takes its notices nothing is held of them (R136). -/
theorem jamOver_held {level : Bool} {s : State} (active : inuActive s = true) :
    (jamOver level s).held = s.held := by
  have active' : inuActive (passageSensed level s) = true := active
  rw [jamOver, clearLatch, if_pos active']
  simp [passageSensed]

section Executed

variable {s : State} (up : s.powered = true)
include up

theorem exec_entryPassage_taken (power : s.pfu.power = .running) (started : starting s = false)
    (level : Bool) : exec (.entryPassage level) s = .next (matchPassage (jamOver level s)) := by
  have active : cnuActive (passageSensed level s) = true := (cnuActive_iff _).2 ⟨power, started⟩
  rw [exec, execEntryPassage, onPower_up up, sensorClears_eq]
  exact congrArg _ (if_pos active)

theorem exec_entryPassage_held (held : ¬(s.pfu.power = .running ∧ starting s = false)) (level : Bool) :
    exec (.entryPassage level) s =
      .next { passageSensed level s with held := s.held ++ [.entryPassage] } := by
  have idle : ¬cnuActive (passageSensed level s) = true := fun h => held ((cnuActive_iff _).1 h)
  rw [exec, execEntryPassage, onPower_up up, sensorClears_eq]
  exact congrArg _ (if_neg idle)

end Executed

/-! ### Matching (R50, R51) -/

/-- The coin that a passage brings to the escrow list: the oldest of the chute, or a foreign one. -/
def passageCoin (owner : Option Owner) (s : State) : Coin :=
  match s.cnu.chute with
  | c :: _ => ⟨s.cnu.nextSeq, c.denom, c.value, false, owner, .held⟩
  | [] => ⟨s.cnu.nextSeq, 0, 0, true, owner, .held⟩

/-- The chute has given its oldest coin. -/
def chuteGiven (s : State) : State := { s with cnu.chute := s.cnu.chute.tail }

/-- A foreign coin counts an error after all that its credit brings. -/
def foreignCounted (isForeign : Bool) (s : State) : State :=
  if isForeign then attrEvent .coinPathErrors s else s

theorem matchPassage_full {s : State} (full : 8 ≤ s.cnu.escrow.length) :
    matchPassage s = attrEvent .coinPathErrors s := by
  rw [matchPassage, if_neg (by omega)]

theorem matchPassage_room {s : State} (room : s.cnu.escrow.length < 8) (owner : Option Owner) :
    matchPassage s =
      let c := passageCoin owner s
      foreignCounted c.isForeign (creditCoin c.denom c.value c.isForeign (chuteGiven s)) := by
  rw [matchPassage, if_pos room, passageCoin, chuteGiven]
  cases chute : s.cnu.chute with
  | nil =>
    have given : ({ s with cnu.chute := [].tail } : State) = s := by rw [List.tail_nil, ← chute]
    rw [given]
    rfl
  | cons c cs => rfl

/-- A chute coin's deadline is no matter to its credit. -/
theorem passageCoin_jamOver (owner : Option Owner) (level : Bool) (s : State) :
    passageCoin owner (jamOver level s) = passageCoin owner s := by
  obtain ⟨cnu, -⟩ := jamOver_keeps level s
  rw [passageCoin, passageCoin, cnu, passageSensed]
  cases s.cnu.chute <;> rfl

/-! ### The coin credited (R50, R52) -/

theorem ownerNow_eq (s : State) :
    ownerNow s =
      s.cnu.openCall.or
        (if s.lnu.state = .ready ∨ s.lnu.state = .followOn then some (nextOwner s) else none) := by
  rw [ownerNow]
  cases s.cnu.openCall <;> rfl

theorem creditCoin_owned {s : State} {o : Owner} (owner : ownerNow s = some o) (denom value : Nat)
    (isForeign : Bool) :
    creditCoin denom value isForeign s =
      coinNotice o s.cnu.nextSeq value (coinAdded denom value isForeign s) := by
  unfold creditCoin
  dsimp only
  rw [owner, coinAdded, owner]

theorem creditCoin_late {s : State} (late : ownerNow s = none) (denom value : Nat) (isForeign : Bool) :
    creditCoin denom value isForeign s =
      startDrop (queueDrop s.cnu.nextSeq .ret (coinAdded denom value isForeign s)) := by
  unfold creditCoin
  dsimp only
  rw [late, coinAdded, late]

section Credited

variable (denom value : Nat) (isForeign : Bool) (s : State)

theorem coinAdded_credit : flagOf (coinAdded denom value isForeign s).rqu.flags .credit = true := by
  simp [coinAdded]

theorem rated_creditCoin :
    Rated (coinAdded denom value isForeign s) (creditCoin denom value isForeign s) := by
  cases owner : ownerNow s with
  | some o =>
    rw [creditCoin_owned owner]
    exact rated_coinNotice ..
  | none =>
    rw [creditCoin_late owner]
    exact (rated_queueDrop ..).trans (rated_startDrop _)

/-- The coin is on top of the list and counted, and CREDIT is raised. -/
theorem creditCoin_credits :
    (creditCoin denom value isForeign s).cnu.escrow.map Coin.identity =
      s.cnu.escrow.map Coin.identity ++ [(s.cnu.nextSeq, denom, value, isForeign, ownerNow s)] ∧
    (creditCoin denom value isForeign s).cnu.nextSeq = (s.cnu.nextSeq + 1) % 65536 ∧
    (creditCoin denom value isForeign s).adu.cache.credited = satAdd s.adu.cache.credited value ∧
    (creditCoin denom value isForeign s).adu.cache.escrow = satAdd s.adu.cache.escrow value ∧
    flagOf (creditCoin denom value isForeign s).rqu.flags .credit = true := by
  have rated := rated_creditCoin denom value isForeign s
  refine ⟨rated.coins.trans ?_, ?_, ?_, ?_, rated.flags _ (coinAdded_credit denom value isForeign s)⟩
  · simp [coinAdded, Coin.identity]
  · rw [rated.cnu]
    simp [coinAdded]
  · rw [rated.cache]
    rfl
  · rw [rated.cache]
    rfl

/-- The sensor's state is no matter to a credit. -/
theorem creditCoin_sensor :
    (creditCoin denom value isForeign s).cnu.tubeEmpty = s.cnu.tubeEmpty ∧
    (creditCoin denom value isForeign s).cnu.blockedSince = s.cnu.blockedSince ∧
    (creditCoin denom value isForeign s).cnu.jamDue = s.cnu.jamDue := by
  rw [(rated_creditCoin denom value isForeign s).cnu]
  simp [coinAdded]

theorem flagsKept_creditCoin : FlagsKept s (creditCoin denom value isForeign s) :=
  (flagsKept_raise .credit s).trans (rated_creditCoin denom value isForeign s).flags

end Credited

/-- A late coin over an empty tube at rest starts its RETURN drop (R52, R58). -/
theorem creditCoin_returned {s : State} (late : ownerNow s = none) (escrow : s.cnu.escrow = [])
    (drops : s.cnu.drops = []) (motion : s.cnu.motion = none) (clearance : s.cnu.clearance = none)
    (frozen : s.cnu.frozen = false) (power : s.pfu.power = .running) (started : starting s = false)
    (denom value : Nat) (isForeign : Bool) :
    (creditCoin denom value isForeign s).cnu.motion = some ⟨.ret, s.cnu.ms + 500⟩ ∧
    (creditCoin denom value isForeign s).cnu.diverter = .ret := by
  have stays (u : State) (h : u.cfl = s.cfl) : starting u = false := by rwa [starting, h]
  rw [creditCoin_late late]
  simp [coinAdded, raise, moveTally, queueDrop, orderDrops, startDrop, dropReady, running, escrow, drops,
    motion, clearance, frozen, power, stays]

/-! ### What any passage leaves -/

theorem foreignCounted_keeps (isForeign : Bool) (s : State) :
    (foreignCounted isForeign s).cnu = s.cnu ∧ (foreignCounted isForeign s).rtu = s.rtu ∧
    (foreignCounted isForeign s).adu.cache.credited = s.adu.cache.credited ∧
    (foreignCounted isForeign s).adu.cache.escrow = s.adu.cache.escrow ∧
    (foreignCounted isForeign s).inu.latches = s.inu.latches ∧
    FlagsKept s (foreignCounted isForeign s) ∧ Grown s (foreignCounted isForeign s) := by
  cases isForeign
  · exact ⟨rfl, rfl, rfl, rfl, rfl, .of_eq rfl, .refl s⟩
  · have counted : foreignCounted true s = attrEvent .coinPathErrors s := rfl
    rw [counted, attrEvent_cache]
    exact ⟨by simp, by simp, rfl, rfl, attrEvent_latches rfl s, flagsKept_attrEvent _ s, grown_attrEvent _ s⟩

/-- A passage matched leaves the sensor, the latches, the flags that are set and the held events. -/
theorem matchPassage_keeps (s : State) :
    (matchPassage s).cnu.tubeEmpty = s.cnu.tubeEmpty ∧
    (matchPassage s).cnu.blockedSince = s.cnu.blockedSince ∧
    (matchPassage s).cnu.jamDue = s.cnu.jamDue ∧ (matchPassage s).inu.latches = s.inu.latches ∧
    FlagsKept s (matchPassage s) ∧ Grown s (matchPassage s) := by
  by_cases room : s.cnu.escrow.length < 8
  · rw [matchPassage_room room none]
    dsimp only
    generalize passageCoin none s = c
    generalize credit : creditCoin c.denom c.value c.isForeign (chuteGiven s) = t
    obtain ⟨cnu, -, -, -, latches, flags, grown⟩ := foreignCounted_keeps c.isForeign t
    obtain ⟨empty, blocked, due⟩ := creditCoin_sensor c.denom c.value c.isForeign (chuteGiven s)
    have credits := flagsKept_creditCoin c.denom c.value c.isForeign (chuteGiven s)
    rw [credit] at empty blocked due credits
    have inu : t.inu = s.inu := by simp [← credit, chuteGiven]
    have held : t.held = s.held := by simp [← credit, chuteGiven]
    rw [cnu]
    exact ⟨empty, blocked, due, latches.trans (congrArg _ inu),
      (FlagsKept.of_eq rfl : FlagsKept s (chuteGiven s)).trans (credits.trans flags),
      (Grown.of_eq (congrArg _ inu) held : Grown s t).trans grown⟩
  · rw [matchPassage_full (by omega)]
    exact ⟨by simp, by simp, by simp, attrEvent_latches rfl s, flagsKept_attrEvent _ s, grown_attrEvent _ s⟩

end Sys2Proof.Machine
end

section
/-! The passage credited (R50 to R52), and the end of the jam (R54, R125, R131). -/

namespace Sys2Proof.Machine

/-! ### The passage credited -/

/-- The state whose coin a passage with room credits. -/
def passageState (level : Bool) (s : State) : State := chuteGiven (jamOver level s)

theorem passageState_keeps (level : Bool) (s : State) :
    (passageState level s).cnu =
      { s.cnu with
        tubeEmpty := level
        chute := (s.cnu.chute.map (ChuteCoin.later s.cnu.blockedSince s.cnu.ms)).tail
        blockedSince := none
        jamDue := none } ∧
    (passageState level s).rtu = s.rtu ∧ (passageState level s).lnu = s.lnu ∧
    (passageState level s).pfu = s.pfu ∧ (passageState level s).cfl = s.cfl ∧
    (passageState level s).adu.cache = s.adu.cache ∧
    (passageState level s).adu.nextCall = s.adu.nextCall := by
  obtain ⟨cnu, rtu, lnu, pfu, cfl, cache, next, -⟩ := jamOver_keeps level s
  refine ⟨?_, rtu, lnu, pfu, cfl, cache, next⟩
  rw [passageState, chuteGiven, cnu]
  rfl

theorem passageState_owner (level : Bool) (s : State) : ownerNow (passageState level s) = ownerNow s := by
  obtain ⟨cnu, -, lnu, -, -, -, next⟩ := passageState_keeps level s
  rw [ownerNow_eq, ownerNow_eq, nextOwner, nextOwner, cnu, lnu, next]

theorem matchPassage_jamOver {level : Bool} {s : State} (room : s.cnu.escrow.length < 8)
    (owner : Option Owner) :
    matchPassage (jamOver level s) =
      let c := passageCoin owner s
      foreignCounted c.isForeign (creditCoin c.denom c.value c.isForeign (passageState level s)) := by
  obtain ⟨cnu, -⟩ := jamOver_keeps level s
  have room' : (jamOver level s).cnu.escrow.length < 8 := by
    rw [cnu]
    exact room
  rw [matchPassage_room room' owner, passageCoin_jamOver]
  rfl

/-- An event counted by a passage taken is counted on what stood before it. -/
theorem eventReached_jamOver {level : Bool} {s u : State} (active : inuActive s = true)
    (inu : u.inu = (jamOver level s).inu) (pfu : u.pfu = (jamOver level s).pfu)
    (held : u.held = (jamOver level s).held) :
    EventReached .coinPathErrors s (attrEvent .coinPathErrors u) := by
  obtain ⟨-, -, -, power, -, -, -, core⟩ := jamOver_keeps level s
  refine (attrEvent_reached .coinPathErrors u).of_alike ?_ ?_ ?_ ?_
  · rw [inu]
    exact (congrArg Inu.rebuilt core : (jamOver level s).inu.core.rebuilt = s.inu.core.rebuilt)
  · rw [pfu, power]
  · rw [inu, Inu.attrs_of_core core]
  · rw [held, jamOver_held active]

section Credited

variable (level : Bool) (denom value : Nat) (isForeign : Bool) (s : State)

/-- What the credited coin moves of the state that the passage found. -/
theorem creditCoin_passage :
    let t := creditCoin denom value isForeign (passageState level s)
    t.cnu.escrow.map Coin.identity =
      s.cnu.escrow.map Coin.identity ++ [(s.cnu.nextSeq, denom, value, isForeign, ownerNow s)] ∧
    t.cnu.chute = (s.cnu.chute.map (ChuteCoin.later s.cnu.blockedSince s.cnu.ms)).tail ∧
    t.cnu.nextSeq = (s.cnu.nextSeq + 1) % 65536 ∧
    t.adu.cache.credited = satAdd s.adu.cache.credited value ∧
    t.adu.cache.escrow = satAdd s.adu.cache.escrow value ∧ flagOf t.rqu.flags .credit = true := by
  intro t
  obtain ⟨cnu, -, -, -, -, cache, -⟩ := passageState_keeps level s
  obtain ⟨coins, next, credited, escrow, credit⟩ :=
    creditCoin_credits denom value isForeign (passageState level s)
  rw [passageState_owner] at coins
  rw [cnu] at coins next
  rw [cache] at credited escrow
  refine ⟨coins, ?_, next, credited, escrow, credit⟩
  have kept : t.cnu.chute = (passageState level s).cnu.chute := by simp [t]
  rw [kept, cnu]

/-- A coin of the open call joins its roll, and the call is tested (R92, R97). -/
theorem creditCoin_own {s : State} {x : Ctx} (ctx : s.rtu.ctx = some x)
    (openCall : s.cnu.openCall = some x.owner) :
    creditCoin denom value isForeign (passageState level s) =
      graceTest
        (rollJoined x s.cnu.nextSeq value (coinAdded denom value isForeign (passageState level s))) := by
  obtain ⟨cnu, rtu, -⟩ := passageState_keeps level s
  have owner : ownerNow (passageState level s) = some x.owner := by
    rw [passageState_owner, ownerNow_eq, openCall]
    rfl
  have ctx' : (coinAdded denom value isForeign (passageState level s)).rtu.ctx = some x := by
    simpa [coinAdded, rtu] using ctx
  rw [creditCoin_owned owner, coinNotice_own (coinAdded_credit ..) _ _ ctx', cnu]

theorem creditCoin_roll {s : State} {x : Ctx} (ctx : s.rtu.ctx = some x)
    (openCall : s.cnu.openCall = some x.owner) (phase : x.phase ≠ .grace) :
    (creditCoin denom value isForeign (passageState level s)).rtu.ctx =
      some { x with roll := x.roll ++ [⟨s.cnu.nextSeq, value, false⟩] } := by
  rw [creditCoin_own level denom value isForeign ctx openCall,
    graceTest_eq (c := { x with roll := x.roll ++ [⟨s.cnu.nextSeq, value, false⟩] }) rfl,
    if_neg fun h => phase h.1]
  rfl

/-- A coin of the next call waits for it (R86). -/
theorem creditCoin_waits {s : State} (ctx : s.rtu.ctx = none) (owner : ownerNow s = some (nextOwner s)) :
    (creditCoin denom value isForeign (passageState level s)).rtu.waiting =
      s.rtu.waiting ++ [⟨s.cnu.nextSeq, value, false⟩] := by
  obtain ⟨cnu, rtu, -, -, -, -, next⟩ := passageState_keeps level s
  have owner' : ownerNow (passageState level s) = some (nextOwner s) := by rw [passageState_owner, owner]
  have ctx' : (coinAdded denom value isForeign (passageState level s)).rtu.ctx = none := by
    simpa [coinAdded, rtu] using ctx
  have names : nextOwner (coinAdded denom value isForeign (passageState level s)) = nextOwner s := by
    simp [nextOwner, coinAdded, moveTally, next]
  rw [creditCoin_owned owner', ← names, coinNotice_waiting (coinAdded_credit ..) _ _ ctx']
  simp [coinAdded, rtu, cnu]

end Credited

theorem passageCredited : Clause.PassageCredited := by
  intro s level up active owner later
  have owned : owner = ownerNow s := (ownerNow_eq s).symm
  by_cases acts : active
  · obtain ⟨power, started⟩ := acts
    obtain ⟨cnu, -, -, -, -, cache, -⟩ := jamOver_keeps level s
    obtain ⟨empty, blocked, due, -⟩ := matchPassage_keeps (jamOver level s)
    rw [cnu] at empty blocked due
    have counted (rebuilt : s.inu.rebuilt = true) : inuActive s = true :=
      (inuActive_iff s).2 ⟨rebuilt, power⟩
    refine ⟨_, exec_entryPassage_taken up power started level, empty, fun h => absurd ⟨power, started⟩ h,
      fun _ => ⟨blocked, due, fun full => ?_, fun c cs room chute => ?_, fun room chute => ?_⟩⟩
    · have full' : 8 ≤ (jamOver level s).cnu.escrow.length := by
        rw [cnu]
        exact full
      have kept : (attrEvent .coinPathErrors (jamOver level s)).cnu = (passageSensed level s).cnu := by
        simp [cnu]
      rw [matchPassage_full full', attrEvent_cache, kept, cache]
      refine ⟨rfl, rfl, rfl, rfl, fun rebuilt => ?_⟩
      exact eventReached_jamOver (counted rebuilt) rfl rfl rfl
    · have taken : matchPassage (jamOver level s) =
          creditCoin c.denom c.value false (passageState level s) := by
        rw [matchPassage_jamOver room none, passageCoin, chute]
        rfl
      obtain ⟨coins, kept, next, credited, escrow, credit⟩ :=
        creditCoin_passage level c.denom c.value false s
      rw [chute] at kept
      rw [taken, owned]
      refine ⟨coins, kept, next, credited, escrow, credit, fun x ctx openCall phase => ?_,
        fun ctx next => ?_, fun late tube drops motion clearance frozen => ?_⟩
      · exact creditCoin_roll level c.denom c.value false ctx openCall phase
      · exact creditCoin_waits level c.denom c.value false ctx next
      · obtain ⟨cnu, -, -, pfu, cfl, -⟩ := passageState_keeps level s
        have stays : starting (passageState level s) = false := by
          rw [starting, cfl]
          exact started
        have returned := creditCoin_returned (s := passageState level s) (by rw [passageState_owner, late])
          (by rw [cnu]; exact tube) (by rw [cnu]; exact drops) (by rw [cnu]; exact motion)
          (by rw [cnu]; exact clearance) (by rw [cnu]; exact frozen) (by rw [pfu]; exact power) stays
          c.denom c.value false
        rw [cnu] at returned
        exact returned
    · have taken : matchPassage (jamOver level s) =
          attrEvent .coinPathErrors (creditCoin 0 0 true (passageState level s)) := by
        rw [matchPassage_jamOver room none, passageCoin, chute]
        rfl
      obtain ⟨coins, -, next, credited, -, credit⟩ := creditCoin_passage level 0 0 true s
      rw [taken, owned, attrEvent_cache]
      refine ⟨by simpa using coins, by simpa using next, credited, flagsKept_attrEvent _ _ _ credit,
        fun rebuilt => eventReached_jamOver (level := level) (counted rebuilt) ?_ ?_ ?_⟩
      all_goals simp [passageState, chuteGiven]
  · exact ⟨_, exec_entryPassage_held up acts level, rfl, fun _ => rfl, fun h => absurd h acts⟩

/-! ### The end of the jam -/

theorem clearLatch_unset {k : IncKind} {s : State} (active : inuActive s = true)
    (clear : latched s.inu.latches k = false) : clearLatch k s = s := by
  rw [clearLatch, if_pos active, takeClearLatch, if_neg (by simp [clear])]

theorem clearLatch_set {k : IncKind} {s : State} (active : inuActive s = true)
    (set : latched s.inu.latches k = true) :
    clearLatch k s =
      markCleared k
        { s with
          inu.latches := clearLatchBit s.inu.latches k
          rqu.flags := setFlag s.rqu.flags .condition } := by
  rw [clearLatch, if_pos active, takeClearLatch, if_pos set]
  rfl

/-- With no record of the kind there is none to mark (R131). -/
theorem markCleared_unrecorded {k : IncKind} {s : State} (none : ∀ r ∈ s.inu.records, r.kind ≠ k) :
    markCleared k s = s := by
  have absent : latestOf k s = Option.none := by
    rw [latestOf, List.find?_eq_none]
    simpa using none
  rw [markCleared, absent]

/-- The latest record of the kind is marked in its place and handed for rewriting (R131). -/
theorem markCleared_latest {k : IncKind} {s : State} {before after : List IncRec} {r : IncRec}
    (slots : (s.inu.records.map (·.slot)).Nodup) (records : s.inu.records = before ++ r :: after)
    (kind : r.kind = k) (latest : ∀ x ∈ after, x.kind ≠ k) :
    markCleared k s =
      rewrite { r with cleared := true }
        { s with inu.records := before ++ { r with cleared := true } :: after } := by
  have none : after.filter (fun x => x.kind = k) = [] := by simpa using latest
  have found : latestOf k s = some r := by
    rw [latestOf_eq, records, List.filter_append, List.filter_cons_of_pos (by simpa using kind), none,
      List.getLast?_concat]
  rw [records, List.map_append, List.map_cons, List.nodup_append, List.nodup_cons] at slots
  obtain ⟨-, ⟨later, -⟩, earlier⟩ := slots
  have replaced : (s.inu.records.map fun x => if x.slot = r.slot then { r with cleared := true } else x) =
      before ++ { r with cleared := true } :: after := by
    rw [records, List.map_append, List.map_cons, if_pos rfl]
    congr 1
    · refine (List.map_congr_left fun x hx => if_neg ?_).trans (List.map_id _)
      exact earlier _ (List.mem_map_of_mem hx) _ List.mem_cons_self
    · refine congrArg _ ((List.map_congr_left fun x hx => if_neg fun same => ?_).trans (List.map_id _))
      exact later (same ▸ List.mem_map_of_mem hx)
  rw [markCleared, found]
  exact congrArg (fun l => rewrite { r with cleared := true } { s with inu.records := l }) replaced

/-- A record's write reads nothing of the sensor. -/
theorem passageSensed_rewrite (level : Bool) (r : IncRec) (s : State) :
    passageSensed level (rewrite r s) = rewrite r (passageSensed level s) := by
  have window : hasWindow .incidentLog (passageSensed level s) = hasWindow .incidentLog s := rfl
  rw [rewrite, rewrite, window]
  split
  · have jobs : (passageSensed level s).adu.jobs = s.adu.jobs := rfl
    rw [queueRecord, queueRecord, jobs]
    split <;> rfl
  · rfl

theorem passageEndsJam : Clause.PassageEndsJam := by
  intro s level up power started was ended
  have taken := exec_entryPassage_taken up power started level
  obtain ⟨-, -, -, latches, flags, grown⟩ := matchPassage_keeps (jamOver level s)
  refine ⟨fun rebuilt => ?_, fun rebuilt set law => ?_, fun idle => ⟨_, taken, grown.2 _ ?_⟩⟩
  · have active : inuActive (passageSensed level s) = true := (inuActive_iff _).2 ⟨rebuilt, power⟩
    refine ⟨_, taken, fun k => ?_, fun set => flags _ ?_⟩
    · rw [latches]
      exact latched_clearLatch_each active k
    · rw [jamOver, clearLatch_set active set]
      simp [flagOf_setFlag]
  · have active : inuActive (passageSensed level s) = true := (inuActive_iff _).2 ⟨rebuilt, power⟩
    have marking : jamOver level s = markCleared .coinJam (passageSensed level ended) :=
      clearLatch_set active set
    -- Once the latch is clear, a passage of the state finds no jam to end.
    have same (u : State) (hu : jamOver level s = passageSensed level u) (hp : u.powered = true)
        (hr : u.pfu.power = .running) (hs : starting u = false) (hb : u.inu.rebuilt = true)
        (clear : latched u.inu.latches .coinJam = false) :
        exec (.entryPassage level) s = exec (.entryPassage level) u := by
      have calm : jamOver level u = passageSensed level u :=
        clearLatch_unset ((inuActive_iff _).2 ⟨hb, hr⟩) clear
      rw [taken, exec_entryPassage_taken hp hr hs level, hu, calm]
    have clear : latched ended.inu.latches .coinJam = false := by simp [ended, latched_clearLatchBit]
    refine ⟨fun none => ?_, fun before r after records kind latest => ?_⟩
    · exact same ended (marking.trans (markCleared_unrecorded none)) up power started rebuilt clear
    · intro marked
      obtain ⟨slots, -⟩ := law
      have stays (u : State) (h : u.cfl = s.cfl) : starting u = false := by
        rw [starting, h]
        exact started
      refine same _ ?_ (by simpa using up) (by simpa using power) (stays _ (by simp [ended]))
        (by simpa using rebuilt) (by simpa using clear)
      rw [marking, passageSensed_rewrite]
      exact markCleared_latest (s := passageSensed level ended) slots records kind latest
  · have held : ¬inuActive (passageSensed level s) = true := fun h => by
      have rebuilt : s.inu.rebuilt = true := ((inuActive_iff _).1 h).1
      rw [idle] at rebuilt
      exact Bool.false_ne_true rebuilt
    rw [jamOver, clearLatch, if_neg held, hold]
    simp

end Sys2Proof.Machine
end

section
/-! The grace test at an entry passage (R95 to R97), and O29. -/

namespace Sys2Proof.Machine

/-! ### Interval ends taken in order (R97) -/

theorem charging_any (s : State) :
    s.rtu.ctx.any (fun c => c.phase = .charging && c.finish.any (· ≤ s.rtu.ms / 1000)) =
      (chargingEnd s).any (· ≤ s.rtu.ms / 1000) := by
  rw [chargingEnd]
  cases s.rtu.ctx with
  | none => rfl
  | some c => by_cases charging : c.phase = .charging <;> simp [charging]

/-- The model's own run through the interval ends takes each as INTERVAL_END does. -/
theorem endsTaken_eq (n : Nat) {s : State} (up : s.powered = true) (power : s.pfu.power = .running) :
    endsTaken n s = catchUp n s := by
  induction n generalizing s with
  | zero => rfl
  | succ n ih =>
    have expiry : expiryTaken (chargingEnd s) (s.rtu.ms / 1000) .intervalEnd s = takeIntervalEnd s :=
      expiryTaken_rating (c := .intervalEnd) (h := .intervalEnd) (take := takeIntervalEnd) rfl up power
        takeIntervalEnd_early
    rw [expiryTaken, takeIntervalEnd, rtuNow] at expiry
    rw [endsTaken, catchUp, charging_any, rtuNow]
    cases finish : chargingEnd s with
    | none => rfl
    | some e =>
      by_cases reached : e ≤ s.rtu.ms / 1000
      · have any : (some e).any (fun n => decide (n ≤ s.rtu.ms / 1000)) = true := by simpa using reached
        rw [finish, if_pos any] at expiry
        dsimp only at expiry ⊢
        rw [if_pos any, if_pos reached, expiry, if_pos reached]
        exact ih (by simpa using up) (by simpa using power)
      · have none : ¬(some e).any (fun n => decide (n ≤ s.rtu.ms / 1000)) = true := by simpa using reached
        dsimp only
        rw [if_neg none, if_neg reached]

/-! ### The charge due is paid (R97) -/

theorem gracePaid_parts {s : State} {c : Ctx} (ctx : s.rtu.ctx = some c) (due : Nat) :
    (gracePaid due s).cnu = (takeCharge due s).cnu ∧
    (gracePaid due s).rtu = { s.rtu with ctx := some (c.charged due) } ∧
    (gracePaid due s).adu.cache = s.adu.cache.addConsumed due ∧
    (gracePaid due s).lnu.state = (if s.lnu.state = .grace then .connected else s.lnu.state) ∧
    (gracePaid due s).lnu.buffer = s.lnu.buffer ∧ (gracePaid due s).lnu.relay = s.lnu.relay ∧
    flagOf (gracePaid due s).rqu.flags .credit = true := by
  let t := raise .credit (takeCharge due s)
  have paid : gracePaid due s = if t.lnu.state = .grace then setLine .connected t else t := rfl
  have lnu : t.lnu = s.lnu := by simp [t]
  have rtu : t.rtu = { s.rtu with ctx := some (c.charged due) } := by
    simp [t, takeCharge_orders ctx, moveTally]
  have cache : t.adu.cache = s.adu.cache.addConsumed due := by
    simp [t, takeCharge_orders ctx, moveTally]
  have credit : flagOf t.rqu.flags .credit = true := by simp [t]
  rw [paid, lnu]
  split
  · next grace =>
    have line : setLine .connected t = callLine .connected t :=
      setLine_call (.inl rfl) (by rw [lnu, grace]; decide)
    have kept : (callLine .connected t).lnu.buffer = t.lnu.buffer ∧
        (callLine .connected t).lnu.relay = t.lnu.relay := ⟨rfl, rfl⟩
    rw [line, kept.1, kept.2, lnu]
    exact ⟨rfl, rtu, cache, rfl, rfl, rfl, flagsKept_raise .line t _ credit⟩
  · rw [lnu]
    exact ⟨rfl, rtu, cache, rfl, rfl, rfl, credit⟩

/-- The coins that the charge reaches go to the box (R95). -/
theorem gracePaid_collected {s : State} {c : Ctx} (ctx : s.rtu.ctx = some c) (due : Nat) {q : Nat}
    (free : Uncommitted q s)
    (named : ∃ z ∈ newlyCommitted (c.consumed + due) c.cin 0 c.roll, z.seq = q) :
    Collected q (gracePaid due s) := by
  obtain ⟨cnu, -⟩ := gracePaid_parts ctx due
  have charged : Collected q (takeCharge due s) := by
    rw [takeCharge_orders ctx]
    exact Uncommitted.foldl_commitOrder _ free named
  exact charged.of_cnu cnu

theorem gracePaid_changes (due : Nat) (s : State) :
    OnlyChanges [.cnu, .rqu, .rtu, .lnu, .adu] s (gracePaid due s) := by
  intro b hb
  rw [gracePaid]
  split <;> cases b <;> simp [Block.same] at hb ⊢

/-! ### The coin of a call in GRACE -/

section Joined

variable (level : Bool) (x : Ctx) (c : Coin) (s : State)

/-- The coin of a passage stands in the tube and in the roll of its call. -/
def graceJoined : State :=
  rollJoined x s.cnu.nextSeq c.value (coinAdded c.denom c.value c.isForeign (passageState level s))

theorem graceJoined_changes :
    OnlyChanges [.cnu, .rqu, .rtu, .inu, .adu, .held] s (graceJoined level x c s) := by
  intro b hb
  cases b <;>
    simp [Block.same, graceJoined, rollJoined, coinAdded, passageState, chuteGiven, jamOver,
      passageSensed] at hb ⊢

theorem graceJoined_keeps :
    (graceJoined level x c s).cnu.escrow =
      s.cnu.escrow ++ [⟨s.cnu.nextSeq, c.denom, c.value, c.isForeign, ownerNow s, .held⟩] ∧
    (graceJoined level x c s).cnu.drops = s.cnu.drops ∧
    (graceJoined level x c s).rtu =
      { s.rtu with
        ctx := some { x with roll := x.roll ++ [⟨s.cnu.nextSeq, c.value, false⟩] } } ∧
    (graceJoined level x c s).lnu = s.lnu ∧
    (graceJoined level x c s).adu.cache = s.adu.cache.credit c.value ∧
    flagOf (graceJoined level x c s).rqu.flags .credit = true := by
  obtain ⟨cnu, rtu, lnu, -, -, cache, -⟩ := passageState_keeps level s
  have owner := passageState_owner level s
  refine ⟨?_, ?_, ?_, ?_, ?_, coinAdded_credit ..⟩ <;>
    simp [graceJoined, rollJoined, coinAdded, moveTally, cnu, rtu, lnu, cache, owner]

end Joined

/-- What a passage brings is the next sequence's coin, held for its owner, and foreign over an empty
chute. -/
theorem passageCoin_parts (owner : Option Owner) (s : State) :
    (passageCoin owner s).seq = s.cnu.nextSeq ∧ (passageCoin owner s).owner = owner ∧
    (passageCoin owner s).status = .held ∧
    ((passageCoin owner s).isForeign = true ↔ s.cnu.chute = []) := by
  rw [passageCoin]
  cases s.cnu.chute <;> simp

theorem graceTested : Clause.GraceTested := by
  intro s level x up power started room openCall ctx phase coin tube last roll before k reached fresh paid
    cache covered
  have brought : coin = passageCoin (some x.owner) s := rfl
  obtain ⟨seq, owned, held, foreign⟩ := passageCoin_parts (some x.owner) s
  rw [← brought] at seq owned held foreign
  let y : Ctx := { x with roll := roll }
  let joined := graceJoined level x coin s
  obtain ⟨escrow, drops, rtu, lnu, joinedCache, credit⟩ := graceJoined_keeps level x coin s
  have owner : ownerNow s = some x.owner := by
    rw [ownerNow_eq, openCall]
    rfl
  have standing : joined.cnu.escrow = tube := by
    rw [owner, ← seq, ← owned, ← held] at escrow
    exact escrow
  have rolled : joined.rtu.ctx = some y := by
    rw [← seq] at rtu
    exact congrArg Rtu.ctx rtu
  have rating : joined.rtu = { s.rtu with ctx := some y } := by
    rw [← seq] at rtu
    exact rtu
  have executes : exec (.entryPassage level) s = .next (last (graceTest joined)) := by
    rw [exec_entryPassage_taken up power started level, matchPassage_jamOver room (some x.owner), ← brought]
    dsimp only
    have tested : creditCoin coin.denom coin.value coin.isForeign (passageState level s) = graceTest joined :=
      creditCoin_own level coin.denom coin.value coin.isForeign ctx openCall
    rw [tested, foreignCounted]
    simp only [foreign, last]
  have changes := graceJoined_changes level x coin s
  by_cases pays : covered
  · let u := gracePaid x.due joined
    obtain ⟨-, paidRtu, consumed, state, buffer, relay, raised⟩ := gracePaid_parts rolled x.due
    obtain ⟨newly, charged⟩ := y.charged_eq x.due
    have altered : OnlyChanges [.cnu, .rqu, .rtu, .lnu, .inu, .adu, .held] s u :=
      (changes.mono (by decide)).trans ((gracePaid_changes x.due joined).mono (by decide))
    have taken : graceTest joined = endsTaken (s.rtu.ms / 1000 + 1 - x.finish.getD 0) u := by
      have upon : u.powered = true := (altered .powered (by decide)).trans up
      have runs : u.pfu.power = .running := (congrArg Pfu.power (altered .pfu (by decide))).trans power
      have now : rtuNow u = s.rtu.ms / 1000 := by
        rw [rtuNow, paidRtu, rating]
      rw [graceTest_eq rolled, if_pos ⟨phase, pays⟩, endsTaken_eq _ upon runs, ← now]
    refine ⟨_, u, executes.trans (by rw [taken]), altered, ?_, raised, fun short => absurd pays short,
      fun _ => ⟨rfl, ?_, ?_, ?_, ?_, ?_, ?_⟩⟩
    · rw [(rated_gracePaid x.due joined).coins, standing]
    · rw [paidRtu, charged, rating]
    · rw [consumed, joinedCache]
      rfl
    · rw [state, lnu]
    · rw [buffer, lnu]
    · rw [relay, lnu]
    · intro z hz c hc same uncommitted undropped
      have free : Uncommitted z.seq joined :=
        ⟨fun b hb => uncommitted b (standing ▸ hb), fun d hd => undropped d (drops ▸ hd)⟩
      exact (gracePaid_collected rolled x.due free ⟨z, newly ▸ hz, rfl⟩).dropped hc same
  · refine ⟨_, joined, executes.trans (by rw [graceTest_eq rolled, if_neg fun h => pays h.2]),
      changes.mono (by decide), ?_, credit, fun _ => ⟨rfl, rating, lnu, ?_⟩, fun h => absurd h pays⟩
    · rw [standing]
    · rw [joinedCache]
      rfl

/-- Settles O29: the passage credited, the grace test of its call, and the jam that it ends. -/
theorem entryPassageCredits : Obligations.EntryPassageCredits :=
  ⟨passageCredited, graceTested, passageEndsJam⟩

end Sys2Proof.Machine
end
